-- ==== Sys2Proof/Word.lean ====
section
/-! DEFINITION. The word types of the Voxlyn K2 (R10, R81): registers of 64 bits, bytes, and the patterns of
binary32 and bfloat16 values. -/

namespace Sys2Proof

/-- One byte (R10). -/
abbrev Byte := BitVec 8

/-- A register, a general register or an instruction word: 64 bits (R10, R239, R243). -/
abbrev Word := BitVec 64

/-- The bit pattern of an IEEE 754 binary32 value (R81, code 8). -/
abbrev F32 := BitVec 32

/-- The bit pattern of a bfloat16 value (R81, code 7). -/
abbrev BF16 := BitVec 16

end Sys2Proof
end

