-- ==== Sys2Proof/Syntax.lean ====
section
/-! DEFINITION. The commands of the block: one constructor of Instr for each row of spec/opcode_table.json, with the row's
operands. The spec's table gives the rows no operand fields: each constructor carries what its rules say the step names
(a panel, a context, a ring, a written value) and what arrives from outside the module with it (a DMA'd entry, a reading,
a peer's message, the outcome of a physical check). -/

namespace Sys2Proof

/-- A register page (R428), or the tenant page of a VF (R430). -/
inductive PageId where
  | die | jobel | sec | hk
  | host (port : Nat)
  | bb
  | half (h : Nat)
  | kwath (p : Nat)
  | stack (s : Nat)
  | panel (i : Nat) | core (i : Nat) | seq (i : Nat) | att (i : Nat) | smp (i : Nat)
  | slice (i k : Nat)
  | router (i : Nat)
  | tenant (port vf : Nat)
  deriving DecidableEq, Repr

/-- The window an access comes through (R392, R434). -/
inductive Window where
  | mgmt
  | pf (port : Nat)
  | vf (port vf : Nat)
  deriving DecidableEq, Repr

/-- A physical array: physical panel 0 to 49, physical tile 0 to 24, physical array 0 to 33 (R26, "Logical grid"). -/
structure ArrId where
  pp : Nat
  tile : Nat
  arr : Nat
  deriving DecidableEq, Repr

/-- The units that take commands from a panel sequencer (R236, R297). -/
inductive UnitId where
  | hem | red | act | wide | att | mem | mesh | smp | core
  deriving DecidableEq, Repr

/-- A resource with an arbiter (R307). -/
inductive ResId where
  | slice (panel k : Nat)
  | seam (half lane : Nat)
  | dram (half ch : Nat)
  | kwath (port : Nat)
  deriving DecidableEq, Repr

/-- A credit queue (R31, R297, R337). -/
inductive QueueId where
  | tileIn (panel tile : Nat)
  | tileOut (panel tile : Nat)
  | hemResults (panel tile arr : Nat)
  | drains (panel tile : Nat)
  | crossbar (panel port slice : Nat)
  | unitCmd (panel : Nat) (u : UnitId)
  | coreCall (panel : Nat)
  | meshLink (panel dir vc : Nat)
  | seamLane (half lane vc : Nat)
  | dramReq (panel ch : Nat)
  | flowRing (panel flow : Nat)
  | adapterSlots (panel : Nat)
  | kwLink (port vc : Nat)
  deriving DecidableEq, Repr

/-- A place in memory that an error strikes (R382, R169, R224). -/
inductive MemLoc where
  | sram (panel addr : Nat)
  | kvPage (frame block : Nat)
  | copyChunk (bolt chunk : Nat)
  | dramLine (addr : Nat)
  deriving DecidableEq, Repr

/-- A box sealed by AES-256-GCM (R208, R408), held symbolically: it opens under its own key, nonce and authenticated
data and under no others. -/
structure Sealed where
  key : BitVec 256
  nonce : BitVec 96
  aad : List Byte
  body : List Byte
  deriving DecidableEq, Repr

/-- A chunk of an image as it comes: from the host, or from another module with the workers of the chain behind this one (R213, R229,
R230). -/
structure ChunkIn where
  src : Option (Nat × List Nat)
  box : Sealed
  deriving DecidableEq, Repr

/-- An RSA-OAEP ciphertext (R404, R354), held symbolically: it decodes under the key pair it was made for and the label it
was made with. -/
structure Oaep where
  kek : Nat
  label : BitVec 512
  message : List Byte
  deriving DecidableEq, Repr

/-- A document with an RSA-4096 signature (R345, R395, R419, R485), held symbolically by the DER form of the public key
under which the signature over the body verifies. -/
structure SignedDoc where
  signer : List Byte
  body : List Byte
  nonce : BitVec 64
  deriving DecidableEq, Repr

/-- What the DMA of a submission entry's input buffer brings (R440). -/
inductive Payload where
  | none
  | plain (bytes : List Byte)
  | box (b : Sealed)
  | image (header : List Byte) (chunks : List Sealed)
  | keyInstall (kind bolt tenant : Nat) (ct : Oaep)
  | gcmTag (key : BitVec 256) (bolt tenant : Nat) (nonce : BitVec 64)
  | pubKey (der : List Byte)
  | signed (doc : SignedDoc)
  | unlock (vendor owner : SignedDoc)
  deriving DecidableEq, Repr

/-- A submission entry's fields (R439). -/
structure Entry where
  opcode : Nat
  flags : BitVec 8
  tag : BitVec 16
  tenant : Nat
  session : Nat
  bolt : Nat
  inAddr : Word
  inLen : Nat
  outLen : Nat
  outAddr : Word
  arg0 : Word
  arg1 : Word
  payload : Payload
  deriving DecidableEq, Repr

/-- What a DMA by the device brings back (R438). -/
inductive Dma (α : Type) where
  | ok (v : α)
  | dmaError
  | atsFault
  deriving DecidableEq, Repr

/-- One row of a batch table (R238). -/
structure BatchRow where
  session : Nat
  tenant : Nat
  bucket : Nat
  slot : Nat
  splits : Nat
  draw : Bool
  pos : Nat
  ctx : Nat
  deriving DecidableEq, Repr

/-- A batch table (R238): kind 0 DECODE, 1 PREFILL, 2 TUNE, 3 RECOMPUTE. -/
structure Batch where
  step : Word
  kind : Nat
  rows : List BatchRow
  deriving DecidableEq, Repr

/-- What asks for the programming of an array (R70); `recheck` is the refresh of an array that serves no logical position (R127). -/
inductive ProgKind where
  | load | refresh | recheck | repair | checker | referee | selfTest | zeroise
  deriving DecidableEq, Repr

/-- A gauge's readings of one window (R66): how many, and their sums of expected values, of residuals and of squared residuals, in
level-units. -/
structure GaugeSum where
  n : Nat
  ex : Int
  sum : Int
  sq : Nat
  deriving DecidableEq, Repr

/-- What steps 3 and 4 of a calibration run measure on one physical array of the tile (R122): its four gauges, the worst count error of an
exact array in 1/1000 counts, and the row converters' F in mLSB and G in parts per million. -/
structure CalFit where
  arr : Nat
  gauges : List GaugeSum
  countErr : Nat
  trn : Option (Nat × Int)
  deriving DecidableEq, Repr

/-- A contribution that reaches a panel's reduction path from another panel of the bolt or from another module (R98, R99), for the
register `reg` of the receiving panel. -/
structure RedItem where
  rank : Nat
  panel : Nat
  tile : Nat
  arr : Nat
  reg : Nat
  lanes : List Int
  ew : Int
  satConv : Bool
  satAcc : Bool
  satIn : Bool
  uncal : Bool
  poison : Bool
  zero : Bool
  step : Word
  gen : BitVec 32
  deriving DecidableEq, Repr

/-- Where a contribution comes from: the panel's own drains, by place, or the mesh and the fabric (R98, R99). -/
inductive ContribFrom where
  | drain (i : Nat)
  | mesh (c : RedItem)
  deriving DecidableEq, Repr

/-- A request to program or zeroise one physical array (R67, R72): the source block is block `number` of bolt-relative panel
`panel` of the bolt at `bolt`. -/
structure ProgReq where
  target : ArrId
  kind : ProgKind
  exact : Bool
  bolt : Nat
  panel : Nat
  number : Nat
  deriving DecidableEq, Repr

/-- A unit that repair replaces (R26, R377). -/
inductive RepairUnit where
  | array (panel tile arr : Nat)
  | tile (panel tile : Nat)
  | panel (panel : Nat)
  deriving DecidableEq, Repr

/-- Why a recall is asked for (R372). -/
inductive RecallCause where
  | swatch (id : Nat)
  | normReexec (layer : Nat)
  | kvAbsent (session : Nat)
  | patternFault
  deriving DecidableEq, Repr

/-- A fabric message (R340, R343): its sender's fabric address, its sequence, the flow or span message it carries. -/
structure FabMsg where
  src : Nat
  dstPanel : Nat
  vc : Nat
  seq : BitVec 32
  flow : Nat
  tenant : Nat
  pattern : Nat
  poison : Bool
  step : Word
  gen : BitVec 32
  basting : Bool
  data : List Byte
  /-- The port that brings it. -/
  port : Nat := 0
  deriving DecidableEq, Repr

/-- A Kwath flit as it reaches a port (R336, R354, R356). -/
structure KwFlit where
  vc : Nat
  src : Nat
  lseq : BitVec 16
  first : Bool
  poison : Bool
  hello : Bool
  credits : List Nat
  tagFlit : Bool
  tagOk : Bool
  epoch : BitVec 8
  deriving DecidableEq, Repr

/-- A HELLO (R348): the digest, address, role and plan generation that a module sends, whether its header's signature
verifies, and the ports on which it was seen with the address seen there. -/
structure HelloMsg where
  digest : BitVec 128
  addr : Nat
  role : Nat
  planGen : BitVec 16
  sigOk : Bool
  seen : List (Nat × Nat)
  deriving DecidableEq, Repr

/-- What a module found out about a rack address (R349, R358). -/
structure PeerState where
  addr : Nat
  planes : BitVec 16
  rank : Nat
  cls : Nat
  deriving DecidableEq, Repr

/-- A fabric plan entry (R345). -/
structure PlanEntry where
  addr : Nat
  digest : BitVec 128
  rank : Nat
  role : Nat
  planes : BitVec 16
  deriving DecidableEq, Repr

/-- A fabric plan (R345) with the public key under which its signature verifies. -/
structure Plan where
  generation : BitVec 16
  entries : List PlanEntry
  signer : List Byte
  deriving DecidableEq, Repr

/-- What the plan-distributing manager sends (R345, R348 step 5). -/
structure PlanMsg where
  plan : Plan
  peers : List PeerState
  port : Nat
  deriving DecidableEq, Repr

/-- A firmware image (R485): header fields and the public key under which its signature verifies. -/
structure FwImage where
  headerOk : Bool
  lengthOk : Bool
  version : BitVec 32
  svn : BitVec 16
  signedByVendor : Bool
  digest : BitVec 512
  deriving DecidableEq, Repr

/-- What the start sequence meets outside the model (R397, R479, R480): whether the PUF gives its root, and whether each copy is read
undamaged. -/
structure StartFindings where
  pufOk : Bool
  cfgAOk : Bool
  cfgBOk : Bool
  secAOk : Bool
  secBOk : Bool
  vendorOk : Bool
  spareOk0 : Bool
  spareOk1 : Bool
  diode : Int
  deriving DecidableEq, Repr

/-- How an SPDM message reaches Jobel (R401): DOE on a port, or MCTP on the sideband. -/
inductive Via where
  | doe (port : Nat)
  | mctp
  deriving DecidableEq, Repr

/-- What a VENDOR_DEFINED_REQUEST carries (R417, R418). -/
inductive VendorMsg where
  | ideKeyProg (port : Nat) (stream : Nat) (requester : Nat) (key : BitVec 256)
  | ideGo (port : Nat) (stream : Nat)
  | ideStop (port : Nat) (stream : Nat)
  | tdispStart (port vf : Nat)
  | tdispLock (port vf : Nat)
  | tdispStop (port vf : Nat)
  | tdispState (port vf : Nat)
  deriving DecidableEq, Repr

/-- A configuration write (R424, R425). -/
inductive CfgWrite where
  | numVfs (n : Nat) (vfEnable : Bool)
  | msixEnable (fn : Nat) (on : Bool)
  | msixEntry (fn vector : Nat) (masked : Bool)
  | powerState (fn : Nat) (d3hot : Bool)
  | busMaster (fn : Nat) (on : Bool)
  | atsEnable (fn : Nat) (on : Bool)
  | pasidEnable (fn : Nat) (on : Bool)
  | other (fn offset : Nat) (value : BitVec 32)
  deriving DecidableEq, Repr

/-- An island whose crossing is aligned (R482, R483). -/
inductive Island where
  | pcie (port : Nat)
  | dram (stack : Nat)
  | kwath (port : Nat)
  deriving DecidableEq, Repr

/-- The commands: one constructor per row of spec/opcode_table.json, in the table's order. -/
inductive Instr where
  -- pattern instructions: panel p, batch table slot c of the context (R239, R243)
  | nop (p c : Nat) | ldi (p c : Nat) | ldih (p c : Nat) | addi (p c : Nat) | add (p c : Nat) | sub (p c : Nat)
  | muli (p c : Nat) | shli (p c : Nat) | andi (p c : Nat) | ld (p c : Nat)
  | ldResult (p c : Nat)
  | st (p c : Nat) | bz (p c : Nat) | bnz (p c : Nat) | loop (p c : Nat) | endProg (p c : Nat) | move (p c : Nat)
  | unitCommandComplete (p id : Nat)
  | evald (p c : Nat) | evalx (p c : Nat) | evalt (p c : Nat)
  | pleatStep (p tile arr : Nat)
  | bobbinAdd (p tile arr : Nat)
  | reductionContribution (p : Nat) (src : ContribFrom)
  | normSample (p i : Nat)
  | bprom (p c : Nat) | bdrain (p c : Nat) | redopen (p c : Nat) | act (p c : Nat) | cvt (p c : Nat)
  | wmv (p c : Nat) | wew (p c : Nat) | wnorm (p c : Nat) | wlook (p c : Nat) | wad (p c : Nat)
  | attn (p c : Nat)
  | remoteRun (p i : Nat)
  | partialFold (p i : Nat)
  | kvw (p c : Nat) | attb (p c : Nat) | send (p c : Nat) | recv (p c : Nat)
  | flowFlitArrive (p flow : Nat)
  | tack (p c : Nat) | sealw (p c : Nat) | sample (p c : Nat) | smerge (p c : Nat) | fence (p c : Nat) | call (p c : Nat)
  | callReply (p : Nat) (reply : Word)
  -- steps, sealing and recall
  | stepForm (b : Nat)
  | batchTableReceive (p : Nat)
  | spanBatchReceive (b : Nat) (batch : Batch)
  | rankSealReport (b rank : Nat) (step : Word)
  | sealed (b : Nat) (step : Word)
  | recallStep (b : Nat) (step : Word) (cause : RecallCause)
  | recallDiscard (p : Nat)
  | replay (b : Nat)
  | jobStatusClaim (job : Nat)
  | adapterSlotLoad (b tenant set : Nat)
  | adapterSlotResident (b slot : Nat)
  -- key-value state
  | treeLookup (session : Nat)
  | treePublish (session range : Nat)
  | treeDrop (node : Nat)
  | treeRebuild (w : Window)
  | bucketLoad (w : Window)
  -- memory errors
  | memUncorrectable (loc : MemLoc)
  | dramScrub (corrected : Nat) (bad : List MemLoc)
  | poisonRepaired (p addr : Nat)
  -- programming
  | progRequest (r : ProgReq)
  | progAdmit
  | progQuarterStage (a : ArrId)
  | progRound (a : ArrId)
  | progComplete (a : ArrId) (gauges : List GaugeSum)
  | zeroisation (a : ArrId) (ok : Bool)
  -- calibration
  | calTileRun (p tile : Nat)
  | calMeasureDone (p tile : Nat)
  | calFitDone (p tile : Nat) (fits : List CalFit)
  | calSwap (p tile : Nat)
  | calProgTimer (p tile : Nat)
  | calFallbackTick
  | runAll (w : Window)
  | runPanel (w : Window) (panel : Nat)
  | eyeSample (lane width : Nat) (retuned : Bool)
  -- containment
  | swatchCompare (id : Nat)
  | checkerRotate (b : Nat)
  | refereeRun (id : Nat)
  | repairComplete (u : RepairUnit)
  | mgmtReadTimeout (page : PageId)
  -- credits, links and arbiters
  | creditReturn (q : QueueId)
  | creditStall (q : QueueId)
  | contextWaitStall (p c : Nat)
  | flitSend (p dir : Nat)
  | seamParity (half lane : Nat)
  | arbRequest (r : ResId) (requester items : Nat) (class0 : Bool)
  | arbItemDone (r : ResId) (nextCredit : Bool)
  | arbWatchdog (r : ResId)
  -- Kwath fabric
  | kwLaneDown (port lane : Nat) (lostLock : Bool)
  | kwLaneRetrain (port lane : Nat) (ok : Bool)
  | kwFlitReceive (port : Nat) (f : KwFlit)
  | kwReplayRequest (port : Nat) (lseq : BitVec 16)
  | fabricSend (p dstRank dstPanel flow addr len : Nat)
  | fabricMessageReceive (m : FabMsg)
  | messageAck (dst vc : Nat) (seq : BitVec 32)
  | planeDown (addr plane : Nat)
  | heartbeatSend
  | managerLost
  | moduleLost (addr : Nat)
  | hello (m : HelloMsg)
  | discWait
  | fabricKeyReceive (epoch : BitVec 8) (ct : Oaep)
  | epochRequest (sender : Nat)
  | bcastReport (bolt addr : Nat) (missing : List Nat)
  | bcastWait (bolt : Nat)
  | chainTimeout (bolt addr : Nat)
  | loadChunk (bolt idx : Nat) (c : ChunkIn)
  -- rings
  | sqTail (w : Window) (ring value : Nat)
  | entryFetch (port ring : Nat) (dma : Dma Entry)
  | cqHead (w : Window) (ring value : Nat)
  | completionPost (port ring : Nat) (dma : Dma Unit)
  | cqStall (port ring : Nat)
  | coalTimer (port ring : Nat)
  | ringEnable (w : Window) (ring : Nat) (cfg : Word)
  | ringDisable (w : Window) (ring : Nat) (cfg : Word)
  | ringAssign (w : Window) (port : Nat) (value : Word)
  | vfAssign (w : Window) (port : Nat) (value : Word)
  -- ring commands: the dispatched entry's number
  | tenantCreate (id : Nat) | tenantRemove (id : Nat) | boltCreate (id : Nat) | boltRemove (id : Nat)
  | boltTransfer (id : Nat) | boltAdopt (id : Nat) | sessionOpen (id : Nat) | sessionClose (id : Nat)
  | generate (id : Nat) | tune (id : Nat) | abort (id : Nat) | prefixRetain (id : Nat) | prefixRelease (id : Nat)
  | loadStage (id : Nat) | loadCommit (id : Nat) | loadCancel (id : Nat) | loadPattern (id : Nat) | unload (id : Nat)
  | keyInstall (id : Nat) | grant (id : Nat) | revoke (id : Nat) | claim (id : Nat) | transfer (id : Nat)
  | release (id : Nat) | debugUnlock (id : Nat) | planLoad (id : Nat) (plan : Plan) | sigRead (id : Nat)
  | fwLoad (id : Nat) (image : FwImage) | selfTest (id : Nat) | bbRead (id : Nat)
  | tenRefill (w : Window) (value : Word)
  -- host ports
  | heartbeat (w : Window) (port : Nat)
  | heartbeatLoss (port : Nat)
  | linkChange (port rate width : Nat) (flit up : Bool)
  | flr (port fn : Nat)
  | perstAssert (port : Nat)
  | perstRelease (port : Nat)
  | getVersion (v : Via) | getCapabilities (v : Via) | negotiateAlgorithms (v : Via) (supported : Bool)
  | getDigests (v : Via) | getCertificate (v : Via) (slot : Nat) | challenge (v : Via) (slot : Nat) (nonce : BitVec 256)
  | getMeasurements (v : Via) (index : Nat) | keyExchange (v : Via) (exchange : Nat) | finish (v : Via) (verified : Bool)
  | keyUpdate (v : Via) | endSession (v : Via) | vendorDefinedRequest (v : Via) (m : VendorMsg)
  | lockInterface (port vf : Nat)
  | stopInterface (port vf : Nat)
  | tdiError (port vf : Nat)
  | kekReady
  -- block control and event registers
  | blkCtrlDrain (w : Window) (page : PageId) (expectGen : BitVec 32)
  | drainDone (page : PageId)
  | resume (w : Window) (page : PageId) (expectGen : BitVec 32)
  | offline (w : Window) (page : PageId) (expectGen : BitVec 32)
  | online (w : Window) (page : PageId) (expectGen : BitVec 32)
  | onlineCheckDone (page : PageId) (passed : Bool)
  | evtStatusClear (w : Window) (page : PageId) (value raisedNow : Word)
  | evtForce (w : Window) (page : PageId) (value : Word)
  | evtSum0Read (w : Window) (port : Nat)
  | tenantEvtRead (w : Window) (port vf : Nat)
  | errCaptureRead (w : Window) (page : PageId)
  | nwLastStepRead (w : Window) (p : Nat)
  | seqFaultStepRead (w : Window) (p : Nat)
  | sigStatusRead (w : Window)
  | eyeRead (w : Window)
  | bbRdData3Read (w : Window)
  | resetEst (w : Window) (p : Nat) (value : Word)
  | clearTile (w : Window) (p : Nat)
  | clearAll (w : Window) (p : Nat)
  | fmtCntClear (w : Window) (p : Nat)
  | calCntClear (w : Window)
  | kvCntClear (w : Window)
  | attCntClear (w : Window) (p : Nat)
  | smpCntClear (w : Window) (p : Nat)
  | wtCntClear (w : Window)
  | seqCntClear (w : Window) (p : Nat)
  | netCntClear (w : Window) (page : PageId)
  | fabCntClear (w : Window)
  | kwCntClear (w : Window) (port : Nat)
  | rasCntClear (w : Window)
  | secCntClear (w : Window)
  | hostCntClear (w : Window) (port : Nat)
  | hkCntClear (w : Window)
  | jobelRestartsClear (w : Window)
  | registerWrite (w : Window) (addr size : Nat) (value : Word)
  | accessSizeError (w : Window) (addr size : Nat) (write : Bool) (value : Word)
  -- power, temperature, start
  | retainedCommit
  | inputRise (mv : Nat)
  | hotswapClose
  | powerGood
  | inputFall (mv : Nat)
  | inputOvervoltage (mv : Nat)
  | hardOvercurrent (ma : Nat)
  | railTrip (rail : Nat)
  | governorInterval (ma : Nat)
  | hkConversion (hkB : Bool) (value : Int)
  | hkInjected (trigger : Nat) (values : List Int)
  | throttle
  | thermalRecover
  | stopSealTimeout
  | thermalTrip
  | autoRestart
  | restart (w : Window)
  | fullStart (f : StartFindings)
  | islandAlign (i : Island) (checksOk : Bool)
  | go (w : Window) (value : Word)
  | recoveryLoadDone (dma : Dma FwImage)
  | jobelCmdRestart (w : Window)
  | jobelWatchdog
  | jobelRestarted
  | bbFlush (trigger : Nat)
  | bbFlushed (ok : Bool)
  | flush (w : Window)
  | clearStore (w : Window)
  | bbEpoch (w : Window) (value : Word)
  | stCmd (w : Window) (value : Word)
  | selfTestTargetDone (signature : Word) (failed : Nat)
  | hotswapReclose (mv : Nat)
  | powerLoss
  | uncorrectableCodeword (port lane : Nat)
  | receiveBufferPost (p flow addr len : Nat)
  | planStateReceive (m : PlanMsg)
  | firmwareWriteDone
  | powerCoarseWindow (meanW : Nat) (meanDiode : Int)
  | configurationRequest (port : Nat) (c : CfgWrite)
  | atsInvalidation (port : Nat) (page : Word) (size : Nat)
  deriving DecidableEq, Repr

end Sys2Proof
end

