-- ==== Sys2Proof/Decode.lean ====
section
/-! DEFINITION. The commands that the table's words spell. The opcode table gives no row any bits: the rows are steps and
events of a block, and no word stands for one. -/

namespace Sys2Proof

/-- The command that a word of the table's bits spells: none, for no row of the table has bits. -/
def decodeTableWord (_nbits _w : Nat) : Option Instr := none

end Sys2Proof
end

