-- ==== Sys2Proof/Config.lean ====
section
/-! DEFINITION. What an implementation fixes and the free values: constants with no body, so that nothing proved of
the model rests on a value of theirs. Each is applied to the model's own counter of free values (State.freeCtr) or to the
operands it depends on. -/

namespace Sys2Proof
namespace Config

/-- The analog error of one converter sum, in 1/1024 level-units or counts (R47, R56, R105): the spec gives no value. -/
opaque analogError : Nat → Int

/-- TPP of the sessions of a pattern, by its identifier, before a KV writer has run on the bolt (R158, R172): the spec does not say where
the walker learns it. -/
opaque patternTpp : Nat → Nat

/-- The gain drift of a conversion, in parts per million, at a distance of so many 1/64 °C from the temperature of the corrections in
force (R114), before the rule's bound is put on it. -/
opaque gainDrift : Nat → Nat → Int

/-- The offset drift of a conversion after the offset-column subtraction, in 1/1024 level-units (R114), before the rule's bound. -/
opaque offsetDrift : Nat → Nat → Int

/-- A residual of a margin test (R67 step 5, R69): mLSB in dense mode, 1/1000 counts in exact mode. -/
opaque marginResidual : Nat → Int

/-- The conductance, in 1/1000 of ΔG above G₀, that a verify read finds after a pulse (R68): analog, not given. -/
opaque verifyRead : Nat → Int

/-- A 64-bit random draw of Jobel's source (R361, R396, R399). -/
opaque random64 : Nat → BitVec 64

/-- A 256-bit key or a 512-bit key pair's identity drawn from Jobel's source (R399, R400, R410). -/
opaque randomKey : Nat → BitVec 256

/-- The 256-bit root that the module's PUF gives (R397), the same at every start: no register or message shows it. -/
opaque pufRoot : BitVec 256

/-- The identity private key of R399, as the bytes that the identity wrap key protects, for an identity by its certificate's digest: it
leaves the key engine only wrapped. -/
opaque identityPrivate : BitVec 512 → List (BitVec 8)

/-- The address straps ADDR2 to ADDR0 as they are read when AUX comes up (R521): the integrator's wiring. -/
opaque addrStraps : BitVec 3

/-- The draw of a panel's swatch sampling generator (R363). -/
opaque swatchDraw : Nat → BitVec 12

/-- What a hem takes from an invalid block (R89): element i of the 32, and its scale as element 32. The spec gives it no value; the outputs
are poisoned. Applied to the format and the block's bytes, scale byte first. -/
opaque invalidBlock : Nat → List (BitVec 8) → Nat → BitVec 8

/-- A result the spec does not state for ordinary operands. -/
opaque freeWord : Nat → BitVec 64

/-- Where an adapter part in a slot keeps the projection of a WAD: MXINT8 or not, rank less one, offsets of A and B in the
slot, and the scale s (R187, R188): the spec gives the slot no layout. Applied to the part's bytes and the projection. -/
opaque adapterLayout : List (BitVec 8) → Nat → Bool × BitVec 6 × Nat × Nat × BitVec 32

/-- Where an adapter part keeps its elements: MXINT8 or not, offset and number of elements of each of its matrices, in order (R187, R201):
the spec gives the part no layout. Applied to the part's bytes. -/
opaque adapterSpans : List (BitVec 8) → List (Bool × Nat × Nat)

/-- The DER bytes of a certificate chain (R399 to R401), applied to the identity certificate's digest, the key-encryption key
and the slot: the spec gives their form, not their bytes. -/
opaque certChain : BitVec 512 → Nat → Nat → List (BitVec 8)

/-- The 512 bytes of an RSA-4096 signature (R345, R401) under a key, given by its DER form, over a body. -/
opaque signatureBytes : List (BitVec 8) → List (BitVec 8) → List (BitVec 8)

/-- The ciphertext and tag that AES-256-GCM makes of a key, a nonce, authenticated data and a plaintext, as it travels in a message (R208,
R229). The model opens boxes symbolically and reads no ciphertext: log entry 222. -/
opaque cipherText : BitVec 256 → BitVec 96 → List (BitVec 8) → List (BitVec 8) → List (BitVec 8)

/-- A digest that names a measured object whose bytes the spec does not give (R402: the boot ROM). -/
opaque romDigest : BitVec 512

/-- The golden self-test signature of a kind on a stepping (R497): held in ROM, not given. -/
opaque golden : Nat → BitVec 8 → BitVec 64

end Config
end Sys2Proof
end

