-- ==== Sys2Proof/Machine/State.lean ====
section
/-! DEFINITION. The state of the block as plain data: every register page, table, queue and memory the spec gives the
module, the reasons a step can stop, and the state right after reset. Each field's comment names the rule that gives the
field and its reset value. Sparse data is a Map: (key, value) pairs with strictly rising keys, none equal to the value that
an unlisted key reads as. -/

namespace Sys2Proof.Machine

/-- Sparse data by natural key, in one canonical form (Machine/Ops.lean holds its operations). -/
abbrev Map (V : Type) := List (Nat × V)

/-- Byte-addressed memory: Host.Cell pairs (R10). An unlisted byte reads as zero. -/
abbrev Mem := List Host.Cell

/-! ### Faults and refusals -/

/-- Why the machine stops. The spec describes every failure as an effect on the module's state, so that no command of the
table raises one; the one fault here is for a queue that the model was handed in a form no sender can give. -/
inductive Fault where
  /-- Raised by no meaning: kept so that the type has a name to report. Stopping is on the cautious side. -/
  | none
  deriving DecidableEq, Repr

/-- Why a command has no meaning. -/
inductive Refusal where
  /-- Raised by Dispatch for a command that is not yet modelled; stopping is on the cautious side. -/
  | notModelled (mnemonic : String)
  deriving DecidableEq, Repr

/-! ### Common page header, counters -/

/-- The states of a block (R430). -/
inductive BlkSt where
  | off | test | ready | active | draining | retired | failed
  deriving DecidableEq, Repr

/-- A page's common header (R430 to R435). -/
structure Hdr where
  /-- R430: BLK_STATE.STATE, 3 bits. Reset: READY once started. -/
  st : BlkSt
  /-- R430: BLK_STATE.HELD, 1 bit. Reset: 0. -/
  held : Bool
  /-- R430: BLK_STATE.CAUSE, 8 bits. Reset: 0 (start). -/
  cause : BitVec 8
  /-- R430: BLK_STATE.GEN, 32 bits. Reset: DESIGN CHOICE 0, log entry 5. -/
  gen : BitVec 32
  /-- R432: EVT_STATUS, 64 bits. Reset: 0 (start Z). -/
  evt : Word
  /-- R432: the bits of EVT_STATUS that a forced write set and no event has (R446 treats both alike). Reset: 0. -/
  forced : Word
  /-- R432, R433: BLK_OWNER.PORT, 2 bits. Reset: 2 (either). -/
  ownPort : BitVec 2
  /-- R432: BLK_OWNER.BOLT, 6 bits. Reset: 0x3F (none). -/
  ownBolt : BitVec 6
  /-- R432: BLK_OWNER.TENANT, 12 bits. Reset: DESIGN CHOICE 0, log entry 5. -/
  ownTenant : BitVec 12
  /-- R432: BLK_OWNER.GEN, 32 bits. Reset: DESIGN CHOICE 0, log entry 5. -/
  ownGen : BitVec 32
  /-- R433: ERR_CAPTURE, 64 bits. Reset: 0 (start Z). -/
  capture : Word
  /-- R434: whether ERR_CAPTURE holds an unread record. Reset: no. -/
  captureHeld : Bool
  /-- R435: CNT_CLEARS.CLEARS, 32 bits. Reset: 0 (start Z). -/
  clears : BitVec 32
  deriving DecidableEq, Repr

/-- The header of a page right after a start. -/
def Hdr.start : Hdr :=
  { st := .ready, held := false, cause := 0, gen := 0, evt := 0, forced := 0, ownPort := 2, ownBolt := 0x3F,
    ownTenant := 0, ownGen := 0, capture := 0, captureHeld := false, clears := 0 }

/-- An event counter (R78, R383): 48 bits and a sticky OVF. -/
structure Counter where
  /-- R78: COUNT, 48 bits. Reset: 0 (start Z). -/
  count : BitVec 48
  /-- R78: OVF, 1 bit. Reset: 0 (start Z). -/
  ovf : Bool
  deriving DecidableEq, Repr

/-- A counter at zero. -/
def Counter.zero : Counter := { count := 0, ovf := false }

/-! ### What leaves the module -/

/-- A completion entry (R443). -/
structure Completion where
  status : Nat
  tag : BitVec 16
  final : Bool
  uncal : Bool
  sat : Bool
  penTrunc : Bool
  partSet : Bool
  outBytes : Nat
  tokens : Nat
  step : Word
  detail : BitVec 32
  deriving DecidableEq, Repr

/-- Everything the module sends to the world outside it (the model's own record of its outputs). -/
inductive Out where
  | msix (port fn vector : Nat)
  | completion (port ring index sqHead : Nat) (phase : Bool) (c : Completion)
  | data (port ring : Nat) (addr : Word) (bytes : List Byte)
  | sealedData (port ring : Nat) (addr : Word) (box : Sealed)
  | spdm (v : Via) (code : Nat) (data : List Byte)
  | fabric (plane dst vc : Nat) (seq : BitVec 32) (data : List Byte)
  | kwFlits (port : Nat) (first last : BitVec 16)
  | kwReplayAsk (port : Nat) (lseq : BitVec 16)
  | fabricKey (addr : Nat) (epoch : BitVec 8) (ct : Oaep)
  | lasers (on : Bool)
  | atsAnswer (port : Nat)
  deriving DecidableEq, Repr

/-! ### Black box, failure signatures, self-test -/

/-- A black-box record (R503): SEQ, EPOCH, TYPE, INSTANCE, CODE and twelve bytes of DATA. -/
structure BbRec where
  seq : Word
  epoch : Word
  type : BitVec 8
  inst : BitVec 8
  code : BitVec 16
  data : List Byte
  deriving DecidableEq, Repr

/-- A slot of the black-box store (R506, R507). -/
structure BbSlot where
  /-- R507, R510: A_VALID or B_VALID. Reset: DESIGN CHOICE invalid, log entry 4. -/
  valid : Bool
  /-- R510: GEN_A or GEN_B, 16 bits. Reset: DESIGN CHOICE 0, log entry 4. -/
  gen : BitVec 16
  /-- R506: the records of the flush. Reset: none. -/
  recs : List BbRec
  deriving DecidableEq, Repr

/-- A flush in progress (R506). -/
structure BbFlush where
  trigger : Nat
  slotB : Bool
  recs : List BbRec
  deriving DecidableEq, Repr

/-- One window's readout selection (R510). -/
structure BbSel where
  /-- R510: BB_RD_CTRL.SOURCE, 2 bits. Reset: 0 (start Z). -/
  source : BitVec 2
  /-- R510: BB_RD_CTRL.INDEX, 12 bits. Reset: 0 (start Z). -/
  index : BitVec 12
  deriving DecidableEq, Repr

/-- The black box (R502 to R510). -/
structure BlackBox where
  /-- R502: the live ring, at most 4,096 records, oldest first. Reset: the START record of the start (R502). -/
  live : List BbRec
  /-- R502, R510: BB_NEXT_SEQ, 64 bits. Reset: 1, after the START record 0. -/
  nextSeq : Word
  /-- R505: BB_EPOCH, 64 bits. Reset: 0 (start Z). -/
  epoch : Word
  /-- R506: slot A of the store. Reset: invalid. -/
  slotA : BbSlot
  /-- R506: slot B of the store. Reset: invalid. -/
  slotB : BbSlot
  /-- R506, R510: the flush in progress (FLUSHING). Reset: none. -/
  flushing : Option BbFlush
  /-- R510: LAST_TRIGGER, 8 bits. Reset: DESIGN CHOICE 0, log entry 4. -/
  lastTrigger : BitVec 8
  /-- R507: the SEQ that the last completed flush ended with. Reset: none. -/
  lastFlushed : Option Word
  /-- R508: STORE_LOCKED. Reset: 0. -/
  locked : Bool
  /-- R510: the management window's readout selection. Reset: 0. -/
  selMgmt : BbSel
  /-- R510: PF 0's readout selection. Reset: 0. -/
  selPf0 : BbSel
  /-- R510: PF 1's readout selection. Reset: 0. -/
  selPf1 : BbSel
  deriving DecidableEq, Repr

/-- A failure-signature record (R388); none stands for null. -/
structure Sig where
  seq : Word
  epoch : Word
  cls : Nat
  detector : Nat
  code : Nat
  logical : Option (Nat × Nat × Nat)
  physical : Option (Nat × Nat × Nat × Nat)
  action : Option Nat
  mode : Option Nat
  lane : Option Nat
  excess : Option Int
  temp : Int
  rails : Nat × Nat
  count : Nat
  read : Bool
  deriving DecidableEq, Repr

/-- A queued self-test of one kind on one target (R499, R500). -/
structure StReq where
  kind : Nat
  target : Nat
  job : Option Nat
  deriving DecidableEq, Repr

/-- A self-test result record (R501). -/
structure StRec where
  signature : Word
  kind : Nat
  target : Nat
  result : Nat
  skipped : Nat
  failed : Nat
  deriving DecidableEq, Repr

/-- The self-test engine (R495 to R501, R511). -/
structure SelfTest where
  /-- R500: requests waiting, in arrival order. Reset: none. -/
  queue : List StReq
  /-- R500, R511: the target under test (BUSY). Reset: none. -/
  running : Option StReq
  /-- R498: the block state that the target held before its test. Reset: READY. -/
  before : BlkSt
  /-- R511: ST_STATUS.KIND of the current or last target, 2 bits. Reset: 0 (start Z). -/
  lastKind : BitVec 2
  /-- R511: ST_STATUS.TARGET, 6 bits. Reset: 0 (start Z). -/
  lastTarget : BitVec 6
  /-- R511: ST_STATUS.RESULT, 2 bits. Reset: 0 (start Z). -/
  lastResult : BitVec 2
  /-- R511: ST_SIG, 64 bits. Reset: 0 (start Z). -/
  lastSig : Word
  /-- R501: result records of the SELF_TEST job in progress, in order. Reset: none. -/
  results : List StRec
  deriving DecidableEq, Repr

/-! ### Power, temperature -/

/-- The hot-swap switch (R456). -/
inductive HotSwap where
  | opened | charging | closed
  deriving DecidableEq, Repr

/-- A housekeeping reading (R464, R475). -/
structure Reading where
  value : Int
  fast : Bool
  hkB : Bool
  time : Nat
  deriving DecidableEq, Repr

/-- The input stage, rails, governor, housekeeping converters and thermal loop (R455 to R476). -/
structure Power where
  /-- R456: the input voltage last seen, mV. Reset: 56,000 (nominal, R455). -/
  vinMv : Nat
  /-- R456: AUX present. Reset: present. -/
  aux : Bool
  /-- R456: since when the input has been above 43 V. Reset: time 0. -/
  above43 : Option Nat
  /-- R456: the hot-swap switch. Reset: closed. -/
  hotswap : HotSwap
  /-- R455: the switch was opened by an input overvoltage. Reset: no. -/
  ovOpen : Bool
  /-- R455: since when the input has been below 60 V after an overvoltage. Reset: none. -/
  below60 : Option Nat
  /-- R456: power-good signalled. Reset: yes. -/
  powerGood : Bool
  /-- R458: the compute rails are up. Reset: yes. -/
  compute : Bool
  /-- R462, R475: array-rail code, 8 bits. Reset: 50 (0.75 V, set point R458). -/
  arrRail : Nat
  /-- R462, R475: logic-rail code, 8 bits. Reset: 40 (0.70 V, set point R458). -/
  logRail : Nat
  /-- R461, R475: array duty in 64ths. Reset: 64. -/
  arrDuty : Nat
  /-- R461, R475: attention duty in 64ths. Reset: 64. -/
  attDuty : Nat
  /-- R462: input current last compared, mA. Reset: DESIGN CHOICE 0, log entry 6. -/
  inputMa : Nat
  /-- R462: since when the current has been 0.5 A or more below the limit. Reset: none. -/
  slackSince : Option Nat
  /-- R472: since when the current has been under the limit. Reset: none. -/
  underSince : Option Nat
  /-- R472: a clamp episode is open. Reset: no. -/
  clampOpen : Bool
  /-- R472: an override episode is open. Reset: no. -/
  overrideOpen : Bool
  /-- R462: move 4 lowers the array duty next (the two alternate). Reset: DESIGN CHOICE array first, log entry 6. -/
  arrTurn : Bool
  /-- R468, R475: thermal limit, A. Reset: 27. -/
  thermalLimit : Nat
  /-- R466, R467: the diode comparator reads 100 °C or above. Reset: no. -/
  cmp100 : Bool
  /-- R471: since when the diode comparator has read below 70 °C. Reset: time 0. -/
  cmp70 : Option Nat
  /-- R470, R520: the trip latch (THERMTRIP# low). Reset: not latched. -/
  tripLatch : Bool
  /-- R488: protections that acted during a management-only restart and wait for Jobel, as (limp cause, identifier). Reset: none. -/
  protection : List (Nat × Nat)
  /-- R475: THERMAL_STATUS.STATE, 3 bits. Reset: 0 NORMAL. -/
  thermState : Nat
  deriving DecidableEq, Repr

/-- The housekeeping converters and the rate-of-rise loop (R464 to R468). -/
structure Housekeeping where
  /-- R464, R475: the newest reading of each channel. Reset: none taken (VALUE 0, start Z). -/
  readings : Map (Option Reading)
  /-- R468: HK-A diode readings, newest first, as (time, 1/64 °C). Reset: none. -/
  diodes : List (Nat × Int)
  /-- R468, R475: rate of rise r, 1/64 °C/s. Reset: 0. -/
  rate : Int
  /-- R465, R475: HK-A in fast mode. Reset: no. -/
  fast : Bool
  /-- R465: since when both conditions for leaving fast mode hold. Reset: none. -/
  calmSince : Option Nat
  /-- R465: position of HK-A in its sequence. Reset: 0. -/
  posA : Nat
  /-- R465: position of HK-B in its sequence. Reset: 0. -/
  posB : Nat
  /-- R465, R474: the sequence and its length that HK-A's present pass began with. Reset: none begun, an empty one. -/
  passA : Word × Nat
  /-- R465, R474: the sequence and its length that HK-B's present pass began with. Reset: none begun, an empty one. -/
  passB : Word × Nat
  /-- R466: an injected pass is pending. Reset: no. -/
  injPending : Bool
  /-- R468: since when r has been above WARN_RATE. Reset: none. -/
  warnSince : Option Nat
  /-- R468: the episode's warning has been given. Reset: no. -/
  warned : Bool
  /-- R468: consecutive readings with r above STOP_RATE. Reset: 0. -/
  stopRun : Nat
  /-- R468: time of the last thermal step of the present condition. Reset: none. -/
  lastStep : Option Nat
  /-- R468: time of the last rise of the thermal limit, or of the condition's start. Reset: none. -/
  lastRecover : Option Nat
  /-- R467, R475: a plausibility fault is on. Reset: no. -/
  plaus : Bool
  /-- R467: consecutive agreeing comparisons. Reset: 0. -/
  agree : Nat
  /-- R469: since when an orderly stop runs. Reset: none. -/
  stopping : Option Nat
  /-- R471: times of the orderly stops and trips. Reset: none. -/
  stops : List Nat
  deriving DecidableEq, Repr

/-! ### Start, retained bank -/

/-- A bolt's retained record (R225). -/
structure BoltRecord where
  bolt : Nat
  cols : Nat
  rows : Nat
  port : Nat
  tenant : Nat
  pattern : Nat
  nonce : Word
  place : List (Nat × Nat × Bool × Nat × Nat)
  digest : BitVec 512
  deriving DecidableEq, Repr

/-- The security area of the retained bank (R477). -/
structure SecArea where
  /-- R395, R477: the owner key's DER bytes. Reset: none (R527). -/
  owner : Option (List Byte)
  /-- R477, R485: MIN_SVN, 16 bits. Reset: DESIGN CHOICE 1, the shipped image's SVN (R527), log entry 7. -/
  minSvn : BitVec 16
  /-- R345, R477: the fabric plan. Reset: none. -/
  plan : Option Plan
  /-- R225, R477: the bolts' retained records. Reset: none. -/
  records : List BoltRecord
  /-- R75, R477: state code, mode and EXACT_OK of physical arrays. Reset: every array ZEROISED (R527). -/
  arrays : Map (Nat × Bool × Bool)
  /-- R324, R477: seam groups marked failed, as (half, group). Reset: none. -/
  seamFailed : List (Nat × Nat)
  /-- R22, R23, R477: logical panels that a spare panel serves or is being darned into, as (logical panel, physical panel). Reset:
  none. -/
  darns : List (Nat × Nat)
  /-- R477: failed physical panels. Reset: none. -/
  failedPanels : List Nat
  /-- R477: retired and failed physical tiles. Reset: none. -/
  failedTiles : List (Nat × Nat)
  deriving DecidableEq, Repr

/-- A copy of the configuration area (R477, R478). -/
structure CfgCopy where
  gen : Word
  regs : Map Word
  /-- R477: the copy's HMAC-SHA-512 tag under the retained seal key; none for a copy as vendor test shipped it. Reset: none, log entry 244. -/
  tag : Option (BitVec 512)
  deriving DecidableEq, Repr

/-- A copy of the security area (R477, R478). -/
structure SecCopy where
  gen : Word
  area : SecArea
  /-- R477: the copy's HMAC-SHA-512 tag under the retained seal key; none for a copy as vendor test shipped it. Reset: none, log entry 244. -/
  tag : Option (BitVec 512)
  deriving DecidableEq, Repr

/-- A firmware write in progress or waiting (R487). -/
structure FwWrite where
  image : FwImage
  activate : Bool
  job : Nat
  deriving DecidableEq, Repr

/-- The start sequence, limp mode, firmware and the retained bank (R477 to R494). -/
structure Start where
  /-- R493: START_STATUS.PHASE, 4 bits. Reset: 7 READY. -/
  phase : Nat
  /-- R492, R493: START_STATUS.LIMP_CAUSE, 4 bits. Reset: 0. -/
  limp : Nat
  /-- R493: START_STATUS.COPY: copy B in force. Reset: DESIGN CHOICE copy A, log entry 7. -/
  copyB : Bool
  /-- R479: START_STATUS.DEFAULTED. Reset: 0. -/
  defaulted : Bool
  /-- R483: ISLAND_FAIL_DRAM, 4 bits. Reset: 0. -/
  failDram : BitVec 4
  /-- R483: ISLAND_FAIL_KWATH, 16 bits. Reset: 0. -/
  failKwath : BitVec 16
  /-- R483: ISLAND_FAIL_PCIE, 2 bits. Reset: 0. -/
  failPcie : BitVec 2
  /-- R482, R483: islands not yet aligned, with the failed attempts of each. Reset: none. -/
  islands : List (Island × Nat)
  /-- R480: what the start under way found, between its steps. Reset: none. -/
  findings : Option StartFindings
  /-- R484: the firmware area's image. Reset: DESIGN CHOICE a verifying image, log entry 7. -/
  fw : Option FwImage
  /-- R493: FW_INFO.VERSION of the running image, 32 bits. Reset: DESIGN CHOICE 1, log entry 7. -/
  fwVersion : BitVec 32
  /-- R402: the digest of the firmware image in force. Reset: DESIGN CHOICE 0, log entry 7. -/
  fwDigest : BitVec 512
  /-- R493: FW_INFO.SVN of the running image, 16 bits. Reset: DESIGN CHOICE 1, log entry 7. -/
  fwSvn : BitVec 16
  /-- R487: the firmware write in progress. Reset: none. -/
  fwWriting : Option FwWrite
  /-- R487: loads that wait for it. Reset: none. -/
  fwWaiting : List FwWrite
  /-- R493: REC_ADDR of PF 0. Reset: 0 (start Z). -/
  recAddr0 : Word
  /-- R493: REC_ADDR of PF 1. Reset: 0 (start Z). -/
  recAddr1 : Word
  /-- R493: REC_STATUS.STATE, 3 bits. Reset: 0 (start Z). -/
  recState : Nat
  /-- R493: REC_STATUS.RESULT, 3 bits. Reset: 0 (start Z). -/
  recResult : Nat
  /-- R493: REC_STATUS.PORT, 1 bit. Reset: 0 (start Z). -/
  recPort : Nat
  /-- R486: the length of the recovery load under way. Reset: 0. -/
  recLen : Nat
  /-- R488: a management-only restart is under way. Reset: no. -/
  restarting : Bool
  /-- R477: the security area's contents in force, less what Security, Fabric and Arrays hold. Reset: as shipped (R527). -/
  area : SecArea
  /-- R477, R478: configuration copy A. Reset: vendor defaults (R527). -/
  cfgA : CfgCopy
  /-- R477, R478: configuration copy B. Reset: vendor defaults (R527). -/
  cfgB : CfgCopy
  /-- R477, R478: security copy A. Reset: as shipped (R527). -/
  secA : SecCopy
  /-- R477, R478: security copy B. Reset: as shipped (R527). -/
  secB : SecCopy
  /-- R478: since when a change waits for its commit. Reset: none. -/
  dirty : Option Nat
  /-- R477: the vendor-sealed area verifies. Reset: yes. -/
  vendorOk : Bool
  deriving DecidableEq, Repr

/-! ### Security -/

/-- An installed key (R404, R405). -/
structure KeyEntry where
  gen : Word
  key : BitVec 256
  deriving DecidableEq, Repr

/-- A data key with its session count (R405, R408). -/
structure DataKey where
  tenant : Nat
  bolt : Nat
  entry : KeyEntry
  sessions : BitVec 32
  deriving DecidableEq, Repr

/-- An SPDM connection's progress (R401): 0 nothing, 1 version, 2 capabilities, 3 algorithms, 4 session handshake, 5 session. -/
structure Spdm where
  via : Via
  stage : Nat
  keyGen : Nat
  deriving DecidableEq, Repr

/-- An IDE stream (R417): stream number 0 is the link stream. -/
structure IdeStream where
  port : Nat
  stream : Nat
  requester : Nat
  key : BitVec 256
  secure : Bool
  deriving DecidableEq, Repr

/-- Roles, keys and attestation (R391 to R423). -/
structure Security where
  /-- R395: the owner key's DER bytes. Reset: none (R527). -/
  owner : Option (List Byte)
  /-- R420, R421: debug level in force, 2 bits. Reset: 0. -/
  debug : Nat
  /-- R397: PUF_OK. Reset: 1. -/
  pufOk : Bool
  /-- R400: KEK_READY. Reset: 0, the KEK follows READY (R480, R486 example). -/
  kekReady : Bool
  /-- R400: which KEK this Jobel start's pair is. Reset: 1. -/
  kekId : Nat
  /-- R396: SEC_NONCE, 64 bits. Reset: DESIGN CHOICE 0, log entry 8 (drawn at start). -/
  nonce : Word
  /-- R404, R405: data keys, at most 8,192. Reset: none. -/
  dataKeys : List DataKey
  /-- R407: grants, as (bolt, tenant). Reset: none. -/
  grants : List (Nat × Nat)
  /-- R401: SPDM connections. Reset: none. -/
  spdm : List Spdm
  /-- R417: IDE streams. Reset: none. -/
  ide : List IdeStream
  /-- R399, R402: SHA-512 of the identity certificate. Reset: DESIGN CHOICE 0, log entry 8. -/
  identity : BitVec 512
  /-- R399: the vendor key's DER bytes in ROM. Reset: DESIGN CHOICE the one byte 1, log entry 8. -/
  vendorKey : List Byte
  /-- R416: POWER_COARSE.POWER, 16 bits. Reset: 0 (start Z). -/
  coarsePower : BitVec 16
  /-- R416: POWER_COARSE.TEMP, 8 bits. Reset: 0 (start Z). -/
  coarseTemp : BitVec 8
  deriving DecidableEq, Repr

/-! ### Host ports, rings, jobs -/

/-- The pairing state of a port (R449). -/
inductive PairSt where
  | absent | live | lost
  deriving DecidableEq, Repr

/-- The TDISP states of a device interface (R418). -/
inductive TdiSt where
  | unlocked | locked | run | error
  deriving DecidableEq, Repr

/-- A host port (R424 to R454). -/
structure Port where
  /-- R453: LINK_STATUS.RATE, 4 bits. Reset: DESIGN CHOICE 6, log entry 9. -/
  rate : Nat
  /-- R453: LINK_STATUS.WIDTH, 4 bits. Reset: DESIGN CHOICE 8, log entry 9. -/
  width : Nat
  /-- R453: LINK_STATUS.FLIT. Reset: DESIGN CHOICE 1, log entry 9. -/
  flit : Bool
  /-- R453: LINK_STATUS.UP. Reset: DESIGN CHOICE 1, log entry 9. -/
  up : Bool
  /-- R453: LINK_STATUS.RETRAINS, 16 bits. Reset: 0. -/
  retrains : BitVec 16
  /-- R481, R489: PERST# released. Reset: DESIGN CHOICE released, log entry 9. -/
  released : Bool
  /-- R449: pairing state. Reset: ABSENT. -/
  pair : PairSt
  /-- R449: time of the last heartbeat. Reset: none. -/
  lastHb : Option Nat
  /-- R449: since when the link has been down. Reset: none. -/
  downSince : Option Nat
  /-- R446: the event vector may be sent (re-armed by a read of EVT_SUM0). Reset: yes. -/
  armed : Bool
  /-- R424: VFs enabled by configuration. Reset: DESIGN CHOICE 0, log entry 9. -/
  numVfs : Nat
  /-- R424: functions in D3hot. Reset: none. -/
  d3hot : List Nat
  /-- R424: functions with MSI-X enabled. Reset: DESIGN CHOICE the PF, log entry 9. -/
  msixOn : List Nat
  /-- R424: masked MSI-X entries, as (function, vector). Reset: none. -/
  msixMasked : List (Nat × Nat)
  /-- R427: pending MSI-X bits, as (function, vector). Reset: none. -/
  msixPending : List (Nat × Nat)
  /-- R424: functions that may master the bus. Reset: DESIGN CHOICE the PF, log entry 9. -/
  busMaster : List Nat
  /-- R424: functions with ATS enabled. Reset: none. -/
  atsOn : List Nat
  /-- R424: functions with PASID enabled. Reset: none. -/
  pasidOn : List Nat
  /-- R424: cached translations, as (page, pages). Reset: none. -/
  ats : List (Word × Nat)
  /-- R424, R425: other configuration registers, by function × 2¹² + offset. Reset: PRESUMED 0, log entry 9. -/
  cfgSpace : Map (BitVec 32)
  deriving DecidableEq, Repr

/-- A virtual function (R418, R452, R453). -/
structure Vf where
  /-- R452: the assigned tenant. Reset: none. -/
  tenant : Option Nat
  /-- R418: the TDISP interface's state. Reset: not locked. -/
  tdi : TdiSt
  /-- R453: T_EVT_CTRL.VECTOR, 4 bits. Reset: 0 (start Z). -/
  tVector : BitVec 4
  /-- R453: T_EVT_CTRL.EN. Reset: 0 (start Z). -/
  tEn : Bool
  /-- R446: the tenant page's vector may be sent. Reset: yes. -/
  armed : Bool
  deriving DecidableEq, Repr

/-- A VF right after a start. -/
def Vf.start : Vf := { tenant := none, tdi := .unlocked, tVector := 0, tEn := false, armed := true }

/-- The states of a ring (R436). -/
inductive RingSt where
  | free | assigned | enabled | error
  deriving DecidableEq, Repr

/-- A ring (R436 to R438, R445). -/
structure Ring where
  /-- R436: RING_STATUS.STATE. Reset: FREE. -/
  st : RingSt
  /-- R452: the function, 0 the PF. Reset: 0. -/
  fn : Nat
  /-- R452: the VF's slot. Reset: 0. -/
  slot : Nat
  /-- R436: RING_CFG, 64 bits. Reset: 0 (start Z). -/
  cfg : Word
  /-- R436: SQ_BASE, 64 bits. Reset: 0 (start Z). -/
  sqBase : Word
  /-- R436: CQ_BASE, 64 bits. Reset: 0 (start Z). -/
  cqBase : Word
  /-- R436: RING_PASID, 64 bits. Reset: 0 (start Z). -/
  pasid : Word
  /-- R438: the last SQ_TAIL written, 16 bits. Reset: 0. -/
  sqTail : Nat
  /-- R436: RING_STATUS.SQ_HEAD, 16 bits. Reset: 0 (start Z). -/
  sqHead : Nat
  /-- R436: RING_STATUS.CQ_TAIL, 16 bits. Reset: 0 (start Z). -/
  cqTail : Nat
  /-- R438: the last CQ_HEAD written, 16 bits. Reset: 0. -/
  cqHead : Nat
  /-- R436: RING_STATUS.PHASE. Reset: 0 (start Z). -/
  phase : Bool
  /-- R436: RING_STATUS.ERR, 8 bits. Reset: 0 (start Z). -/
  err : Nat
  /-- R438, R443: completions not yet written, in the order of their events, each with the time it was ready. Reset: none. -/
  waiting : List (Nat × Completion)
  /-- R438: CQ_STALL has been raised for the completion at the front. Reset: no. -/
  stalled : Bool
  /-- R445: completions not yet signalled. Reset: 0. -/
  unsig : Nat
  /-- R445: time of the first of them. Reset: none. -/
  unsigSince : Option Nat
  /-- R437: EN has been cleared and the ring's jobs are ending. Reset: no. -/
  closing : Bool
  /-- R490, R492, R450: the ring becomes FREE once its jobs have ended. Reset: no. -/
  freeing : Bool
  deriving DecidableEq, Repr

/-- A free ring. -/
def Ring.start : Ring :=
  { st := .free, fn := 0, slot := 0, cfg := 0, sqBase := 0, cqBase := 0, pasid := 0, sqTail := 0, sqHead := 0, cqTail := 0,
    cqHead := 0, phase := false, err := 0, waiting := [], stalled := false, unsig := 0, unsigSince := none, closing := false,
    freeing := false }

/-- A submission entry that the device has fetched and not yet run (R438). -/
structure Dispatched where
  id : Nat
  port : Nat
  ring : Nat
  fn : Nat
  entry : Entry
  deriving DecidableEq, Repr

/-- A generation job's arguments and progress (R185, R195, R441). -/
structure GenJob where
  stream : Bool
  plain : Bool
  maxNew : Nat
  stopId : BitVec 32
  counter : BitVec 32
  /-- R195: the 32-byte sampling block. -/
  block : List Byte
  /-- R441: prompt tokens still without a batch row. -/
  prompt : List (BitVec 32)
  /-- R185: the position of the next batch row. -/
  nextPos : Nat
  /-- R185: a drawn token that has had no batch row. -/
  carry : Option (BitVec 32)
  /-- R441: tokens released and not yet in an output record, as (position, token). -/
  record : List (Nat × BitVec 32)
  /-- R441: output records written. -/
  records : Nat
  /-- R30: tokens drawn in steps not yet sealed, as (step, position, token). -/
  drawn : List (Word × Nat × BitVec 32)
  /-- R441: MAX_NEW or STOP_ID has been drawn and no further row is wanted. -/
  lastDrawn : Bool
  /-- R196: philox position and draws so far stay with the step; R185: SMP_PEN_TRUNC raised for the job. -/
  truncRaised : Bool
  deriving DecidableEq, Repr

/-- A tuning job's arguments and progress (R199, R201, R442). -/
structure TuneJob where
  srcSet : Nat
  dstSet : Nat
  /-- R442: LR, B1, B2, EPS, WD, CLIP. -/
  lr : F32
  b1 : F32
  b2 : F32
  eps : F32
  wd : F32
  clip : F32
  steps : Nat
  perStep : Nat
  seqs : List (List (BitVec 32))
  doneSteps : Nat
  deriving DecidableEq, Repr

/-- What a job does. -/
inductive JobKind where
  | gen (g : GenJob)
  | tune (t : TuneJob)
  | load
  | pattern
  | selfTest
  | firmware
  | close
  deriving DecidableEq, Repr

/-- A job: an admitted command with a completion of its own to come (R202, R443). -/
structure Job where
  id : Nat
  port : Nat
  ring : Nat
  fn : Nat
  tag : BitVec 16
  tenant : Nat
  session : Nat
  bolt : Nat
  outAddr : Word
  outLen : Nat
  kind : JobKind
  /-- R202: the terminal status, once one has been admitted. -/
  status : Option Nat
  /-- R237: the job has a row ready for a step, since this time. -/
  ready : Option Nat
  /-- R443: the flags and sums of its completions. -/
  uncal : Bool
  sat : Bool
  penTrunc : Bool
  partSet : Bool
  outBytes : Nat
  tokens : Nat
  step : Word
  /-- R191: reservations granted and not yet used by a release, as steps. -/
  reserved : List Word
  deriving DecidableEq, Repr

/-! ### Tenants, sessions, key-value state -/

/-- The states of a tenant (R180). -/
inductive TenSt where
  | free | active | removing
  deriving DecidableEq, Repr

/-- A tenant table entry and its keys (R180, R404, R410). -/
structure Tenant where
  /-- R180: STATE, 2 bits. Reset: FREE. -/
  st : TenSt
  /-- R180: BUDGET, 32 bits. Reset: 0. -/
  budget : BitVec 32
  /-- R180: MAX_SESSIONS, 15 bits. Reset: 0. -/
  maxSessions : Nat
  /-- R180: SESSIONS, 15 bits. Reset: 0. -/
  sessions : Nat
  /-- R180: HELD, 15 bits. Reset: 0. -/
  heldN : Nat
  /-- R180, R194: LOW_SENT. Reset: 0. -/
  lowSent : Bool
  /-- R192: BUDGET_ZERO has been raised since BUDGET reached 0. Reset: no. -/
  zeroSent : Bool
  /-- R404: the weight key. Reset: none. -/
  weight : Option KeyEntry
  /-- R410: the DRAM slot key. Reset: none. -/
  slotKey : Option (BitVec 256)
  deriving DecidableEq, Repr

/-- A free tenant entry. -/
def Tenant.start : Tenant :=
  { st := .free, budget := 0, maxSessions := 0, sessions := 0, heldN := 0, lowSent := false, zeroSent := false,
    weight := none, slotKey := none }

/-- The states of a session (R184). -/
inductive SessSt where
  | free | opened | running | hold | closing
  deriving DecidableEq, Repr

/-- A session table entry (R182 to R186). -/
structure Session where
  /-- R184: state. Reset: FREE. -/
  st : SessSt
  tenant : Nat
  bolt : Nat
  pattern : Nat
  /-- R182: adapter set, 0xFFFF for none. -/
  aset : Nat
  pin : Bool
  lookup : Bool
  publish : Bool
  countPrompt : Bool
  /-- R183: the owning port. -/
  port : Nat
  /-- R408: the 32-bit number assigned at open. -/
  number : BitVec 32
  /-- R405, R408: the data key under which the session opened. Reset: 0 (no session). -/
  key : BitVec 256
  /-- R408: the last accepted job counter. -/
  counter : BitVec 32
  /-- R185: the token log, one entry per position: the token and the step that wrote it. -/
  log : List (BitVec 32 × Word)
  /-- R185: positions whose steps have sealed. -/
  sealedLen : Nat
  /-- R185: the count table. -/
  counts : List (BitVec 32 × BitVec 16)
  /-- R173: the nodes from the root to the deepest node. -/
  path : List Nat
  /-- R184: the running job. -/
  job : Option Nat
  /-- R165, R168: the session is under recomputation. -/
  recomp : Bool
  /-- R185: the last drawn token, which has had no batch row. -/
  carry : Option (BitVec 32)
  /-- R184: closes that wait for the session to become FREE. -/
  closers : List Nat
  deriving DecidableEq, Repr

/-- A free session entry. -/
def Session.start : Session :=
  { st := .free, tenant := 0, bolt := 0, pattern := 0, aset := 0xFFFF, pin := false, lookup := false, publish := false,
    countPrompt := false, port := 0, number := 0, key := 0, counter := 0, log := [], sealedLen := 0, counts := [], path := [],
    job := none, recomp := false, carry := none, closers := [] }

/-- A page-table entry (R162). FRAME is a DRAM frame, or 2²³ + panel × 256 + SRAM frame with IN_SRAM. -/
structure Pte where
  present : Bool
  dropped : Bool
  tree : Bool
  inSram : Bool
  frame : Nat
  /-- R168: TPP of the range, so that its FIRST_POS outlives a dropped page. -/
  tpp : Nat := 0
  deriving DecidableEq, Repr

/-- An entry never written. -/
def Pte.start : Pte := { present := false, dropped := false, tree := false, inSram := false, frame := 0 }

/-- A KV page: its header (R160) and the bytes of its chunks (R159), with the blocks that carry poison. -/
structure KvPage where
  valid : Nat
  fmt : Nat
  width : Nat
  firstPos : Nat
  session : Nat
  tree : Bool
  tenant : Nat
  layer : Nat
  head : Nat
  writeStep : Word
  mem : Mem
  poison : List Nat
  deriving DecidableEq, Repr

/-- A page that no session has written. -/
def KvPage.start : KvPage :=
  { valid := 0, fmt := 0, width := 0, firstPos := 0, session := 0, tree := false, tenant := 0, layer := 0, head := 0,
    writeStep := 0, mem := [], poison := [] }

/-- A prefix-tree node (R171), held by its number. -/
structure Node where
  hash : Word
  parent : Nat
  children : List Nat
  tokens : List (BitVec 32)
  pages : List Nat
  count : BitVec 16
  sat : Bool
  tpp32 : Nat
  depth : BitVec 32
  tenant : Nat
  pattern : Nat
  aset : Nat
  live : Bool
  deriving DecidableEq, Repr

/-- A node that does not exist. -/
def Node.start : Node :=
  { hash := 0, parent := 0, children := [], tokens := [], pages := [], count := 0, sat := false, tpp32 := 0, depth := 0,
    tenant := 0, pattern := 0, aset := 0, live := false }

/-- The allocator, the translation tables and the prefix tree (R156 to R176). -/
structure Kv where
  /-- R156, R157: the bucket table in force, as (UPPER, SPLITS). Reset: the vendor default of R156. -/
  buckets : List (Nat × Nat)
  /-- R161, R162: page-table entries by session, layer, head and page. Reset: none present. -/
  ptes : Map Pte
  /-- R163: pool frames allocated to KV pages. Reset: none. -/
  used : List Nat
  /-- R163: pinned pool frames of directories, leaf tables, token logs and nodes, as (frame, owner). Reset: none. -/
  tables : List (Nat × Nat)
  /-- R165: DRAM pages in order of their last use, least recent first. Reset: none. -/
  lruDram : List Nat
  /-- R165: SRAM pages in order of their last use, least recent first. Reset: none. -/
  lruSram : List Nat
  /-- R158, R159: KV pages by frame. Reset: none. -/
  pages : Map KvPage
  /-- R171: tree nodes by number, from 1. Reset: none. -/
  nodes : Map Node
  /-- R171: the next node number. Reset: 1. -/
  nextNode : Nat
  /-- R174, R175: retains that hold nodes, as session paths. Reset: none. -/
  retains : List (List Nat)
  /-- R178: KV_STATUS.REBUILDING. Reset: 0. -/
  rebuilding : Bool
  deriving DecidableEq, Repr

/-- An adapter set at rest (R189, R227): its segments by panel, in plaintext. -/
structure AdapterSet where
  tenant : Nat
  set : Nat
  pattern : Nat
  segs : List (Nat × List Byte)
  /-- R201: the binary32 master copy and moments of a tuned set. -/
  master : List (F32 × F32 × F32)
  steps : Nat
  partSet : Bool
  deriving DecidableEq, Repr

/-! ### Bolts, patterns, loads, steps -/

/-- A chunk of a repair copy (R213, R224). -/
structure Chunk where
  idx : Nat
  bytes : List Byte
  lost : Bool
  deriving DecidableEq, Repr

/-- A directory entry (R210). -/
structure DirEntry where
  type : Nat
  align : Bool
  panel : Nat
  number : Nat
  firstChunk : Nat
  bytes : Nat
  deriving DecidableEq, Repr

/-- Where a weight block sits (R218): bolt-relative panel, NUMBER, mode, logical tile and array. -/
structure Place where
  panel : Nat
  number : Nat
  exact : Bool
  tile : Nat
  arr : Nat
  deriving DecidableEq, Repr

/-- A load in progress (R213). -/
structure Load where
  job : Nat
  tenant : Nat
  key : BitVec 256
  header : List Byte
  kind : Nat
  fabric : Bool
  manager : Nat
  autoCommit : Bool
  reload : Bool
  chunks : List Chunk
  dirChunks : Nat
  dir : List DirEntry
  place : List Place
  tier : List (Nat × Nat)
  frames : Nat
  staged : Bool
  committing : Bool
  /-- R216, R234: the bolt's phase before the load. -/
  rest : Nat
  waitArrays : List ArrId
  done : Nat
  commitJob : Option Nat
  deriving DecidableEq, Repr

/-- A panel-table entry (R288). -/
structure PanelEntry where
  codeBase : Nat
  codeBytes : Nat
  batchBase : Nat
  tackBase : Nat
  tackBytes : Nat
  adapterBase : Nat
  kvBase : Nat
  kvFrames : Nat
  ringBase : Nat
  ringBytes : Nat
  entryDecode : Nat
  entryPrefill : Nat
  entryTune : Nat
  entryRecompute : Nat
  imageAt : Nat
  imageBytes : Nat
  deriving DecidableEq, Repr

/-- A flow of the stitch plan with logical panel indices (R295, R296). -/
structure Flow where
  flow : Nat
  src : Nat
  mcast : Bool
  dsts : List Nat
  vc : Nat
  ringOff : Nat
  ringLen : Nat
  deriving DecidableEq, Repr

/-- A link entry of the stitch plan with logical panel indices (R295). -/
structure LinkPlan where
  panel : Nat
  dir : Nat
  stitch : List Nat
  deriving DecidableEq, Repr

/-- An installed pattern (R286 to R302, R530). -/
structure Pattern where
  pattern : Nat
  window : Nat
  rowLimit : Nat
  scratchFrames : Nat
  tackFrames : Nat
  layers : Nat
  slots : Nat
  slotBytes : Nat
  vocab : Nat
  panels : List PanelEntry
  flows : List Flow
  links : List LinkPlan
  attnList : List Nat
  homes : List (List Nat)
  shadows : List (Option Nat)
  plain : List Byte
  /-- R301, R378: the panels' initial images as relocated, by bolt-relative panel. -/
  images : List (List Byte)
  digest : BitVec 512
  deriving DecidableEq, Repr

/-- Marks of an SRAM line (R101, R120, R256, R379), the masked-row flag of an attention output block among them (R150). -/
structure LineMark where
  poison : Bool
  sat : Bool
  uncal : Bool
  masked : Bool := false
  deriving DecidableEq, Repr

/-- A line with no mark. -/
def LineMark.clean : LineMark := { poison := false, sat := false, uncal := false }

/-- A tack (R273): where it came from, its bytes and its store. -/
structure Tack where
  panel : Nat
  addr : Nat
  bytes : List Byte
  marks : List LineMark
  dram : Bool
  /-- Where it stands in the panel's tack region, for DIR 0. -/
  place : Nat := 0
  deriving DecidableEq, Repr

/-- A norm-watch sample held by a panel (R106). -/
structure NormSample where
  layer : Nat
  grad : Bool
  step : Word
  r : F32
  deriving DecidableEq, Repr

/-- A step that the lead has formed (R237, R242, R370). -/
structure Step where
  seq : Word
  kind : Nat
  rows : List BatchRow
  gen : BitVec 32
  /-- R237: panels that have not yet received the batch table. -/
  toSend : List Nat
  /-- R242: panels that have reported their part complete. -/
  reported : List Nat
  /-- R242: swatches that cover the step and have not passed. -/
  swatches : List Nat
  /-- R107: norm-watch samples that hold the seal. -/
  norms : List (Nat × Nat)
  /-- R372: recalls of this step that have been asked for and have not begun; a failed swatch's request stands with the swatch. -/
  asked : List RecallCause
  /-- R106: samples entered, as (panel, layer + 256 × space). -/
  entered : List (Nat × Nat)
  /-- R370: this rank has reported its sealed part. -/
  partSealed : Bool
  /-- R370: ranks that have reported. -/
  ranks : List Nat
  sealed : Bool
  /-- R273: its tacks. -/
  tacks : List Tack
  /-- R153: pages written, with TOKENS_VALID at the step's start. -/
  kvUndo : List (Nat × Nat)
  /-- R198: count tables of the step's sessions before it. -/
  countUndo : List (Nat × List (BitVec 32 × BitVec 16))
  /-- R203: sessions whose rows are discarded. -/
  dead : List Nat
  /-- R189: adapter sets it waits for. -/
  sets : List (Nat × Nat)
  /-- R201: a tuning step's gradient elements per adapter element. -/
  grads : List F32
  /-- R189: the batch table slot that the step keeps while it waits for adapter sets; none once its table has been sent. -/
  held : Option Nat := none
  deriving DecidableEq, Repr

/-- An adapter slot of a bolt (R188, R189). -/
structure AdSlot where
  st : Nat
  tenant : Nat
  set : Nat
  lastUse : Nat
  /-- R201: the set has been tuned since the slot was loaded. -/
  stale : Bool := false
  deriving DecidableEq, Repr

/-- An empty slot: state 0 free, 1 LOADING, 2 RESIDENT. -/
def AdSlot.start : AdSlot := { st := 0, tenant := 0, set := 0, lastUse := 0 }

/-- A checker array's assignment (R361). -/
structure Checker where
  arr : ArrId
  panel : Nat
  number : Nat
  ready : Bool
  deriving DecidableEq, Repr

/-- A recall in progress (R372). -/
structure Recall where
  step : Word
  waiting : List Nat
  replay : Bool
  verdicts : List Nat
  /-- R168: sessions under recomputation, each with the next position to form and the span's end; (0, 0) before its first. -/
  recompute : List (Nat × Nat × Nat)
  layer : Option Nat
  deriving DecidableEq, Repr

/-- A bolt (R28, R213, R369, R440). -/
structure Bolt where
  cols : Nat
  rows : Nat
  port : Nat
  /-- R234: phase, 0 NONE to 6 FAILED. -/
  phase : Nat
  tenant : Nat
  /-- R286: PATTERN of the resident weight image. -/
  weights : Option Nat
  /-- R402: SHA-512 of the resident image. -/
  digest : BitVec 512
  /-- R402: change count, 32 bits. -/
  changes : BitVec 32
  load : Option Load
  /-- R223: the repair copy. -/
  copy : List Chunk
  dir : List DirEntry
  place : List Place
  tier : List (Nat × Nat)
  copyFrames : Nat
  patFrames : Nat
  nonce : Word
  arraysDone : Nat
  pat : Option Pattern
  /-- R247: the scratch area. -/
  scratch : Mem
  /-- R247, R410: the tenant, plus one, under whose key slot a 64-byte scratch line was last written; 0 for none. -/
  scratchKey : Map Nat
  /-- R237: the next step sequence number. -/
  nextStep : Word
  /-- R371: recall generation, 32 bits. -/
  gen : BitVec 32
  steps : List Step
  slots : Map AdSlot
  checkers : List Checker
  lastRotate : Nat
  /-- R389: the ROTATE, in seconds, that the present rotation began with. -/
  rotateSec : Nat
  recalling : Option Recall
  /-- R369: this module's rank in the bolt's span, and the span's size. -/
  rank : Nat
  ranks : Nat
  /-- R431: step formation is stopped (a drain or an orderly stop). -/
  stopped : Bool
  /-- R189: sets asked for and not resident. -/
  wanted : List (Nat × Nat)
  /-- R411: arrays whose zeroisation an unload or commit waits for. -/
  zeroWait : List ArrId
  /-- R411: the unload's job. -/
  unloadJob : Option Nat
  /-- R158, R172: TPP of the pattern's sessions, 0 until a row of one has been written. -/
  tpp : Nat
  deriving DecidableEq, Repr

/-! ### Panels -/

/-- An issued instruction that is not yet complete (R245). -/
structure Cmd where
  id : Nat
  u : UnitId
  /-- R278: its fence class, 9 for none. -/
  cls : Nat
  opcode : Nat
  /-- R280: the address of its instruction. -/
  pc : BitVec 24
  /-- R250: weight blocks that still have work, or registers, rows or flits that are outstanding. -/
  left : Nat
  deriving DecidableEq, Repr

/-- What a context waits for (R272, R275, R278). -/
inductive Wait where
  | none
  | fence (mask : Nat)
  | recv (flow addr len got : Nat)
  | sealw
  | ended
  | stopped
  deriving DecidableEq, Repr

/-- A context (R239, R240). -/
structure Ctx where
  /-- R239: batch table slot. -/
  slot : Nat
  /-- R238: step sequence number. -/
  step : Word
  /-- R239: program counter, 24 bits. -/
  pc : BitVec 24
  /-- R239: general registers g1 to g15; g0 reads as zero. -/
  g : Map Word
  /-- R240: loads whose results are to come, as (register, value, poisoned). -/
  loads : List (Nat × Word × Bool)
  /-- R279: registers that calls will write. -/
  calls : List Nat
  wait : Wait
  /-- R37, R299: the time beyond which its wait is a stall. -/
  since : Nat
  stalled : Bool
  cmds : List Cmd
  /-- R275: SEALW has reported the panel's part. -/
  reported : Bool
  /-- R275: the context runs its sealed tail. -/
  tail : Bool
  /-- R291: the layer whose exact-mode variant this replay runs. -/
  shadow : Option Nat
  tackCount : Nat
  tackSram : Nat
  tackDram : Nat
  deriving DecidableEq, Repr

/-- A contribution to a reduction register (R96, R98, R254): its order is rank, panel, tile, array. -/
structure Contrib where
  reg : Nat
  rank : Nat
  panel : Nat
  tile : Nat
  arr : Nat
  lanes : List Int
  ew : Int
  satConv : Bool
  satAcc : Bool
  satIn : Bool
  uncal : Bool
  poison : Bool
  zero : Bool
  cmd : Nat
  step : Word
  gen : BitVec 32
  swatch : Option Nat
  deriving DecidableEq, Repr

/-- An open reduction register (R97, R255). -/
structure RedReg where
  isOpen : Bool
  contrib : Nat
  dst : Nat
  scale : Option Nat
  layer : Nat
  /-- R255: the norm-watch sample that the instruction's registers form: DST, DST_STRIDE and COUNT. -/
  nw : Option (Nat × Nat × Nat)
  pol : Nat
  step : Word
  cmd : Nat
  held : List Contrib
  deriving DecidableEq, Repr

/-- A closed register. -/
def RedReg.start : RedReg :=
  { isOpen := false, contrib := 0, dst := 0, scale := none, layer := 0, nw := none, pol := 0, step := 0, cmd := 0, held := [] }

/-- An evaluation command as one array meets it (R248 to R250). -/
structure EvalJob where
  cmd : Nat
  ctx : Nat
  step : Word
  gen : BitVec 32
  /-- 0 EVALD, 1 EVALX, 2 EVALT. -/
  mode : Nat
  number : Nat
  inFmt : Nat
  s2 : Bool
  p : Nat
  rs : Nat
  pol : Nat
  edge : Bool
  layer : Nat
  inAddr : Nat
  inStride : Nat
  /-- R249: first input block of the vector that feeds this block. -/
  inBlock : Nat
  /-- R249: output register of the block's first output block for vector 0. -/
  outReg : Nat
  outStride : Nat
  firstPleat : Nat
  lastPleat : Nat
  finalPleat : Nat
  n : Nat
  /-- The vector, pleat and phase to run next. -/
  v : Nat
  k : Nat
  phase : Nat
  deriving DecidableEq, Repr

/-- The aligned inputs of a pleat as the hem finds them in the input blocks that the pleat touches (R86 to R89). -/
structure PleatIn where
  a : List Int
  ep : Int
  zero : Bool
  /-- R89: how many of the blocks are invalid. -/
  invalid : Nat
  poison : Bool
  uncal : Bool
  sat : Bool
  violation : Bool
  deriving DecidableEq, Repr

/-- One step's results on their way to the bobbin (R93). -/
structure HemRes where
  xs : List Int
  ep : Int
  zero : Bool
  firstPhase : Bool
  flags : List Bool
  /-- R53, R59, R89: poison per output block. -/
  poison : List Bool
  uncal : Bool
  /-- The inputs carried a saturation mark that an earlier layer kept. -/
  satIn : Bool
  /-- R366: conversions that fed a lane, as the sum of squares of their weights at 2^ep. -/
  weight : Nat
  /-- R94: the result ends its block's selection, and its block. -/
  endSel : Bool
  last : Bool
  job : EvalJob
  /-- R364: the digits forwarded to a checker. -/
  inputs : List Int
  deriving DecidableEq, Repr

/-- A bobbin lane (R95). -/
structure Lane where
  n : Int
  w : Int
  wsat : Bool
  /-- R96: OR of its results' flags and poison. -/
  flag : Bool
  poison : Bool
  deriving DecidableEq, Repr

/-- A cleared lane. -/
def Lane.start : Lane := { n := 0, w := 0, wsat := false, flag := false, poison := false }

/-- The hem and bobbin behind one logical array (R45, R93 to R96, R250, R254). -/
structure HemArr where
  jobs : List EvalJob
  results : List HemRes
  lanes : List Lane
  er : Int
  ew : Int
  wempty : Bool
  np : Nat
  /-- R94: a run is in progress. -/
  run : Bool
  /-- R254: every result since the lanes were cleared was marked zero. -/
  allZero : Bool
  uncal : Bool
  satIn : Bool
  /-- R250: the EVAL that left the lanes holding, with the last pleat evaluated. -/
  holding : Option EvalJob
  /-- R364: the results that fed the lanes, kept for a swatch. -/
  fed : List HemRes
  /-- R59: output blocks of the exact pleat in hand that hold a weight with a failing column. -/
  bad : List Bool
  /-- R58, R59: EXACT_OK when the exact pleat in hand began. -/
  pleatOk : Bool
  /-- R44: the pleat's digits in the tile input buffer, with the input-buffer lines that they hold (R31). -/
  buf : Option (PleatIn × Nat)
  /-- R57: the sums of the exact pleat in hand, formed from its counts, by weight. -/
  acc : List Int
  /-- R46: programming has failed behind the step that waits: it is released with its outputs poisoned. -/
  released : Bool
  deriving DecidableEq, Repr

/-- An idle array. -/
def HemArr.start : HemArr :=
  { jobs := [], results := [], lanes := [], er := 0, ew := 0, wempty := true, np := 0, run := false, allZero := true,
    uncal := false, satIn := false, holding := none, fed := [], bad := [], pleatOk := false, buf := none, acc := [],
    released := false }

/-- What one chunk gives a query row's backward pass (R155): the addends of dq, and the key and value contributions by position. -/
structure BackPart where
  dq : List F32
  adds : List (Nat × List F32 × List F32)
  deriving DecidableEq, Repr

/-- What a backward pass knows of its query row beside the forward pass's inputs (R155). -/
structure BackIn where
  dout : List F32
  lse : F32
  dd : F32
  deriving DecidableEq, Repr

/-- A backward pass of one query row at its home panel: the segments it waits for, those that came early, and dq (R155). -/
structure BackRow where
  row : Nat
  head : Nat
  session : Nat
  segs : Nat
  next : Nat
  dq : List F32
  held : List (Nat × Bool × List BackPart)
  out : Nat
  mark : LineMark
  deriving DecidableEq, Repr

/-- An ATTB in progress at the panel that issued it: its rows in the order in which they add (R155). -/
structure BackJob where
  cmd : Nat
  ctx : Nat
  step : Word
  d : Nat
  dk : Nat
  dv : Nat
  rows : List BackRow
  deriving DecidableEq, Repr

/-- A fold in progress for one query row (R148). -/
structure AttRow where
  row : Nat
  head : Nat
  session : Nat
  pos : Nat
  segs : Nat
  next : Nat
  m : F32
  l : F32
  o : List F32
  held : List (Nat × F32 × F32 × List F32)
  out : Nat
  lse : Option Nat
  mark : LineMark
  /-- R150: some segment had a live key. -/
  live : Bool
  deriving DecidableEq, Repr

/-- An ATTN in progress at its home panel (R147, R148). -/
structure AttJob where
  cmd : Nat
  ctx : Nat
  step : Word
  layer : Nat
  kvHead : Nat
  d : Nat
  rows : List AttRow
  deriving DecidableEq, Repr

/-- A run of segments of one query row, for the unit that computes it (R147, R269); a backward pass brings its own inputs (R155). -/
structure RemoteJob where
  home : Nat
  cmd : Nat
  step : Word
  gen : BitVec 32
  row : Nat
  head : Nat
  session : Nat
  pos : Nat
  layer : Nat
  kvHead : Nat
  fmt : Nat
  d : Nat
  window : Nat
  bitmap : Option (List Byte)
  scale : F32
  q : List F32
  first : Nat
  count : Nat
  back : Option BackIn := none
  deriving DecidableEq, Repr

/-- A segment's partial on its way home (R149), or what a backward pass returns of a segment, chunk by chunk (R155). -/
structure PartMsg where
  cmd : Nat
  step : Word
  gen : BitVec 32
  row : Nat
  head : Nat
  seg : Nat
  m : F32
  l : F32
  o : List F32
  poison : Bool
  live : Bool := true
  back : Option (List BackPart) := none
  deriving DecidableEq, Repr

/-- What a flit brings: 64 bytes of a flow's message (R298), the last flit of a partial on its way home (R149) or of a run sent to a
remote unit (R269), an earlier flit of either, or a call to Jobel that an SRAM line is poisoned (R315, R327, R381). -/
inductive FlitLoad where
  | flow
  | part (x : PartMsg)
  | run (rs : List RemoteJob)
  | body
  | rewrite (panel line : Nat)
  deriving DecidableEq, Repr

/-- A mesh flit (R271, R298, R314): 64 bytes of a message, with its step, generation and marks, and the command that sent it; a call to
Jobel that has met a router that forwards nothing takes the row first (R327). -/
structure MFlit where
  cmd : Nat
  flow : Nat
  vc : Nat
  src : Nat
  dsts : List Nat
  data : List Byte
  last : Bool
  msgLen : Nat
  mark : LineMark
  step : Word
  gen : BitVec 32
  tenant : Nat
  load : FlitLoad := .flow
  rowFirst : Bool := false
  deriving DecidableEq, Repr

/-- A flit waiting in a router for an output (R316): direction 0 east, 1 north, 2 west, 3 south, 4 local. -/
structure QFlit where
  out : Nat
  inp : Nat
  flit : MFlit
  deriving DecidableEq, Repr

/-- A candidate list at the lead sampler (R197, R276). -/
structure CandMsg where
  step : Word
  row : Nat
  panel : Nat
  cands : List (BitVec 32 × F32)
  poison : Bool
  sat : Bool
  uncal : Bool
  deriving DecidableEq, Repr

/-- An SMERGE in progress (R277). -/
structure MergeJob where
  cmd : Nat
  ctx : Nat
  step : Word
  aux : Nat
  dst : Nat
  rows : List (Nat × Nat)
  deriving DecidableEq, Repr

/-- A call in the panel core's queue (R279). -/
structure CallRec where
  ctx : Nat
  step : Word
  fn : Nat
  arg : Word
  gd : Nat
  cmd : Nat
  deriving DecidableEq, Repr

/-- A posted receive buffer (R341). -/
structure RxBuf where
  flow : Nat
  addr : Nat
  len : Nat
  deriving DecidableEq, Repr

/-- A tile's calibration (R119 to R126). -/
structure TileCal where
  /-- R119, R135: CAL_TEMP, 1/64 °C. Reset: DESIGN CHOICE 0, log entry 10 (the diode at the start's run). -/
  temp : Int
  /-- R125, R136: GEN, 32 bits. Reset: 0 (start Z). -/
  gen : BitVec 32
  /-- R136: REFRESHES, 16 bits. Reset: 0 (start Z). -/
  refreshes : BitVec 16
  /-- R136: RETIRED, 8 bits. Reset: 0 (start Z). -/
  retired : BitVec 8
  /-- R120: STALE. Reset: 0. -/
  stale : Bool
  /-- R122: 0 idle, 5 stopping (step 2), 1 measuring (steps 3 and 4), 2 fitting (5 and 6), 3 fit ready. Reset: 0. -/
  stage : Nat
  /-- R124: a pending request: 0 none, 1 temperature, 2 residual, 3 programming, 4 command, 5 override. Reset: 0. -/
  pending : Nat
  /-- R122: time of the last automatic run. Reset: none. -/
  lastAuto : Option Nat
  /-- R122: the arrays measured by the run in progress: the others were PROGRAMMING or RETIRED at step 3, or have been programmed
  since. Reset: none. -/
  measured : List Nat
  /-- R122: the fitted values in shadow storage, as (array, F in mLSB, worst count error in 1/1000 counts). Reset: none. -/
  shadow : List (Nat × Nat × Nat)
  /-- R117, R122: the row converters' fits in shadow storage, as (array, F in mLSB, G in parts per million). Reset: none. -/
  shadowT : List (Nat × Nat × Int)
  /-- R115: times at which programming runs become due. Reset: none. -/
  due : List Nat
  /-- R119, R130: what has been judged of the triggers that hold: 1, 2 and 3 for a temperature, residual or programming trigger
  whose clamp has been counted, 5 and 6 for a temperature or residual override that has begun. Reset: none. -/
  clamped : List Nat
  /-- R116: F and G of each array of the physical tile, as (array, F in mLSB, G in parts per million). Reset: DESIGN CHOICE none,
  log entry 10. -/
  quality : List (Nat × Nat × Int)
  /-- R117: the same of the row converters' fits. Reset: none. -/
  qualityT : List (Nat × Nat × Int)
  deriving DecidableEq, Repr

/-- A tile that no run has touched. -/
def TileCal.start : TileCal :=
  { temp := 0, gen := 0, refreshes := 0, retired := 0, stale := false, stage := 0, pending := 0, lastAuto := none,
    measured := [], shadow := [], shadowT := [], due := [], clamped := [], quality := [], qualityT := [] }

/-- A gauge window of an array (R66): readings taken, with the sums of the expected values (R116), the sums and the sums of
squares of the residuals of the four gauges, and the record latched last. -/
structure Gauge where
  count : List Nat
  ex : List Int
  sum : List Int
  sq : List Nat
  record : Option (List GaugeSum)
  baseline : Option (List GaugeSum)
  deriving DecidableEq, Repr

/-- An empty window. -/
def Gauge.start : Gauge :=
  { count := [0, 0, 0, 0], ex := [0, 0, 0, 0], sum := [0, 0, 0, 0], sq := [0, 0, 0, 0], record := none, baseline := none }

/-- A panel in its logical position (R236 to R283, R304, R412). -/
structure Panel where
  /-- R284, R285: panel SRAM, 16 MiB by byte. Reset: zero. -/
  sram : Mem
  /-- R412: 14-bit tags by line. Reset: FREE. -/
  tags : Map (BitVec 14)
  /-- R379: marks by line. Reset: none. -/
  marks : Map LineMark
  /-- R239: contexts. Reset: none. -/
  ctxs : List Ctx
  /-- R245: the number of the next issued command. Reset: 0. -/
  nextCmd : Nat
  /-- R97, R256: reduction registers. Reset: closed. -/
  regs : Map RedReg
  /-- R98: contributions that have not reached their registers. Reset: none. -/
  drains : List Contrib
  /-- R31, R96: contributions that wait in their bobbins for a reduction credit, in order. Reset: none. -/
  bobbinOut : List Contrib
  /-- R106: samples held. Reset: none. -/
  samples : List NormSample
  /-- R45, R93: hems and bobbins by tile × 32 + array. Reset: idle. -/
  hems : Map HemArr
  /-- R106: estimates m and cnt by layer + 256 × space. Reset: 0. -/
  est : Map (F32 × BitVec 16)
  /-- R111: NW_LAST, 64 bits. Reset: 0 (start Z). -/
  nwLast : Word
  /-- R111: NW_LAST_STEP, 64 bits. Reset: 0 (start Z). -/
  nwLastStep : Word
  /-- R111: NW_LAST holds an unread jump. Reset: no. -/
  nwHeld : Bool
  /-- R282: SEQ_FAULT, 64 bits. Reset: 0 (start Z). -/
  seqFault : Word
  /-- R282: SEQ_FAULT_STEP, 64 bits. Reset: 0 (start Z). -/
  seqFaultStep : Word
  /-- R282: SEQ_FAULT holds an unread fault. Reset: no. -/
  seqHeld : Bool
  /-- R164: the attention unit's translation cache, at most 256, most recent first. Reset: empty. -/
  xlate : List Nat
  /-- R268: attention commands in progress. Reset: none. -/
  att : List AttJob
  /-- R155, R270: backward passes in progress. Reset: none. -/
  attb : List BackJob
  /-- R169: the source count of ATT_POISON. Reset: 0 (log entry 229). -/
  attPoisons : Nat
  /-- R145, R269: runs received for other panels, a session's rows of one instruction together. Reset: none. -/
  remote : List (List RemoteJob)
  /-- R149: partials that have reached this home panel. Reset: none. -/
  parts : List PartMsg
  /-- R276: candidates at this panel's sampler. Reset: none. -/
  cands : List CandMsg
  /-- R277: merges in progress. Reset: none. -/
  merges : List MergeJob
  /-- R279: the core's call queue. Reset: none. -/
  calls : List CallRec
  /-- R316: the router's waiting flits. Reset: none. -/
  router : List QFlit
  /-- R298: flow rings, in arrival order. Reset: empty. -/
  rings : List MFlit
  /-- R272: messages whose bytes are discarded as they arrive, by flow, source and the source's command. Reset: none. -/
  unwanted : List (Nat × Nat × Nat)
  /-- R292: stitch counters of the router's four outgoing links. Reset: 0. -/
  stitch : Map Nat
  /-- R316: round-robin pointers of the links: last VC and last input port by link. Reset: 0. -/
  rr : Map Nat
  /-- R341: posted receive buffers. Reset: none. -/
  rxBufs : List RxBuf
  /-- R341: fabric messages that wait for a buffer. Reset: none. -/
  rxWait : List FabMsg
  /-- R363: the sampling generator's position. Reset: DESIGN CHOICE 0, log entry 11 (seeded by Jobel). -/
  swatchGen : Nat
  /-- R237, R239: batch tables that have arrived and wait for a context. Reset: none. -/
  batches : List (Nat × Batch × BitVec 32)
  /-- R372: a recall to act on, as (bolt, step, generation). Reset: none. -/
  recalling : Option (Nat × Word × BitVec 32)
  deriving DecidableEq, Repr

/-- A panel right after a start. -/
def Panel.start : Panel :=
  { sram := [], tags := [], marks := [], ctxs := [], nextCmd := 0, regs := [], drains := [], bobbinOut := [], samples := [], hems := [],
    est := [], nwLast := 0, nwLastStep := 0, nwHeld := false, seqFault := 0, seqFaultStep := 0, seqHeld := false, xlate := [],
    att := [], attb := [], attPoisons := 0, remote := [], parts := [], cands := [], merges := [], calls := [], router := [], rings := [], unwanted := [], stitch := [],
    rr := [], rxBufs := [], rxWait := [], swatchGen := 0, batches := [], recalling := none }

/-! ### Arrays and programming -/

/-- The states of a physical array (R46, R67, R72, R75, R415). -/
inductive ArrSt where
  | zeroised | programming | programmed | unusable | retired | zeroisePending
  deriving DecidableEq, Repr

/-- A physical array (R39, R67 to R75). -/
structure Arr where
  /-- R75: state. Reset: ZEROISED (R527). -/
  st : ArrSt
  /-- R75: exact mode. Reset: no. -/
  exact : Bool
  /-- R58: EXACT_OK. Reset: 0. -/
  exactOk : Bool
  /-- R38, R55, R211: the block whose levels the data cells hold, row-major 4-bit weights. Reset: none (level 0). -/
  image : List Byte
  /-- R415: the pattern tenant for whom the levels were written. Reset: none. -/
  holder : Option Nat
  /-- R70: the request being served. Reset: none. -/
  req : Option ProgReq
  /-- R67: quarters staged. Reset: 0. -/
  quarter : Nat
  /-- R68: rows written. Reset: 0. -/
  row : Nat
  /-- R68: round of the row in hand, 0 to 16. Reset: 0. -/
  round : Nat
  /-- R68: verify readings of the row in hand, in 1/1000 ΔG. Reset: none. -/
  cells : List Int
  /-- R68: the set voltage of the row in hand, mV. Reset: 1,100. -/
  setMv : Nat
  /-- R68: the magnitude of the reset voltage of the row in hand, mV. Reset: 1,200. -/
  rstMv : Nat
  /-- R68: the pulses of the last round, as (cell, mV): a set pulse positive, a reset pulse negative. Reset: none. -/
  pulses : List (Nat × Int)
  /-- R69: cells left between the window and 0.50 ΔG, and beyond it. Reset: 0. -/
  near : Nat
  far : Nat
  /-- R69: a quarter's margin test has failed. Reset: no. -/
  marginBad : Bool
  /-- R67, R116: residuals of the margin tests so far, as the sum of their squares in mLSB² and their number. Reset: 0. -/
  marginSq : Nat
  marginN : Nat
  /-- R116: F_acc, mLSB. Reset: 0. -/
  fAcc : Nat
  /-- R114: the diode reading at which the corrections in force were taken, 1/64 °C. Reset: 0. -/
  corrTemp : Int
  /-- R127, R360: the weight block that the levels are of, as (bolt, panel, NUMBER). Reset: none. -/
  src : Option (Nat × Nat × Nat)
  /-- R528: since when it holds its share. Reset: 0. -/
  since : Nat
  /-- R66: its gauges. -/
  gauge : Gauge
  /-- R129: refreshed since its tile's last calibration run. Reset: no. -/
  refreshed : Bool
  /-- R129: retired: a zeroisation leads back to RETIRED. Reset: no. -/
  spent : Bool
  deriving DecidableEq, Repr

/-- An array as shipped (R527). -/
def Arr.start : Arr :=
  { st := .zeroised, exact := false, exactOk := false, image := [], holder := none, req := none, quarter := 0, row := 0,
    round := 0, cells := [], setMv := 1100, rstMv := 1200, pulses := [], near := 0, far := 0, marginBad := false, marginSq := 0,
    marginN := 0, fAcc := 0, corrTemp := 0, src := none, since := 0, gauge := Gauge.start, refreshed := false, spent := false }

/-- The arrays, their positions and the programming controller (R26, R67 to R75). -/
structure Arrays where
  /-- R39: physical arrays by (panel × 25 + tile) × 34 + array. Reset: as shipped. -/
  arrs : Map Arr
  /-- R22: the physical panel behind a logical one, when not the one of the floorplan. Reset: none. -/
  panelOf : Map (Option Nat)
  /-- R26: the physical tile behind physical panel × 24 + logical tile, when not its own number. Reset: none. -/
  tileOf : Map (Option Nat)
  /-- R26: the physical array behind (physical panel × 25 + physical tile) × 32 + logical array, when not its own number.
  Reset: none. -/
  arrOf : Map (Option Nat)
  /-- R27: logical positions that are FAILED. Reset: none. -/
  failedPos : List Nat
  /-- R70: requests waiting for admission, in order. Reset: none. -/
  waiting : List ProgReq
  /-- R115 to R136: calibration by physical panel × 25 + physical tile. Reset: idle. -/
  cal : Map TileCal
  /-- R121, R134: TEMP_FALLBACK. Reset: 0. -/
  fallback : Bool
  /-- R121: time of the last fallback run. Reset: none. -/
  lastFallback : Option Nat
  /-- R134: the latest diode reading the loop took, 1/64 °C. Reset: DESIGN CHOICE 0, log entry 10. -/
  diode : Int
  deriving DecidableEq, Repr

/-! ### Containment -/

/-- A swatch in flight (R363 to R367). -/
structure Swatch where
  id : Nat
  bolt : Nat
  step : Word
  panel : Nat
  tile : Nat
  arr : Nat
  number : Nat
  checker : ArrId
  mode : Nat
  rs : Nat
  /-- R366, R389: TOL as the swatch began. -/
  tol : Nat
  job : EvalJob
  inputs : List HemRes
  lanes : List Lane
  ew : Int
  /-- R372: judged as failed and waiting for its referee, with the checker's result. -/
  failed : Bool
  checkLanes : List Lane
  checkEw : Int
  referee : Option ArrId
  deriving DecidableEq, Repr

/-- Containment (R360 to R390). -/
structure Ras where
  /-- R364: swatches in flight or awaiting a verdict. Reset: none. -/
  swatches : List Swatch
  /-- R364: the next swatch's number. Reset: 0. -/
  nextSwatch : Nat
  /-- R377: faults since start, as (time, panel, tile, array). Reset: none. -/
  faults : List (Nat × Nat × Nat × Nat)
  /-- R377: repairs begun and not complete. Reset: none. -/
  repairs : List (RepairUnit × Nat)
  /-- R384: Jobel's mirror of the state generations by page. Reset: 0. -/
  mirror : Map (BitVec 32)
  /-- R387: failure signatures, at most 1,024, oldest first. Reset: none. -/
  sigs : List Sig
  /-- R390: SIG_STATUS.LOST. Reset: 0 (start Z). -/
  lost : Bool
  /-- R385: unanswered management reads by page. Reset: none. -/
  unanswered : Map Nat
  /-- R381: poisoned pattern lines that Jobel is to rewrite, as (panel, line). Reset: none. -/
  rewrites : List (Nat × Nat)
  /-- R224: (bolt, chunk) pairs of repair copies that are lost. Reset: none. -/
  lostChunks : List (Nat × Nat)
  /-- R385: data-path progress of blocks since their first unanswered read, by page. Reset: none. -/
  progress : Map Nat
  deriving DecidableEq, Repr

/-! ### Networks -/

/-- A request at an arbiter (R306). -/
structure ArbReq where
  who : Nat
  class0 : Bool
  items : Nat
  progress : Nat
  arrived : Nat
  hint : BitVec 6
  deriving DecidableEq, Repr

/-- An arbiter (R306 to R313). -/
structure Arbiter where
  /-- R306: waiting requests in arrival order. Reset: none. -/
  waiting : List ArbReq
  /-- R306: the holder, with the items of its tenure and the time of its last item. Reset: none. -/
  holder : Option (ArbReq × Nat × Nat)
  /-- R308: index of the last class-1 holder. Reset: DESIGN CHOICE none, so that the lowest index is next, log entry 12. -/
  pointer : Option Nat
  /-- R313: fenced requesters. Reset: none. -/
  fenced : List Nat
  /-- R306: the count of arrivals. Reset: 0. -/
  arrivals : Nat
  deriving DecidableEq, Repr

/-- An idle arbiter. -/
def Arbiter.start : Arbiter := { waiting := [], holder := none, pointer := none, fenced := [], arrivals := 0 }

/-- One half's seam lanes in its sending direction (R322, R324). -/
structure SeamHalf where
  /-- R324: LANES_UP, 15 bits. Reset: all up. -/
  lanesUp : BitVec 15
  /-- R324: SPARES_FREE, 5 bits. Reset: 17. -/
  spares : Nat
  /-- R324: times of the parity mismatches of each lane. Reset: none. -/
  errors : Map (List Nat)
  deriving DecidableEq, Repr

/-- Credits, arbiters and the seam (R31 to R37, R304 to R332). -/
structure Net where
  /-- R31: items sent and not yet returned, by queue. Reset: 0 (every sender holds its full depth). -/
  usedCredits : Map Nat
  /-- R36, R37: the time beyond which a sender's wait on a queue is a stall, by queue. Reset: none. -/
  waits : Map (Option Nat)
  /-- R36: a stall has been raised for the present wait. Reset: no. -/
  stalls : Map Bool
  /-- R21, R326: bolt tags by physical router; 0x3F for none. Reset: 0x3F. -/
  tags : Map Nat
  /-- R306: arbiters. Reset: idle. -/
  arbs : Map Arbiter
  /-- R324: the west half's lanes. Reset: all up. -/
  seam0 : SeamHalf
  /-- R324: the east half's lanes. Reset: all up. -/
  seam1 : SeamHalf
  deriving DecidableEq, Repr

/-! ### Kwath fabric -/

/-- A Kwath lane (R132, R334). -/
structure KwLane where
  /-- R334: the lane is up. Reset: DESIGN CHOICE down (role OFF, R334), log entry 13. -/
  up : Bool
  /-- R334: times of its uncorrectable codewords. Reset: none. -/
  errors : List Nat
  /-- R334: time of its last retraining attempt. Reset: none. -/
  lastTry : Option Nat
  /-- R135: WIDTH, 16 bits. Reset: 0 (start Z). -/
  eye : Nat
  /-- R135: MIN_WIDTH, 16 bits. Reset: 0 (start Z). -/
  eyeMin : Nat
  /-- R135: MIN_WIDTH holds a sampled width. Reset: no. -/
  sampled : Bool
  /-- R135: RETUNES, 16 bits. Reset: 0 (start Z). -/
  retunes : BitVec 16
  /-- R132: EYE_LOW has been raised and the width has not recovered. Reset: no. -/
  eyeLow : Bool
  deriving DecidableEq, Repr

/-- A lane right after a start with role OFF. -/
def KwLane.start : KwLane :=
  { up := false, errors := [], lastTry := none, eye := 0, eyeMin := 0, sampled := false, retunes := 0, eyeLow := false }

/-- A message whose flits wait to leave a port, in order, under the link's credits (R337): how many are left, tag flits among them. -/
structure KwTx where
  dst : Nat
  vc : Nat
  seq : BitVec 32
  data : List Byte
  left : Nat
  deriving DecidableEq, Repr

/-- A Kwath port (R333 to R343, R356). -/
structure KwPort where
  /-- R337: the next LSEQ expected. Reset: 0. -/
  rxSeq : BitVec 16
  /-- R354, R356: the LSEQ of the first flit of the packet being received. Reset: 0. -/
  pktFirst : BitVec 16
  /-- R337: flits received ahead of order. Reset: none. -/
  rxHeld : List KwFlit
  /-- R338: a replay has been asked for and not yet answered. Reset: no. -/
  asking : Bool
  /-- R338: the next LSEQ to send; the last 2,048 before it are held. Reset: 0. -/
  txSeq : BitVec 16
  /-- R338: flits sent so far, to bound what is held. Reset: 0. -/
  txCount : Nat
  /-- R356: times of the tag failures. Reset: none. -/
  authTimes : List Nat
  /-- R356: modules fenced on this plane. Reset: none. -/
  fenced : List Nat
  /-- R358: ADDR_SEEN, 6 bits. Reset: 0. -/
  addrSeen : Nat
  /-- R358: ADDR_MISMATCH. Reset: 0. -/
  mismatch : Bool
  /-- R355: epochs seen from each sender. Reset: none. -/
  epochs : List (Nat × BitVec 8)
  /-- R337: messages whose flits have still to leave. Reset: none. -/
  txQueue : List KwTx
  deriving DecidableEq, Repr

/-- A port right after a start. -/
def KwPort.start : KwPort :=
  { rxSeq := 0, pktFirst := 0, rxHeld := [], asking := false, txSeq := 0, txCount := 0, authTimes := [], fenced := [], addrSeen := 0,
    mismatch := false, epochs := [], txQueue := [] }

/-- A message sent and not acknowledged (R340). -/
structure TxMsg where
  dst : Nat
  vc : Nat
  seq : BitVec 32
  plane : Nat
  half : Nat
  data : List Byte
  deriving DecidableEq, Repr

/-- A broadcast that this manager runs (R229, R230). -/
structure Bcast where
  bolt : Nat
  chunks : Nat
  workers : List Nat
  reports : List (Nat × List Nat)
  /-- R229: when the wait for the reports ends; none before the last chunk has been sent. -/
  waitEnd : Option Nat
  chain : List Nat
  /-- R230: the chunks that the chain needs, and those of them not yet sent to its first worker. -/
  again : List Nat
  resend : List Nat
  /-- R229: chunks sent to the group, in ascending index. -/
  sent : Nat
  deriving DecidableEq, Repr

/-- What a worker of a fall-back chain forwards (R230, R231): the workers after it, and the chunks that it has sent on. -/
structure Relay where
  bolt : Nat
  next : List Nat
  sent : List (Nat × Sealed)
  deriving DecidableEq, Repr

/-- The fabric (R333 to R359). -/
structure Fabric where
  /-- R358: FAB_STATUS.STATE, 3 bits. Reset: 0 DARK (role OFF). -/
  st : Nat
  /-- R358: ADDR, 6 bits. Reset: 0. -/
  addr : Nat
  /-- R334, R357: the role in force, from ROLE at the last start. Reset: 0. -/
  roleInForce : Nat
  /-- R358: ACTIVE_ROLE, 2 bits. Reset: 0. -/
  role : Nat
  /-- R358: RANK, 8 bits. Reset: 0xFF. -/
  rank : Nat
  /-- R354, R358: EPOCH, 8 bits. Reset: 0. -/
  epoch : BitVec 8
  /-- R354: the fabric key in force and the one before it. Reset: none. -/
  key : Option (BitVec 256)
  prevKey : Option (BitVec 256)
  /-- R345: the plan in force. Reset: none. -/
  plan : Option Plan
  /-- R349, R358: peers by address. Reset: absent. -/
  peers : List PeerState
  /-- R348: HELLOs collected. Reset: none. -/
  hellos : List HelloMsg
  /-- R348: since when the manager collects. Reset: none. -/
  discSince : Option Nat
  /-- R334: lanes by port × 8 + lane. Reset: down. -/
  lanes : Map KwLane
  /-- R337: ports. Reset: as KwPort.start. -/
  ports : Map KwPort
  /-- R340: messages not acknowledged. Reset: none. -/
  unacked : List TxMsg
  /-- R340: next message sequence by destination × 4 + VC. Reset: 0. -/
  txSeq : Map (BitVec 32)
  /-- R340: next message sequence expected by source × 4 + VC. Reset: 0. -/
  rxSeq : Map (BitVec 32)
  /-- R340: messages received ahead of order. Reset: none. -/
  early : List FabMsg
  /-- R344, R347: time of the last heartbeat sent or received. Reset: none. -/
  lastHb : Option Nat
  /-- R342: modules declared lost. Reset: none. -/
  lostMods : List Nat
  /-- R350: modules fenced. Reset: none. -/
  fencedMods : List Nat
  /-- R355: packet counters used by this module. Reset: 0. -/
  packets : Nat
  /-- R351: faults for which traffic has been re-shaped, as (kind, a, b). Reset: none. -/
  faults : List (Nat × Nat × Nat)
  /-- R229: broadcasts. Reset: none. -/
  bcasts : List Bcast
  /-- R230, R231: the chains that this worker forwards in. Reset: none. -/
  relays : List Relay
  /-- R348, R354: modules that hold the current key. Reset: none. -/
  keyed : List Nat
  /-- R334: the lasers are on. Reset: off (role OFF). -/
  lasers : Bool
  deriving DecidableEq, Repr

/-! ### The whole module -/

/-- The order codes (R1). -/
inductive Variant where
  | k48F | k40F | k32H
  deriving DecidableEq, Repr

/-- The state of the module. -/
structure State where
  /-- The model's own: commands that wait, first in, first out. Reset: none. -/
  pending : List Instr
  /-- R36: the oscillator's microseconds since reset, advanced when no command waits (log entry 2). Reset: 0. -/
  now : Nat
  /-- The model's own: how many free values have been drawn. Reset: DESIGN CHOICE 0, log entry 3. -/
  freeCtr : Nat
  /-- The model's own: the value the last register read returned. Reset: 0. -/
  lastRead : Word
  /-- The model's own: what the module has sent out, oldest first. Reset: nothing. -/
  out : List Out
  /-- R1, R2: the order code. Reset: DESIGN CHOICE IKV-K2-48F, log entry 1. -/
  variant : Variant
  /-- R5: STEPPING, 8 bits. Reset: DESIGN CHOICE 1, log entry 1. -/
  stepping : BitVec 8
  /-- R13: RW and RWS registers by page × 4096 + offset; an unlisted one holds its vendor default or zero. Reset: none
  listed. -/
  regs : Map Word
  /-- R78: event counters by (page × 4096 + offset) × 32 + tile. Reset: 0 (start Z). -/
  counters : Map Counter
  /-- R430: common headers by page. Reset: Hdr.start. -/
  hdrs : Map Hdr
  bb : BlackBox
  st : SelfTest
  power : Power
  hk : Housekeeping
  start : Start
  sec : Security
  /-- R424: port 0. -/
  port0 : Port
  /-- R424: port 1. -/
  port1 : Port
  /-- R452: VFs by port × 256 + VF. Reset: Vf.start. -/
  vfs : Map Vf
  /-- R436: rings by port × 4096 + ring. Reset: FREE. -/
  rings : Map Ring
  /-- R438: entries fetched and not yet run. Reset: none. -/
  dispatched : List Dispatched
  /-- R202: jobs. Reset: none. -/
  jobs : List Job
  /-- R202: terminal claims that wait at the status arbiters, as (job, status). Reset: none. -/
  claims : List (Nat × Nat)
  /-- The number of the next entry or job. Reset: 0. -/
  nextId : Nat
  /-- R180: the tenant table. Reset: FREE. -/
  tenants : Map Tenant
  /-- R182: the session table. Reset: FREE. -/
  sessions : Map Session
  kv : Kv
  /-- R189: adapter sets at rest. Reset: none. -/
  sets : List AdapterSet
  /-- R28: bolts by north-west panel. Reset: none. -/
  bolts : Map (Option Bolt)
  /-- R236: panels by logical index. Reset: Panel.start. -/
  panels : Map Panel
  arrays : Arrays
  ras : Ras
  net : Net
  fab : Fabric
  /-- R379: poisoned DRAM lines that hold no structure of the model. Reset: none. -/
  dramPoison : List Nat
  deriving DecidableEq, Repr

/-! ### Reset -/

/-- The vendor default of the length buckets (R156). -/
def vendorBuckets : List (Nat × Nat) :=
  [(64, 1), (128, 1), (256, 1), (512, 1), (1024, 1), (2048, 1), (4096, 1), (8192, 2), (16384, 4), (32768, 8), (131072, 16)]

/-- An empty slot of the store. -/
def BbSlot.start : BbSlot := { valid := false, gen := 0, recs := [] }

/-- A window's selection at start. -/
def BbSel.start : BbSel := { source := 0, index := 0 }

/-- The black box of a first start: the START record, written at PHASE 1 (R502, R504). -/
def BlackBox.start : BlackBox :=
  { live := [{ seq := 0, epoch := 0, type := 1, inst := 0, code := 0x100, data := [1, 0, 0, 0, 0, 0, 0, 0, 0, 0, 0, 0] }],
    nextSeq := 1, epoch := 0, slotA := BbSlot.start, slotB := BbSlot.start, flushing := none, lastTrigger := 0,
    lastFlushed := none, locked := false, selMgmt := BbSel.start, selPf0 := BbSel.start, selPf1 := BbSel.start }

/-- An idle self-test engine. -/
def SelfTest.start : SelfTest :=
  { queue := [], running := none, before := .ready, lastKind := 0, lastTarget := 0, lastResult := 0, lastSig := 0, results := [] }

/-- Power right after a start. -/
def Power.start : Power :=
  { vinMv := 56000, aux := true, above43 := some 0, hotswap := .closed, ovOpen := false, below60 := none, powerGood := true,
    compute := true, arrRail := 50, logRail := 40, arrDuty := 64, attDuty := 64, inputMa := 0, slackSince := none,
    underSince := none, clampOpen := false, overrideOpen := false, arrTurn := true, thermalLimit := 27, cmp100 := false,
    cmp70 := some 0, tripLatch := false, protection := [], thermState := 0 }

/-- Housekeeping right after a start. -/
def Housekeeping.start : Housekeeping :=
  { readings := [], diodes := [], rate := 0, fast := false, calmSince := none, posA := 0, posB := 0, passA := (0, 1), passB := (0, 1), injPending := false,
    warnSince := none, warned := false, stopRun := 0, lastStep := none, lastRecover := none, plaus := false, agree := 0,
    stopping := none, stops := [] }

/-- The security area as shipped (R527). -/
def SecArea.shipped : SecArea :=
  { owner := none, minSvn := 1, plan := none, records := [], arrays := [], seamFailed := [], darns := [], failedPanels := [],
    failedTiles := [] }

/-- The firmware image installed at test (R527). -/
def shippedFw : FwImage :=
  { headerOk := true, lengthOk := true, version := 1, svn := 1, signedByVendor := true, digest := 0 }

/-- The start registers of a shipped module that has started. -/
def Start.shipped : Start :=
  { phase := 7, limp := 0, copyB := false, defaulted := false, failDram := 0, failKwath := 0, failPcie := 0, islands := [],
    findings := none, fw := some shippedFw, fwVersion := 1, fwDigest := 0, fwSvn := 1, fwWriting := none, fwWaiting := [], recAddr0 := 0, area := SecArea.shipped,
    recAddr1 := 0, recState := 0, recResult := 0, recPort := 0, recLen := 0, restarting := false,
    cfgA := { gen := 1, regs := [], tag := none }, cfgB := { gen := 0, regs := [], tag := none },
    secA := { gen := 1, area := SecArea.shipped, tag := none }, secB := { gen := 0, area := SecArea.shipped, tag := none }, dirty := none, vendorOk := true }

/-- Security right after the first start. -/
def Security.start : Security :=
  { owner := none, debug := 0, pufOk := true, kekReady := false, kekId := 1, nonce := 0, dataKeys := [], grants := [],
    spdm := [], ide := [], identity := 0, vendorKey := [1], coarsePower := 0, coarseTemp := 0 }

/-- A port right after a start. -/
def Port.start : Port :=
  { rate := 6, width := 8, flit := true, up := true, retrains := 0, released := true, pair := .absent, lastHb := none,
    downSince := none, armed := true, numVfs := 0, d3hot := [], msixOn := [0], msixMasked := [], msixPending := [],
    busMaster := [0], atsOn := [], pasidOn := [], ats := [], cfgSpace := [] }

/-- The allocator and the tree right after a start. -/
def Kv.start : Kv :=
  { buckets := vendorBuckets, ptes := [], used := [], tables := [], lruDram := [], lruSram := [], pages := [], nodes := [],
    nextNode := 1, retains := [], rebuilding := false }

/-- The arrays of a shipped module. -/
def Arrays.start : Arrays :=
  { arrs := [], panelOf := [], tileOf := [], arrOf := [], failedPos := [], waiting := [], cal := [], fallback := false,
    lastFallback := none, diode := 0 }

/-- Containment right after a start. -/
def Ras.start : Ras :=
  { swatches := [], nextSwatch := 0, faults := [], repairs := [], mirror := [], sigs := [], lost := false, unanswered := [],
    rewrites := [], lostChunks := [], progress := [] }

/-- A half's seam lanes right after a start. -/
def SeamHalf.start : SeamHalf := { lanesUp := 0x7FFF, spares := 17, errors := [] }

/-- The networks right after a start. -/
def Net.start : Net :=
  { usedCredits := [], waits := [], stalls := [], tags := [], arbs := [], seam0 := SeamHalf.start, seam1 := SeamHalf.start }

/-- The fabric of a module started with role OFF (R357). -/
def Fabric.start : Fabric :=
  { st := 0, addr := 0, roleInForce := 0, role := 0, rank := 0xFF, epoch := 0, key := none, prevKey := none, plan := none,
    peers := [], hellos := [], discSince := none, lanes := [], ports := [], unacked := [], txSeq := [], rxSeq := [], early := [],
    lastHb := none, lostMods := [], fencedMods := [], packets := 0, faults := [], bcasts := [], relays := [], keyed := [], lasers := false }

/-- The machine right after reset: a module as shipped (R527) whose first full start has reached READY (R480), every
register at its start value (R16). -/
def State.reset : State :=
  { pending := [], now := 0, freeCtr := 0, lastRead := 0, out := [], variant := .k48F, stepping := 1, regs := [],
    counters := [], hdrs := [], bb := BlackBox.start, st := SelfTest.start, power := Power.start, hk := Housekeeping.start,
    start := Start.shipped, sec := Security.start, port0 := Port.start, port1 := Port.start, vfs := [], rings := [],
    dispatched := [], jobs := [], claims := [], nextId := 0, tenants := [], sessions := [], kv := Kv.start, sets := [],
    bolts := [], panels := [], arrays := Arrays.start, ras := Ras.start, net := Net.start, fab := Fabric.start,
    dramPoison := [] }

end Sys2Proof.Machine
end

