-- ==== Sys2Proof/Machine/Maps.lean ====
section
/-! DEFINITION. The named operations over sparse maps, byte memory, bit fields and lists: reading and writing one key in
the canonical form, byte-order conversions, sorting by insertion. -/

namespace Sys2Proof.Machine

/-! ### Sparse maps -/

/-- The value at a key, `d` where the key is not listed. -/
def mapGet {V : Type} (d : V) : List (Nat × V) → Nat → V
  | [], _ => d
  | (k, v) :: m, x => if k = x then v else mapGet d m x

/-- The map without a key. -/
def mapDel {V : Type} : List (Nat × V) → Nat → List (Nat × V)
  | [], _ => []
  | (k, v) :: m, x => if k = x then mapDel m x else (k, v) :: mapDel m x

/-- The map with a key listed at a value, keys kept rising. -/
def mapPut {V : Type} : List (Nat × V) → Nat → V → List (Nat × V)
  | [], x, w => [(x, w)]
  | (k, v) :: m, x, w =>
    if x < k then (x, w) :: (k, v) :: m else if k = x then (x, w) :: m else (k, v) :: mapPut m x w

/-- Writing one key: the value that an unlisted key reads as removes the entry. -/
def mapSet {V : Type} [DecidableEq V] (d : V) (m : List (Nat × V)) (x : Nat) (w : V) : List (Nat × V) :=
  if w = d then mapDel m x else mapPut m x w

/-- Whether every key is above a bound and the keys rise, with no entry at the default. -/
def mapWfFrom {V : Type} [DecidableEq V] (d : V) : Option Nat → List (Nat × V) → Bool
  | _, [] => true
  | none, (k, v) :: m => decide (v ≠ d) && mapWfFrom d (some k) m
  | some b, (k, v) :: m => decide (b < k) && decide (v ≠ d) && mapWfFrom d (some k) m

/-- The canonical form: keys rise strictly and no entry equals the default. -/
def mapWf {V : Type} [DecidableEq V] (d : V) (m : List (Nat × V)) : Bool := mapWfFrom d none m

/-- Changing the value at one key. -/
def mapMod {V : Type} [DecidableEq V] (d : V) (m : List (Nat × V)) (x : Nat) (f : V → V) : List (Nat × V) :=
  mapSet d m x (f (mapGet d m x))

/-! ### Byte memory -/

/-- One byte (R10); an unlisted byte reads as zero. -/
def memByte (m : Mem) (a : Nat) : Byte := mapGet (0 : Byte) m a

/-- One byte written. -/
def memSetByte (m : Mem) (a : Nat) (b : Byte) : Mem := mapSet (0 : Byte) m a b

/-- The canonical form of byte memory. -/
def Memory.wf (m : Mem) : Bool := mapWf (0 : Byte) m

/-- `n` bytes from an address, lowest address first. -/
def memBytes (m : Mem) (a : Nat) : Nat → List Byte
  | 0 => []
  | n + 1 => memByte m a :: memBytes m (a + 1) n

/-- Bytes written from an address upwards. -/
def memWrite (m : Mem) (a : Nat) : List Byte → Mem
  | [] => m
  | b :: bs => memWrite (memSetByte m a b) (a + 1) bs

/-- Every byte at or above `a` and below `a + n` set to zero. -/
def memClear (m : Mem) (a n : Nat) : Mem := m.filter fun c => c.1 < a || a + n ≤ c.1

/-! ### Byte order (R10: little-endian) -/

/-- The number that bytes spell, the first byte least significant. -/
def leNat : List Byte → Nat
  | [] => 0
  | b :: bs => b.toNat + 256 * leNat bs

/-- `n` bytes of a number, the least significant first. -/
def natLe : Nat → Nat → List Byte
  | 0, _ => []
  | n + 1, v => BitVec.ofNat 8 v :: natLe n (v / 256)

/-- The number that bytes spell, the first byte most significant. -/
def beNat (bs : List Byte) : Nat := bs.foldl (fun a b => a * 256 + b.toNat) 0

/-- `n` bytes of a number, the most significant first. -/
def natBe (n v : Nat) : List Byte := (natLe n v).reverse

/-- A 64-bit word of memory. -/
def memWord (m : Mem) (a : Nat) : Word := BitVec.ofNat 64 (leNat (memBytes m a 8))

/-- A 32-bit word of memory. -/
def mem32 (m : Mem) (a : Nat) : BitVec 32 := BitVec.ofNat 32 (leNat (memBytes m a 4))

/-- A 16-bit word of memory. -/
def mem16 (m : Mem) (a : Nat) : BitVec 16 := BitVec.ofNat 16 (leNat (memBytes m a 2))

/-- A field of a list of bytes, as a number. -/
def bytesNat (bs : List Byte) (off n : Nat) : Nat := leNat ((bs.drop off).take n)

/-- 32-bit little-endian words of bytes, as many whole ones as there are. -/
def words32 : List Byte → List (BitVec 32)
  | a :: b :: c :: d :: r => BitVec.ofNat 32 (leNat [a, b, c, d]) :: words32 r
  | _ => []

/-! ### Bit fields -/

/-- Bits [hi:lo] of a word as a number. -/
def field (w : Word) (hi lo : Nat) : Nat := (w.toNat >>> lo) % 2 ^ (hi + 1 - lo)

/-- Bit n of a word. -/
def bit (w : Word) (n : Nat) : Bool := w.getLsbD n

/-- A word with one bit set. -/
def bitOf (n : Nat) : Word := BitVec.ofNat 64 (2 ^ n)

/-- 0 or 1. -/
def b2n (b : Bool) : Nat := if b then 1 else 0

/-- Fields put together, each a low bit and a value. -/
def packFields : List (Nat × Nat) → Nat
  | [] => 0
  | (lo, v) :: r => v * 2 ^ lo + packFields r

/-- A register value from its fields, each a low bit, a width and a value. -/
def packReg : List (Nat × Nat × Nat) → Word
  | [] => 0
  | (lo, w, v) :: r => BitVec.ofNat 64 ((v % 2 ^ w) * 2 ^ lo) ||| packReg r

/-- A signed number in n bits, two's complement. -/
def intBits (n : Nat) (i : Int) : Nat := (i % (2 : Int) ^ n).toNat

/-- The signed reading of an n-bit number. -/
def signed (n v : Nat) : Int := if v < 2 ^ (n - 1) then (v : Int) else (v : Int) - (2 : Int) ^ n

/-- The least of a number and a limit at which a small count saturates. -/
def satNat (limit v : Nat) : Nat := if limit < v then limit else v

/-! ### Lists -/

/-- A list with one element put in before the first that it should precede. -/
def insertBy {α : Type} (lt : α → α → Bool) (x : α) : List α → List α
  | [] => [x]
  | y :: ys => if lt x y then x :: y :: ys else y :: insertBy lt x ys

/-- Sorting by insertion; equal elements keep their order. -/
def sortBy {α : Type} (lt : α → α → Bool) : List α → List α
  | [] => []
  | x :: xs => insertBy (fun a b => !lt b a) x (sortBy lt xs)

/-- The position of the first element that meets a test. -/
def findIdxFrom {α : Type} (p : α → Bool) : List α → Nat → Option Nat
  | [], _ => none
  | x :: xs, n => if p x then some n else findIdxFrom p xs (n + 1)

/-- Changing every element that meets a test. -/
def modWhere {α : Type} (p : α → Bool) (f : α → α) (xs : List α) : List α := xs.map fun x => if p x then f x else x

/-- The sum of a list of integers. -/
def sumInt (xs : List Int) : Int := xs.foldl (· + ·) 0

/-- The sum of a list of numbers. -/
def sumNat (xs : List Nat) : Nat := xs.foldl (· + ·) 0

/-- The last element, or a default. -/
def lastOr {α : Type} (d : α) : List α → α
  | [] => d
  | [x] => x
  | _ :: y :: r => lastOr d (y :: r)

/-- An element by position, or a default. -/
def nth {α : Type} (d : α) (xs : List α) (n : Nat) : α := (xs[n]?).getD d

/-- A list with the element at a position replaced. -/
def setNth {α : Type} : List α → Nat → α → List α
  | [], _, _ => []
  | _ :: xs, 0, y => y :: xs
  | x :: xs, n + 1, y => x :: setNth xs n y

/-- Two lists taken together element by element. -/
def zipW {α β γ : Type} (f : α → β → γ) : List α → List β → List γ
  | a :: as, b :: bs => f a b :: zipW f as bs
  | _, _ => []

/-- A list in pieces of n elements, with fuel the number of elements. -/
def chunksOf {α : Type} (n : Nat) : Nat → List α → List (List α)
  | 0, _ => []
  | _ + 1, [] => []
  | f + 1, xs => xs.take n :: chunksOf n f (xs.drop n)

/-- Whether an element is listed once more than it should be. -/
def hasDup {α : Type} [DecidableEq α] : List α → Bool
  | [] => false
  | x :: xs => decide (x ∈ xs) || hasDup xs

end Sys2Proof.Machine
end

