-- ==== Sys2Proof/Machine/Flags.lean ====
section
/-! DEFINITION. Every number computation of the digital path: rounding to nearest even, binary32 and bfloat16 arithmetic
(R103), the correctly rounded functions of R259, the narrow block formats (R81 to R92), saturating accumulation (R95), and
the marks that results carry. -/

namespace Sys2Proof.Machine

/-! ### Rounding to nearest, ties to even (R87) -/

/-- rne(n / 2^s) for an integer n. -/
def rneShift (n : Int) (s : Nat) : Int :=
  let d : Int := (2 : Int) ^ s
  let q := n / d
  let r := n % d
  if 2 * r < d then q else if d < 2 * r then q + 1 else if q % 2 = 0 then q else q + 1

/-- rne(n × 2^e) for an integer n and any e. -/
def rneScale (n : Int) (e : Int) : Int := if 0 ≤ e then n * (2 : Int) ^ e.toNat else rneShift n (-e).toNat

/-- The number of bits of a number, 0 for 0. -/
def bitLen (n : Nat) : Nat := if n = 0 then 0 else Nat.log2 n + 1

/-! ### binary32 (R81, R103) -/

/-- The quiet NaN of the device. -/
def qNaN : F32 := 0x7FC00000

/-- +∞. -/
def fInf : F32 := 0x7F800000

/-- The largest finite value. -/
def fMax : F32 := 0x7F7FFFFF

/-- 1.0. -/
def fOne : F32 := 0x3F800000

/-- Whether a binary32 is a NaN. -/
def isNaN (f : F32) : Bool := 0x7F800000 < f.toNat % 2 ^ 31

/-- Whether a binary32 is an infinity. -/
def isInf (f : F32) : Bool := f.toNat % 2 ^ 31 == 0x7F800000

/-- Whether a binary32 is finite. -/
def isFin (f : F32) : Bool := f.toNat % 2 ^ 31 < 0x7F800000

/-- The sign bit. -/
def fNeg (f : F32) : Bool := f.getLsbD 31

/-- Whether a binary32 is a zero. -/
def isZero (f : F32) : Bool := f.toNat % 2 ^ 31 == 0

/-- An exact dyadic number m × 2^e. -/
structure Dy where
  m : Int
  e : Int
  deriving DecidableEq, Repr

/-- The exact magnitude of a finite binary32: significand and exponent. -/
def fMag (f : F32) : Nat × Int :=
  let x : Nat := f.toNat / 2 ^ 23 % 256
  let m : Nat := f.toNat % 2 ^ 23
  if x = 0 then (m, -149) else (m + 2 ^ 23, (x : Int) - 150)

/-- The exact value of a finite binary32. -/
def toDy (f : F32) : Dy :=
  let g := fMag f
  { m := if fNeg f then -(g.1 : Int) else (g.1 : Int), e := g.2 }

/-- Dyadic addition. -/
def Dy.add (a b : Dy) : Dy :=
  if a.e ≤ b.e then { m := a.m + b.m * (2 : Int) ^ (b.e - a.e).toNat, e := a.e }
  else { m := a.m * (2 : Int) ^ (a.e - b.e).toNat + b.m, e := b.e }

/-- Dyadic multiplication. -/
def Dy.mul (a b : Dy) : Dy := { m := a.m * b.m, e := a.e + b.e }

/-- Dyadic negation. -/
def Dy.neg (a : Dy) : Dy := { m := -a.m, e := a.e }

/-- Whether a < b, compared exactly. -/
def Dy.lt (a b : Dy) : Bool := (a.add b.neg).m < 0

/-- Zero. -/
def Dy.zero : Dy := { m := 0, e := 0 }

/-- The magnitude bits of the positive value (m + a part below one, when sticky) × 2^e rounded to binary32; +∞ beyond the
range. -/
def roundMag (m : Nat) (e : Int) (sticky : Bool) : Nat :=
  if m = 0 then 0 else
  let q0 : Int := e + (bitLen m : Int) - 24
  let q : Int := if q0 < -149 then -149 else q0
  let r : Nat :=
    if q ≤ e then m * 2 ^ (e - q).toNat
    else
      let sh := (q - e).toNat
      let t := m / 2 ^ sh
      let low := m % 2 ^ sh
      let half := 2 ^ (sh - 1)
      if half < low then t + 1 else if low < half then t
      else if sticky || t % 2 == 1 then t + 1 else t
  let bits : Int := (r : Int) + (q + 149) * 8388608
  if 0x7F800000 ≤ bits then 0x7F800000 else bits.toNat

/-- A magnitude with a sign. -/
def withSign (neg : Bool) (mag : Nat) : F32 := BitVec.ofNat 32 (mag + if neg then 2147483648 else 0)

/-- The binary32 nearest to a dyadic number; an exact zero takes the sign given. -/
def roundDy (zneg : Bool) (a : Dy) : F32 :=
  if a.m = 0 then withSign zneg 0 else withSign (a.m < 0) (roundMag a.m.natAbs a.e false)

/-- The binary32 nearest to a positive quotient of two numbers × 2^e. -/
def roundQuot (neg : Bool) (num den : Nat) (e : Int) : F32 :=
  let sh := 96 + bitLen den - (if bitLen num < bitLen den then bitLen num else bitLen den)
  let n := num * 2 ^ sh
  withSign neg (roundMag (n / den) (e - (sh : Int)) (n % den != 0))

/-- Addition (R103). -/
def fAdd (a b : F32) : F32 :=
  if isNaN a || isNaN b then qNaN
  else if isInf a then (if isInf b && fNeg a != fNeg b then qNaN else a)
  else if isInf b then b
  else roundDy (isZero a && isZero b && fNeg a && fNeg b) ((toDy a).add (toDy b))

/-- Negation of the sign bit. -/
def fNegate (a : F32) : F32 := a ^^^ 0x80000000

/-- Subtraction (R103). -/
def fSub (a b : F32) : F32 := if isNaN a || isNaN b then qNaN else fAdd a (fNegate b)

/-- Multiplication (R103). -/
def fMul (a b : F32) : F32 :=
  let neg := fNeg a != fNeg b
  if isNaN a || isNaN b then qNaN
  else if isInf a || isInf b then (if isZero a || isZero b then qNaN else withSign neg 0x7F800000)
  else roundDy neg ((toDy a).mul (toDy b))

/-- Division (R103). -/
def fDiv (a b : F32) : F32 :=
  let neg := fNeg a != fNeg b
  if isNaN a || isNaN b then qNaN
  else if isInf a then (if isInf b then qNaN else withSign neg 0x7F800000)
  else if isInf b then withSign neg 0
  else if isZero b then (if isZero a then qNaN else withSign neg 0x7F800000)
  else if isZero a then withSign neg 0
  else roundQuot neg (fMag a).1 (fMag b).1 ((fMag a).2 - (fMag b).2)

/-- The bits of the integer square root from the highest down. -/
def isqrtFrom (n : Nat) : Nat → Nat → Nat
  | 0, r => r
  | k + 1, r => let c := r + 2 ^ k; if c * c ≤ n then isqrtFrom n k c else isqrtFrom n k r

/-- The integer square root. -/
def isqrt (n : Nat) : Nat := isqrtFrom n (bitLen n / 2 + 1) 0

/-- Square root (R103). -/
def fSqrt (a : F32) : F32 :=
  if isNaN a then qNaN
  else if isZero a then a
  else if fNeg a then qNaN
  else if isInf a then a
  else
    let g := fMag a
    let odd := (g.2 % 2).toNat
    let m := g.1 * 2 ^ (64 + odd)
    let y := isqrt m
    withSign false (roundMag y ((g.2 - (odd : Int) - 64) / 2) (y * y != m))

/-- Reciprocal square root (R259). -/
def fRsqrt (a : F32) : F32 :=
  if isNaN a then qNaN
  else if isZero a then withSign (fNeg a) 0x7F800000
  else if fNeg a then qNaN
  else if isInf a then 0
  else
    let g := fMag a
    let odd := (g.2 % 2).toNat
    let m := g.1 * 2 ^ odd
    let n := 2 ^ 128 / m
    let y := isqrt n
    withSign false (roundMag y (-64 - (g.2 - (odd : Int)) / 2) (m * (y * y) != 2 ^ 128))

/-- a > b; false with a NaN. -/
def fGt (a b : F32) : Bool :=
  if isNaN a || isNaN b then false
  else if isInf a then !fNeg a && !(isInf b && !fNeg b)
  else if isInf b then fNeg b
  else (toDy b).lt (toDy a)

/-- The IEEE 754 maximum (R262): a NaN operand gives the quiet NaN; +0 is greater than −0. -/
def fMaximum (a b : F32) : F32 :=
  if isNaN a || isNaN b then qNaN
  else if isZero a && isZero b then (if fNeg a then b else a)
  else if fGt b a then b else a

/-- A natural number as binary32. -/
def fOfNat (n : Nat) : F32 := withSign false (roundMag n 0 false)

/-- bfloat16 widened exactly. -/
def ofBF16 (b : BF16) : F32 := BitVec.ofNat 32 (b.toNat * 65536)

/-- binary32 rounded to bfloat16, to nearest with ties to even; a NaN becomes 0x7FC0 (R92). -/
def toBF16 (f : F32) : BF16 :=
  if isNaN f then 0x7FC0
  else
    let n := f.toNat
    let t := n / 65536
    let low := n % 65536
    BitVec.ofNat 16 (if 32768 < low then t + 1 else if low < 32768 then t else if t % 2 = 1 then t + 1 else t)

/-! ### Sums and dot products (R103) -/

/-- The product of two operands as a term of an exact sum: a dyadic number, an infinity of a sign, or a NaN. -/
inductive Term where
  | fin (d : Dy)
  | inf (neg : Bool)
  | nan
  deriving DecidableEq, Repr

/-- A binary32 as a term. -/
def termOf (f : F32) : Term := if isNaN f then .nan else if isInf f then .inf (fNeg f) else .fin (toDy f)

/-- The product of two binary32 values, exactly. -/
def termMul (a b : F32) : Term :=
  if isNaN a || isNaN b then .nan
  else if isInf a || isInf b then (if isZero a || isZero b then .nan else .inf (fNeg a != fNeg b))
  else .fin ((toDy a).mul (toDy b))

/-- The sum of two terms, exactly. -/
def termAdd : Term → Term → Term
  | .nan, _ => .nan
  | _, .nan => .nan
  | .inf a, .inf b => if a = b then .inf a else .nan
  | .inf a, .fin _ => .inf a
  | .fin _, .inf b => .inf b
  | .fin a, .fin b => .fin (a.add b)

/-- A term rounded once to binary32. -/
def termRound : Term → F32
  | .nan => qNaN
  | .inf n => withSign n 0x7F800000
  | .fin d => roundDy false d

/-- A group of at most 32 products summed exactly and rounded once. -/
def dotGroup (xs ys : List F32) : F32 := termRound ((zipW termMul xs ys).foldl termAdd (.fin Dy.zero))

/-- The dot product: groups of 32 consecutive elements, their sums added in ascending group index from +0. -/
def fDot (xs ys : List F32) : F32 :=
  let n := xs.length
  let gx := chunksOf 32 n xs
  let gy := chunksOf 32 n ys
  (zipW dotGroup gx gy).foldl fAdd 0

/-! ### Fixed functions (R259): the exact value to far more bits than any tie needs, rounded once -/

/-- The fraction bits of the fixed-point numbers. -/
def fixP : Nat := 640

/-- 1 in fixed point. -/
def fixOne : Int := (2 : Int) ^ fixP

/-- A dyadic number in fixed point. -/
def fixOf (d : Dy) : Int :=
  let s := d.e + (fixP : Int)
  if 0 ≤ s then d.m * (2 : Int) ^ s.toNat else d.m / (2 : Int) ^ (-s).toNat

/-- Σ t^(2k+1) / (2k+1) in fixed point: n terms from the one at k, `p` the power of t in hand. -/
def atanhSum (t2 : Int) : Nat → Nat → Int → Int
  | 0, _, _ => 0
  | n + 1, k, p => p / (2 * (k : Int) + 1) + atanhSum t2 n (k + 1) (p * t2 / fixOne)

/-- ln((1 + t) / (1 − t)) in fixed point for |t| at most 1/3. -/
def fixAtanh2 (t : Int) : Int := 2 * atanhSum (t * t / fixOne) 220 0 t

/-- ln 2 in fixed point. -/
def fixLn2 : Int := fixAtanh2 (fixOne / 3)

/-- Σ r^k / k! in fixed point: n terms from the one at k. -/
def expSum (r : Int) : Nat → Nat → Int → Int
  | 0, _, _ => 0
  | n + 1, k, p => p + expSum r n (k + 1) (p * r / fixOne / ((k : Int) + 1))

/-- e^x as a fixed-point number in [1/2, 2) and a power of two, for x in fixed point. -/
def fixExp (x : Int) : Nat × Int :=
  let k := (2 * x + fixLn2) / (2 * fixLn2)
  let r := x - k * fixLn2
  ((expSum r 160 0 fixOne).toNat, k)

/-- exp32 (R259). -/
def fExp (a : F32) : F32 :=
  if isNaN a then qNaN
  else if isInf a then (if fNeg a then 0 else fInf)
  else if isZero a then fOne
  else
    let d := toDy a
    if Dy.lt { m := 128, e := 0 } d then fInf
    else if d.lt { m := -128, e := 0 } then 0
    else
      let y := fixExp (fixOf d)
      withSign false (roundMag y.1 (y.2 - (fixP : Int)) true)

/-- log32 (R259). -/
def fLog (a : F32) : F32 :=
  if isNaN a then qNaN
  else if isZero a then withSign true 0x7F800000
  else if fNeg a then qNaN
  else if isInf a then fInf
  else if a = fOne then 0
  else
    let g := fMag a
    let l := bitLen g.1
    let k := g.2 + (l : Int) - 1
    let m : Int := (g.1 : Int) * (2 : Int) ^ (fixP + 1 - l)
    let t := (m - fixOne) * fixOne / (m + fixOne)
    let v := k * fixLn2 + fixAtanh2 t
    withSign (v < 0) (roundMag v.natAbs (-(fixP : Int)) true)

/-- sigmoid32 (R259). -/
def fSigmoid (a : F32) : F32 :=
  if isNaN a then qNaN
  else if isInf a then (if fNeg a then 0 else fOne)
  else if isZero a then 0x3F000000
  else
    let d := toDy a
    if Dy.lt { m := 128, e := 0 } d then fOne
    else if d.lt { m := -128, e := 0 } then 0
    else
      let y := fixExp (if fNeg a then fixOf d else -(fixOf d))
      let one := 2 ^ ((fixP : Int) - y.2).toNat
      if fNeg a then roundQuot false y.1 (one + y.1) 0 else roundQuot false one (one + y.1) 0

/-- tanh32 (R259). -/
def fTanh (a : F32) : F32 :=
  if isNaN a then qNaN
  else if isZero a then a
  else if isInf a then withSign (fNeg a) 0x3F800000
  else
    let d := toDy a
    let ab : Dy := { m := d.m.natAbs, e := d.e }
    if Dy.lt { m := 32, e := 0 } ab then withSign (fNeg a) 0x3F800000
    else if ab.lt { m := 1, e := -40 } then
      -- x (1 − x²/3 + …) lies just below |x|, less than half a unit in the last place
      a
    else
      let y := fixExp (2 * fixOf ab)
      let e2 : Nat := if 0 ≤ y.2 then y.1 * 2 ^ y.2.toNat else y.1 / 2 ^ (-y.2).toNat
      let one := 2 ^ fixP
      roundQuot (fNeg a) (e2 - one) (e2 + one) 0

/-- Σ of x^(2k+1) / (1·3·…·(2k+1)) in fixed point: n terms from the one at k. -/
def phiSum (x2 : Int) : Nat → Nat → Int → Int
  | 0, _, _ => 0
  | n + 1, k, p => p + phiSum x2 n (k + 1) (p * x2 / fixOne / (2 * (k : Int) + 3))

/-- 1 / √(2π) in fixed point: its square is 1 / (2π), with π by Machin's formula. -/
def fixInvSqrt2Pi : Int :=
  let arctanInv (q : Int) : Int :=
    (List.range 480).foldl (fun (acc : Int) (k : Nat) =>
      let t := fixOne / (q ^ (2 * k + 1)) / (2 * (k : Int) + 1)
      if k % 2 = 0 then acc + t else acc - t) 0
  let pi := 16 * arctanInv 5 - 4 * arctanInv 239
  (isqrt (fixOne * fixOne * fixOne / (2 * pi)).toNat : Int)

/-- gelu32 (R259): x × Φ(x), with Φ(x) = 1/2 + φ(x) Σ x^(2k+1) / (1·3·…·(2k+1)). -/
def fGelu (a : F32) : F32 :=
  if isNaN a then qNaN
  else if isZero a then a
  else if isInf a then (if fNeg a then 0x80000000 else fInf)
  else
    let d := toDy a
    let ab : Dy := { m := d.m.natAbs, e := d.e }
    if Dy.lt { m := 16, e := 0 } ab then (if fNeg a then 0x80000000 else a)
    else if ab.lt { m := 1, e := -60 } then
      -- x / 2 + x² φ(0) …: of a magnitude a hair above |x| / 2 for a positive x, a hair below for a negative one
      let h := fMag a
      withSign (fNeg a) (roundMag (if fNeg a then h.1 * 2 ^ 64 - 1 else h.1 * 2 ^ 64) (h.2 - 65) true)
    else
      let x := fixOf ab
      let x2 := x * x / fixOne
      let y := fixExp (-(x2 / 2))
      let ex : Int := (y.1 : Int) * fixOne / ((2 : Int) ^ ((fixP : Int) - y.2).toNat)
      let phi := fixInvSqrt2Pi * ex / fixOne
      let s := phi * phiSum x2 900 0 x / fixOne
      let big := if fNeg a then fixOne / 2 - s else fixOne / 2 + s
      withSign (fNeg a) (roundMag (big.natAbs * ab.m.natAbs) (ab.e - (fixP : Int)) true)

/-- 0.7978846 as binary32 (R258). -/
def geluC : F32 := 0x3F4C422A
/-- 0.044715 as binary32 (R258). -/
def geluK : F32 := 0x3D372713

/-- GELU, tanh form: the sequence of R258, each operation rounded. -/
def fGeluTanh (x : F32) : F32 :=
  let x3 := fMul (fMul x x) x
  let u := fMul geluC (fAdd x (fMul geluK x3))
  fMul (fMul 0x3F000000 x) (fAdd fOne (fTanh u))

/-- The functions of ACT (R258). -/
def actFn (f : Nat) (x : F32) : F32 :=
  match f with
  | 0 => x
  | 1 => if isNaN x then qNaN else if fGt x 0 then x else 0
  | 2 => fGeluTanh x
  | 3 => fGelu x
  | 4 => fMul x (fSigmoid x)
  | 5 => fSigmoid x
  | 6 => fTanh x
  | _ => if isNaN x then qNaN else if fGt x 0 then fMul x x else 0

/-! ### Block formats (R81 to R92) -/

/-- Bits of an element (R82, R83); 16 and 32 for BF16 and binary32. -/
def fmtBits (f : Nat) : Nat := match f with | 0 => 4 | 1 => 2 | 2 => 3 | 3 => 4 | 4 => 6 | 5 => 6 | 6 => 8 | 7 => 16 | _ => 32

/-- Bytes of the element field of a block of 32. -/
def fmtField (f : Nat) : Nat := 4 * fmtBits f

/-- Bytes of a group of eight blocks (R84). -/
def fmtGroup (f : Nat) : Nat := 8 + 8 * fmtField f

/-- Bytes that a vector of n elements takes in a format; a narrow vector ends on a whole group (R84, R85). -/
def fmtBytes (f n : Nat) : Nat := if f = 7 then 2 * n else if f = 8 then 4 * n else (n / 32 + 7) / 8 * fmtGroup f

/-- Mantissa bits of the OCP element formats (R83). -/
def ocpM (f : Nat) : Nat := match f with | 3 => 1 | 4 => 3 | _ => 2
/-- Exponent bits. -/
def ocpX (f : Nat) : Nat := match f with | 3 => 2 | 4 => 2 | _ => 3

/-- The unit exponent u of a format (R86). -/
def fmtUnit (f : Nat) : Int := match f with | 3 => -1 | 4 => -3 | 5 => -4 | 6 => -6 | _ => 0

/-- q₀ of an element code (R86): the element is q₀ × 2^u. None for the invalid code of K2T. -/
def elemInt (f c : Nat) : Option Int :=
  match f with
  | 0 => some (signed 4 c)
  | 1 => if c = 2 then none else some (signed 2 c)
  | 2 => some (signed 3 c)
  | 6 => some (signed 8 c)
  | _ =>
    let m := ocpM f
    let x := c / 2 ^ m % 2 ^ ocpX f
    let t := c % 2 ^ m
    let v : Int := if x = 0 then (t : Int) else ((2 ^ m + t) * 2 ^ (x - 1) : Nat)
    some (if c / 2 ^ (m + ocpX f) = 1 then -v else v)

/-- A decoded block: its scale byte and its elements as integers q₀, or invalid (R89). -/
structure Block where
  scale : Nat
  q : List Int
  ok : Bool
  deriving DecidableEq, Repr

/-- A block decoded from its scale byte and element field. -/
def decodeBlock (f scale : Nat) (bs : List Byte) : Block :=
  let n := leNat bs
  let w := fmtBits f
  let qs := (List.range 32).map fun i => elemInt f (n / 2 ^ (w * i) % 2 ^ w)
  { scale := scale, q := qs.map fun q => q.getD 0, ok := scale != 0xFF && qs.all Option.isSome }

/-- A padding block (R85), which is also what a poisoned block is written as (R92). -/
def Block.pad : Block := { scale := 0, q := List.replicate 32 0, ok := true }

/-- Block number b of a narrow vector stored from an address on (R84). -/
def readBlock (m : Mem) (f addr b : Nat) : Block :=
  let g := addr + b / 8 * fmtGroup f
  decodeBlock f (memByte m (g + b % 8)).toNat (memBytes m (g + 8 + b % 8 * fmtField f) (fmtField f))

/-- A block's elements as binary32 with the block's clamp mark (R260). -/
def blockF32 (f : Nat) (b : Block) : List F32 × Bool :=
  let v := b.q.map fun q => roundDy false { m := q, e := (b.scale : Int) - 127 + fmtUnit f }
  (v.map fun x => if isInf x then (if fNeg x then withSign true 0x7F7FFFFF else fMax) else x, v.any isInf)

/-- The element range of the integer formats (R83): least and greatest. -/
def intRange (f : Nat) : Int × Int := match f with | 0 => (-8, 7) | 1 => (-1, 1) | _ => (-4, 3)

/-- The least e from a start on, with fuel, for which every scaled element lies in range (R90). -/
def leastExp (lo hi : Int) (xs : List Dy) : Nat → Int → Option Int
  | 0, _ => none
  | n + 1, e =>
    if xs.all fun d => let q := rneScale d.m (d.e - e); decide (lo ≤ q ∧ q ≤ hi) then some e else leastExp lo hi xs n (e + 1)

/-- An encoded block: scale byte, element codes, saturation mark (R90, R91). -/
structure EncBlock where
  scale : Nat
  codes : List Nat
  sat : Bool
  deriving DecidableEq, Repr

/-- Clamping to a range. -/
def clampInt (lo hi v : Int) : Int := if v < lo then lo else if hi < v then hi else v

/-- Encoding of finite values into K4, K2T and N3 (R90). -/
def encodeInt (f : Nat) (xs : List F32) : EncBlock :=
  let r := intRange f
  let ds := xs.map toDy
  let code (q : Int) : Nat := intBits (fmtBits f) q
  if xs.all isZero then { scale := 0, codes := xs.map fun _ => 0, sat := false }
  else
    match leastExp r.1 r.2 ds 255 (-127) with
    | some e => { scale := (e + 127).toNat, codes := ds.map fun d => code (rneScale d.m (d.e - e)), sat := false }
    | none => { scale := 0xFE, codes := ds.map fun d => code (clampInt r.1 r.2 (rneScale d.m (d.e - 127))), sat := true }

/-- emax of R91. -/
def fmtEmax (f : Nat) : Int := match f with | 3 => 2 | 4 => 2 | 5 => 4 | _ => 0

/-- floor(log₂ |x|) of a finite value other than zero. -/
def fExpOf (f : F32) : Int := (fMag f).2 + (bitLen (fMag f).1 : Int) - 1

/-- The greatest of a list of integers, from a start. -/
def maxInt (s : Int) (xs : List Int) : Int := xs.foldl (fun a b => if a < b then b else a) s

/-- The code of a scaled element of an OCP format and its sign: rounded to nearest even and saturated (R91). A zero keeps its sign where
the format has one. -/
def ocpCode (f : Nat) (neg : Bool) (d : Dy) : Nat × Bool :=
  if f = 6 then
    let q := rneScale d.m (d.e + 6)
    (intBits 8 (clampInt (-128) 127 q), decide (q < -128 ∨ 127 < q))
  else
    let m := ocpM f
    let top := (match f with | 3 => 12 | 4 => 60 | _ => 448 : Nat)
    let mag := d.m.natAbs
    -- the exponent of the element's unit in the last place: at least u
    let l : Int := d.e + (bitLen mag : Int) - 1 - (m : Int)
    let u := fmtUnit f
    let ulp := if l < u then u else l
    let q := (rneScale mag (d.e - ulp)).toNat
    let v := q * 2 ^ (ulp - u).toNat
    let sat := decide (top < v)
    let v1 := if top < v then top else v
    -- from the integer q₀ back to exponent and mantissa fields
    let code := if v1 < 2 ^ m then v1 else
      let x := bitLen v1 - m
      x * 2 ^ m + (v1 / 2 ^ (x - 1) - 2 ^ m)
    (code + (if neg then 2 ^ (m + ocpX f) else 0), sat)

/-- Encoding of finite values into the OCP formats (R91). -/
def encodeOcp (f : Nat) (xs : List F32) : EncBlock :=
  if xs.all isZero then { scale := 0, codes := xs.map fun x => if f ≠ 6 ∧ fNeg x then 2 ^ (ocpM f + ocpX f) else 0, sat := false }
  else
    let e := maxInt (-149) ((xs.filter fun x => !isZero x).map fExpOf)
    let x := clampInt 0 254 (e - fmtEmax f + 127)
    let cs := xs.map fun v => ocpCode f (fNeg v) { m := (toDy v).m, e := (toDy v).e - (x - 127) }
    { scale := x.toNat, codes := cs.map Prod.fst, sat := cs.any Prod.snd }

/-- An encoded block's element field as bytes. -/
def fieldBytes (f : Nat) (codes : List Nat) : List Byte :=
  let n := (codes.foldr (fun c acc => acc * 2 ^ fmtBits f + c) 0)
  natLe (fmtField f) n

/-- What encoding a group of 32 values gives: bytes of the elements, the scale byte (formats 0 to 6), the block's saturation
mark and its poison (R90 to R92). -/
structure Encoded where
  scale : Nat
  bytes : List Byte
  sat : Bool
  poison : Bool
  deriving DecidableEq, Repr

/-- Encoding of 32 binary32 values (R90 to R92). -/
def encodeBlock (f : Nat) (xs : List F32) : Encoded :=
  let bad := xs.any fun x => !isFin x
  if f = 8 then { scale := 0, bytes := xs.flatMap fun x => natLe 4 (if isNaN x then qNaN else x).toNat, sat := false, poison := bad }
  else if f = 7 then { scale := 0, bytes := xs.flatMap fun x => natLe 2 (toBF16 x).toNat, sat := false, poison := bad }
  else if bad then { scale := 0, bytes := List.replicate (fmtField f) 0, sat := false, poison := true }
  else
    let e := if f ≤ 2 then encodeInt f xs else encodeOcp f xs
    { scale := e.scale, bytes := fieldBytes f e.codes, sat := e.sat, poison := false }

/-! ### Decoding at the hem (R86 to R88) -/

/-- The range of an input mode (R87): −8 to 7 for S4 and EX, −2 to 1 for S2. -/
def inRange (s2 : Bool) (v : Int) : Bool := if s2 then decide (-2 ≤ v ∧ v ≤ 1) else decide (-8 ≤ v ∧ v ≤ 7)

/-- The least shift s for which every rounded element lies in range (R87). -/
def hemShift (s2 : Bool) (qs : List Int) : Nat → Nat → Nat
  | 0, s => s
  | n + 1, s => if qs.all fun q => inRange s2 (rneShift q s) then s else hemShift s2 qs n (s + 1)

/-- A block at the hem: its elements q, its exponent e_b, and whether it is a zero block (R87). -/
structure HemBlock where
  q : List Int
  eb : Int
  zero : Bool
  ok : Bool
  deriving DecidableEq, Repr

/-- The second stage of decoding (R87). -/
def hemBlock (f : Nat) (s2 : Bool) (b : Block) : HemBlock :=
  if b.q.all (· == 0) then { q := b.q, eb := (b.scale : Int) - 127 + fmtUnit f, zero := true, ok := b.ok }
  else
    let s := hemShift s2 b.q 9 0
    { q := b.q.map fun q => rneShift q s, eb := (b.scale : Int) - 127 + fmtUnit f + (s : Int), zero := false, ok := b.ok }

/-- The pleat exponent of the blocks that a pleat touches, lowest-numbered first (R88). -/
def pleatExp (bs : List HemBlock) : Int :=
  match bs.filter fun b => !b.zero with
  | [] => match bs with | [] => 0 | b :: _ => b.eb
  | b :: r => maxInt b.eb (r.map HemBlock.eb)

/-- A block's elements aligned to the pleat exponent (R88). -/
def alignBlock (ep : Int) (b : HemBlock) : List Int := b.q.map fun q => rneShift q (ep - b.eb).toNat

/-! ### Saturating accumulation (R95, R97) -/

/-- A value clamped to n bits, with the mark of the clamp. -/
def satInt (n : Nat) (v : Int) : Int × Bool :=
  let hi : Int := (2 : Int) ^ (n - 1) - 1
  let lo : Int := -((2 : Int) ^ (n - 1))
  if hi < v then (hi, true) else if v < lo then (lo, true) else (v, false)

/-- shl_sat: shifted left, clamped. A shift beyond n bits clamps every value but zero, as one by n bits does. -/
def shlSat (n : Nat) (v : Int) (s : Nat) : Int × Bool := satInt n (v * (2 : Int) ^ (if n + 1 < s then n + 1 else s))

/-- One accumulation of R95: a wide value w at exponent ew (none: empty), marked or not, takes v at exponent er. A lane whose shift has
just set wsat keeps its clamped value, and the same call adds nothing to it; a shift of n that saturates adds the clamped n and sets
wsat (DESIGN CHOICE, log entry 237: the spec says what a lane does once wsat is 1, and this is the call that sets it). -/
def accAdd (n : Nat) (wempty : Bool) (w : Int) (ew : Int) (wsat : Bool) (v : Int) (er : Int) : Int × Bool :=
  if wempty then satInt n v
  else if wsat then (w, true)
  else
    let a := if er < ew then shlSat n w (ew - er).toNat else (w, false)
    let e := if er < ew then er else ew
    let b := shlSat n v (er - e).toNat
    let c := satInt n (a.1 + b.1)
    if a.2 then (a.1, true) else (c.1, b.2 || c.2)

/-- round32(L × 2^el × c) with the clamp of R100: the value and the saturation mark. -/
def finishLane (l : Int) (el : Int) (c : BF16) : F32 × Bool :=
  let r := roundDy false ({ m := l, e := el : Dy }.mul (toDy (ofBF16 c)))
  if isInf r then (withSign (fNeg r) 0x7F7FFFFF, true) else (if isZero r then (if l = 0 ∨ isZero (ofBF16 c) then 0 else r) else r, false)

end Sys2Proof.Machine
end

