-- ==== Sys2Proof/Machine/Ops.lean ====
section
/-! DEFINITION. The named operations over the module's state that every family of commands shares: pages and their
identities, reading and changing one table entry, register storage with vendor defaults, black-box records, error capture,
events with their interrupts, counters, block states, and the gate that a register write passes. -/

namespace Sys2Proof.Machine

/-- What every meaning answers: the spec gives each command an effect, so that none stops. -/
abbrev Res := Host.Outcome State Fault Refusal

/-! ### Variant (R1, R5) -/

/-- The enabled logical panels (R1). -/
def panelsEn (s : State) : Nat := match s.variant with | .k48F => 48 | .k40F => 40 | .k32H => 32

/-- The enabled stacks, one bit each (R1, R5). -/
def stackMap (s : State) : Nat := match s.variant with | .k48F => 0xF | .k40F => 0xF | .k32H => 0x5

/-- Whether a stack is enabled (R1). -/
def stackOn (s : State) (k : Nat) : Bool := k < 4 && (stackMap s).testBit k

/-- The number of enabled stacks (R5). -/
def stacksEn (s : State) : Nat := match s.variant with | .k48F => 4 | .k40F => 4 | .k32H => 2

/-- The DRAM capacity in 64 KiB frames: 72 GiB a stack (R9). -/
def dramFrames (s : State) : Nat := stacksEn s * 1179648

/-- The half that a logical panel sits in: columns 0 to 3 are the west half (R19). -/
def halfOf (panel : Nat) : Nat := if panel % 8 < 4 then 0 else 1

/-! ### Pages (R428) -/

/-- A page's number in BAR0, its offset over 4 KiB; a tenant page's own number above them. -/
def pageKey : PageId → Nat
  | .die => 0 | .jobel => 1 | .sec => 2 | .hk => 3
  | .host p => 4 + p
  | .bb => 6
  | .half h => 0x800 + 0x100 * h
  | .kwath p => 0x800 + 0x100 * (p / 8) + 1 + p % 8
  | .stack k => 0x800 + 0x100 * (k / 2) + 9 + k % 2
  | .panel i => 0x1000 + 0x40 * i
  | .core i => 0x1001 + 0x40 * i
  | .seq i => 0x1002 + 0x40 * i
  | .att i => 0x1003 + 0x40 * i
  | .smp i => 0x1004 + 0x40 * i
  | .slice i k => 0x1005 + 0x40 * i + k
  | .router i => 0x100D + 0x40 * i
  | .tenant p v => 0x10000 + p * 256 + v

/-- The page that a BAR0 page number names (R428, R429); none elsewhere. -/
def pageOfKey (k : Nat) : Option PageId :=
  if k = 0 then some .die
  else if k = 1 then some .jobel
  else if k = 2 then some .sec
  else if k = 3 then some .hk
  else if k = 4 then some (.host 0)
  else if k = 5 then some (.host 1)
  else if k = 6 then some .bb
  else if 0x800 ≤ k ∧ k < 0xA00 then
    let h := (k - 0x800) / 0x100
    let o := (k - 0x800) % 0x100
    if o = 0 then some (.half h) else if o ≤ 8 then some (.kwath (8 * h + (o - 1)))
    else if o ≤ 10 then some (.stack (2 * h + (o - 9))) else none
  else if 0x1000 ≤ k ∧ k < 0x1C00 then
    let i := (k - 0x1000) / 0x40
    let o := (k - 0x1000) % 0x40
    if o = 0 then some (.panel i) else if o = 1 then some (.core i) else if o = 2 then some (.seq i)
    else if o = 3 then some (.att i) else if o = 4 then some (.smp i)
    else if o ≤ 12 then some (.slice i (o - 5)) else if o = 13 then some (.router i) else none
  else none

/-- The panel group that a page belongs to. -/
def pagePanel : PageId → Option Nat
  | .panel i => some i | .core i => some i | .seq i => some i | .att i => some i | .smp i => some i
  | .slice i _ => some i | .router i => some i
  | _ => none

/-- Whether the page is there: its panel and its stack enabled (R4, R429). -/
def pageExists (s : State) (p : PageId) : Bool :=
  match p with
  | .host n => n < 2
  | .half h => h < 2
  | .kwath n => n < 16
  | .stack k => stackOn s k
  | .slice i k => i < panelsEn s && k < 8
  | .panel i => i < panelsEn s
  | .core i => i < panelsEn s
  | .seq i => i < panelsEn s
  | .att i => i < panelsEn s
  | .smp i => i < panelsEn s
  | .router i => i < panelsEn s
  | .tenant n v => n < 2 && 1 ≤ v && v < 256
  | .die => true | .jobel => true | .sec => true | .hk => true | .bb => true

/-- BLK_ID.TYPE (R428, R430). -/
def pageType : PageId → Nat
  | .die => 0x01 | .jobel => 0x02 | .sec => 0x03 | .hk => 0x04 | .host _ => 0x05 | .bb => 0x06 | .tenant _ _ => 0x07
  | .half _ => 0x10 | .kwath _ => 0x11 | .stack _ => 0x12
  | .panel _ => 0x20 | .core _ => 0x21 | .seq _ => 0x22 | .att _ => 0x23 | .smp _ => 0x24 | .slice _ _ => 0x25
  | .router _ => 0x26

/-- BLK_ID.INSTANCE (R428, R430). -/
def pageInst : PageId → Nat
  | .host p => p | .half h => h | .kwath p => p | .stack k => k | .panel i => i | .core i => i | .seq i => i
  | .att i => i | .smp i => i | .slice i _ => i | .router i => i | .tenant _ v => v
  | .die => 0 | .jobel => 0 | .sec => 0 | .hk => 0 | .bb => 0

/-- BLK_ID.SUB (R430). -/
def pageSub : PageId → Nat
  | .slice _ k => k
  | _ => 0

/-- BLK_OWNER.CLASS (R428, R392): 0 management, 1 owner, 2 tenant. -/
def pageClass : PageId → Nat
  | .jobel => 0
  | .tenant _ _ => 2
  | _ => 1

/-- Whether the page lives in the auxiliary domain or the ports, and so answers in every phase (R481, R491, R493). -/
def pageAux : PageId → Bool
  | .die => true | .jobel => true | .sec => true | .hk => true | .host _ => true | .bb => true | .tenant _ _ => true
  | _ => false

/-- Whether the page's block has its rails: the module is READY, a management-only restart included (R481, R488). -/
def pagePowered (s : State) (p : PageId) : Bool :=
  pageAux p || (s.power.compute && (s.start.phase == 7 || (s.start.phase == 10 && s.start.limp == 0)))

/-- The port of a window. -/
def windowPort : Window → Option Nat
  | .mgmt => none
  | .pf p => some p
  | .vf p _ => some p

/-- Whether accesses of a window reach the registers at all: AUX is up (R456), and the crossing of the window's port has not failed
(R483). -/
def windowOn (s : State) (w : Window) : Bool :=
  s.power.aux && (match windowPort w with | some p => !s.start.failPcie.getLsbD p | none => true)

/-! ### Table entries -/

/-- A page's common header (R430). -/
def getHdr (s : State) (p : PageId) : Hdr := mapGet Hdr.start s.hdrs (pageKey p)

/-- A changed common header. -/
def modHdr (s : State) (p : PageId) (f : Hdr → Hdr) : State :=
  { s with hdrs := mapMod Hdr.start s.hdrs (pageKey p) f }

/-- A host port. -/
def getPort (s : State) (p : Nat) : Port := if p = 0 then s.port0 else s.port1

/-- A changed host port. -/
def modPort (s : State) (p : Nat) (f : Port → Port) : State :=
  if p = 0 then { s with port0 := f s.port0 } else { s with port1 := f s.port1 }

/-- A VF's entry. -/
def getVf (s : State) (port vf : Nat) : Vf := mapGet Vf.start s.vfs (port * 256 + vf)

/-- A changed VF. -/
def modVf (s : State) (port vf : Nat) (f : Vf → Vf) : State :=
  { s with vfs := mapMod Vf.start s.vfs (port * 256 + vf) f }

/-- A ring (R436). -/
def getRing (s : State) (port ring : Nat) : Ring := mapGet Ring.start s.rings (port * 4096 + ring)

/-- A changed ring. -/
def modRing (s : State) (port ring : Nat) (f : Ring → Ring) : State :=
  { s with rings := mapMod Ring.start s.rings (port * 4096 + ring) f }

/-- A tenant's entry (R180). -/
def getTenant (s : State) (t : Nat) : Tenant := mapGet Tenant.start s.tenants t

/-- A changed tenant. -/
def modTenant (s : State) (t : Nat) (f : Tenant → Tenant) : State :=
  { s with tenants := mapMod Tenant.start s.tenants t f }

/-- A session's entry (R182). -/
def getSession (s : State) (n : Nat) : Session := mapGet Session.start s.sessions n

/-- A changed session. -/
def modSession (s : State) (n : Nat) (f : Session → Session) : State :=
  { s with sessions := mapMod Session.start s.sessions n f }

/-- A panel in its logical position. -/
def getPanel (s : State) (p : Nat) : Panel := mapGet Panel.start s.panels p

/-- A changed panel. -/
def modPanel (s : State) (p : Nat) (f : Panel → Panel) : State :=
  { s with panels := mapMod Panel.start s.panels p f }

/-- The bolt at a north-west panel. -/
def getBolt (s : State) (b : Nat) : Option Bolt := mapGet none s.bolts b

/-- A changed bolt; nothing where there is none. -/
def modBolt (s : State) (b : Nat) (f : Bolt → Bolt) : State :=
  { s with bolts := mapMod none s.bolts b (fun o => o.map f) }

/-- A bolt put in or taken out. -/
def setBolt (s : State) (b : Nat) (o : Option Bolt) : State := { s with bolts := mapSet none s.bolts b o }

/-- The bolts with their north-west panels, in ascending order. -/
def boltList (s : State) : List (Nat × Bolt) := s.bolts.filterMap fun kv => kv.2.map fun b => (kv.1, b)

/-- The number of a physical array in the array table. -/
def arrKey (a : ArrId) : Nat := (a.pp * 25 + a.tile) * 34 + a.arr

/-- A physical array. -/
def getArr (s : State) (a : ArrId) : Arr := mapGet Arr.start s.arrays.arrs (arrKey a)

/-- A change of the retained areas waits for its commit, within 50 ms (R478). -/
def markDirty (s : State) : State :=
  { s with start := { s.start with dirty := some (s.start.dirty.getD s.now) } }

/-- A changed physical array; its state, mode and EXACT_OK are retained (R75, R477). -/
def modArr (s : State) (a : ArrId) (f : Arr → Arr) : State :=
  let x := getArr s a
  let y := f x
  let s1 := { s with arrays := { s.arrays with arrs := mapSet Arr.start s.arrays.arrs (arrKey a) y } }
  if y.st = x.st ∧ y.exact = x.exact ∧ y.exactOk = x.exactOk then s1 else markDirty s1

/-- The array that a number of the array table names. -/
def arrOfKey (k : Nat) : ArrId := { pp := k / 34 / 25, tile := k / 34 % 25, arr := k % 34 }

/-- The calibration of a physical tile of a physical panel. -/
def calAt (s : State) (pp pt : Nat) : TileCal := mapGet TileCal.start s.arrays.cal (pp * 25 + pt)

/-- The changed calibration of a physical tile. -/
def modCalAt (s : State) (pp pt : Nat) (f : TileCal → TileCal) : State :=
  { s with arrays := { s.arrays with cal := mapMod TileCal.start s.arrays.cal (pp * 25 + pt) f } }

/-- The hem and bobbin behind a logical array. -/
def getHem (s : State) (p tile arr : Nat) : HemArr := mapGet HemArr.start (getPanel s p).hems (tile * 32 + arr)

/-- A changed hem. -/
def modHem (s : State) (p tile arr : Nat) (f : HemArr → HemArr) : State :=
  modPanel s p fun q => { q with hems := mapMod HemArr.start q.hems (tile * 32 + arr) f }

/-- A Kwath port. -/
def getKw (s : State) (p : Nat) : KwPort := mapGet KwPort.start s.fab.ports p

/-- A changed Kwath port. -/
def modKw (s : State) (p : Nat) (f : KwPort → KwPort) : State :=
  { s with fab := { s.fab with ports := mapMod KwPort.start s.fab.ports p f } }

/-- A Kwath lane. -/
def getLane (s : State) (p l : Nat) : KwLane := mapGet KwLane.start s.fab.lanes (p * 8 + l)

/-- A changed Kwath lane. -/
def modLane (s : State) (p l : Nat) (f : KwLane → KwLane) : State :=
  { s with fab := { s.fab with lanes := mapMod KwLane.start s.fab.lanes (p * 8 + l) f } }

/-- A job by its number (R202). -/
def getJob (s : State) (j : Nat) : Option Job := s.jobs.find? fun x => x.id == j

/-- A changed job. -/
def modJob (s : State) (j : Nat) (f : Job → Job) : State :=
  { s with jobs := modWhere (fun x => x.id == j) f s.jobs }

/-- A free value is drawn: the model's counter advances. -/
def drawFree (s : State) : State := { s with freeCtr := s.freeCtr + 1 }

/-- A message leaves the module. -/
def emit (s : State) (o : Out) : State := { s with out := s.out ++ [o] }

/-! ### Registers (R13, R16, R477) -/

/-- The events that the chapters define for a page (R430, R432). -/
def definedEvents (p : PageId) : Word :=
  let block : Word := match p with
    | .die => 0xFFFDF7FF0F000000
    | .sec => 0x0000000000FF0000
    | .hk => 0x0000000000FF0000
    | .host _ => 0x00000000003F0000
    | .bb => 0x00000000000F0000
    | .half _ => 0x00000000000F0000
    | .kwath _ => 0x00000000000F0000
    | .panel _ => 0x000000000FFF0000
    | .seq _ => 0x0000000000030000
    | .att _ => 0x00000000000F0000
    | .smp _ => 0x0000000000030000
    | .slice _ _ => 0x0000000000030000
    | .router _ => 0x0000000000030000
    | .tenant _ _ => 0x0000000000030000
    | .jobel => 0 | .stack _ => 0 | .core _ => 0
  block ||| 0x1F

/-- The KV_BUCKETn register that holds two buckets of a table (R178). -/
def bucketReg (t : List (Nat × Nat)) (n : Nat) : Word :=
  let a := nth (0, 0) t (2 * n)
  let b := nth (0, 0) t (2 * n + 1)
  packReg [(0, 18, a.1), (18, 5, a.2), (32, 18, b.1), (50, 5, b.2)]

/-- The vendor default of a K field's register, and zero for every other (R16). KV_POOL and WT_REGION, for which the spec
states no default, hold zero (DESIGN CHOICE, log entry 14). -/
def vendorDefault (p : PageId) (off : Nat) : Word :=
  if off = 0x020 then definedEvents p &&& ~~~(1 : Word) else
  match p with
  | .die =>
    if off = 0x088 then 10
    else if off = 0x100 then 160
    else if off = 0x180 then packReg [(8, 8, 16), (16, 12, 10), (32, 10, 350), (42, 10, 235), (52, 8, 75)]
    else if off = 0x208 then 6
    else if 0x220 ≤ off ∧ off ≤ 0x258 ∧ off % 8 = 0 then bucketReg vendorBuckets ((off - 0x220) / 8)
    else if off = 0x388 then packReg [(8, 8, 10)]
    else if off = 0x400 then packReg [(0, 8, 4), (8, 8, 8), (16, 8, 16), (24, 8, 16)]
    else if off = 0x480 then packReg [(8, 8, 20), (16, 8, 10), (24, 6, 32)]
    else if off = 0x500 then packReg [(0, 1, 1), (4, 4, 8), (8, 8, 36), (16, 12, 600)]
    else if off = 0x580 then packReg [(1, 1, 1), (8, 8, 10), (16, 4, 3)]
    else 0
  | .sec => if off = 0x088 then 1 else 0
  | .hk =>
    if off = 0x080 then packReg [(8, 8, 8), (16, 8, 20), (24, 8, 40), (32, 6, 5), (40, 1, 1), (44, 4, 2)]
    else if off = 0x088 then 0x210
    else if off = 0x090 then 0xFEDCBA9876543 <<< 4
    else if off = 0x098 then packReg [(0, 4, 2), (4, 4, 13), (8, 2, 3), (16, 16, 0x4321)]
    else if off = 0x0B0 then packReg [(0, 5, 27), (8, 7, 32), (16, 7, 32)]
    else if off = 0x0B8 then packReg [(0, 8, 36), (8, 8, 50), (16, 8, 28), (24, 8, 40)]
    else 0
  | .host _ => if off = 0x088 then bitOf 12 else 0
  | .panel _ =>
    if off = 0x480 then packReg [(0, 1, 1), (8, 8, 32), (16, 4, 4), (24, 8, 8)]
    else if off = 0x540 then 10
    else 0
  | _ => 0

/-- A register's number in the register table. -/
def regKey (p : PageId) (off : Nat) : Nat := pageKey p * 4096 + off

/-- The stored value of an RW register: the last value written, or the start value (R13). -/
def getReg (s : State) (p : PageId) (off : Nat) : Word := mapGet (vendorDefault p off) s.regs (regKey p off)

/-- An RW register written. -/
def setReg (s : State) (p : PageId) (off : Nat) (v : Word) : State :=
  { s with regs := mapSet (vendorDefault p off) s.regs (regKey p off) v }

/-- Whether the register is a K field's: kept in the configuration area (R477). -/
def isKept (p : PageId) (off : Nat) : Bool :=
  if off = 0x020 then true else
  match p with
  | .die => [0x088, 0x100, 0x180, 0x200, 0x208, 0x220, 0x228, 0x230, 0x238, 0x240, 0x248, 0x250, 0x258, 0x320, 0x380, 0x388,
      0x400, 0x480, 0x500, 0x580].contains off
  | .sec => off == 0x088
  | .hk => [0x080, 0x088, 0x090, 0x098, 0x0B0, 0x0B8].contains off
  | .host _ => off == 0x088
  | .panel _ => off == 0x480 || off == 0x540
  | _ => false

/-- A die-page register. -/
def dieReg (s : State) (off : Nat) : Word := getReg s .die off

/-- The credit-wait limit in µs of a sender in a panel group, or of any other sender (R37). -/
def creditLimit (s : State) (panel : Option Nat) : Nat :=
  match panel with
  | some p => field (getReg s (.panel p) 0x540) 9 0 * 1000
  | none => field (dieReg s 0x088) 9 0 * 1000

/-! ### Black-box records (R502, R503) -/

/-- A record enters the live ring under the next sequence number; the ring keeps the last 4,096. -/
def bbPut (s : State) (type inst code : Nat) (data : List Byte) : State :=
  let r : BbRec := { seq := s.bb.nextSeq, epoch := s.bb.epoch, type := BitVec.ofNat 8 type, inst := BitVec.ofNat 8 inst,
                     code := BitVec.ofNat 16 code, data := (data ++ List.replicate 12 0).take 12 }
  let l := s.bb.live ++ [r]
  { s with bb := { s.bb with live := l.drop (l.length - 4096), nextSeq := s.bb.nextSeq + 1 } }

/-- A record from a page. -/
def bbRecord (s : State) (p : PageId) (code : Nat) (data : List Byte) : State :=
  bbPut s (pageType p) (pageInst p) code data

/-! ### Interrupts (R445, R446) -/

/-- A function sends an MSI-X vector when its table allows it; a masked entry leaves its pending bit (R424, R427). -/
def sendMsix (s : State) (port fn vector : Nat) : State :=
  let q := getPort s port
  if !q.msixOn.contains fn then s
  else if q.msixMasked.contains (fn, vector) then
    modPort s port fun q => if q.msixPending.contains (fn, vector) then q else { q with msixPending := q.msixPending ++ [(fn, vector)] }
  else emit s (.msix port fn vector)

/-- The port that BLK_OWNER.PORT names (R433): 0, 1, or 2 for either. -/
def ownerPort (s : State) (p : PageId) : Nat :=
  match p with
  | .host n => n
  | _ => (getHdr s p).ownPort.toNat

/-- Whether a page's events reach a port's PF (R446). -/
def routed (s : State) (p : PageId) (port : Nat) : Bool :=
  match p with
  | .tenant _ _ => false
  | _ => ownerPort s p == 2 || ownerPort s p == port

/-- A PF is sent its event vector, once until the driver reads EVT_SUM0 (R446). -/
def notifyPort (s : State) (p : PageId) (port : Nat) : State :=
  let c := getReg s (.host port) 0x088
  if routed s p port && bit c 12 && (getPort s port).armed then
    modPort (sendMsix s port 0 (field c 11 0)) port fun q => { q with armed := false }
  else s

/-- An enabled bit of a page has become set (R446). -/
def notify (s : State) (p : PageId) : State :=
  match p with
  | .tenant port vf =>
    let v := getVf s port vf
    if v.tEn && v.armed then modVf (sendMsix s port vf v.tVector.toNat) port vf fun v => { v with armed := false } else s
  | _ => notifyPort (notifyPort s p 0) p 1

/-- A bit of EVT_STATUS becomes set, and the interrupt of R446 follows when it is enabled and was clear. -/
def setEvt (s : State) (p : PageId) (n : Nat) (forced : Bool) : State :=
  let h := getHdr s p
  let s1 := modHdr s p fun h =>
    { h with
      evt := h.evt ||| bitOf n
      forced := if forced then (if bit h.evt n then h.forced else h.forced ||| bitOf n) else h.forced &&& ~~~bitOf n }
  if !bit h.evt n && bit (getReg s p 0x020) n then notify s1 p else s1

/-! ### Error capture (R433, R434) -/

/-- ERR_CAPTURE takes a record, or marks the record that nobody has read as MISSED. A record taken raises ERR_CAPTURED,
which captures nothing itself. -/
def capture (s : State) (p : PageId) (code win off detail : Nat) : State :=
  if (getHdr s p).captureHeld then modHdr s p fun h => { h with capture := h.capture ||| bitOf 63 }
  else
    let s1 := modHdr s p fun h =>
      { h with
        captureHeld := true
        capture := packReg [(0, 8, code), (8, 3, win), (12, 12, off), (24, 32, detail)] }
    setEvt (bbRecord s1 p 1 []) p 1 false

/-- Identifiers put together in their order, lowest bits first, each at its width (R434). -/
def packIds : List (Nat × Nat) → Nat
  | [] => 0
  | (w, v) :: r => v % 2 ^ w + 2 ^ w * packIds r

/-! ### Events (R432 to R434, R504) -/

/-- Bit n of a page's EVT_STATUS is raised by its event, with the identifiers that the event's chapter names. -/
def raiseEvent (s : State) (p : PageId) (n : Nat) (ids : List (Nat × Nat)) : State :=
  if !pageExists s p then s else
  let v := packIds ids
  let s1 := capture s p (0x10 + n) 7 0 (v % 2 ^ 32)
  setEvt (bbRecord s1 p n (natLe 12 v)) p n false

/-- The ones of a word become set bits of EVT_STATUS, as EVT_FORCE sets them (R432) or as the hardware does (R14). -/
def setEvts (s : State) (p : PageId) (forced : Bool) : List Nat → Word → State
  | [], _ => s
  | n :: ns, w => setEvts (if bit w n then setEvt s p n forced else s) p forced ns w

/-! ### Counters (R78, R383) -/

/-- A page's counter runs: first offset, counters, clear offset (R435). -/
def cntRuns : PageId → List (Nat × Nat × Nat)
  | .die => [(0x198, 2, 0x1A8), (0x260, 4, 0x280), (0x3A0, 4, 0x3C0), (0x4A0, 3, 0x4B8), (0x510, 12, 0x570), (0x628, 1, 0x630)]
  | .panel _ => [(0x408, 5, 0x430), (0x4A8, 3, 0x4C0)]
  | .att _ => [(0x080, 3, 0x098)]
  | .smp _ => [(0x080, 3, 0x098)]
  | .seq _ => [(0x098, 3, 0x0B0)]
  | .slice _ _ => [(0x080, 3, 0x098)]
  | .router _ => [(0x080, 5, 0x0A8)]
  | .half _ => [(0x090, 3, 0x0A8)]
  | .kwath _ => [(0x088, 6, 0x0B8)]
  | .sec => [(0x098, 5, 0x0C0)]
  | .host _ => [(0x0B8, 5, 0x0E0)]
  | .hk => [(0x0D8, 5, 0x100)]
  | _ => []

/-- The event that a counter's saturation raises (R80, R112, R137, R179, R206, R235, R283, R332, R359, R390, R423, R454,
R476, R494). The calibration counters, for which R137 names no bit, raise the event of their own kind (DEDUCED, log
entry 15). -/
def cntEvent (p : PageId) (off : Nat) : Nat :=
  match p with
  | .die =>
    if off = 0x198 then 32 else if off = 0x1A0 then 33 else if off < 0x280 then 39 else if off < 0x3C0 then 48
    else if off < 0x4B8 then 55 else if off < 0x570 then 63 else 26
  | .panel _ => if off < 0x430 then 16 else if off = 0x4A8 then 23 else if off = 0x4B0 then 21 else 20
  | .att _ => 19
  | .half _ => 19
  | .kwath _ => 19
  | .sec => 23
  | .hk => 23
  | .host _ => 21
  | _ => 17

/-- A counter's number: HEM counters are per tile (R77). -/
def cntKey (p : PageId) (off tile : Nat) : Nat := regKey p off * 32 + tile

/-- A counter. -/
def getCnt (s : State) (p : PageId) (off tile : Nat) : Counter := mapGet Counter.zero s.counters (cntKey p off tile)

/-- A counter's highest value. -/
def cntMax : Nat := 0xFFFFFFFFFFFF

/-- A counter after n more: it stays at its highest value and sets OVF. -/
def cntAdd (c : Counter) (n : Nat) : Counter :=
  if c.count.toNat + n < cntMax then { c with count := BitVec.ofNat 48 (c.count.toNat + n) }
  else { count := BitVec.ofNat 48 cntMax, ovf := true }

/-- A counter counts n; the page's event is raised once for a counter that saturates, with the identifiers that its chapter names
(R80, R113, R179, R206). -/
def bumpIds (s : State) (p : PageId) (off tile n : Nat) (ids : List (Nat × Nat)) : State :=
  if n = 0 ∨ !pageExists s p then s else
  let c := getCnt s p off tile
  let d := cntAdd c n
  let s1 := { s with counters := mapSet Counter.zero s.counters (cntKey p off tile) d }
  if d.ovf && !c.ovf then raiseEvent s1 p (cntEvent p off) ids else s1

/-- A counter counts n, in an event that names nothing further. -/
def bumpTile (s : State) (p : PageId) (off tile n : Nat) : State := bumpIds s p off tile n []

/-- A counter of a page without a selector counts one. -/
def bump (s : State) (p : PageId) (off : Nat) : State := bumpTile s p off 0 1

/-- A counter of a page without a selector counts one; if it saturates, its event names what the count was of. -/
def bumpFor (s : State) (p : PageId) (off : Nat) (ids : List (Nat × Nat)) : State := bumpIds s p off 0 1 ids

/-- The counters of a run at zero (R78). -/
def clearRun (s : State) (p : PageId) (first count : Nat) (tiles : List Nat) : State :=
  let keys := (List.range count).flatMap fun i => tiles.map fun t => cntKey p (first + 8 * i) t
  { s with counters := s.counters.filter fun kv => !keys.contains kv.1 }

/-- An accepted clear write counts in CNT_CLEARS (R435). -/
def countClear (s : State) (p : PageId) : State := modHdr s p fun h => { h with clears := h.clears + 1 }

/-! ### Block states (R430) -/

/-- BLK_STATE changes: its generation rises by one and STATE_CHANGE is raised; Jobel's mirror follows unless Jobel is
restarting (R384). -/
def setBlk (s : State) (p : PageId) (st : BlkSt) (held : Bool) (cause : Nat) : State :=
  let h := getHdr s p
  if h.st = st ∧ h.held = held then s
  else
    let s1 := modHdr s p fun h => { h with st := st, held := held, cause := BitVec.ofNat 8 cause, gen := h.gen + 1 }
    let s2 := if s.start.restarting then s1
              else { s1 with ras := { s1.ras with mirror := mapSet 0 s1.ras.mirror (pageKey p) (h.gen + 1) } }
    raiseEvent s2 p 0 []

/-- The number of a block state in BLK_STATE.STATE (R430). -/
def blkCode : BlkSt → Nat
  | .off => 0 | .test => 1 | .ready => 2 | .active => 3 | .draining => 4 | .retired => 5 | .failed => 6

/-! ### The gate of a register write (R4, R392, R433, R481, R491) -/

/-- A window's code in ERR_CAPTURE (R433). -/
def winCode : Window → Nat
  | .mgmt => 0
  | .pf p => 1 + p
  | .vf p _ => 3 + p

/-- The port whose host page records what a window's access leaves behind; port 0's for the management window (log
entry 16). -/
def winPort : Window → Nat
  | .mgmt => 0
  | .pf p => p
  | .vf p _ => p

/-- Whether R392 and R433 let a window write a register of a page: a page of class 2 only its own VF, and only its event controls.
Debug level 2 opens the pages of class 0 to both PFs (R419). -/
def mayWrite (s : State) (w : Window) (p : PageId) (off : Nat) : Bool :=
  match w with
  | .mgmt => pageClass p != 2
  | .pf port => (pageClass p == 1 || pageClass p == 0 && s.sec.debug == 2) && (ownerPort s p == 2 || ownerPort s p == port)
  | .vf port vf => p == .tenant port vf && [0x018, 0x020, 0x0A0].contains (off / 8 * 8)

/-- A write to a register of a page, past the gate: an absent page drops it in silence (R4); an unpowered block's page
drops it and the host port page records it (R491); a window or port that R392 or R433 refuses is recorded by the page
itself; every other write acts. -/
def gated (s : State) (w : Window) (p : PageId) (off value : Nat) (act : State → State) : State :=
  if !pageExists s p || !windowOn s w then s
  else if !pagePowered s p then capture s (.host (winPort w)) 4 (winCode w) off (value % 2 ^ 32)
  else if !mayWrite s w p off then capture s p 4 (winCode w) off (value % 2 ^ 32)
  else act s

/-- Whether R392 and R433 let a window read a page. -/
def mayRead (s : State) (w : Window) (p : PageId) : Bool :=
  windowOn s w && match w with
  | .mgmt => pageExists s p
  | .pf _ => pageExists s p && (pageClass p != 0 || s.sec.debug == 2)
  | .vf port vf => p == .tenant port vf && pageExists s p

/-! ### Failure signatures (R387, R388) -/

/-- What a detector says of a fault (R388). -/
structure SigInfo where
  cls : Nat
  detector : Nat
  code : Nat
  logical : Option (Nat × Nat × Nat)
  physical : Option (Nat × Nat × Nat × Nat)
  action : Option Nat
  mode : Option Nat
  lane : Option Nat
  excess : Option Int
  deriving DecidableEq, Repr

/-- A signature with nothing but its class, detector and code. -/
def SigInfo.plain (cls detector code : Nat) : SigInfo :=
  { cls := cls, detector := detector, code := code, logical := none, physical := none, action := none, mode := none,
    lane := none, excess := none }

/-- CBOR head of a major type and an argument, in the core deterministic encoding (R388). -/
def cborHead (major n : Nat) : List Byte :=
  if n < 24 then [BitVec.ofNat 8 (major * 32 + n)]
  else if n < 256 then BitVec.ofNat 8 (major * 32 + 24) :: natBe 1 n
  else if n < 65536 then BitVec.ofNat 8 (major * 32 + 25) :: natBe 2 n
  else if n < 4294967296 then BitVec.ofNat 8 (major * 32 + 26) :: natBe 4 n
  else BitVec.ofNat 8 (major * 32 + 27) :: natBe 8 n

/-- A CBOR uint. -/
def cborUint (n : Nat) : List Byte := cborHead 0 n

/-- A CBOR int. -/
def cborInt (i : Int) : List Byte := if 0 ≤ i then cborHead 0 i.toNat else cborHead 1 ((-i) - 1).toNat

/-- CBOR null. -/
def cborNull : List Byte := [0xF6]

/-- A value or null. -/
def cborOpt {α : Type} (f : α → List Byte) : Option α → List Byte
  | none => cborNull
  | some a => f a

/-- The CBOR encoding of a signature record (R388): one map of eighteen keys in ascending order. -/
def sigCbor (s : State) (g : Sig) : List Byte :=
  let key (k : Nat) (v : List Byte) : List Byte := cborUint k ++ v
  cborHead 5 18
  ++ key 1 (cborUint 1) ++ key 2 (cborUint g.seq.toNat) ++ key 3 (cborUint g.epoch.toNat)
  ++ key 4 (cborHead 2 16 ++ natBe 16 (s.sec.identity.toNat / 2 ^ 384))
  ++ key 5 (cborUint s.stepping.toNat) ++ key 6 (cborUint s.start.fwVersion.toNat)
  ++ key 7 (cborUint g.cls) ++ key 8 (cborUint g.detector) ++ key 9 (cborUint g.code)
  ++ key 10 (cborOpt (fun l : Nat × Nat × Nat => cborHead 4 3 ++ cborUint l.1 ++ cborUint l.2.1 ++ cborUint l.2.2) g.logical)
  ++ key 11 (cborOpt (fun l : Nat × Nat × Nat × Nat =>
      cborHead 4 4 ++ cborUint l.1 ++ cborUint l.2.1 ++ cborUint l.2.2.1 ++ cborUint l.2.2.2) g.physical)
  ++ key 12 (cborOpt cborUint g.action) ++ key 13 (cborOpt cborUint g.mode) ++ key 14 (cborOpt cborUint g.lane)
  ++ key 15 (cborOpt cborInt g.excess) ++ key 16 (cborInt g.temp)
  ++ key 17 (cborHead 4 2 ++ cborUint g.rails.1 ++ cborUint g.rails.2) ++ key 18 (cborUint g.count)

/-- SIG_CONT records: twelve bytes of the encoding each, the last zero-filled (R504). -/
def sigCont (s : State) : List (List Byte) → State
  | [] => s
  | c :: cs => sigCont (bbRecord s .jobel 0x111 c) cs

/-- The newest HK-A diode reading in 1/64 °C (R388, R465). -/
def diodeNow (s : State) : Int := match s.hk.diodes with | [] => 0 | (_, v) :: _ => v

/-- Jobel writes a failure signature: it keeps the last 1,024, and the black box takes SIG and SIG_CONT in one run. -/
def writeSig (s : State) (i : SigInfo) : State :=
  let same := s.ras.sigs.filter fun g => g.cls == i.cls && g.code == i.code && g.physical == i.physical
  let g : Sig := {
    seq := s.bb.nextSeq, epoch := s.bb.epoch, cls := i.cls, detector := i.detector, code := i.code,
    logical := i.logical, physical := i.physical, action := i.action, mode := i.mode, lane := i.lane, excess := i.excess,
    temp := diodeNow s, rails := (500 + 5 * s.power.arrRail, 500 + 5 * s.power.logRail), count := same.length + 1, read := false }
  let enc := sigCbor s g
  let parts := chunksOf 12 enc.length enc
  let s1 := bbRecord s .jobel 0x110 ([BitVec.ofNat 8 i.cls, BitVec.ofNat 8 i.detector] ++ natLe 2 i.code ++ [BitVec.ofNat 8 parts.length])
  let s2 := sigCont s1 parts
  let l := s2.ras.sigs ++ [g]
  let lapped := match l with | o :: _ => decide (1024 < l.length) && !o.read | [] => false
  let s3 := { s2 with ras := { s2.ras with sigs := l.drop (l.length - 1024), lost := s2.ras.lost || lapped } }
  if lapped then raiseEvent s3 .die 62 [(64, g.seq.toNat)] else s3

end Sys2Proof.Machine
end

