-- ==== Sys2Proof/Machine/Bolts.lean ====
section
/-! DEFINITION. Bolts on the grid, the physical units behind logical positions, and panel SRAM with its tags and marks. -/

namespace Sys2Proof.Machine

/-! ### Bolts (R28) -/

/-- The logical panels of a rectangle, in ascending bolt-relative index (R288). -/
def rectPanels (nw cols rows : Nat) : List Nat :=
  (List.range (rows * cols)).map fun r => nw + r / cols * 8 + r % cols

/-- The logical panels of a bolt. -/
def boltPanels (nw : Nat) (b : Bolt) : List Nat := rectPanels nw b.cols b.rows

/-- The logical index of a bolt-relative panel (R288). -/
def relPanel (nw : Nat) (b : Bolt) (r : Nat) : Nat := nw + r / b.cols * 8 + r % b.cols

/-- Whether a logical panel lies in a bolt. -/
def inBolt (nw : Nat) (b : Bolt) (p : Nat) : Bool :=
  nw / 8 ≤ p / 8 && p / 8 < nw / 8 + b.rows && nw % 8 ≤ p % 8 && p % 8 < nw % 8 + b.cols

/-- The bolt-relative index of a logical panel of a bolt. -/
def panelRel (nw : Nat) (b : Bolt) (p : Nat) : Nat := (p / 8 - nw / 8) * b.cols + (p % 8 - nw % 8)

/-- The bolt that holds a logical panel. -/
def boltOfPanel (s : State) (p : Nat) : Option (Nat × Bolt) := (boltList s).find? fun x => inBolt x.1 x.2 p

/-- Whether a panel is its bolt's lead (R237): the lowest-numbered panel, the north-west one. -/
def isLead (s : State) (p : Nat) : Bool := match boltOfPanel s p with | some (nw, _) => nw == p | none => false

/-- The tenant of a bolt's pattern. -/
def patTenant (s : State) (p : Nat) : Nat := match boltOfPanel s p with | some (_, b) => b.tenant | none => 0

/-- The panel-table entry of a panel of a bolt (R288). -/
def panelEntry (nw : Nat) (b : Bolt) (p : Nat) : Option PanelEntry :=
  match b.pat with
  | none => none
  | some t => t.panels[panelRel nw b p]?

/-- BLK_OWNER of the pages of a bolt's panel groups follows the bolt (R432). -/
def setOwner (s : State) (p : PageId) (port bolt tenant : Nat) : State :=
  modHdr s p fun h =>
    if h.ownPort.toNat = port ∧ h.ownBolt.toNat = bolt ∧ h.ownTenant.toNat = tenant then h
    else { h with
      ownPort := BitVec.ofNat 2 port
      ownBolt := BitVec.ofNat 6 bolt
      ownTenant := BitVec.ofNat 12 tenant
      ownGen := h.ownGen + 1 }

/-- The pages of a panel group (R428). -/
def groupPages (i : Nat) : List PageId :=
  [.panel i, .core i, .seq i, .att i, .smp i, .slice i 0, .slice i 1, .slice i 2, .slice i 3, .slice i 4, .slice i 5,
    .slice i 6, .slice i 7, .router i]

/-- BLK_OWNER of every page of some panels' groups. -/
def ownPanels (s : State) (ps : List Nat) (port bolt tenant : Nat) : State :=
  (ps.flatMap groupPages).foldl (fun s p => setOwner s p port bolt tenant) s

/-! ### Physical units behind logical positions (R22, R26) -/

/-- The physical panel of the floorplan behind a logical panel: half × 25 + row × 4 + column within the half. -/
def floorPanel (p : Nat) : Nat := halfOf p * 25 + p / 8 * 4 + p % 4

/-- The physical panel behind a logical panel: the one that a repair has put there, else the floorplan's. Which physical panels of a
die stand behind the grid of an IKV-K2-40F or IKV-K2-32H is the vendor test's choice (R21) and the spec gives none: DESIGN CHOICE (log
entry 211), the model takes the floorplan's position of the same row and column for them too. -/
def physPanel (s : State) (p : Nat) : Nat := (mapGet none s.arrays.panelOf p).getD (floorPanel p)

/-- The physical tile behind a logical tile. -/
def physTile (s : State) (pp t : Nat) : Nat := if t < 24 then (mapGet none s.arrays.tileOf (pp * 24 + t)).getD t else t

/-- The array of a physical tile that serves a logical array there. -/
def arrAt (s : State) (pp pt a : Nat) : ArrId :=
  { pp := pp, tile := pt, arr := (mapGet none s.arrays.arrOf ((pp * 25 + pt) * 32 + a)).getD a }

/-- The physical array behind a logical array. -/
def physArr (s : State) (p t a : Nat) : ArrId := arrAt s (physPanel s p) (physTile s (physPanel s p) t) a

/-- The physical tile that a pair of the calibration loop names (R122): logical panels 0 to 47 with logical tiles 0 to 23 and the
spare tile as 24, and the two half spare panels as 48 and 49. -/
def calTile (s : State) (p t : Nat) : Nat × Nat :=
  let pp := if p < 48 then physPanel s p else (p - 48) * 25 + 24
  (pp, physTile s pp t)

/-- A tile's calibration. -/
def getCal (s : State) (p t : Nat) : TileCal := calAt s (calTile s p t).1 (calTile s p t).2

/-- A tile's changed calibration. -/
def modCal (s : State) (p t : Nat) (f : TileCal → TileCal) : State := modCalAt s (calTile s p t).1 (calTile s p t).2 f

/-- The number of a logical position: panel, tile and array. -/
def posKey (p t a : Nat) : Nat := (p * 24 + t) * 32 + a

/-- The logical panel behind which a physical panel stands, among the enabled ones. -/
def logPanel (s : State) (pp : Nat) : Option Nat := (List.range (panelsEn s)).find? fun p => physPanel s p == pp

/-- The logical tile that a physical tile serves. -/
def logTile (s : State) (pp pt : Nat) : Option Nat := (List.range 24).find? fun t => physTile s pp t == pt

/-- The logical position that a physical array serves: none for a gusset, a spare tile or a spare panel not in use. -/
def logOf (s : State) (a : ArrId) : Option (Nat × Nat × Nat) :=
  match logPanel s a.pp with
  | none => none
  | some p =>
    match logTile s a.pp a.tile with
    | none => none
    | some t =>
      ((List.range 32).find? fun x => (mapGet none s.arrays.arrOf ((a.pp * 25 + a.tile) * 32 + x)).getD x == a.arr).map
        fun x => (p, t, x)

/-- The pair that names a physical array's tile in the calibration loop: a failed tile, whose place the spare tile has taken, has
none. -/
def calTileOf (s : State) (a : ArrId) : Option (Nat × Nat) :=
  let t := (logTile s a.pp a.tile).getD 24
  if physTile s a.pp t ≠ a.tile then none
  else match logPanel s a.pp with
    | some p => some (p, t)
    | none => if a.pp % 25 = 24 then some (48 + a.pp / 25, t) else none

/-- A physical array as a failure signature names it: half, physical panel, tile and array. -/
def physSig (a : ArrId) : Nat × Nat × Nat × Nat := (a.pp / 25, a.pp, a.tile, a.arr)

/-- The place of a weight block of a panel (R218). -/
def placeOf (b : Bolt) (rel number : Nat) : Option Place := b.place.find? fun x => x.panel == rel && x.number == number

/-- The weight block at a logical position of a bolt. -/
def placeAt (b : Bolt) (rel tile arr : Nat) : Option Place :=
  b.place.find? fun x => x.panel == rel && x.tile == tile && x.arr == arr

/-- Whether a block of a panel stays in the repair copy as a DRAM-tier block (R220). -/
def inTier (b : Bolt) (rel number : Nat) : Bool := b.tier.contains (rel, number)

/-! ### The repair copy (R223) -/

/-- The bytes of a directory entry's chunks, in order, with whether any of them is lost. -/
def entryBytes (copy : List Chunk) (e : DirEntry) : List Byte × Bool :=
  let n := (e.bytes + 65535) / 65536
  let cs : List (Option Chunk) := (List.range n).map fun i => copy.find? fun c => c.idx == e.firstChunk + i
  ((cs.flatMap fun c => match c with | some c => c.bytes | none => []).take e.bytes,
    cs.any fun c => match c with | some c => c.lost | none => true)

/-- The plaintext of a weight block of a bolt's repair copy. -/
def blockBytes (b : Bolt) (rel number : Nat) : List Byte × Bool :=
  match b.dir.find? fun e => (e.type == 0 || e.type == 1) && e.panel == rel && e.number == number with
  | some e => entryBytes b.copy e
  | none => ([], true)

/-- Weight j of row i of a block stored row-major with `rb` bytes to a row (R211). -/
def weightAt (img : List Byte) (rb i j : Nat) : Int :=
  let b := (nth (0 : Byte) img (i * rb + j / 2)).toNat
  signed 4 (b / 16 ^ (j % 2) % 16)

/-! ### Panel SRAM (R284, R412, R413) -/

/-- The size of panel SRAM. -/
def sramSize : Nat := 0x1000000

/-- The tag of a line for a tenant: kind 2. -/
def tenantTag (t : Nat) : BitVec 14 := BitVec.ofNat 14 (0x2000 + t % 4096)

/-- The tag of Jobel's own lines: kind 1. -/
def deviceTag : BitVec 14 := 0x1000

/-- A request's context (R413): the tenant it carries, the pattern tenant, and whether it is a row's. -/
structure SramCtx where
  tenant : Nat
  pat : Nat
  row : Bool
  deriving DecidableEq, Repr

/-- A bolt-level request of a panel. -/
def boltCtx (s : State) (p : Nat) : SramCtx := { tenant := patTenant s p, pat := patTenant s p, row := false }

/-- What the tag check says of a line: free, allowed, or a violation. -/
inductive TagCheck where
  | free | allowed | violation
  deriving DecidableEq, Repr

/-- The tag check of R413. -/
def tagCheck (c : SramCtx) (tag : BitVec 14) : TagCheck :=
  let kind := tag.toNat / 4096
  let t := tag.toNat % 4096
  if kind = 0 then .free
  else if kind = 1 then .violation
  else if t = c.tenant then .allowed
  else if t = c.pat then .allowed
  else .violation

/-- Marks of two lines put together. -/
def LineMark.or (a b : LineMark) : LineMark :=
  { poison := a.poison || b.poison, sat := a.sat || b.sat, uncal := a.uncal || b.uncal, masked := a.masked || b.masked }

/-- The lines that a range of bytes touches. -/
def linesOf (addr n : Nat) : List Nat :=
  if n = 0 then [] else (List.range ((addr + n - 1) / 64 - addr / 64 + 1)).map fun i => addr / 64 + i

/-- What a read of panel SRAM returns. -/
structure SramRead where
  bytes : List Byte
  mark : LineMark
  violation : Bool
  deriving DecidableEq, Repr

/-- A read of panel SRAM under a context: a FREE line reads as zero, a violating one as zeros with poison (R413). -/
def sramRead (q : Panel) (c : SramCtx) (addr n : Nat) : SramRead :=
  let ls := linesOf addr n
  let viol := ls.any fun l => tagCheck c (mapGet 0 q.tags l) == .violation
  let mark := ls.foldl (fun m l => if tagCheck c (mapGet 0 q.tags l) == .allowed then m.or (mapGet LineMark.clean q.marks l) else m)
    LineMark.clean
  let bytes := (List.range n).map fun i =>
    if tagCheck c (mapGet 0 q.tags ((addr + i) / 64)) == .allowed then memByte q.sram (addr + i) else 0
  { bytes := bytes, mark := { mark with poison := mark.poison || viol }, violation := viol }

/-- The bytes of a write put down where the tag check allows, and the tags that free lines take. -/
def sramPut (q : Panel) (c : SramCtx) (addr : Nat) (bytes : List Byte) : Panel :=
  let ls := linesOf addr bytes.length
  let put := (bytes.zipIdx).foldl (fun m (x : Byte × Nat) =>
    if tagCheck c (mapGet 0 q.tags ((addr + x.2) / 64)) == .violation then m else memSetByte m (addr + x.2) x.1) q.sram
  let tags := ls.foldl (fun t l =>
    if tagCheck c (mapGet 0 q.tags l) == .free then mapSet (0 : BitVec 14) t l (tenantTag c.tenant) else t) q.tags
  { q with sram := put, tags := tags }

/-- Whether a write of a range meets a violating line. -/
def sramViolates (q : Panel) (c : SramCtx) (addr n : Nat) : Bool :=
  (linesOf addr n).any fun l => tagCheck c (mapGet 0 q.tags l) == .violation

/-- Marks of lines after a run of pieces written from an address: a line wholly covered takes the pieces' marks alone, a
line partly covered keeps its own beside them (R379: no copy clears poison; log entry 17). -/
def sramMarks (q : Panel) (c : SramCtx) (addr : Nat) (pieces : List (Nat × LineMark)) : Panel :=
  let total := (pieces.map Prod.fst).foldl (· + ·) 0
  let ok (l : Nat) : Bool := tagCheck c (mapGet 0 q.tags l) != .violation
  let cleared := (linesOf addr total).foldl (fun m l =>
    if ok l && decide (addr ≤ 64 * l ∧ 64 * l + 64 ≤ addr + total) then mapSet LineMark.clean m l LineMark.clean else m) q.marks
  let go := pieces.foldl (fun (acc : Map LineMark × Nat) x =>
    (if x.2 = LineMark.clean then acc.1
     else (linesOf acc.2 x.1).foldl (fun m l => if ok l then mapMod LineMark.clean m l (fun k => k.or x.2) else m) acc.1,
     acc.2 + x.1)) (cleared, addr)
  { q with marks := go.1 }

/-- A write of panel SRAM from an address in pieces, each with its marks. -/
def sramWrite (q : Panel) (c : SramCtx) (addr : Nat) (pieces : List (List Byte × LineMark)) : Panel :=
  sramMarks (sramPut q c addr (pieces.flatMap Prod.fst)) c addr (pieces.map fun x => (x.1.length, x.2))

/-- A range of SRAM zeroed and tagged FREE, its marks gone (R412). -/
def sramFree (q : Panel) (addr n : Nat) : Panel :=
  { q with
    sram := memClear q.sram addr n
    tags := q.tags.filter fun x => x.1 * 64 < addr || addr + n ≤ x.1 * 64
    marks := q.marks.filter fun x => x.1 * 64 < addr || addr + n ≤ x.1 * 64 }

/-- The whole SRAM of a panel zeroed and FREE. -/
def sramZero (q : Panel) : Panel := { q with sram := [], tags := [], marks := [] }

/-- Every line that carries a tenant's tag zeroed and FREE (R409). -/
def sramFreeTenant (q : Panel) (t : Nat) : Panel :=
  let ls := (q.tags.filter fun x => x.2 == tenantTag t).map Prod.fst
  { q with
    sram := q.sram.filter fun x => !ls.contains (x.1 / 64)
    tags := q.tags.filter fun x => !ls.contains x.1
    marks := q.marks.filter fun x => !ls.contains x.1 }

/-- Every panel changed. -/
def modPanels (s : State) (ps : List Nat) (f : Panel → Panel) : State := ps.foldl (fun s p => modPanel s p f) s

/-! ### The weight region (R231, R290) -/

/-- The bytes of a bolt's wide-lane segment space (R219): segments of TYPE 2 in ascending NUMBER, each from a multiple of 64. -/
def segSpace (b : Bolt) : List Byte :=
  let es := sortBy (fun (x y : DirEntry) => x.number < y.number) (b.dir.filter fun e => e.type == 2)
  es.foldl (fun (acc : List Byte) e =>
    let pad := (64 - acc.length % 64) % 64
    acc ++ List.replicate pad 0 ++ (entryBytes b.copy e).1) []

/-- The offset of a TYPE 2 segment in the segment space (R219), if the image has it. -/
def segOffset (b : Bolt) (number : Nat) : Option Nat :=
  let es := sortBy (fun (x y : DirEntry) => x.number < y.number) (b.dir.filter fun e => e.type == 2)
  (es.foldl (fun (acc : Option Nat × Nat) e =>
    let at_ := acc.2 + (64 - acc.2 % 64) % 64
    (if e.number = number ∧ acc.1.isNone then some at_ else acc.1, at_ + e.bytes)) (none, 0)).1

/-- Whether a range of the segment space rests on a lost chunk. -/
def segLost (b : Bolt) : Bool := (b.dir.filter fun e => e.type == 2).any fun e => (entryBytes b.copy e).2

/-- Frames of the weight region that bolts and adapter sets hold. -/
def regionUsed (s : State) : Nat :=
  ((boltList s).map fun x => x.2.copyFrames + x.2.patFrames + (match x.2.load with | some l => l.frames | none => 0)).foldl
    (· + ·) 0
  + ((s.sets.map fun a => ((a.segs.map fun g => g.2.length).foldl (· + ·) 0 + 65535) / 65536).foldl (· + ·) 0)

/-- Frames of the weight region (R231). -/
def regionFrames (s : State) : Nat := field (dieReg s 0x380) 54 32

end Sys2Proof.Machine
end

