-- ==== Sys2Proof/Machine/KvOps.lean ====
section
/-! DEFINITION. The key-value allocator (R158 to R169): frames of the pool and of panel SRAM, page-table entries, the
least-recently-used lists, drops, translations, and the counts of prefix-tree nodes (R174, R175). -/

namespace Sys2Proof.Machine

/-! ### Pages (R158) -/

/-- Bytes of a chunk of 32 tokens. -/
def kvChunkBytes (fmt d : Nat) : Nat := 2 * (d / 32) * (if fmt = 0 then 17 else 25) * 32

/-- TPP: positions to a page. -/
def kvTpp (fmt d : Nat) : Nat := 32 * (65280 / kvChunkBytes fmt d)

/-- The head width d of a WIDTH code (R160). -/
def kvWidth (w : Nat) : Nat := 32 * 2 ^ w

/-- The number of a page-table entry (R161). -/
def pteKey (session layer head page : Nat) : Nat := ((session * 256 + layer) * 64 + head) * 1024 + page

/-- A page-table entry (R162). -/
def getPte (s : State) (k : Nat) : Pte := mapGet Pte.start s.kv.ptes k

/-- A page-table entry written. -/
def setPte (s : State) (k : Nat) (e : Pte) : State := { s with kv := { s.kv with ptes := mapSet Pte.start s.kv.ptes k e } }

/-- The directory frame that holds the entry of a layer and KV head: 16,384 entries of 8 bytes take two frames (R161, log entry 230). -/
def dirOwner (session layer head : Nat) : Nat := 8 * (2 * session + (layer * 64 + head) / 8192)

/-- The owner of the leaf table of a session's layer and KV head. -/
def leafOwner (session layer head : Nat) : Nat := 8 * ((session * 256 + layer) * 64 + head) + 1

/-- The directory entry of a session's layer and KV head: VALID and the leaf table's address (R161). -/
def kvDirEntry (s : State) (session layer head : Nat) : Word :=
  match s.kv.tables.find? fun t => t.2 == leafOwner session layer head with
  | some t => BitVec.ofNat 64 (t.1 * 65536 + 1)
  | none => 0

/-- The walk of a session's range: the directory, then the leaf table's entry (R161). -/
def walkPte (s : State) (session layer head page : Nat) : Pte :=
  if (kvDirEntry s session layer head).getLsbD 0 then getPte s (pteKey session layer head page) else Pte.start

/-- A KV page by its frame. -/
def getPage (s : State) (f : Nat) : KvPage := mapGet KvPage.start s.kv.pages f

/-- A changed KV page. -/
def modPage (s : State) (f : Nat) (g : KvPage → KvPage) : State :=
  { s with kv := { s.kv with pages := mapMod KvPage.start s.kv.pages f g } }

/-- A tree node. -/
def getNode (s : State) (n : Nat) : Node := mapGet Node.start s.kv.nodes n

/-- A changed tree node. -/
def modNode (s : State) (n : Nat) (g : Node → Node) : State :=
  { s with kv := { s.kv with nodes := mapMod Node.start s.kv.nodes n g } }

/-- The frame number that stands for SRAM frame f of a panel. -/
def sramFrame (panel f : Nat) : Nat := 8388608 + panel * 256 + f

/-- Whether a frame number stands for an SRAM frame. -/
def isSramFrame (f : Nat) : Bool := decide (8388608 ≤ f)

/-- The words of a page's header (R160). -/
def pageHeader (g : KvPage) : List Byte :=
  natLe 8 (g.valid + g.fmt * 65536 + g.width * 1048576 + g.firstPos * 4294967296)
    ++ natLe 8 (g.session + b2n g.tree * 16384 + g.tenant * 65536 + g.layer * 268435456 + g.head * 68719476736)
    ++ natLe 8 g.writeStep.toNat ++ List.replicate 232 0

/-- The header of a page in a panel-SRAM frame stands in the frame's first 256 bytes (R160). A DRAM page's header has its one home in
the page's fields. -/
def putHeader (s : State) (f : Nat) : State :=
  if isSramFrame f then modPanel s ((f - 8388608) / 256) fun q =>
    { q with sram := memWrite q.sram ((f - 8388608) % 256 * 65536) (pageHeader (getPage s f)) }
  else s

/-- A changed page header, where its page stands. -/
def modHeader (s : State) (f : Nat) (g : KvPage → KvPage) : State := putHeader (modPage s f g) f

/-! ### The pool (R163, R176) -/

/-- Whether the allocator is enabled (R167). -/
def kvEnabled (s : State) : Bool := bit (dieReg s 0x208) 0

/-- The pool's first frame and its size. -/
def poolBase (s : State) : Nat := field (dieReg s 0x200) 22 0

/-- The pool's size in frames. -/
def poolPages (s : State) : Nat := field (dieReg s 0x200) 54 32

/-- The least frame from one on that a list does not hold. -/
def leastFree (taken : List Nat) : Nat → Nat → Nat
  | 0, f => f
  | n + 1, f => if taken.contains f then leastFree taken n (f + 1) else f

/-- Frames of the pool that are taken. -/
def poolTaken (s : State) : List Nat := (s.kv.used.filter fun f => !isSramFrame f) ++ s.kv.tables.map Prod.fst

/-- A free frame of the pool. -/
def freePool (s : State) : Option Nat :=
  let t := poolTaken s
  let f := leastFree t (t.length + 1) (poolBase s)
  if kvEnabled s && decide (f < poolBase s + poolPages s) then some f else none

/-- The node that holds a frame. -/
def nodeOfFrame (s : State) (f : Nat) : Option Nat := (s.kv.nodes.find? fun kv => kv.2.pages.contains f).map Prod.fst

/-- Whether a page is pinned (R165). -/
def framePinned (s : State) (f : Nat) : Bool :=
  let g := getPage s f
  if g.tree then
    match nodeOfFrame s f with
    | some n => (getNode s n).count != 0 || (getNode s n).sat
    | none => false
  else (getSession s g.session).pin || (getSession s g.session).recomp

/-- Every cached translation of some entries is invalidated in all attention units (R164). -/
def invalidate (s : State) (keys : List Nat) : State :=
  { s with panels := s.panels.foldl (fun m kv => mapMod Panel.start m kv.1 fun q =>
      { q with xlate := q.xlate.filter fun k => !keys.contains k }) s.panels }

/-- The entries that map a frame. -/
def keysOfFrame (s : State) (f : Nat) : List Nat := (s.kv.ptes.filter fun kv => kv.2.present && kv.2.frame == f).map Prod.fst

/-- A frame is freed: its translations go first, then its page (R164, R412). -/
def freeFrame (s : State) (f : Nat) : State :=
  let s1 := invalidate s (keysOfFrame s f)
  let s2 := { s1 with kv := { s1.kv with
    used := s1.kv.used.filter fun x => x != f
    lruDram := s1.kv.lruDram.filter fun x => x != f
    lruSram := s1.kv.lruSram.filter fun x => x != f
    pages := mapDel s1.kv.pages f } }
  if isSramFrame f then modPanel s2 ((f - 8388608) / 256) fun q => sramFree q ((f - 8388608) % 256 * 65536) 65536 else s2

/-- The page index of a page within its layer and head. -/
def pageIndex (g : KvPage) : Nat := g.firstPos / kvTpp g.fmt (kvWidth g.width)

/-- An entry whose page is dropped (R166). -/
def dropPte (e : Pte) : Pte := { e with present := false, dropped := true, tree := false, inSram := false, frame := 0 }

/-- A private page is dropped (R166). -/
def dropPrivate (s : State) (f : Nat) : State :=
  let g := getPage s f
  let k := pteKey g.session g.layer g.head (pageIndex g)
  let s1 := setPte s k (dropPte (getPte s k))
  bump (freeFrame (invalidate s1 [k]) f) .die 0x260

/-- A node and all its descendants, to a depth. -/
def subtree (s : State) : Nat → Nat → List Nat
  | 0, n => [n]
  | d + 1, n => n :: (getNode s n).children.flatMap fun c => subtree s d c

/-- Every entry that maps a frame is marked DROPPED. -/
def markDropped (s : State) (f : Nat) : State :=
  (keysOfFrame s f).foldl (fun s k => setPte s k (dropPte (getPte s k))) s

/-- One node leaves the tree with its pages (R166). -/
def removeNode (s : State) (n : Nat) : State :=
  let d := getNode s n
  let s1 := d.pages.foldl (fun s f => freeFrame (markDropped (invalidate s (keysOfFrame s f)) f) f) s
  let s2 := modNode s1 d.parent fun p => if p = Node.start then p else { p with children := p.children.filter fun c => c != n }
  { s2 with
    kv := { s2.kv with
      nodes := mapDel s2.kv.nodes n
      tables := s2.kv.tables.filter fun t => t.2 != 8 * n + 3 }
    sessions := s2.sessions.foldl (fun m kv => mapMod Session.start m kv.1 fun e => { e with path := e.path.filter fun x => x != n })
      s2.sessions }

/-- A node is dropped together with every descendant, deepest first (R166). -/
def dropNodes (s : State) (n : Nat) : State := (subtree s 1024 n).reverse.foldl removeNode s

/-- The page at a frame is dropped (R166). -/
def dropFrame (s : State) (f : Nat) : State :=
  if (getPage s f).tree then (match nodeOfFrame s f with | some n => dropNodes s n | none => s) else dropPrivate s f

/-- A pool frame: a free one, or the one that dropping the least recently used page frees (R166); none where nothing can be
dropped or the pool is off (R167). A page that stops being pinned, because its node's COUNT or its session's pin has gone, stands in the
list at the place of its last use (DESIGN CHOICE, log entry 228: R174 does not say where it joins). -/
def takePool (s : State) : Option (Nat × State) :=
  match freePool s with
  | some f => some (f, s)
  | none =>
    if !kvEnabled s then none else
    match s.kv.lruDram.find? fun f => !framePinned s f with
    | none => none
    | some f =>
      let s1 := dropFrame s f
      (freePool s1).map fun g => (g, s1)

/-- A pinned table frame for an owner, taken once. -/
def ensureTable (s : State) (owner : Nat) : Option State :=
  if s.kv.tables.any fun t => t.2 == owner then some s
  else
    match takePool s with
    | none => none
    | some (f, s1) => some { s1 with kv := { s1.kv with tables := s1.kv.tables ++ [(f, owner)] } }

/-- The token-log frame that holds a position, taken once for each 16,384 positions (R185). -/
def ensureLog (s : State) (session pos : Nat) : Option State := ensureTable s (8 * (8 * session + pos / 16384) + 2)

/-- A free reserved SRAM frame of a panel (R163). -/
def freeSram (s : State) (panel : Nat) : Option Nat :=
  match boltOfPanel s panel with
  | none => none
  | some (nw, b) =>
    match panelEntry nw b panel with
    | none => none
    | some e =>
      ((List.range e.kvFrames).map fun i => sramFrame panel (e.kvBase / 65536 + i)).find? fun f => !s.kv.used.contains f

/-- A frame moves to the most recent end of its list (R165). -/
def touchFrame (s : State) (f : Nat) : State :=
  if isSramFrame f then { s with kv := { s.kv with lruSram := (s.kv.lruSram.filter fun x => x != f) ++ [f] } }
  else { s with kv := { s.kv with lruDram := (s.kv.lruDram.filter fun x => x != f) ++ [f] } }

/-- A page is allocated for a session's range with a fresh header (R163): in a reserved SRAM frame of the home panel when
one is free, otherwise in DRAM. None where R167 ends the job: while the allocator is off no frame is to be had. -/
def allocPage (s : State) (home session layer head page fmt width tenant : Nat) : Option State :=
  match (if kvEnabled s then ensureTable s (dirOwner session layer head) else none) with
  | none => none
  | some s1 =>
    match ensureTable s1 (leafOwner session layer head) with
    | none => none
    | some s2 =>
      let got : Option (Nat × State) := match freeSram s2 home with | some f => some (f, s2) | none => takePool s2
      match got with
      | none => none
      | some (f, s3) =>
        let g : KvPage := { KvPage.start with
          fmt := fmt, width := width, firstPos := page * kvTpp fmt (kvWidth width), session := session, tenant := tenant
          layer := layer, head := head }
        let s4 := modPage { s3 with kv := { s3.kv with used := s3.kv.used ++ [f] } } f fun _ => g
        let s5 := if isSramFrame f then modPanel s4 ((f - 8388608) / 256) fun q =>
            { q with tags := (List.range 1024).foldl (fun t i => mapSet 0 t ((f - 8388608) % 256 * 1024 + i) (tenantTag tenant)) q.tags }
          else s4
        some (touchFrame (setPte (putHeader s5 f) (pteKey session layer head page)
          { present := true, dropped := false, tree := false, inSram := isSramFrame f, frame := f, tpp := kvTpp fmt (kvWidth width) }) f)

/-- Session, layer and KV head of a page-table entry's number. -/
def keyIds (k : Nat) : List (Nat × Nat) := [(14, k / 16777216), (8, k / 65536 % 256), (6, k / 1024 % 64)]

/-- A translation is looked up in a panel's attention unit: a miss counts and enters the cache, where it displaces the one used least
recently (R164; DESIGN CHOICE, log entry 231: the spec names no order of replacement). -/
def translate (s : State) (panel key : Nat) : State :=
  let hit := (getPanel s panel).xlate.contains key
  let s1 := modPanel s panel fun q => { q with xlate := (key :: q.xlate.filter fun k => k != key).take 256 }
  if hit then s1 else bumpIds s1 (.att panel) 0x088 0 1 (keyIds key)

/-! ### Node counts (R174, R175) -/

/-- The DRAM address of a tree node: each stands at the head of its own pinned frame (R171, R179; log entry 232). -/
def nodeAddr (s : State) (n : Nat) : Nat :=
  match s.kv.tables.find? fun t => t.2 == 8 * n + 3 with
  | some t => t.1 * 65536
  | none => 0

/-- A node's COUNT rises by one, or saturates. -/
def incNode (s : State) (n : Nat) : State :=
  let d := getNode s n
  if d.count = 0xFFFF then raiseEvent (bumpFor (modNode s n fun d => { d with sat := true }) .die 0x278 [(64, nodeAddr s n)]) .die 37 [(64, nodeAddr s n)]
  else modNode s n fun d => { d with count := d.count + 1 }

/-- A node's COUNT falls by one unless SAT is set. -/
def decNode (s : State) (n : Nat) : State :=
  modNode s n fun d => if d.sat ∨ d.count = 0 then d else { d with count := d.count - 1 }

/-! ### Sessions' pages (R186) -/

/-- The entries of a session. -/
def sessionKeys (s : State) (n : Nat) : List Nat :=
  (s.kv.ptes.filter fun kv => kv.1 / 16777216 == n).map Prod.fst

/-- Whether a session holds pages. -/
def holdsPages (s : State) (n : Nat) : Bool := s.kv.ptes.any fun kv => kv.1 / 16777216 == n && kv.2.present

/-- A session gives back its pages, except tree pages, its tables and its entries (R186). -/
def freeSessionKv (s : State) (n : Nat) : State :=
  let keys := sessionKeys s n
  let s1 := invalidate s keys
  let s2 := keys.foldl (fun s k => let e := getPte s k; if e.present && !e.tree then freeFrame s e.frame else s) s1
  let own (o : Nat) : Bool := (o % 8 == 0 && o / 16 == n) || (o % 8 == 1 && o / 8 / 16384 == n) || (o % 8 == 2 && o / 8 / 8 == n)
  { s2 with kv := { s2.kv with
    ptes := s2.kv.ptes.filter fun kv => kv.1 / 16777216 != n
    tables := s2.kv.tables.filter fun t => !own t.2 } }

/-- TOKENS_VALID of a session's private pages goes back to what a list records (R153). -/
def undoPages (s : State) (session : Nat) (undo : List (Nat × Nat)) : State :=
  undo.foldl (fun s u =>
    modHeader s u.1 fun g => if g.session = session ∧ !g.tree ∧ g ≠ KvPage.start then { g with valid := u.2 } else g) s

end Sys2Proof.Machine
end

