-- ==== Sys2Proof/Machine/Jobs.lean ====
section
/-! DEFINITION. Jobs: completions and rings (R437, R438, R443), budgets (R191 to R194), output records (R408, R441), the
end of a job (R202, R203) and of a session (R186), and the removal of a tenant (R181, R409). -/

namespace Sys2Proof.Machine

/-! ### Rings and completions (R437, R438, R443) -/

/-- The entries of a ring's submission queue. -/
def sqSize (r : Ring) : Nat := 2 ^ field r.cfg 3 0

/-- The entries of a ring's completion queue. -/
def cqSize (r : Ring) : Nat := 2 ^ field r.cfg 7 4

/-- A completion with a status alone. -/
def Completion.simple (status : Nat) (tag : BitVec 16) (detail : BitVec 32) : Completion :=
  { status := status, tag := tag, final := true, uncal := false, sat := false, penTrunc := false, partSet := false,
    outBytes := 0, tokens := 0, step := 0, detail := detail }

/-- A completion joins those that wait to be written; a ring in ERROR discards it (R438). -/
def queueCompletion (s : State) (port ring : Nat) (c : Completion) : State :=
  if (getRing s port ring).st = .enabled then modRing s port ring fun r => { r with waiting := r.waiting ++ [(s.now, c)] } else s

/-- Whether a ring still has an entry of its own to complete. -/
def ringBusy (s : State) (port ring : Nat) : Bool :=
  s.jobs.any (fun j => j.port == port && j.ring == ring) || s.dispatched.any (fun d => d.port == port && d.ring == ring)

/-- A ring whose last job has ended becomes ASSIGNED after EN was cleared, or FREE, once its completions are posted (R437, R450,
R492). -/
def settleRing (s : State) (port ring : Nat) : State :=
  let r := getRing s port ring
  if ringBusy s port ring then s
  else if r.freeing then (if r.waiting.isEmpty then modRing s port ring fun _ => Ring.start else s)
  else if r.closing && (r.waiting.isEmpty || r.st == .error) then
    modRing s port ring fun r => { r with st := .assigned, closing := false, waiting := [], cfg := r.cfg &&& ~~~bitOf 48, err := 0 }
  else s

/-- A dispatched entry that needs no job is answered (R443). -/
def finishEntry (s : State) (d : Dispatched) (status detail : Nat) : State :=
  let s1 := { s with dispatched := s.dispatched.filter fun x => x.id != d.id }
  settleRing (queueCompletion s1 d.port d.ring (Completion.simple status d.entry.tag (BitVec.ofNat 32 detail))) d.port d.ring

/-- A dispatched entry becomes a job. -/
def startJob (s : State) (d : Dispatched) (j : Job) : State :=
  { s with dispatched := s.dispatched.filter fun x => x.id != d.id, jobs := s.jobs ++ [j] }

/-- The job of a dispatched entry, with nothing done. -/
def jobOf (d : Dispatched) (kind : JobKind) : Job :=
  { id := d.id, port := d.port, ring := d.ring, fn := d.fn, tag := d.entry.tag, tenant := d.entry.tenant,
    session := d.entry.session, bolt := d.entry.bolt, outAddr := d.entry.outAddr, outLen := d.entry.outLen, kind := kind,
    status := none, ready := none, uncal := false, sat := false, penTrunc := false, partSet := false, outBytes := 0,
    tokens := 0, step := 0, reserved := [] }

/-- A job's completion entry (R443). -/
def jobCompletion (j : Job) (status detail : Nat) (final : Bool) : Completion :=
  { status := status, tag := j.tag, final := final, uncal := j.uncal, sat := j.sat, penTrunc := j.penTrunc,
    partSet := j.partSet, outBytes := j.outBytes, tokens := j.tokens, step := j.step, detail := BitVec.ofNat 32 detail }

/-- A job leaves with its final completion; its ring settles. -/
def closeJob (s : State) (j : Job) (status detail : Nat) : State :=
  let s1 := { s with
    jobs := s.jobs.filter fun x => x.id != j.id
    claims := s.claims.filter fun c => c.1 != j.id }
  settleRing (queueCompletion s1 j.port j.ring (jobCompletion j status detail true)) j.port j.ring

/-- A job known by its number leaves with a status. -/
def closeJobId (s : State) (id status detail : Nat) : State :=
  match getJob s id with
  | none => s
  | some j => closeJob s j status detail

/-- A terminal status claim reaches a job's status arbiter (R202). -/
def claim (s : State) (job status : Nat) : State := { s with claims := s.claims ++ [(job, status)] }

/-- Whether a claim of device-ended status waits for a job: its rows are as good as discarded. -/
def claimedDead (s : State) (job : Nat) : Bool := s.claims.any fun c => c.1 == job && decide (0x10 ≤ c.2 ∧ c.2 < 0x20)

/-! ### Budgets (R191 to R194) -/

/-- Events of a tenant reach the page of every VF assigned to it (R446, R452). -/
def tenantEvent (s : State) (t n : Nat) : State :=
  s.vfs.foldl (fun s kv => if kv.2.tenant = some t then raiseEvent s (.tenant (kv.1 / 256) (kv.1 % 256)) n [(12, t)] else s) s

/-- BUDGET_LOW and LOW_SENT after a change from an old budget (R194): LOW_SENT clears only where the budget rises. -/
def budgetLow (s : State) (t : Nat) (old : BitVec 32) : State :=
  let e := getTenant s t
  let mark := field (dieReg s 0x320) 31 0
  if mark ≤ e.budget.toNat then
    modTenant s t fun e => { e with lowSent := e.lowSent && decide (e.budget ≤ old), zeroSent := if e.budget = 0 then e.zeroSent else false }
  else
    let s0 := if e.budget = 0 then s else modTenant s t fun e => { e with zeroSent := false }
    if e.lowSent then s0
    else tenantEvent (raiseEvent (modTenant s0 t fun e => { e with lowSent := true }) .die 41 [(12, t)]) t 17

/-- A reservation of one token: granted with the budget lowered, or refused (R191). -/
def reserveToken (s : State) (t : Nat) : Option State :=
  if (getTenant s t).budget = 0 then none else some (budgetLow (modTenant s t fun e => { e with budget := e.budget - 1 }) t (getTenant s t).budget)

/-- The first refusal after the budget reached 0 raises BUDGET_ZERO (R192). -/
def budgetRefused (s : State) (t : Nat) : State :=
  if (getTenant s t).zeroSent then s
  else tenantEvent (raiseEvent (modTenant s t fun e => { e with zeroSent := true }) .die 40 [(12, t)]) t 16

/-- Reservations given back, each saturating (R191). -/
def returnTokens (s : State) (t n : Nat) : State :=
  if n = 0 then s
  else budgetLow (modTenant s t fun e => { e with budget := BitVec.ofNat 32 (satNat 0xFFFFFFFF (e.budget.toNat + n)) }) t (getTenant s t).budget

/-- A session leaves or enters HOLD, with the tenant's count. -/
def setHold (s : State) (n : Nat) (on : Bool) : State :=
  let e := getSession s n
  if on then
    if e.st = .running then
      modTenant (modSession s n fun e => { e with st := .hold }) e.tenant fun t => { t with heldN := t.heldN + 1 }
    else s
  else if e.st = .hold then
    modTenant (modSession s n fun e => { e with st := .running }) e.tenant fun t => { t with heldN := t.heldN - 1 }
  else s

/-! ### Output records (R408, R441) -/

/-- The data key of a tenant on a bolt (R405). -/
def dataKey (s : State) (tenant bolt : Nat) : Option DataKey := s.sec.dataKeys.find? fun k => k.tenant == tenant && k.bolt == bolt

/-- A nonce of R408: session instance, job counter, and the input's or record's word. -/
def jobNonce (number counter last : BitVec 32) : BitVec 96 :=
  BitVec.ofNat 96 (leNat (natLe 4 number.toNat ++ natLe 4 counter.toNat ++ natLe 4 last.toNat))

/-- The authenticated data of R408: the session number before the nonce's bytes. -/
def jobAad (session : Nat) (nonce : BitVec 96) : List Byte := natLe 2 session ++ natLe 12 nonce.toNat

/-- The plaintext of an output record: COUNT, first position, up to fourteen tokens. -/
def recordBytes (r : List (Nat × BitVec 32)) : List Byte :=
  let first := match r with | (p, _) :: _ => p | [] => 0
  ((natLe 4 r.length ++ natLe 4 first ++ (r.flatMap fun (x : Nat × BitVec 32) => natLe 4 x.2.toNat)) ++ List.replicate 64 0).take 64

/-- An output record leaves the module. -/
def putRecord (s : State) (j : Job) (g : GenJob) (r : List (Nat × BitVec 32)) : State :=
  let e := getSession s j.session
  let addr := j.outAddr + BitVec.ofNat 64 (80 * g.records)
  let plain := recordBytes r
  let s1 :=
    if g.plain then emit s (.data j.port j.ring addr plain)
    else
      let nonce := jobNonce e.number g.counter (BitVec.ofNat 32 (0x80000000 + g.records))
      emit s (.sealedData j.port j.ring addr { key := e.key, nonce := nonce, aad := jobAad j.session nonce, body := plain })
  modJob s1 j.id fun x =>
    { x with
      kind := .gen { g with record := [], records := g.records + 1 }
      outBytes := 80 * (g.records + 1) }

/-- The tokens held for a job's next record leave as a record, if there are any. -/
def flushRecord (s : State) (id : Nat) : State :=
  match getJob s id with
  | none => s
  | some j =>
    match j.kind with
    | .gen g => if g.record.isEmpty then s else putRecord s j g g.record
    | _ => s

/-- Whether a token at a position follows on the tokens that a record holds: a record names its first position alone. -/
def recordFollows (r : List (Nat × BitVec 32)) (pos : Nat) : Bool := match r with | [] => true | (p, _) :: _ => p + r.length == pos

/-- A token joins a job's next record, which is written once it holds fourteen (R441). -/
def addToken (s : State) (id pos : Nat) (tok : BitVec 32) : State :=
  match getJob s id with
  | none => s
  | some j =>
    match j.kind with
    | .gen g =>
      let g1 := { g with record := g.record ++ [(pos, tok)] }
      let s1 := modJob s id fun x => { x with kind := .gen g1 }
      if 14 ≤ g1.record.length then flushRecord s1 id else s1
    | _ => s

/-- One token is released to a job; tokens held for a record that it does not follow on leave first. -/
def recordToken (s : State) (id pos : Nat) (tok : BitVec 32) : State :=
  match getJob s id with
  | none => s
  | some j =>
    match j.kind with
    | .gen g => addToken (if recordFollows g.record pos then s else flushRecord s id) id pos tok
    | _ => s

/-! ### The end of a session (R174, R186) -/

/-- The prefix trees of a tenant's scopes leave with every node and page of theirs (R170, R409). -/
def dropTrees (s : State) (t : Nat) : State :=
  let roots := (s.kv.nodes.filter fun kv => kv.2.live && kv.2.tenant == t && kv.2.parent == 0).map Prod.fst
  let s1 := roots.foldl dropNodes s
  { s1 with kv := { s1.kv with retains := s1.kv.retains.filter fun p => p.all fun n => (getNode s1 n).live } }

/-- The tenant is erased once nothing of it remains (R181, R409). Its adapter sets at rest go with it (log entry 18). -/
def settleTenant (s : State) (t : Nat) : State :=
  let e := getTenant s t
  if e.st ≠ .removing ∨ e.sessions ≠ 0 then s
  else
    let s1 := modTenant (dropTrees s t) t fun _ => Tenant.start
    let drop (m : Map Panel) : Map Panel := m.foldl (fun m kv => mapMod Panel.start m kv.1 fun q => sramFreeTenant q t) m
    { s1 with
      sec := { s1.sec with dataKeys := s1.sec.dataKeys.filter fun k => k.tenant != t, grants := s1.sec.grants.filter fun g => g.2 != t }
      sets := s1.sets.filter fun a => a.tenant != t
      bolts := s1.bolts.foldl (fun m kv => mapMod none m kv.1 fun o => o.map fun b =>
        { b with slots := b.slots.filter fun x => !(x.2.st != 0 && x.2.tenant == t) }) s1.bolts
      panels := drop s1.panels }

/-- A session gives back what it holds and becomes FREE; closes that wait for it complete (R184, R186). -/
def freeSession (s : State) (n : Nat) : State :=
  let e := getSession s n
  let s1 := e.path.foldl decNode s
  let s2 := freeSessionKv s1 n
  let s3 := modSession s2 n fun _ => Session.start
  let s4 := modTenant s3 e.tenant fun t => { t with sessions := t.sessions - 1 }
  let s5 := e.closers.foldl (fun s c => closeJobId s c 0 0) s4
  settleTenant s5 e.tenant

/-! ### The end of a job (R202, R203) -/

/-- The unsealed steps of a bolt that hold a row of a session, oldest first. -/
def stepsOf (b : Bolt) (session : Nat) : List Step :=
  b.steps.filter fun t => !t.sealed && t.rows.any fun r => r.session == session

/-- A session's rows in unsealed steps are discarded as a recall discards them (R153, R185, R198, R203). -/
def discardRows (s : State) (nw session : Nat) : State :=
  match getBolt s nw with
  | none => s
  | some b =>
    let ts := stepsOf b session
    let s1 := ts.reverse.foldl (fun s t => undoPages s session t.kvUndo) s
    let counts := (ts.flatMap fun t => t.countUndo).find? fun c => c.1 == session
    let s2 := modSession s1 session fun e =>
      { e with
        log := e.log.take e.sealedLen
        counts := match counts with | some c => c.2 | none => e.counts }
    modBolt s2 nw fun b => { b with steps := b.steps.map fun t =>
      if !t.sealed && (t.rows.any fun r => r.session == session) then { t with dead := t.dead ++ [session] } else t }

/-- A job ends with the status its arbiter admitted (R202, R203). -/
def endJob (s : State) (id status detail : Nat) : State :=
  match getJob s id with
  | none => s
  | some j =>
    let e := getSession s j.session
    let isRow := match j.kind with | .gen _ => true | .tune _ => true | _ => false
    let s1 := if isRow && status != 0 then discardRows s e.bolt j.session else s
    let s2 := flushRecord s1 id
    let s3 := if isRow then returnTokens s2 j.tenant j.reserved.length else s2
    let s4 := if status = 0x14 then raiseEvent (bumpFor s3 .die 0x550 [(14, j.session), (64, j.step.toNat)]) .die 60 [(14, j.session), (64, j.step.toNat)]
      else if status = 0x1C then bumpFor s3 (.host j.port) 0x0C8 [(2, j.port)] else s3
    let s5 := match j.kind with
      | .tune t =>
        if status = 0 then s4
        else modJob { s4 with sets := s4.sets.map fun a =>
            if a.tenant == j.tenant && a.set == t.dstSet then { a with partSet := true } else a } id
            fun x => { x with partSet := true }
      | _ => s4
    let s6 := if isRow then
        modSession (setHold s5 j.session false) j.session fun e =>
          { e with
            job := none
            recomp := false
            st := if e.st = .closing then .closing else .opened }
      else s5
    let s7 := closeJobId s6 id status detail
    if isRow && !(getSession s7 j.session).closers.isEmpty then freeSession (modSession s7 j.session fun e => { e with st := .closing }) j.session
    else s7

/-- Which of a job's claims wins when they arrive together (R202). -/
def winner (cs : List Nat) : Option Nat :=
  if cs.contains 0 then some 0
  else
    match cs.find? fun c => decide (0x10 ≤ c) with
    | some c => some c
    | none => cs.head?

/-- Every non-terminal job that meets a test ends with one status, its claim being the first to arrive; a COMPLETED that
waits with it wins (R202). -/
def endJobs (s : State) (test : Job → Bool) (status : Nat) : State :=
  (s.jobs.filter test).foldl (fun s j =>
    match winner ((s.claims.filter fun c => c.1 == j.id).map Prod.snd ++ [status]) with
    | some w => endJob s j.id w 0
    | none => s) s

/-- Every job with a row in some steps of a bolt. -/
def jobsOfSteps (s : State) (ts : List Step) : List Nat :=
  let sess := ts.flatMap fun t => (t.rows.map fun r => r.session).filter fun n => !t.dead.contains n
  (s.jobs.filter fun j => (match j.kind with | .gen _ => true | .tune _ => true | _ => false) && sess.contains j.session
    && decide ((getSession s j.session).job = some j.id)).map fun j => j.id

/-- A claim of one status for each of some jobs. -/
def claimAll (s : State) (ids : List Nat) (status : Nat) : State := ids.foldl (fun s i => claim s i status) s

/-- The job of a session. -/
def sessionJob (s : State) (n : Nat) : Option Nat := (getSession s n).job

/-- A claim for the job of a batch row's session. -/
def claimRow (s : State) (session status : Nat) : State :=
  match sessionJob s session with
  | some j => claim s j status
  | none => s

/-- An allocation that finds nothing ends the job of a session (R167). KV_EXHAUSTED names the session (DESIGN CHOICE, log entry 233: R179
names what identifies attention and tree events only). -/
def kvExhausted (s : State) (session : Nat) : State := claimRow (raiseEvent s .die 36 [(14, session)]) session 0x11

end Sys2Proof.Machine
end

