-- ==== Sys2Proof/Machine/Operands.lean ====
section
/-! DEFINITION. How a pattern instruction is read and issued: credit queues (R31 to R36, R297), contexts and registers
(R239, R240), instruction words and descriptors (R243 to R245, R257), pattern faults and poisoned code (R280, R381), and
what a panel discards when steps are discarded (R372). -/

namespace Sys2Proof.Machine

/-! ### Credit queues (R31, R297) -/

/-- A unit's number. -/
def unitCode : UnitId → Nat
  | .hem => 0 | .red => 1 | .act => 2 | .wide => 3 | .att => 4 | .mem => 5 | .mesh => 6 | .smp => 7 | .core => 8

/-- A queue's number in the model's credit table: kind, panel or half, and its own numbers. -/
def queueKey : QueueId → Nat
  | .tileIn p t => p * 2 ^ 20 + t
  | .tileOut p t => 2 ^ 32 + p * 2 ^ 20 + t
  | .hemResults p t a => 2 * 2 ^ 32 + p * 2 ^ 20 + t * 2 ^ 10 + a
  | .drains p t => 3 * 2 ^ 32 + p * 2 ^ 20 + t
  | .crossbar p r k => 4 * 2 ^ 32 + p * 2 ^ 20 + r * 2 ^ 10 + k
  | .unitCmd p u => 5 * 2 ^ 32 + p * 2 ^ 20 + unitCode u
  | .coreCall p => 6 * 2 ^ 32 + p * 2 ^ 20
  | .meshLink p d v => 7 * 2 ^ 32 + p * 2 ^ 20 + d * 2 ^ 10 + v
  | .seamLane h l v => 8 * 2 ^ 32 + h * 2 ^ 20 + l * 2 ^ 10 + v
  | .dramReq p c => 9 * 2 ^ 32 + p * 2 ^ 20 + c
  | .flowRing p f => 10 * 2 ^ 32 + p * 2 ^ 20 + f
  | .adapterSlots p => 11 * 2 ^ 32 + p * 2 ^ 20
  | .kwLink p v => 12 * 2 ^ 32 + p * 2 ^ 20 + v

/-- The flow of a panel's bolt with a number. -/
def flowOf (s : State) (p flow : Nat) : Option Flow :=
  match boltOfPanel s p with
  | some (_, b) => match b.pat with
    | some t => t.flows.find? fun f => f.flow == flow
    | none => none
  | none => none

/-- A queue's depth (R297, R337). -/
def queueDepth (s : State) : QueueId → Nat
  | .tileIn _ _ => 1024 | .tileOut _ _ => 1024 | .hemResults _ _ _ => 2 | .drains _ _ => 8 | .crossbar _ _ _ => 16
  | .unitCmd _ _ => 8 | .coreCall _ => 16
  | .meshLink _ _ v => if v = 0 then 4 else 32
  | .seamLane _ _ v => if v = 0 then 8 else 64
  | .dramReq _ _ => 64
  | .flowRing p f => match flowOf s p f with | some x => x.ringLen / 64 | none => 0
  | .adapterSlots p => match boltOfPanel s p with | some (_, b) => (match b.pat with | some t => t.slots | none => 0) | none => 0
  | .kwLink _ v => if v = 0 then 32 else 512

/-- The neighbour of a panel on the logical grid in a direction: 0 east, 1 north, 2 west, 3 south (R295). -/
def dirStep (s : State) (p dir : Nat) : Option Nat :=
  match dir with
  | 0 => if p % 8 < 7 then some (p + 1) else none
  | 1 => if 8 ≤ p then some (p - 8) else none
  | 2 => if 0 < p % 8 then some (p - 1) else none
  | 3 => if p + 8 < panelsEn s then some (p + 8) else none
  | _ => none

/-- Whether a lane in the sending direction of a half is up (R324). -/
def laneUp (s : State) (half lane : Nat) : Bool := (if half = 0 then s.net.seam0.lanesUp else s.net.seam1.lanesUp).getLsbD lane

/-- The service lane that carries the traffic of lane 12 or 13: the other one while it is down (R319, R321, R324). With both down the
traffic stays with its own. -/
def serviceLane (s : State) (half lane : Nat) : Nat := if !laneUp s half lane && laneUp s half (25 - lane) then 25 - lane else lane

/-- The service lane to a stack of the far half: 12 for the north edge, 13 for the south edge (R319). -/
def stackLane (stack : Nat) : Nat := 12 + stack % 2

/-- The block that the sender of a queue belongs to (R36). The spec names the two sides of each interface (R297, R304, R319, R323);
where a side has no page of its own, its panel's or half's page stands for it (DESIGN CHOICE, log entry 215). -/
def senderPage (s : State) : QueueId → PageId
  | .tileIn p _ => .panel p | .tileOut p _ => .panel p | .hemResults p _ _ => .panel p | .drains p _ => .panel p
  | .crossbar p r _ =>
    if r = 24 then .core p else if r = 25 then .seq p else if r = 26 then .att p else if r = 28 then .router p
    else if r = 30 then .smp p else .panel p
  | .unitCmd p _ => .seq p | .coreCall p => .seq p | .meshLink p _ _ => .router p
  | .seamLane h l _ => if l < 12 then .router (l / 2 * 8 + 3 + h) else .half h
  | .dramReq p _ => .router p
  | .flowRing p f => (match flowOf s p f with | some x => .router x.src | none => .router p)
  | .adapterSlots p => .seq p | .kwLink p _ => .kwath p

/-- The block that the receiver of a queue belongs to (R35), chosen likewise. -/
def receiverPage (s : State) : QueueId → PageId
  | .tileIn p _ => .panel p | .tileOut p _ => .panel p | .hemResults p _ _ => .panel p | .drains p _ => .panel p
  | .crossbar p _ k => .slice p k
  | .unitCmd p .att => .att p | .unitCmd p .smp => .smp p | .unitCmd p .core => .core p | .unitCmd p .mesh => .router p
  | .unitCmd p _ => .panel p | .coreCall p => .core p
  | .meshLink p d _ => .router ((dirStep s p d).getD p)
  | .seamLane h l _ => if l < 12 then .router (l / 2 * 8 + 4 - h) else .half (1 - h)
  | .dramReq _ c => .stack (c / 32)
  | .flowRing p _ => .router p | .adapterSlots p => .seq p | .kwLink p _ => .kwath p

/-- The panel whose credit-wait limit a queue's sender uses (R37). -/
def queuePanel (s : State) (q : QueueId) : Option Nat := pagePanel (senderPage s q)

/-- What names a queue in an event (R35, R36): its kind in the order of R297's table, its panel, half or port, and its two own numbers
(DESIGN CHOICE of their form, log entry 216). -/
def queueIds : QueueId → List (Nat × Nat)
  | .tileIn p t => [(4, 0), (6, p), (10, t), (10, 0)]
  | .tileOut p t => [(4, 1), (6, p), (10, t), (10, 0)]
  | .hemResults p t a => [(4, 2), (6, p), (10, t), (10, a)]
  | .drains p t => [(4, 3), (6, p), (10, t), (10, 0)]
  | .crossbar p r k => [(4, 4), (6, p), (10, r), (10, k)]
  | .unitCmd p u => [(4, 5), (6, p), (10, unitCode u), (10, 0)]
  | .coreCall p => [(4, 6), (6, p), (10, 0), (10, 0)]
  | .meshLink p d v => [(4, 7), (6, p), (10, d), (10, v)]
  | .seamLane h l v => [(4, 8), (6, h), (10, l), (10, v)]
  | .dramReq p c => [(4, 9), (6, p), (10, c), (10, 0)]
  | .flowRing p f => [(4, 10), (6, p), (10, f), (10, 0)]
  | .adapterSlots p => [(4, 11), (6, p), (10, 0), (10, 0)]
  | .kwLink p v => [(4, 12), (6, p), (10, v), (10, 0)]

/-- Items sent on a queue and not yet returned. -/
def usedCredits (s : State) (q : QueueId) : Nat := mapGet 0 s.net.usedCredits (queueKey q)

/-- A changed count of items sent. -/
def setUsed (s : State) (q : QueueId) (n : Nat) : State :=
  { s with net := { s.net with usedCredits := mapSet 0 s.net.usedCredits (queueKey q) n } }

/-- Whether a sender holds so many credits (R31). -/
def creditsFree (s : State) (q : QueueId) (n : Nat) : Bool := decide (usedCredits s q + n ≤ queueDepth s q)

/-- Whether a sender holds a credit (R31). -/
def creditFree (s : State) (q : QueueId) : Bool := creditsFree s q 1

/-- A sender's wait on a queue ends. -/
def endWait (s : State) (q : QueueId) : State :=
  { s with net := { s.net with
    waits := mapDel s.net.waits (queueKey q)
    stalls := mapDel s.net.stalls (queueKey q) } }

/-- A sender's wait on a queue begins, unless it waits already (R36). -/
def beginWait (s : State) (q : QueueId) : State :=
  if (mapGet none s.net.waits (queueKey q)).isSome then s
  else { s with net := { s.net with waits := mapSet none s.net.waits (queueKey q) (some (s.now + creditLimit s (queuePanel s q))) } }

/-- Items are sent: the count falls by their number (R31). -/
def takeCredits (s : State) (q : QueueId) (n : Nat) : State := setUsed (endWait s q) q (usedCredits s q + n)

/-- One item is sent. -/
def takeCredit (s : State) (q : QueueId) : State := takeCredits s q 1

/-- Items removed by the receiver: their credits go back (R31). -/
def giveCredit (s : State) (q : QueueId) (n : Nat) : State := setUsed (endWait s q) q (usedCredits s q - n)

/-! ### Contexts (R239) -/

/-- A panel's context in a batch table slot. -/
def getCtx (s : State) (p c : Nat) : Option Ctx := (getPanel s p).ctxs.find? fun x => x.slot == c

/-- A changed context. -/
def modCtx (s : State) (p c : Nat) (f : Ctx → Ctx) : State :=
  modPanel s p fun q => { q with ctxs := modWhere (fun x : Ctx => x.slot == c) f q.ctxs }

/-- A general register; g0 reads as zero. -/
def gReg (x : Ctx) (n : Nat) : Word := if n = 0 then 0 else mapGet 0 x.g n

/-- A general register written; g0 ignores writes. -/
def gSet (x : Ctx) (n : Nat) (v : Word) : Ctx := if n = 0 then x else { x with g := mapSet 0 x.g n v }

/-- The unsealed or sealed step of a bolt with a sequence number. -/
def findStep (b : Bolt) (seq : Word) : Option Step := b.steps.find? fun t => t.seq == seq

/-- A changed step of a bolt. -/
def modStep (s : State) (nw : Nat) (seq : Word) (f : Step → Step) : State :=
  modBolt s nw fun b => { b with steps := modWhere (fun t : Step => t.seq == seq) f b.steps }

/-- Where an instruction of a panel's context finds itself. -/
structure Site where
  p : Nat
  nw : Nat
  b : Bolt
  pat : Pattern
  e : PanelEntry
  x : Ctx
  rows : List BatchRow
  kind : Nat
  deriving DecidableEq, Repr

/-- The panel, bolt, pattern and step of a context. -/
def siteOf (s : State) (p c : Nat) : Option Site :=
  match getCtx s p c with
  | none => none
  | some x =>
    match boltOfPanel s p with
    | none => none
    | some (nw, b) =>
      match b.pat with
      | none => none
      | some t =>
        match t.panels[panelRel nw b p]? with
        | none => none
        | some e =>
          let st := findStep b x.step
          some { p := p, nw := nw, b := b, pat := t, e := e, x := x,
                 rows := match st with | some k => k.rows | none => [],
                 kind := match st with | some k => k.kind | none => 0 }

/-- The address of a context's batch table (R289). -/
def batchAddr (e : PanelEntry) (rowLimit slot : Nat) : Nat := e.batchBase + slot * (64 + 16 * rowLimit)

/-! ### Instruction words (R243) -/

/-- The opcode, bits [63:56]. -/
def opOf (w : Word) : Nat := field w 63 56
/-- The format, bits [55:52]. -/
def fmtOf (w : Word) : Nat := field w 55 52
/-- GD of formats 1 and 3, and GA of formats 2 and 5: bits [51:48]. -/
def g51 (w : Word) : Nat := field w 51 48
/-- GA of formats 1 and 3, and GB of formats 2 and 5: bits [47:44]. -/
def g47 (w : Word) : Nat := field w 47 44
/-- GB of formats 1 and 3: bits [43:40]. -/
def g43 (w : Word) : Nat := field w 43 40
/-- IMM32, bits [31:0]. -/
def immOf (w : Word) : Nat := field w 31 0
/-- IMM32 sign-extended to 64 bits. -/
def offOf (w : Word) : Word := (w.setWidth 32).signExtend 64

/-- The opcodes with their formats (R245). -/
def opFormat (op : Nat) : Option Nat :=
  if op = 0x00 ∨ op = 0x0F ∨ op = 0x51 ∨ op = 0x60 then some 0
  else if (0x01 ≤ op ∧ op ≤ 0x0D) ∨ op = 0x61 then some 1
  else if op = 0x10 ∨ op = 0x50 then some 3
  else if op = 0x28 ∨ op = 0x29 then some 4
  else if op = 0x48 ∨ op = 0x49 then some 5
  else if op ∈ [0x20, 0x21, 0x22, 0x2C, 0x30, 0x31, 0x38, 0x39, 0x3A, 0x3B, 0x3C, 0x40, 0x41, 0x42, 0x58, 0x59] then some 2
  else none

/-- Whether a word has a 1 in a reserved bit of its format, or of its opcode (R243, R246, R278, R279). -/
def reservedSet (op fmt : Nat) (w : Word) : Bool :=
  (match fmt with
    | 0 => field w 51 32 != 0
    | 1 => field w 39 32 != 0
    | 2 => field w 43 32 != 0
    | 3 => field w 35 32 != 0 || field w 15 0 != 0
    | 4 => field w 31 0 != 0
    | _ => field w 35 0 != 0)
  || (op == 0x07 && field w 31 6 != 0)
  || (op == 0x60 && field w 31 9 != 0)
  || (op == 0x61 && field w 31 16 != 0)

/-- The unit that an opcode's command goes to; none for what the sequencer does itself (R236). -/
def opUnit (op : Nat) : Option UnitId :=
  if op = 0x10 ∨ op = 0x50 then some .mem
  else if 0x20 ≤ op ∧ op < 0x2C then some .hem
  else if op = 0x2C then some .red
  else if op = 0x30 ∨ op = 0x31 then some .act
  else if 0x38 ≤ op ∧ op ≤ 0x3C then some .wide
  else if 0x40 ≤ op ∧ op ≤ 0x42 then some .att
  else if op = 0x48 ∨ op = 0x49 then some .mesh
  else if op = 0x58 ∨ op = 0x59 then some .smp
  else if op = 0x61 then some .core
  else none

/-- The FENCE class of an opcode, 9 for none (R278). -/
def opClass (op : Nat) : Nat :=
  if 0x20 ≤ op ∧ op < 0x2C then 0
  else if op = 0x2C then 1
  else if op = 0x30 ∨ op = 0x31 then 2
  else if 0x38 ≤ op ∧ op ≤ 0x3C then 3
  else if 0x40 ≤ op ∧ op ≤ 0x42 then 4
  else if op = 0x10 ∨ op = 0x50 then 5
  else if op = 0x48 then 6
  else if op = 0x58 ∨ op = 0x59 then 7
  else if op = 0x61 then 8
  else 9

/-- The general registers that an instruction reads or writes (R240, R246). -/
def opRegs (op : Nat) (w : Word) : List Nat :=
  if op = 0x01 ∨ op = 0x02 then [g51 w]
  else if op ∈ [0x03, 0x06, 0x07, 0x08, 0x09, 0x61] then [g51 w, g47 w]
  else if op = 0x04 ∨ op = 0x05 then [g51 w, g47 w, g43 w]
  else if op = 0x0A then [g47 w, g43 w]
  else if op ∈ [0x0B, 0x0C, 0x0D] then [g47 w]
  else if op = 0x10 then [g51 w, g47 w, g43 w]
  else if op = 0x50 then [g47 w, g43 w]
  else if op = 0x48 ∨ op = 0x49 then [g51 w, g47 w]
  else match opFormat op with
    | some 2 => [g51 w, g47 w]
    | _ => []

/-- Whether an address lies in the code region and is a multiple of 8 (R236, R246). -/
def inCode (e : PanelEntry) (a : Nat) : Bool := decide (e.codeBase ≤ a ∧ a + 8 ≤ e.codeBase + e.codeBytes ∧ a % 8 = 0)

/-- The word at a context's program counter. -/
def fetchWord (q : Panel) (x : Ctx) : Word := memWord q.sram x.pc.toNat

/-- Whether the line of an address carries poison. -/
def linePoison (q : Panel) (a : Nat) : Bool := (mapGet LineMark.clean q.marks (a / 64)).poison

/-- The registers of a context that a load or a call has still to write. -/
def pendingRegs (x : Ctx) : List Nat := x.loads.map (fun l => l.1) ++ x.calls

/-- The command queue of an opcode's unit. -/
def opQueue (p op : Nat) : Option QueueId :=
  if op = 0x61 then some (.coreCall p) else (opUnit op).map fun u => .unitCmd p u

/-- The queues between units that an opcode's command sends through beside its own (R297, R304): a unit's port on the eight slices, the DRAM
channels and the service lanes to the far half's (R24, R319), the tiles' output buffers. Their items leave in the row that sends them, so
that the row takes and gives back the credit; it waits while one of the queues has none (log entry 217). -/
def opPaths (s : State) (p op : Nat) : List QueueId :=
  let port (r : Nat) : List QueueId := (List.range 8).map fun k => .crossbar p r k
  let dram : List QueueId := ((List.range 128).map fun c => .dramReq p c)
    ++ [0, 1].map fun k => .seamLane (halfOf p) (serviceLane s (halfOf p) (stackLane k)) 3
  if op = 0x09 ∨ op = 0x0A then port 25
  else if op = 0x10 ∨ op = 0x50 then port 29 ++ dram
  else if op = 0x30 ∨ op = 0x31 then (List.range 24).map fun t => .tileOut p t
  else if 0x38 ≤ op ∧ op ≤ 0x3C then port 27 ++ dram
  else if 0x40 ≤ op ∧ op ≤ 0x42 then port 26 ++ dram
  else if op = 0x48 ∨ op = 0x49 then port 28
  else if op = 0x58 ∨ op = 0x59 then port 30
  else []

/-- Every queue that an opcode's command needs a credit of. -/
def opQueues (s : State) (p op : Nat) : List QueueId := (opQueue p op).toList ++ opPaths s p op

/-- Whether an instruction finds its registers written. -/
def regsReady (x : Ctx) (w : Word) : Bool := (opRegs (opOf w) w).all fun r => r == 0 || !(pendingRegs x).contains r

/-- Whether an instruction finds its credits. -/
def unitReady (s : State) (p : Nat) (w : Word) : Bool := (opQueues s p (opOf w)).all fun q => creditFree s q

/-- Whether an opcode's unit has served the foreign runs that reached it before (R269). -/
def unitFree (s : State) (p op : Nat) : Bool := !(decide (0x40 ≤ op ∧ op ≤ 0x42)) || (getPanel s p).remote.isEmpty

/-- Whether a context can issue (R240). One whose fetch faults can. -/
def canIssue (s : State) (p : Nat) (e : PanelEntry) (x : Ctx) : Bool :=
  x.wait == .none &&
    (let w := fetchWord (getPanel s p) x
     !inCode e x.pc.toNat || linePoison (getPanel s p) x.pc.toNat || (opFormat (opOf w)).isNone
       || (regsReady x w && unitFree s p (opOf w) && unitReady s p w))

/-- Whether no context of an earlier step can issue (R240). -/
def firstToIssue (s : State) (p : Nat) (e : PanelEntry) (x : Ctx) : Bool :=
  (getPanel s p).ctxs.all fun y => !(decide (y.step < x.step) && canIssue s p e y)

/-! ### Discarding steps (R372 step 3, R280, R381) -/

/-- A hem without the work of some steps; lanes that such work left are cleared. -/
def HemArr.discard (h : HemArr) (t : Word → Bool) : HemArr :=
  let cur : Option EvalJob := match h.results with
    | r :: _ => some r.job
    | [] => match h.holding with
      | some j => some j
      | none => match h.jobs with
        | j :: _ => some j
        | [] => none
  let gone := match cur with | some j => t j.step | none => false
  let jobs := h.jobs.filter fun j => !t j.step
  let results := h.results.filter fun r => !t r.job.step
  let g := if gone then { HemArr.start with jobs := jobs, results := results } else { h with jobs := jobs, results := results }
  match h.jobs with
  | j :: _ =>
    if t j.step then { g with buf := none, acc := [], bad := [], pleatOk := false, released := false }
    else { g with buf := h.buf, acc := h.acc, bad := h.bad, pleatOk := h.pleatOk, released := h.released }
  | [] => g

/-- The credit queue of a panel's link in a direction: a seam row pair between columns 3 and 4 (R323), a mesh link elsewhere. -/
def linkQueue (p dir vc : Nat) : QueueId :=
  if p % 8 = 3 ∧ dir = 0 then .seamLane 0 (2 * (p / 8)) vc
  else if p % 8 = 4 ∧ dir = 2 then .seamLane 1 (2 * (p / 8)) vc
  else .meshLink p dir vc

/-- A flit leaves a router's queue: the credit of the link it came by goes back (R31). -/
def leaveRouter (s : State) (p : Nat) (f : QFlit) : State :=
  match dirStep s p f.inp with
  | some u => giveCredit s (linkQueue u ((f.inp + 2) % 4) f.flit.vc) 1
  | none => s

/-! ### Messages that are no flow's (R149, R269, R315, R327) -/

/-- The destination that stands for Jobel. -/
def jobelDst : Nat := 255

/-- The row by which calls to Jobel leave the mesh: row 5, the grid's last one (R327); the last enabled row of a smaller grid (log entry
220). -/
def exitRow (s : State) : Nat := panelsEn s / 8 - 1

/-- Whether a panel's router forwards nothing: it has failed and no spare stands behind it, or LOGIC self-test holds it (R327, R495). -/
def routerHeld (s : State) (p : Nat) : Bool :=
  ((getHdr s (.router p)).st == .failed && (mapGet none s.arrays.panelOf p).isNone)
    || ((getHdr s (.panel p)).st == .test && s.st.lastKind == 0)

/-- Along the row to the half's exit column, then along the column to the exit row; 4 where the flit leaves to Jobel: at column 3, and
at column 4 by lane 14, or on over the row pair while that lane is down (R324, R327). -/
def rowToJobel (s : State) (p : Nat) : Nat :=
  let col := if halfOf p = 0 then 3 else 4
  if p % 8 < col then 0 else if col < p % 8 then 2
  else if p / 8 < exitRow s then 3
  else if col = 3 ∨ laneUp s 1 14 then 4 else 2

/-- Along the column to the exit row, then along the row. -/
def columnToJobel (s : State) (p : Nat) : Nat := if p / 8 < exitRow s then 3 else rowToJobel s p

/-- Whether a call to Jobel turns off its column here: the next router on the column forwards nothing (R327). -/
def jobelDetour (s : State) (p : Nat) (f : MFlit) : Bool :=
  f.dsts == [jobelDst] && (match dirStep s p (columnToJobel s p) with | some n => routerHeld s n | none => false)

/-- The direction in which a router sends a flit on towards a panel: along the row first, then along the column (R294); 4 is the
router's own panel. -/
def nextDir (p d : Nat) : Nat :=
  if p % 8 < d % 8 then 0 else if d % 8 < p % 8 then 2 else if d < p then 1 else if p < d then 3 else 4

/-- The direction in which a router sends a flit on towards one of its destinations. -/
def flitDir (s : State) (p : Nat) (f : MFlit) (d : Nat) : Nat :=
  if d = jobelDst then (if f.rowFirst || jobelDetour s p f then rowToJobel s p else columnToJobel s p) else nextDir p d

/-- Whether a message is stale at a panel: its generation is older than the bolt's and its step is recalled (R371). -/
def staleAt (s : State) (p : Nat) (step : Word) (gen : BitVec 32) : Bool :=
  match boltOfPanel s p with
  | some (_, b) => gen != b.gen && (match b.recalling with | some r => decide (r.step ≤ step) | none => false)
  | none => true

/-- What a flit that belongs to no flow does where it ends. -/
def takeLoad (s : State) (p : Nat) (f : MFlit) : State :=
  match f.load with
  | .part x => if staleAt s p f.step f.gen then s else modPanel s p fun q => { q with parts := q.parts ++ [x] }
  | .run rs => if staleAt s p f.step f.gen then s else modPanel s p fun q => { q with remote := q.remote ++ [rs] }
  | .rewrite q line => { s with ras := { s.ras with rewrites := if s.ras.rewrites.contains (q, line) then s.ras.rewrites else s.ras.rewrites ++ [(q, line)] } }
  | .body => s
  | .flow => s

/-- A message of some bytes that belongs to no flow enters its source's router, a flit for each 64 bytes, the last with what it brings
(log entry 221); one that need not leave its router is taken at once. -/
def sendLoad (s : State) (p dst vc bytes : Nat) (step : Word) (gen : BitVec 32) (load : FlitLoad) : State :=
  let mk (last : Bool) : MFlit :=
    { cmd := 0, flow := 0xFF, vc := vc, src := p, dsts := [dst], data := [], last := last, msgLen := bytes, mark := LineMark.clean, step := step,
      gen := gen, tenant := 0xFFF, load := if last then load else .body }
  let dir := flitDir s p (mk true) dst
  if dir = 4 then takeLoad s p (mk true)
  else modPanel s p fun q =>
    { q with router := q.router ++ ((List.replicate ((bytes + 63) / 64 - 1) (mk false)) ++ [mk true]).map fun f => { out := dir, inp := 4, flit := f } }

/-- What a panel keeps when some steps are discarded: no context, message, register, lane or buffer of them. -/
def Panel.discard (q : Panel) (t : Word → Bool) : Panel :=
  { q with
    ctxs := q.ctxs.filter fun x => x.tail || !t x.step
    regs := q.regs.filter fun r => !(r.2.isOpen && t r.2.step)
    drains := q.drains.filter fun d => !t d.step
    bobbinOut := q.bobbinOut.filter fun d => !t d.step
    samples := q.samples.filter fun n => !t n.step
    hems := q.hems.foldl (fun m kv => mapSet HemArr.start m kv.1 (kv.2.discard t)) q.hems
    att := q.att.filter fun a => !t a.step
    attb := q.attb.filter fun a => !t a.step
    remote := q.remote.filter fun rs => !rs.any fun a => t a.step
    parts := q.parts.filter fun a => !t a.step
    cands := q.cands.filter fun a => !t a.step
    merges := q.merges.filter fun a => !t a.step
    calls := q.calls.filter fun a => !t a.step
    rings := q.rings.filter fun f => !t f.step
    router := q.router.filter fun f => f.flit.dsts == [jobelDst] || !t f.flit.step
    batches := q.batches.filter fun b => !t b.2.1.step }

/-- A flit that is dropped gives back the ring credits that it holds: one for each receiver once it has left its source. -/
def dropCredits (s : State) (f : QFlit) : State :=
  if f.inp = 4 ∨ f.flit.load ≠ .flow then s else f.flit.dsts.foldl (fun s d => giveCredit s (.flowRing d f.flit.flow) 1) s

/-- Contributions that wait in their bobbins go to the reduction path while their tiles have credits, in order within each tile (R31,
R96). -/
def pumpDrains (s : State) (p : Nat) : State :=
  (getPanel s p).bobbinOut.foldl (fun s d =>
    let q : QueueId := .drains p d.tile
    match (getPanel s p).bobbinOut.find? fun x => x.tile == d.tile with
    | none => s
    | some c =>
      if creditFree s q then
        modPanel (takeCredit s q) p fun y => { y with drains := y.drains ++ [c], bobbinOut := y.bobbinOut.erase c }
      else beginWait s q) s

/-- The input-buffer lines and reduction credits that discarded work held go back (R371). -/
def discardCredits (s : State) (p : Nat) (t : Word → Bool) : State :=
  let s1 := ((getPanel s p).drains.filter fun d => t d.step).foldl (fun s d => giveCredit s (.drains p d.tile) 1) s
  (getPanel s p).hems.foldl (fun s kv =>
    match kv.2.jobs, kv.2.buf with
    | j :: _, some b => if t j.step then giveCredit s (.tileIn p (kv.1 / 32)) b.2 else s
    | _, _ => s) s1

/-- A panel discards some steps; the flits, digits and contributions it drops return their credits (R371). -/
def discardPanel (s0 : State) (p : Nat) (t : Word → Bool) : State :=
  let s := discardCredits s0 p t
  let s1 := ((getPanel s p).rings.filter fun f => t f.step).foldl (fun s f => giveCredit s (.flowRing p f.flow) 1) s
  let s2 := ((getPanel s p).router.filter fun f => f.flit.dsts != [jobelDst] && t f.flit.step).foldl (fun s f => dropCredits (leaveRouter s p f) f) s1
  pumpDrains (modPanel s2 p fun q => q.discard t) p

/-- KV rows, counts and token-log entries of some unsealed steps of a bolt are undone (R153, R185, R198). -/
def undoSteps (s : State) (nw : Nat) (t : Word → Bool) : State :=
  match getBolt s nw with
  | none => s
  | some b =>
    let ts := b.steps.filter fun k => !k.sealed && t k.seq
    let sess := (ts.flatMap fun k => k.rows.map fun r => r.session).eraseDups
    let s1 := ts.reverse.foldl (fun s k => sess.foldl (fun s n => undoPages s n k.kvUndo) s) s
    sess.foldl (fun s n =>
      let counts := (ts.flatMap fun k => k.countUndo).find? fun c => c.1 == n
      modSession s n fun e =>
        { e with
          log := e.log.filter fun x => !(t x.2 && (ts.any fun k => k.seq == x.2))
          counts := match counts with | some c => c.2 | none => e.counts }) s1

/-- The comparison buffers of some steps of a bolt are discarded: swatches not yet judged (R372). -/
def dropSwatches (s : State) (nw : Nat) (t : Word → Bool) : State :=
  { s with ras := { s.ras with swatches := s.ras.swatches.filter fun w => !(w.bolt == nw && t w.step && !w.failed) } }

/-- The lead orders every panel of its bolt to discard steps from k on, under a new generation; the steps stay to be
replayed unless they are dropped (R280, R372, R373). -/
def orderDiscard (s : State) (nw : Nat) (k : Word) (drop : Bool) : State :=
  match getBolt s nw with
  | none => s
  | some b =>
    let from_ := match b.recalling with | some r => if r.step < k then r.step else k | none => k
    let gen := b.gen + 1
    let s1 := undoSteps s nw fun t => decide (k ≤ t)
    let old : Recall := b.recalling.getD { step := k, waiting := [], replay := false, verdicts := [], recompute := [], layer := none }
    let s2 := modBolt s1 nw fun b =>
      { b with
        gen := gen
        steps := if drop then b.steps.filter fun t => t.sealed || decide (t.seq < k) else b.steps
        recalling := some { old with step := from_, waiting := boltPanels nw b, replay := old.replay || !drop } }
    (boltPanels nw b).foldl (fun s p => modPanel s p fun q => { q with recalling := some (nw, from_, gen) }) s2

/-- One step alone is discarded on every panel of its bolt, with its rows' work (R381). -/
def discardOne (s : State) (nw : Nat) (k : Word) : State :=
  match getBolt s nw with
  | none => s
  | some b =>
    let s1 := undoSteps s nw fun t => t == k
    let s2 := (boltPanels nw b).foldl (fun s p => discardPanel s p fun t => t == k) (dropSwatches s1 nw fun t => t == k)
    modBolt s2 nw fun b => { b with steps := b.steps.filter fun t => !(t.seq == k) }

/-! ### Pattern faults (R280 to R282) -/

/-- A pattern fault at a context: recorded, counted, raised; the faulting step and the later unsealed ones are discarded and
their jobs end PATTERN_FAULT. The request for that recall stands with the step. One in a sealed tail ends the jobs of its step and discards nothing (R281). A context that a fault has stopped
already has its fault recorded. -/
def patternFault (s : State) (p c code pc op : Nat) : State :=
  match siteOf s p c with
  | none => s
  | some h =>
    let x := h.x
    if x.wait = .stopped then s else
    let s1 := modPanel s p fun q =>
      if q.seqHeld then { q with seqFault := q.seqFault ||| bitOf 40 }
      else { q with
        seqFault := packReg [(0, 8, code), (8, 24, pc), (32, 8, op)]
        seqFaultStep := x.step
        seqHeld := true }
    let s2 := raiseEvent (bumpFor s1 (.seq p) 0x0A0 [(4, c), (64, x.step.toNat)]) (.seq p) 16 [(4, c), (64, x.step.toNat)]
    if x.tail then
      let s3 := claimAll s2 (jobsOfSteps s2 (h.b.steps.filter fun t => t.seq == x.step)) 0x15
      modPanel s3 p fun q => { q with ctxs := q.ctxs.filter fun y => y.slot != c }
    else
      let s3 := claimAll s2 (jobsOfSteps s2 (h.b.steps.filter fun t => !t.sealed && decide (x.step ≤ t.seq))) 0x15
      modStep (modCtx s3 p c fun y => { y with wait := .stopped }) h.nw x.step fun t => { t with asked := t.asked ++ [.patternFault] }

/-- A context meets a poisoned instruction, descriptor or batch table: its step alone is discarded, and its jobs end
POISONED; the panel calls Jobel, which rewrites the line (R315, R327, R381). -/
def poisonStop (s : State) (p c line : Nat) : State :=
  match siteOf s p c with
  | none => s
  | some h =>
    let s1 := sendLoad s p jobelDst 0 8 h.x.step h.b.gen (.rewrite p line)
    let s2 := claimAll s1 (jobsOfSteps s1 (h.b.steps.filter fun t => t.seq == h.x.step)) 0x14
    if h.x.tail then modPanel s2 p fun q => { q with ctxs := q.ctxs.filter fun y => y.slot != c }
    else discardOne s2 h.nw h.x.step

/-! ### Issue (R240, R244) -/

/-- What an instruction's own rules say: it runs, with the state it leaves; it is a pattern fault; it reads a poisoned
descriptor or batch table line; or it waits for a credit of a queue that its descriptor names (R32). -/
inductive Eff where
  | done (s : State)
  | fault (code : Nat)
  | poisoned (line : Nat)
  | wait (q : QueueId)

/-- A command of an instruction enters a unit's queue and the context's completion tracker, in a fence class (R245, R278). -/
def enterUnit (s : State) (p c op : Nat) (u : UnitId) (cls left : Nat) : State :=
  let id := (getPanel s p).nextCmd
  modPanel s p fun q =>
    { q with
      nextCmd := id + 1
      ctxs := modWhere (fun x : Ctx => x.slot == c)
        (fun x => { x with cmds := x.cmds ++ [{ id := id, u := u, cls := cls, opcode := op, pc := x.pc - 8, left := left }] }) q.ctxs }

/-- A command enters its unit's queue and the context's completion tracker (R245). -/
def enterCmd (s : State) (p c op left : Nat) : State :=
  match opUnit op with
  | none => s
  | some u => enterUnit s p c op u (opClass op) left

/-- A row of a pattern instruction: the context's next instruction, when it is this opcode's and can issue. A fetch outside
the code region, a reserved opcode, a wrong format or a reserved bit is a pattern fault; a sender without a credit waits
(R32). The body sees the state with the program counter moved past the instruction and the unit's credit taken. -/
def issue (s : State) (p c op : Nat) (body : State → Site → Word → Eff) : State :=
  match siteOf s p c with
  | none => s
  | some h =>
    let q := getPanel s p
    let pc := h.x.pc.toNat
    if h.x.wait != .none || !firstToIssue s p h.e h.x then s
    else if !inCode h.e pc then patternFault s p c 0x04 pc 0
    else if linePoison q pc then poisonStop s p c (pc / 64)
    else
      let w := fetchWord q h.x
      match opFormat (opOf w) with
      | none => patternFault s p c 0x01 pc (opOf w)
      | some f =>
        if opOf w ≠ op then s
        else if fmtOf w ≠ f ∨ reservedSet op f w = true then patternFault s p c 0x02 pc op
        else if !regsReady h.x w || !unitFree s p op then s
        else
          match (opQueues s p op).find? fun k => !creditFree s k with
          | some k => beginWait s k
          | none => go s (match opQueue p op with | some k => takeCredit s k | none => s) h w pc body
where
  /-- The issued instruction's own effect; one that faults reaches no unit. -/
  go (s t : State) (h : Site) (w : Word) (pc : Nat) (body : State → Site → Word → Eff) : State :=
    match body (modCtx t h.p h.x.slot fun x => { x with pc := x.pc + 8 }) h w with
    | .done t => t
    | .fault code => patternFault s h.p h.x.slot code pc (opOf w)
    | .poisoned line => poisonStop s h.p h.x.slot line
    | .wait q => beginWait s q

/-! ### Descriptors (R244, R257) -/

/-- The eight words of a descriptor. -/
def descWords (q : Panel) (a : Nat) : List Word := (List.range 8).map fun i => memWord q.sram (a + 8 * i)

/-- A format-2 instruction's descriptor and count: the address must be a multiple of 64 and inside panel SRAM. -/
def withDesc (s : State) (h : Site) (w : Word) (reserved : List Word → Bool) (body : List Word → Nat → Eff) : Eff :=
  let a := (gReg h.x (g51 w) + offOf w).toNat
  let q := getPanel s h.p
  if a % 64 ≠ 0 then .fault 0x03
  else if sramSize ≤ a then .fault 0x04
  else if linePoison q a then .poisoned (a / 64)
  else
    let d := descWords q a
    if reserved d then .fault 0x02
    else body d (if g47 w = 0 then 1 else (gReg h.x (g47 w)).toNat)

/-- A word of a descriptor. -/
def dw (d : List Word) (i : Nat) : Word := nth 0 d i

/-- Whether some reserved bits of words are set: each a word's number, high bit and low bit. -/
def anyReserved (fs : List (Nat × Nat × Nat)) (d : List Word) : Bool := fs.any fun f => field (dw d f.1) f.2.1 f.2.2 != 0

/-- The vector descriptor (R257). -/
structure VecDesc where
  src0 : Nat
  src1 : Nat
  fmt0 : Nat
  fmt1 : Nat
  func : Nat
  dst : Nat
  dfmt : Nat
  len : Nat
  stride0 : Nat
  dstStride : Nat
  stride1 : Nat
  a : F32
  waddr : Nat
  wdram : Bool
  wfmt : Nat
  m : Nat
  firstRow : Nat
  bval : BitVec 32
  aux : Nat

/-- The fields of a vector descriptor. -/
def vecDesc (d : List Word) : VecDesc :=
  let w0 := dw d 0
  let w1 := dw d 1
  let w2 := dw d 2
  let w3 := dw d 3
  let w4 := dw d 4
  let w5 := dw d 5
  let w6 := dw d 6
  { src0 := field w0 23 0, src1 := field w0 47 24, fmt0 := field w0 51 48, fmt1 := field w0 55 52, func := field w0 63 56,
    dst := field w1 23 0, dfmt := field w1 27 24, len := field w1 63 32, stride0 := field w2 23 0, dstStride := field w2 47 24,
    stride1 := field w3 23 0, a := BitVec.ofNat 32 (field w3 63 32), waddr := field w4 38 0, wdram := bit w4 39,
    wfmt := field w4 43 40, m := field w5 31 0, firstRow := field w5 41 32, bval := BitVec.ofNat 32 (field w6 31 0),
    aux := field w6 47 32 }

/-- The reserved bits of a vector descriptor. -/
def vecReserved (d : List Word) : Bool :=
  anyReserved [(1, 31, 28), (2, 63, 48), (3, 31, 24), (4, 63, 44), (5, 63, 42), (6, 63, 48), (7, 63, 0)] d

/-- The alignment of a format's addresses and strides (R257). -/
def fmtAlign (f : Nat) : Nat := if f = 7 then 2 else if f = 8 then 4 else 8

/-- Whether a range of n vectors of some bytes, a stride apart, lies in panel SRAM. -/
def rangeOk (addr stride n bytes : Nat) : Bool := decide (n = 0 ∨ addr + (n - 1) * stride + bytes ≤ sramSize)

end Sys2Proof.Machine
end

