-- ==== Sys2Proof/Machine/Prog.lean ====
section
/-! DEFINITION. Programming of arrays (R67 to R75), the spares and the escalation of repair (R22 to R27, R377), and the rows
of the programming controller up to the last round of an array. -/

namespace Sys2Proof.Machine

/-! ### The programming controller (R70, R463) -/

/-- The diode comparator limit of R466's rail path during a plausibility fault (R467): 8 A from 100 °C on. -/
def compLimit (s : State) : Nat := if s.hk.plaus && s.power.cmp100 then 8 else 27

/-- The effective limit of the governor (R462). -/
def effLimit (s : State) : Nat :=
  let a := min (field (getReg s .hk 0x0B0) 4 0) s.power.thermalLimit
  if s.hk.plaus then min a (compLimit s) else a

/-- The effective limit of the programming rail in 0.1 A (R70, R463). -/
def progLimit (s : State) : Nat :=
  let e := effLimit s
  min (field (dieReg s 0x100) 7 0) (if 20 ≤ e then 160 else if 12 ≤ e then 80 else 40)

/-- Arrays programming or zeroising now. -/
def activeArrs (s : State) : Nat := (s.arrays.arrs.filter fun kv => kv.2.st == .programming).length

/-- Whether a request is of the first class (R70). -/
def firstClass (r : ProgReq) : Bool := r.kind == .refresh || r.kind == .recheck || r.kind == .repair

/-- A request joins those that wait for admission; a checker copy only while fewer than eight wait (R362). -/
def queueProg (s : State) (r : ProgReq) : State :=
  if r.kind == .checker && decide (8 ≤ (s.arrays.waiting.filter fun x => x.kind == .checker).length) then s
  else if s.arrays.waiting.contains r then s
  else { s with arrays := { s.arrays with waiting := s.arrays.waiting ++ [r] } }

/-- A zeroisation is requested (R72). -/
def queueZero (s : State) (a : ArrId) : State :=
  queueProg s { target := a, kind := .zeroise, exact := false, bolt := 0, panel := 0, number := 0 }

/-- The pattern tenant of a request's bolt. -/
def reqTenant (s : State) (r : ProgReq) : Option Nat := (getBolt s r.bolt).map fun b => b.tenant

/-- A request with the zeroisation that R415 asks for before it: the array holds levels of another tenant. -/
def requestProg (s : State) (r : ProgReq) : State :=
  let a := getArr s r.target
  let foreign := a.holder.isSome && a.holder != reqTenant s r
  queueProg (if r.kind != .zeroise && foreign then queueZero s r.target else s) r

/-- The hem behind an array's logical position, if it serves one. -/
def hemOf (s : State) (a : ArrId) : Option HemArr := (logOf s a).map fun x => getHem s x.1 x.2.1 x.2.2

/-- Whether no step is addressed to an array (R67 step 1). -/
def arrFree (s : State) (a : ArrId) : Bool := match hemOf s a with | some h => h.jobs.isEmpty | none => true

/-! ### Positions and spares (R26, R27) -/

/-- A logical position fails: its waiting steps will be released poisoned, and its bolt stops (R27, R46). -/
def failPosition (s : State) (p t a : Nat) : State :=
  let k := posKey p t a
  let s1 := { s with arrays := { s.arrays with failedPos := if s.arrays.failedPos.contains k then s.arrays.failedPos else s.arrays.failedPos ++ [k] } }
  let s2 := match boltOfPanel s1 p with | some (nw, _) => modBolt s1 nw fun b => { b with stopped := true } | none => s1
  raiseEvent s2 .die 59 [(6, p), (5, t), (5, a)]

/-- Physical arrays of a physical tile that logical arrays use. -/
def usedArrs (s : State) (pp pt : Nat) : List Nat :=
  (List.range 32).map fun a => (mapGet none s.arrays.arrOf ((pp * 25 + pt) * 32 + a)).getD a

/-- Spares already given to a repair. -/
def spareTaken (s : State) (u : RepairUnit → Nat → Bool) : Bool := s.ras.repairs.any fun x => u x.1 x.2

/-- A free gusset of a physical tile (R26, R360): it serves no logical array, is not retired, and no repair has it. -/
def freeGusset (s : State) (pp pt : Nat) : Option Nat :=
  (List.range 34).find? fun i =>
    let st := (getArr s { pp := pp, tile := pt, arr := i }).st
    !(usedArrs s pp pt).contains i && st != .retired && st != .unusable && st != .programming
      && !(spareTaken s fun u n => match u with
        | .array p t _ => physPanel s p == pp && physTile s pp t == pt && n == i
        | _ => false)
      && !(s.arrays.waiting.any fun r => firstClass r && r.target == { pp := pp, tile := pt, arr := i })

/-- Whether a physical panel's spare tile is free: not in use, not retired, no repair has it. -/
def spareTileFree (s : State) (pp : Nat) : Bool :=
  (List.range 24).all (fun t => physTile s pp t != 24) && !s.start.area.failedTiles.contains (pp, 24)
    && !(spareTaken s fun u _ => match u with | .tile p _ => physPanel s p == pp | _ => false)

/-- The spare panel of a half, when it is free (R22, R23). -/
def sparePanel (s : State) (half : Nat) : Option Nat :=
  let pp := half * 25 + 24
  if (List.range 48).all (fun p => physPanel s p != pp) && !s.start.area.failedPanels.contains pp
      && !(spareTaken s fun u _ => match u with | .panel p => halfOf p == half | _ => false)
  then some pp else none

/-- The security area as it stands, in both copies' place until the next commit (R477, R478). -/
def modSec (s : State) (f : SecArea → SecArea) : State :=
  markDirty { s with start := { s.start with area := f s.start.area } }

/-- The levels of a weight block of a bolt, or none when a chunk of it is lost (R224). -/
def blockLevels (b : Bolt) (panel number : Nat) : Option (List Byte) :=
  let r := blockBytes b panel number
  if r.2 then none else some r.1

/-! ### Repair (R377) -/

/-- Whether a repair covers a logical array. -/
def covers (u : RepairUnit) (p t a : Nat) : Bool :=
  match u with
  | .array p' t' a' => p' == p && t' == t && a' == a
  | .tile p' t' => p' == p && t' == t
  | .panel p' => p' == p

/-- Whether a unit is being repaired already. -/
def underRepair (s : State) (p t a : Nat) : Bool := s.ras.repairs.any fun x => covers x.1 p t a

/-- The level of a repair: 0 an array's, 1 a tile's, 2 a panel's. -/
def repairLevel : RepairUnit → Nat
  | .array _ _ _ => 0
  | .tile _ _ => 1
  | .panel _ => 2

/-- The array that a repair with its spare puts behind a logical array. -/
def spareArr (s : State) (u : RepairUnit) (spare p t a : Nat) : ArrId :=
  match u with
  | .array _ _ _ => { physArr s p t a with arr := spare }
  | .tile _ _ => arrAt s (physPanel s p) spare a
  | .panel _ => arrAt s spare (physTile s spare t) a

/-- The array that serves a logical array once the repairs under way are complete; the largest unit's repair decides. -/
def servingArr (s : State) (p t a : Nat) : ArrId :=
  match ([2, 1, 0].filterMap fun l => s.ras.repairs.find? fun x => repairLevel x.1 == l && covers x.1 p t a).head? with
  | some (u, n) => spareArr s u n p t a
  | none => physArr s p t a

/-- The request for a placed block of a bolt; one whose unit is under repair is the repair's, on its spare. -/
def placeReq (s : State) (nw : Nat) (b : Bolt) (kind : ProgKind) (x : Place) : ProgReq :=
  let p := relPanel nw b x.panel
  { target := servingArr s p x.tile x.arr, kind := if underRepair s p x.tile x.arr then .repair else kind, exact := x.exact,
    bolt := nw, panel := x.panel, number := x.number }

/-- The placed blocks of a unit, with the bolt that has them. -/
def unitBlocks (s : State) (u : RepairUnit) : List (Nat × Bolt × Place) :=
  let p := match u with | .array p _ _ => p | .tile p _ => p | .panel p => p
  match boltOfPanel s p with
  | none => []
  | some (nw, b) => (b.place.filter fun x => x.panel == panelRel nw b p && covers u p x.tile x.arr).map fun x => (nw, b, x)

/-- A repair begins: its spare is taken, and the programming of the unit's placed blocks asked for. A unit that holds no placed block
needs none. -/
def beginRepair (s : State) (u : RepairUnit) (spare : Nat) : State :=
  let s1 := { s with ras := { s.ras with repairs := s.ras.repairs ++ [(u, spare)] } }
  let reqs := (unitBlocks s1 u).map fun x => placeReq s1 x.1 x.2.1 .repair x.2.2
  reqs.foldl requestProg { s1 with bolts := s1.bolts.foldl (fun m kv => mapMod none m kv.1 fun o => o.map fun b =>
    { b with checkers := b.checkers.filter fun c => !(reqs.any fun r => r.target == c.arr) }) s1.bolts }

/-- A list with an entry, once. -/
def withOnce {α : Type} [BEq α] (xs : List α) (x : α) : List α := if xs.contains x then xs else xs ++ [x]

/-- A panel without a spare: its position and everything in it is FAILED, its bolt stops, and a spare that stood there is FAILED itself
(R23, R27). -/
def failPanel (s : State) (p : Nat) : State :=
  let s1 := modSec s fun a =>
    { a with
      failedPanels := withOnce a.failedPanels (physPanel s p)
      darns := a.darns.filter fun d => d.1 != p }
  let keys := (List.range 768).map fun i => posKey p (i / 32) (i % 32)
  let s2 := { s1 with arrays := { s1.arrays with failedPos := keys.foldl withOnce s1.arrays.failedPos } }
  setBlk (failPosition s2 p 0 0) (.panel p) .failed false 3

/-- A panel's repair: the half's spare panel, whose darn stands from now on, or the position fails (R22, R26, R27, R378). -/
def repairPanel (s : State) (p : Nat) : State :=
  match sparePanel s (halfOf p) with
  | none => failPanel s p
  | some pp =>
    beginRepair (modSec s fun a =>
      { a with
        failedPanels := withOnce a.failedPanels (physPanel s p)
        darns := (a.darns.filter fun d => d.1 != p) ++ [(p, pp)] }) (.panel p) pp

/-- A tile's repair: the panel's spare tile, or the panel's (R26). -/
def repairTile (s : State) (p t : Nat) : State :=
  let pp := physPanel s p
  if spareTileFree s pp then
    beginRepair (modSec s fun a => { a with failedTiles := withOnce a.failedTiles (pp, physTile s pp t) }) (.tile p t) 24
  else repairPanel s p

/-- An array's repair: a gusset of its tile, or the tile's (R26). -/
def repairArray (s : State) (p t a : Nat) : State :=
  let pp := physPanel s p
  match freeGusset s pp (physTile s pp t) with
  | some i => beginRepair s (.array p t a) i
  | none => repairTile s p t

/-- Whether the block placed at a logical array rests on a lost chunk (R224). -/
def placeLost (s : State) (p t a : Nat) : Bool :=
  (unitBlocks s (.array p t a)).any fun x => (blockLevels x.2.1 x.2.2.panel x.2.2.number).isNone

/-! ### The swap of a unit (R22, R26, R125, R378) -/

/-- A physical array takes a logical position within its tile. -/
def placeArr (s : State) (p t i : Nat) (a : ArrId) : State :=
  let key := (physPanel s p * 25 + physTile s (physPanel s p) t) * 32 + i
  { s with arrays := { s.arrays with arrOf := mapSet none s.arrays.arrOf key (if a.arr = i then none else some a.arr) } }

/-- A physical tile takes the place of another: the logical tile's generation and counts go with the place (R22, R136), and the tile that
leaves has no run any more. -/
def carryCal (s : State) (old new : Nat × Nat) : State :=
  let o := calAt s old.1 old.2
  modCalAt (modCalAt s old.1 old.2 fun c => { c with stage := 0, pending := 0, due := [] }) new.1 new.2 fun c =>
    { c with
      gen := o.gen
      refreshes := o.refreshes
      retired := o.retired }

/-- The spare takes the unit's place. -/
def swapUnit (s : State) (u : RepairUnit) (spare : Nat) : State :=
  match u with
  | .array p t a => placeArr s p t a { physArr s p t a with arr := spare }
  | .tile p t =>
    let pp := physPanel s p
    let s1 := carryCal s (pp, physTile s pp t) (pp, spare)
    { s1 with arrays := { s1.arrays with tileOf := mapSet none s1.arrays.tileOf (pp * 24 + t) (some spare) } }
  | .panel p =>
    let pp := physPanel s p
    let s1 := (List.range 24).foldl (fun s t => carryCal s (pp, physTile s pp t) (spare, physTile s spare t)) s
    { s1 with arrays := { s1.arrays with panelOf := mapSet none s1.arrays.panelOf p (some spare) } }

/-- A fault of a logical array, with the escalation of R377: a second tile of the panel within 24 h makes a panel fault, a
second fault of the tile a tile fault. One whose chunk is lost makes its position FAILED (R224). -/
def unitFault (s : State) (p t a : Nat) : State :=
  if underRepair s p t a then s
  else
    let recent := s.ras.faults.filter fun x => decide (s.now < x.1 + 86400000000) && x.2.1 == p
    let s1 := { s with ras := { s.ras with faults := s.ras.faults ++ [(s.now, p, t, a)] } }
    if placeLost s p t a then failPosition s1 p t a
    else if recent.any fun x => x.2.2.1 != t then repairPanel s1 p
    else if !recent.isEmpty then repairTile s1 p t
    else repairArray s1 p t a

/-- An array is retired (R129): counted, raised, its position goes to repair, and it is zeroised before any reuse. -/
def retireArr (s : State) (a : ArrId) : State :=
  let s1 := modArr s a fun x => { x with st := .retired, spent := true }
  match logOf s1 a with
  | none => s1
  | some (p, t, i) =>
    let s2 := modCal s1 p t fun c => { c with retired := if c.retired = 0xFF then 0xFF else c.retired + 1 }
    unitFault (raiseEvent s2 (.panel p) 27 [(5, t), (5, i)]) p t i

/-- An array that serves no position is retired (R129): raised at its panel and zeroised. -/
def retireSpare (s : State) (a : ArrId) : State :=
  let s1 := modArr s a fun x => { x with st := .retired, spent := true }
  let s2 := match calTileOf s1 a with
    | some (p, t) =>
      raiseEvent (modCal s1 p t fun c => { c with retired := if c.retired = 0xFF then 0xFF else c.retired + 1 }) (.panel p) 27 [(5, t), (5, a.arr)]
    | none => s1
  queueZero s2 a

/-! ### The rows -/

/-- PROG_REQUEST (R67 step 1). -/
def execProgRequest (r : ProgReq) (s : State) : Res :=
  .next (if arrFree s r.target && (getArr s r.target).st != .programming && ((getArr s r.target).st != .retired || r.kind == .zeroise)
    then requestProg s r else s)

/-- Whether a request's source block is at hand: the repair copy holds every chunk of it (R224). -/
def sourceReady (s : State) (r : ProgReq) : Bool :=
  match getBolt s r.bolt with
  | some b => (blockLevels b r.panel r.number).isSome
  | none => r.kind == .selfTest

/-- Whether a request's array may enter PROGRAMMING: it is not at it already, no zeroisation of it is to come first (R415), no step
is addressed to it (R67 step 1), its tile has no fit whose swap takes effect first (R126), and its source is at hand (R224).
A zeroisation waits for the first alone. -/
def admissible (s : State) (r : ProgReq) : Bool :=
  let x := getArr s r.target
  x.st != .programming && (r.kind == .zeroise ||
    (x.st != .zeroisePending && !(s.arrays.waiting.any fun q => q.kind == .zeroise && q.target == r.target)
      && arrFree s r.target && sourceReady s r
      && (match calTileOf s r.target with | some (p, t) => (getCal s p t).stage != 3 | none => true)))

/-- An array enters PROGRAMMING for a request: a calibration run in progress in its tile goes on without it (R122). -/
def startProg (s : State) (r : ProgReq) : State :=
  let s1 := modArr { s with arrays := { s.arrays with waiting := s.arrays.waiting.erase r } } r.target fun a =>
    { a with
      st := .programming
      exactOk := false
      req := some r
      quarter := 0
      row := 0
      round := 0
      cells := []
      setMv := 1100
      rstMv := 1200
      pulses := []
      near := 0
      far := 0
      marginBad := false
      marginSq := 0
      marginN := 0
      since := s.now }
  let s2 := match calTileOf s1 r.target with
    | some (p, t) => modCal s1 p t fun c =>
        { c with
          measured := c.measured.filter fun n => n != r.target.arr
          shadow := c.shadow.filter fun f => f.1 != r.target.arr
          shadowT := c.shadowT.filter fun f => f.1 != r.target.arr }
    | none => s1
  { s2 with bolts := s2.bolts.foldl (fun m kv => mapMod none m kv.1 fun o => o.map fun b =>
      { b with checkers :=
          if r.kind == .checker then b.checkers
          else if r.kind == .recheck then b.checkers.map fun c => if c.arr = r.target then { c with ready := false } else c
          else b.checkers.filter fun c => c.arr != r.target }) s2.bolts }

/-- The first request in the order of admission whose array may start is admitted, when the rail has room for one more (R70). -/
def admitNext (s : State) : State :=
  match (s.arrays.waiting.filter firstClass ++ s.arrays.waiting.filter fun r => !firstClass r).find? (admissible s) with
  | some r => if (activeArrs s + 1) * 2 ≤ progLimit s then startProg s r else s
  | none => s

/-- The input buffer of the tile that an array stands in (R297). -/
def tileBuffer (s : State) (a : ArrId) : Option QueueId := (calTileOf s a).map fun x => .tileIn x.1 x.2

/-- PROG_QUARTER_STAGE (R67 step 3): the quarter's lines go through the tile's input buffer to the array, which takes each as it
comes; they wait while the buffer has no credit. -/
def execProgQuarterStage (a : ArrId) (s : State) : Res :=
  .next (let x := getArr s a
    match x.req with
    | some r =>
      if x.st = .programming ∧ r.kind ≠ .zeroise ∧ x.quarter < 4 ∧ x.row = 256 * x.quarter ∧ sourceReady s r = true then
        match tileBuffer s a with
        | some q => if creditFree s q then modArr (endWait s q) a fun x => { x with quarter := x.quarter + 1 } else beginWait s q
        | none => modArr s a fun x => { x with quarter := x.quarter + 1 }
      else s
    | none => s)

/-- The target levels of a row (R38, R39, R55, R72). Zeroisation drives the data cells alone. -/
def rowTargets (img : List Byte) (r : ProgReq) (row : Nat) : List Int :=
  if r.kind == .zeroise then List.replicate 512 0
  else
    let ws : List Int :=
      if r.exact then
        (if 1016 ≤ row then List.replicate 512 0
         else
          let bs := (img.drop (row * 64)).take 64
          (bs.flatMap fun b => [signed 4 (b.toNat % 16), signed 4 (b.toNat / 16)]).flatMap fun w =>
            (List.range 4).map fun q => (w + 8) / (2 : Int) ^ q % 2 * 15)
      else
        let bs := (img.drop (row * 256)).take 256
        bs.flatMap fun b => [signed 4 (b.toNat % 16) + 8, signed 4 (b.toNat / 16) + 8]
    ws ++ List.replicate 8 8 ++ [0, 5, 10, 15]

/-- Cells of a verify read outside the window, and those beyond 0.50 ΔG: readings and window in 1/1000 ΔG (R68, R69). -/
def outside (tgt cells : List Int) (win : Int) : Nat × Nat :=
  let d := zipW (fun t c => (c - 1000 * t).natAbs) tgt cells
  ((d.filter fun x => decide (win < (x : Int))).length, (d.filter fun x => decide (500 < x)).length)

/-- The window of a request in 1/1000 ΔG (R68, R72). -/
def progWindow (r : ProgReq) : Int := if r.exact && r.kind != .zeroise then 100 else 200

/-- The pulses of a round after a reading (R68): a set pulse for a cell below its window, a reset pulse for one above it. -/
def roundPulses (tgt cells : List Int) (win : Int) (setMv rstMv : Nat) : List (Nat × Int) :=
  ((tgt.zip cells).zipIdx.filter fun x => decide (win < ((x.1.2 - 1000 * x.1.1).natAbs : Int))).map fun x =>
    (x.2, if x.1.2 < 1000 * x.1.1 then (setMv : Int) else -(rstMv : Int))

/-- The margin test of one quarter (R67 step 5, R69): whether it passes, the sum of its squared residuals, their number and the free
values drawn. Dense: 16 vectors on 4 pleats, each of the 512 columns by its RMS and its worst residual in mLSB. Exact: 17
vectors on the 2 pleats that end in the quarter, each count within 125/1000. -/
def marginTest (exact : Bool) (ctr : Nat) : Bool × Nat × Nat :=
  let per := if exact then 34 else 64
  (List.range 512).foldl (fun (acc : Bool × Nat × Nat) c =>
    let rs := (List.range per).map fun i => (Config.marginResidual (ctr + per * c + i)).natAbs
    let sq := sumNat (rs.map fun r => r ^ 2)
    let ok := if exact then rs.all fun r => decide (r ≤ 125) else decide (sq ≤ per * 350 ^ 2) && rs.all fun r => decide (r ≤ 2000)
    (acc.1 && ok, acc.2.1 + sq, acc.2.2 + per)) (true, 0, 0)

/-- A row ends with its last reading; the last row of a quarter is followed by the quarter's margin test, which zeroisation has
not. -/
def endRow (s : State) (a : ArrId) (r : ProgReq) (out : Nat × Nat) : State :=
  let s1 := modArr s a fun x =>
    { x with
      row := x.row + 1
      round := 0
      cells := []
      setMv := 1100
      rstMv := 1200
      pulses := []
      near := x.near + (out.1 - out.2)
      far := x.far + out.2 }
  if r.kind != .zeroise && (getArr s1 a).row % 256 == 0 then
    let m := marginTest r.exact s1.freeCtr
    modArr { s1 with freeCtr := s1.freeCtr + m.2.2 } a fun x =>
      { x with
        marginBad := x.marginBad || !m.1
        marginSq := x.marginSq + m.2.1
        marginN := x.marginN + m.2.2 }
  else s1

/-- Verify readings of a row (R68): free values. -/
def verifyReads (ctr n : Nat) : List Int := (List.range n).map fun i => Config.verifyRead (ctr + i)

/-- PROG_ROUND (R68): the pulse and the verify read of one round end; the first round of a row has a reading before its pulse too. A
row ends once every cell is inside its window, or after sixteen rounds. -/
def execProgRound (a : ArrId) (s : State) : Res :=
  .next (let x := getArr s a
    match x.req with
    | none => s
    | some r =>
      let limit := if r.kind = .zeroise then 1024 else 256 * x.quarter
      if x.st ≠ .programming ∨ limit ≤ x.row then s
      else
        let img := match getBolt s r.bolt with | some b => (blockLevels b r.panel r.number).getD [] | none => []
        let tgt := rowTargets img r x.row
        let n := tgt.length
        let before := if x.cells.isEmpty then verifyReads s.freeCtr n else x.cells
        let c1 := if x.cells.isEmpty then s.freeCtr + n else s.freeCtr
        if (outside tgt before (progWindow r)).1 = 0 then endRow { s with freeCtr := c1 } a r (0, 0)
        else
          let cells := verifyReads c1 n
          let out := outside tgt cells (progWindow r)
          let s1 := { s with freeCtr := c1 + n }
          if out.1 = 0 ∨ 15 ≤ x.round then endRow s1 a r out
          else modArr s1 a fun x =>
            { x with
              round := x.round + 1
              cells := cells
              pulses := roundPulses tgt before (progWindow r) x.setMv x.rstMv
              setMv := min (x.setMv + 50) 1850
              rstMv := min (x.rstMv + 50) 1950 })

end Sys2Proof.Machine
end

