-- ==== Sys2Proof/Machine/Calib.lean ====
section
/-! DEFINITION. The calibration loop (R114 to R137): quality figures, triggers, clamps and overrides, the rows of a run, and
the eye monitors of the Kwath lanes. -/

namespace Sys2Proof.Machine

/-! ### Settings (R133) -/

/-- CAL_CTRL. -/
def calCtrl (s : State) : Word := dieReg s 0x180
/-- PIN_OFF. -/
def pinOff (s : State) : Bool := bit (calCtrl s) 0
/-- THRESH in 1/64 °C. -/
def calThresh (s : State) : Nat := field (calCtrl s) 15 8 * 16
/-- MIN_GAP in µs. -/
def minGap (s : State) : Nat := field (calCtrl s) 27 16 * 10000
/-- QF_BOUND in mLSB. -/
def qfBound (s : State) : Nat := field (calCtrl s) 41 32
/-- REFRESH_MLSB. -/
def refreshBound (s : State) : Nat := field (calCtrl s) 51 42
/-- EYE_WARN in mUI. -/
def eyeWarn (s : State) : Nat := field (calCtrl s) 59 52 * 4

/-! ### Quality figures (R116, R117) -/

/-- The least number whose square reaches n. -/
def sqrtUp (n : Nat) : Nat := if Nat.sqrt n * Nat.sqrt n = n then Nat.sqrt n else Nat.sqrt n + 1

/-- Q in mLSB, rounded up, from F in mLSB and G in parts per million: sqrt(F² + (32 G)²). -/
def qualityOf (f : Nat) (g : Int) : Nat := (sqrtUp (f * f * 1000000 + (32 * g.natAbs) ^ 2) + 999) / 1000

/-- The tile's figure and the logical array that sets it: PROGRAMMED dense arrays that serve a position alone. -/
def tileFigure (s : State) (p t : Nat) (trn : Bool) : Nat × Nat :=
  let c := getCal s p t
  let qs := if trn then c.qualityT else c.quality
  (List.range 32).foldl (fun best i =>
    let id := arrAt s (calTile s p t).1 (calTile s p t).2 i
    let a := getArr s id
    match qs.find? fun x => x.1 == id.arr with
    | some x =>
      let q := satNat 0xFFFF (qualityOf x.2.1 x.2.2)
      if a.st == .programmed && !a.exact && decide (best.1 < q) then (q, i) else best
    | none => best) (0, 0)

/-- QF_FWD. -/
def qfFwd (s : State) (p t : Nat) : Nat := (tileFigure s p t false).1
/-- QF_TRN. -/
def qfTrn (s : State) (p t : Nat) : Nat := (tileFigure s p t true).1

/-- The least-squares line of mean residual against mean expected value through gauges 1 to 3 of a record (R116): slope and
intercept. -/
def gaugeLine (gs : List GaugeSum) : Rat × Rat :=
  let ps := (gs.drop 1).map fun g => ((g.ex : Rat) / (g.n : Rat), (g.sum : Rat) / (g.n : Rat))
  let sx := (ps.map fun x => x.1).foldl (· + ·) 0
  let sy := (ps.map fun x => x.2).foldl (· + ·) 0
  let sxx := (ps.map fun x => x.1 * x.1).foldl (· + ·) 0
  let sxy := (ps.map fun x => x.1 * x.2).foldl (· + ·) 0
  let k := (3 * sxy - sx * sy) / (3 * sxx - sx * sx)
  (k, (sy - k * sx) / 3)

/-- G of a gauge record in parts per million (R116); none when a gauge of it holds fewer than 256 readings. -/
def gainOf (gs : List GaugeSum) : Option Int :=
  if gs.length = 4 && (gs.drop 1).all fun g => decide (256 ≤ g.n) then some (Rat.floor (1000000 * (gaugeLine gs).1 + 1 / 2)) else none

/-- The mean square of a record's readings about its gain fit, in level-units squared (R116). -/
def scatterOf (gs : List GaugeSum) : Rat :=
  let l := gaugeLine gs
  (((gs.drop 1).map fun g =>
    let fit := l.1 * ((g.ex : Rat) / (g.n : Rat)) + l.2
    (g.sq : Rat) / (g.n : Rat) - 2 * fit * ((g.sum : Rat) / (g.n : Rat)) + fit * fit).foldl (· + ·) 0) / 3

/-- F in mLSB (R116) of an array whose run measured some gauges; one level-unit is 250 mLSB at RS 2. -/
def floorOf (a : Arr) (gs : List GaugeSum) : Nat :=
  let base := match a.gauge.baseline with | some b => scatterOf b | none => scatterOf gs
  sqrtUp (a.fAcc ^ 2 + (Rat.ceil (62500 * (scatterOf gs - base))).toNat)

/-! ### Triggers (R119 to R121, R130, R131) -/

/-- How far the diode has moved from a tile's CAL_TEMP, which a run in progress has latched anew (R122, R124). -/
def calMove (s : State) (p t : Nat) : Nat := (s.arrays.diode - (getCal s p t).temp).natAbs

/-- Whether the temperature trigger holds for a tile; never during the fallback. -/
def tempHolds (s : State) (p t : Nat) : Bool := !s.arrays.fallback && decide (calThresh s < calMove s p t)

/-- Whether the diode has moved more than twice THRESH (R131). -/
def tempOver (s : State) (p t : Nat) : Bool := !s.arrays.fallback && decide (2 * calThresh s < calMove s p t)

/-- Whether the residual trigger holds. -/
def residHolds (s : State) (p t : Nat) : Bool := decide (qfBound s < qfFwd s p t ∨ qfBound s < qfTrn s p t)

/-- Whether a figure exceeds twice QF_BOUND (R131). -/
def residOver (s : State) (p t : Nat) : Bool := decide (2 * qfBound s < qfFwd s p t ∨ 2 * qfBound s < qfTrn s p t)

/-- Whether a programming run is due (R115). -/
def progDue (s : State) (p t : Nat) : Bool := (getCal s p t).due.any fun d => decide (d ≤ s.now)

/-- The logical array behind a tile's event: the one that sets the figure above QF_BOUND, else QF_FWD's (R137). -/
def behindArr (s : State) (p t : Nat) : Nat :=
  if qfFwd s p t ≤ qfBound s ∧ qfBound s < qfTrn s p t then (tileFigure s p t true).2 else (tileFigure s p t false).2

/-- STALE follows the triggers (R120); a rise raises CAL_STALE. While a run that has latched its CAL_TEMP is in progress it stays, for
its corrections are not yet in force. A panel's spare tile is judged and raised like a logical tile, as tile 24 (DESIGN CHOICE,
log entry 212). -/
def judgeStale (s : State) (p t : Nat) : State :=
  let c := getCal s p t
  let now := tempHolds s p t || residHolds s p t
  if now && !c.stale then raiseEvent (modCal s p t fun c => { c with stale := true }) (.panel p) 24 [(5, t), (5, behindArr s p t)]
  else if !now && c.stale && (c.stage == 0 || c.stage == 5) then modCal s p t fun c => { c with stale := false }
  else s

/-- A clamp or an override: counted, raised, and written as a CONTROL record (R130, R131, R504). -/
def calControl (s : State) (kind : Nat) (value : Nat) : State :=
  let s1 := bbRecord s .jobel 0x120 ([BitVec.ofNat 8 kind, 0, 0, 0] ++ natLe 4 value)
  if kind = 0 then raiseEvent (bumpFor s1 .die 0x198 [(64, value)]) .die 32 [(64, value)] else raiseEvent (bumpFor s1 .die 0x1A0 [(64, value)]) .die 33 [(64, value)]

/-- Whether MIN_GAP has passed since a tile's last automatic run. -/
def gapOver (s : State) (p t : Nat) : Bool := match (getCal s p t).lastAuto with | none => true | some a => decide (a + minGap s ≤ s.now)

/-- The order of a tile's requests: automatic ones, an override, and a command, which nothing takes back. -/
def calRank (kind : Nat) : Nat := if kind = 4 then 6 else kind

/-- A tile's request: 1 temperature, 2 residual, 3 programming, 4 command, 5 override. One is held per tile (R124); a stronger
one replaces a weaker. -/
def calPend (s : State) (p t kind : Nat) : State :=
  modCal s p t fun c => if calRank c.pending < calRank kind then { c with pending := kind } else c

/-- A tile's automatic request or override is taken back: what asked for it no longer holds (R124). -/
def calUnpend (s : State) (p t : Nat) : State :=
  modCal s p t fun c => if c.pending = 4 then c else { c with pending := 0 }

/-- The tiles of the calibration loop (R122): the logical tiles of every enabled panel with its spare tile, and those of the half
spare panels as panels 48 and 49; a spare that serves a position is one of the logical ones, and one that has failed is none. -/
def allTiles (s : State) : List (Nat × Nat) :=
  ((List.range (panelsEn s)).flatMap fun p =>
    let pp := physPanel s p
    let spare := (List.range 24).all (fun t => physTile s pp t != 24) && !s.start.area.failedTiles.contains (pp, 24)
    (List.range (if spare then 25 else 24)).map fun t => (p, t))
  ++ (List.range 2).flatMap fun h =>
    let pp := h * 25 + 24
    if (logPanel s pp).isSome || s.start.area.failedPanels.contains pp then [] else (List.range 25).map fun t => (48 + h, t)

/-- A mark of a tile's triggers is put or taken off. -/
def calMark (s : State) (p t k : Nat) (on : Bool) : State :=
  modCal s p t fun c => { c with clamped := if on then (if c.clamped.contains k then c.clamped else c.clamped ++ [k]) else c.clamped.filter fun x => x != k }

/-- The marks of the conditions that no longer hold for a tile go. -/
def calUnmark (s : State) (p t : Nat) : State :=
  let off (s : State) (k : Nat) (holds : Bool) : State := if holds || !(getCal s p t).clamped.contains k then s else calMark s p t k false
  off (off (off (off (off s 1 (tempHolds s p t)) 2 (residHolds s p t)) 3 (progDue s p t)) 5 (tempOver s p t)) 6 (residOver s p t)

/-- One automatic trigger of a kind holds for some tiles: a run of each is requested, unless PIN_OFF suppresses it. A trigger that
PIN_OFF suppresses or MIN_GAP delays is a clamp, counted once while it holds (R130). -/
def autoTrigger (s : State) (ts : List (Nat × Nat)) (kind value : Nat) : State :=
  let clamp := ts.filter fun x => (pinOff s || !gapOver s x.1 x.2) && !(getCal s x.1 x.2).clamped.contains kind && (getCal s x.1 x.2).pending != 4
  let s1 := if clamp.isEmpty then s else calControl (clamp.foldl (fun s x => calMark s x.1 x.2 kind true) s) 0 value
  if pinOff s then s1 else ts.foldl (fun s x => calPend s x.1 x.2 kind) s1

/-- The override of R131 holds for some tiles: each runs at once, whatever the bounds. It is counted once while it holds. -/
def overrideTrigger (s : State) (ts : List (Nat × Nat)) (mark value : Nat) : State :=
  let fresh := ts.filter fun x => !(getCal s x.1 x.2).clamped.contains mark
  if fresh.isEmpty then s
  else fresh.foldl (fun s x => calPend (calMark s x.1 x.2 mark true) x.1 x.2 5) (calControl s 1 value)

/-- The triggers of some tiles are judged (R119 to R121, R130, R131): temperature for all of them together, residual for each. -/
def calEvaluate (s : State) (ts : List (Nat × Nat)) : State :=
  let s1 := ts.foldl (fun s x => judgeStale (calUnmark s x.1 x.2) x.1 x.2) s
  let s2 := overrideTrigger s1 (ts.filter fun x => tempOver s1 x.1 x.2) 5 (calThresh s1)
  let s3 := ts.foldl (fun s x => if residOver s x.1 x.2 then overrideTrigger s [x] 6 (qfBound s) else s) s2
  let s4 := autoTrigger s3 (ts.filter fun x => tempHolds s3 x.1 x.2 && !tempOver s3 x.1 x.2) 1 (calThresh s3)
  ts.foldl (fun s x => if residHolds s x.1 x.2 && !residOver s x.1 x.2 then autoTrigger s [x] 2 (qfBound s) else s) s4

/-- The loop takes a diode reading (R119, R121, R131, R134). -/
def calDiode (s : State) (d : Int) : State :=
  let s0 := { s with arrays := { s.arrays with diode := d } }
  calEvaluate s0 (allTiles s0)

/-- A tile's figure has changed: its triggers are judged (R119, R131). -/
def calResidual (s : State) (p t : Nat) : State := calEvaluate s [(p, t)]

/-- An array's figures: F and G replaced in its tile (R116). -/
def setQuality (s : State) (a : ArrId) (f : Nat) (g : Int) : State :=
  modCalAt s a.pp a.tile fun c => { c with quality := (c.quality.filter fun x => x.1 != a.arr) ++ [(a.arr, f, g)] }

/-- A gauge record of a logical array has been latched: its gain error is estimated anew (R116). -/
def gaugeLatched (s : State) (p t a : Nat) : State :=
  let id := physArr s p t a
  match (getArr s id).gauge.record.bind gainOf with
  | none => s
  | some g =>
    let f := match (getCal s p t).quality.find? fun x => x.1 == id.arr with | some x => x.2.1 | none => (getArr s id).fAcc
    calResidual (setQuality s id f g) p t

/-! ### A run (R122 to R127) -/

/-- Whether every array of a tile is at a pleat boundary. -/
def tileAtBoundary (s : State) (p t : Nat) : Bool :=
  (List.range 32).all fun a => match (getHem s p t a).jobs with | [] => true | j :: _ => j.phase == 0

/-- Whether a tile's run holds back new pleats: steps 2 to 4. -/
def calHolds (s : State) (p t : Nat) : Bool := (getCal s p t).stage == 1 || (getCal s p t).stage == 5

/-- Whether a tile's request may start a run now: a command, an override, or an automatic trigger that still holds and that neither
PIN_OFF nor MIN_GAP holds back. -/
def calEligible (s : State) (p t : Nat) : Bool :=
  let c := getCal s p t
  c.stage == 0 && c.pending != 0 && (decide (4 ≤ c.pending) ||
    (!pinOff s && gapOver s p t && (tempHolds s p t || residHolds s p t || progDue s p t)))

/-- Step 3: the tile is at a pleat boundary; CAL_TEMP is latched and the arrays that are neither PROGRAMMING nor RETIRED are measured.
A pending temperature request that the move has been absorbed for goes (R124). -/
def calLatch (s : State) (p t : Nat) : State :=
  let id := calTile s p t
  let ms := (List.range 34).filter fun a =>
    let st := (getArr s { pp := id.1, tile := id.2, arr := a }).st
    st != .programming && st != .retired
  let s1 := modCal s p t fun c =>
    { c with
      stage := 1
      temp := s.arrays.diode
      measured := ms }
  if residHolds s1 p t || progDue s1 p t || s1.arrays.fallback then s1 else calUnpend s1 p t

/-- Step 1: a run of the tile starts; new pleats stop. -/
def calStart (s : State) (p t : Nat) : State :=
  modCal s p t fun c =>
    { c with
      stage := 5
      pending := 0
      lastAuto := if c.pending = 4 then c.lastAuto else some s.now
      due := c.due.filter fun d => decide (s.now < d) }

/-- CAL_TILE_RUN (R122 steps 1 to 3): the lowest eligible tile of the panel, with no other one in steps 2 to 4. A run that waits for
the pleat boundary goes on with the row that finds the tile at it. -/
def execCalTileRun (p tile : Nat) (s : State) : Res :=
  .next (if s.start.restarting || !s.power.compute || !(allTiles s).contains (p, tile) then s
    else if (getCal s p tile).stage = 5 then (if tileAtBoundary s p tile then calLatch s p tile else s)
    else
      let busy := (List.range 25).any fun t => calHolds s p t
      let lower := (List.range tile).any fun t => calEligible s p t
      if busy || lower || !calEligible s p tile then s
      else if tileAtBoundary s p tile then calLatch (calStart s p tile) p tile
      else calStart s p tile)

/-- CAL_MEASURE_DONE (R122 step 5): pleats resume. -/
def execCalMeasureDone (p tile : Nat) (s : State) : Res :=
  .next (if (getCal s p tile).stage = 1 then modCal s p tile fun c => { c with stage := 2 } else s)

/-- The fits of a run in shadow storage (R122 step 6): of the arrays that the run has measured. -/
def calShadow (s : State) (p t : Nat) (fits : List CalFit) : State :=
  let id := calTile s p t
  let fs := fits.filter fun f => (getCal s p t).measured.contains f.arr
  modCal s p t fun c =>
    { c with
      stage := 3
      shadow := fs.map fun f => (f.arr, floorOf (getArr s { pp := id.1, tile := id.2, arr := f.arr }) f.gauges, f.countErr)
      shadowT := fs.filterMap fun f => f.trn.map fun x => (f.arr, x.1, x.2) }

/-- CAL_FIT_DONE (R122 step 6): the fits are in shadow storage. -/
def execCalFitDone (p tile : Nat) (fits : List CalFit) (s : State) : Res :=
  .next (if (getCal s p tile).stage = 2 then calShadow s p tile fits else s)

/-- The physical array that a refresh of a logical array programs: a free gusset of the tile, or the array itself (R128). -/
def refreshTarget (s : State) (p t a : Nat) : ArrId :=
  let x := physArr s p t a
  match freeGusset s x.pp x.tile with
  | some g => { x with arr := g }
  | none => x

/-- A refresh of a logical array is scheduled (R127, R128). -/
def scheduleRefresh (s : State) (p t a : Nat) : State :=
  match boltOfPanel s p with
  | none => s
  | some (nw, b) =>
    match placeAt b (panelRel nw b p) t a with
    | none => s
    | some x =>
      let asked (r : ProgReq) : Bool := r.kind == .refresh && r.bolt == nw && r.panel == x.panel && r.number == x.number
      if s.arrays.waiting.any asked || s.arrays.arrs.any fun kv => kv.2.req.any asked then s
      else requestProg s { target := refreshTarget s p t a, kind := .refresh, exact := x.exact, bolt := nw, panel := x.panel, number := x.number }

/-- A refresh of an array that serves no position and holds a block of a bolt: a checker copy, or one left programmed (R127). It is
programmed in place. -/
def scheduleRecheck (s : State) (id : ArrId) (a : Arr) : State :=
  match a.src with
  | none => s
  | some (nw, panel, number) =>
    if s.arrays.waiting.any fun r => r.target == id then s
    else requestProg s { target := id, kind := .recheck, exact := a.exact, bolt := nw, panel := panel, number := number }

/-- What a run says of one array of a tile (R127, R129): its number, F, and the worst count error of an exact one. -/
def judgeArray (s : State) (id : ArrId) (fit : Nat × Nat × Nat) : State :=
  let a := getArr s id
  if a.st ≠ .programmed then s
  else
    let bad := if a.exact then decide (100 < fit.2.2) else decide (refreshBound s < fit.2.1)
    if !bad then modArr s id fun a => { a with refreshed := false }
    else
      let s1 := if a.exact then modArr s id fun a => { a with exactOk := false } else s
      match logOf s1 id with
      | some x => if a.refreshed && !a.exact then retireArr s1 id else scheduleRefresh s1 x.1 x.2.1 x.2.2
      | none => if a.refreshed && !a.exact then retireSpare s1 id else scheduleRecheck s1 id a

/-- The shadowed fits of a tile whose arrays are still in use. -/
def swapFits (s : State) (p tile : Nat) : List (Nat × Nat × Nat) :=
  let id := calTile s p tile
  (getCal s p tile).shadow.filter fun x =>
    let st := (getArr s { pp := id.1, tile := id.2, arr := x.1 }).st
    st != .programming && st != .retired

/-- A tile's shadowed corrections come into force together, under a new generation (R122 step 7, R125). No array's gain error is
known of them before its next gauge record: G is 0 (DEDUCED, log entry 213). -/
def swapIn (s : State) (p tile : Nat) : State :=
  let id := calTile s p tile
  let fs := swapFits s p tile
  let ns := fs.map Prod.fst
  let s1 := ns.foldl (fun s n => modArr s { pp := id.1, tile := id.2, arr := n } fun a => { a with corrTemp := (getCal s p tile).temp }) s
  modCal s1 p tile fun c =>
    { c with
      stage := 0
      gen := c.gen + 1
      measured := []
      shadow := []
      shadowT := []
      clamped := []
      stale := false
      quality := (c.quality.filter fun x => !ns.contains x.1) ++ fs.map fun x => (x.1, x.2.1, 0)
      qualityT := (c.qualityT.filter fun x => !ns.contains x.1) ++ c.shadowT.filter fun x => ns.contains x.1 }

/-- What follows a swap: a pending request whose trigger the run has ended goes (R124), QF_BOUND is raised for a figure still above its
bound (R137), and the triggers are judged. -/
def swapJudge (s : State) (p tile : Nat) : State :=
  let s1 := if tempHolds s p tile || residHolds s p tile || progDue s p tile || s.arrays.fallback then s else calUnpend s p tile
  let s2 := if residHolds s1 p tile then raiseEvent s1 (.panel p) 25 [(5, tile), (5, behindArr s1 p tile)] else s1
  calEvaluate s2 [(p, tile)]

/-- CAL_SWAP (R122 steps 7 and 8, R125): the corrections come into force at a pleat boundary, and each measured array is judged. -/
def execCalSwap (p tile : Nat) (s : State) : Res :=
  .next (if (getCal s p tile).stage ≠ 3 ∨ tileAtBoundary s p tile = false then s
    else
      let id := calTile s p tile
      (swapFits s p tile).foldl (fun s x => judgeArray s { pp := id.1, tile := id.2, arr := x.1 } x) (swapJudge (swapIn s p tile) p tile))

/-- CAL_PROG_TIMER (R115): ten minutes, and again an hour after an array's acceptance, its tile's automatic run becomes due. -/
def execCalProgTimer (p tile : Nat) (s : State) : Res :=
  .next (if progDue s p tile then autoTrigger s [(p, tile)] 3 0 else s)

/-- CAL_FALLBACK_TICK (R121): every tile is run once a second or once per MIN_GAP, whichever is longer. These runs are not among the
automatic triggers of R119, and PIN_OFF does not hold them back (DESIGN CHOICE, log entry 214). -/
def execCalFallbackTick (s : State) : Res :=
  .next (let gap := max 1000000 (minGap s)
    let due := match s.arrays.lastFallback with | none => true | some t => decide (t + gap ≤ s.now)
    if s.arrays.fallback && due then
      (allTiles s).foldl (fun s x => calPend s x.1 x.2 5) { s with arrays := { s.arrays with lastFallback := some s.now } }
    else s)

/-- RUN_ALL (R134). -/
def execRunAll (w : Window) (s : State) : Res :=
  .next (gated s w .die 0x188 1 fun s => (allTiles s).foldl (fun s x => calPend s x.1 x.2 4) s)

/-- RUN_PANEL (R134): a panel that is not enabled drops the write and records it. -/
def execRunPanel (w : Window) (panel : Nat) (s : State) : Res :=
  .next (gated s w .die 0x188 (2 + 256 * panel) fun s =>
    if panelsEn s ≤ panel then capture s .die 2 (winCode w) 0x188 (2 + 256 * panel)
    else ((allTiles s).filter fun x => x.1 == panel).foldl (fun s x => calPend s x.1 x.2 4) s)

/-- EYE_SAMPLE (R132): a lane's width in mUI is sampled, after a retune or once a second. -/
def execEyeSample (lane width : Nat) (retuned : Bool) (s : State) : Res :=
  .next (let p := lane / 8
    let l := getLane s p (lane % 8)
    let low := decide (width < eyeWarn s)
    let s1 := modLane s p (lane % 8) fun l =>
      { l with
        eye := satNat 0xFFFF width
        eyeMin := if !l.sampled ∨ width < l.eyeMin then satNat 0xFFFF width else l.eyeMin
        sampled := true
        retunes := if retuned then (if l.retunes = 0xFFFF then l.retunes else l.retunes + 1) else l.retunes
        eyeLow := if low then true else if eyeWarn s + 50 < width then false else l.eyeLow }
    if low && !l.eyeLow then raiseEvent s1 .die 34 [(7, lane)] else s1)

end Sys2Proof.Machine
end

