-- ==== Sys2Proof/Machine/Hem.lean ====
section
/-! DEFINITION. What a hem and a bobbin compute: digits (R41), converted column sums with their free analog error (R47,
R48, R56, R61), the saturation policies (R51 to R53), exact counts (R57 to R59), gauges (R65, R66), runs, promotion and
drains (R93 to R96). -/

namespace Sys2Proof.Machine

/-! ### Shapes (R43, R249) -/

/-- Lanes of a weight block in an evaluation: 0 EVALD, 1 EVALX, 2 EVALT. -/
def modeLanes (mode : Nat) : Nat := match mode with | 0 => 512 | 1 => 128 | _ => 1024

/-- Pleats of a weight block. -/
def modePleats (mode p : Nat) : Nat := match mode with | 0 => 1024 / p | 1 => (1016 + p - 1) / p | _ => 4 * (512 / p)

/-- Phases of a pleat (R41). -/
def modePhases (mode : Nat) (s2 : Bool) : Nat := if mode = 1 then 4 else if s2 then 1 else 2

/-- First input index and number of inputs of a pleat (R43, R60, R61). -/
def pleatSpan (mode p k : Nat) : Nat × Nat :=
  match mode with
  | 0 => (k * p, p)
  | 1 => (k * p, if 1016 < (k + 1) * p then 1016 - k * p else p)
  | _ => (k % (512 / p) * p, p)

/-- The digit of an input in a phase (R41). -/
def digitOf (mode : Nat) (s2 : Bool) (phase : Nat) (a : Int) : Int :=
  if mode = 1 then a % 16 / (2 : Int) ^ phase % 2
  else if s2 then a
  else if phase = 0 then a % 4
  else (a - a % 4) / 4

/-- The digit weight of a phase (R41). -/
def digitWeight (mode : Nat) (s2 : Bool) (phase : Nat) : Int :=
  if mode = 1 then (if phase = 3 then -8 else (2 : Int) ^ phase) else if s2 || phase == 0 then 1 else 4

/-! ### Weights -/

/-- Row i of a weight block (R211): rows of 512 four-bit weights in dense mode, 128 in exact mode. -/
def weightRow (img : List Byte) (exact : Bool) (i : Nat) : List Int :=
  let rb := if exact then 64 else 256
  let bs := (img.drop (i * rb)).take rb
  bs.flatMap fun b => [signed 4 (b.toNat % 16), signed 4 (b.toNat / 16)]

/-- Sums of digits times weights down every column of some rows. -/
def columnSums (rows : List (List Int)) (ds : List Int) (n : Nat) : List Int :=
  (rows.zip ds).foldl (fun acc x => zipW (· + ·) acc ((x.1 ++ List.replicate (n - x.1.length) 0).map fun w => w * x.2))
    (List.replicate n 0)

/-! ### Conversion (R47, R56) -/

/-- A dense conversion of a column sum with its analog error: 9-bit code and saturation flag (R47). -/
def convDense (rs : Nat) (sum err : Int) : Int × Bool :=
  let n := sum * 1024 + err
  let u : Int := (2 : Int) ^ (10 + rs)
  if 2 * n < -513 * u then (-256, true)
  else if 511 * u ≤ 2 * n then (255, true)
  else (rneShift n (10 + rs), false)

/-- An exact conversion of a count with its analog error: code in quarter counts and saturation flag (R56). -/
def convExact (count err : Int) : Int × Bool :=
  let n := count * 1024 + err
  if 8 * n < -1024 then (0, true)
  else if 1023 * 1024 ≤ 8 * n then (511, true)
  else (rneShift (4 * n) 10, false)

/-- One step's conversions: results per lane, flags per lane, free values drawn. -/
structure StepOut where
  d : List Int
  flags : List Bool
  drawn : Nat

/-- A number brought within a bound on both sides. -/
def clampTo (b : Nat) (x : Int) : Int := if (b : Int) < x then b else if x < -(b : Int) then -b else x

/-- The distance of the junction from the temperature of an array's corrections in force, 1/64 °C (R114); the diode reading stands for
the junction (log entry 218). -/
def driftOf (s : State) (a : Arr) : Nat := (s.arrays.diode - a.corrTemp).natAbs

/-- How the gain of a dense or transposed conversion of a sum has drifted at a distance from the corrections' temperature, in 1/1024
level-units: at most 0.20 % per °C, a free value within that bound (R114). -/
def gainErr (dt : Nat) (sum : Int) (n : Nat) : Int := sum * 1024 * clampTo (125 * dt / 4) (Config.gainDrift dt n) / 1000000

/-- The offset drift after the offset-column subtraction, in 1/1024 level-units: below 0.02 LSB per °C, a free value within that bound
(R114). -/
def offsetErr (dt rs n : Nat) : Int := clampTo ((32 * dt * 2 ^ rs - 1) / 100) (Config.offsetDrift dt n)

/-- A dense or transposed conversion (R47, R114): its error is free, and its gain drifts with the junction. -/
def convert (rs dt : Nat) (sum : Int) (n : Nat) : Int × Bool := convDense rs sum (Config.analogError n + gainErr dt sum n)

/-- A dense step (R48). -/
def denseStep (rows : List (List Int)) (ds : List Int) (rs dt ctr : Nat) : StepOut :=
  let sd := sumInt ds
  let sums := columnSums rows ds 512
  let offs := (List.range 8).map fun k => convert rs dt (8 * sd) (ctr + 512 + k)
  let out := sums.zipIdx.map fun x =>
    let sum := x.1 + 8 * sd
    let c := convDense rs sum (Config.analogError (ctr + x.2) + gainErr dt sum (ctr + x.2) + offsetErr dt rs (ctr + x.2))
    let o := nth (0, false) offs (x.2 / 64)
    ((c.1 - o.1) * (2 : Int) ^ rs, c.2 || o.2)
  { d := out.map Prod.fst, flags := out.map Prod.snd, drawn := 520 }

/-- A transposed step over one row window (R60, R61): its 256 rows' results. -/
def transStep (rows : List (List Int)) (lo n : Nat) (ds : List Int) (rs dt ctr : Nat) : StepOut :=
  let sd := sumInt ds
  let out := rows.zipIdx.map fun x =>
    let sum := sumInt (zipW (· * ·) ((x.1.drop lo).take n) ds)
    let c := convert rs dt (sum + 8 * sd) (ctr + x.2)
    (c.1 * (2 : Int) ^ rs - 8 * sd, c.2)
  { d := out.map Prod.fst, flags := out.map Prod.snd, drawn := 256 }

/-- The counts of every weight's four columns in one exact phase (R57), each with whether it misses a check. -/
def exactCounts (rows : List (List Int)) (bits : List Int) (ctr : Nat) : List (List (Int × Bool)) :=
  let ones := sumInt bits
  (List.range 128).map fun j =>
    (List.range 4).map fun q =>
      let cnt := sumInt (zipW (fun r b => b * ((nth 0 r j + 8) / (2 : Int) ^ q % 2)) rows bits)
      let c := convExact cnt (Config.analogError (ctr + 4 * j + q))
      ((c.1 + 2) / 4, c.2 || c.1 % 4 == 2 || decide (ones < (c.1 + 2) / 4))

/-- The weights whose columns fail a check: no miss on a lane means that the count is right (R58). -/
def missesOf (cs : List (List (Int × Bool))) : List Bool := cs.map fun c => c.any fun x => x.2

/-- The terms that a phase's counts add to the sums of the weights (R57). -/
def phaseTerms (phase : Nat) (cs : List (List (Int × Bool))) : List Int :=
  cs.map fun c => digitWeight 1 false phase * sumInt (c.zipIdx.map fun x => x.1.1 * (2 : Int) ^ x.2)

/-- The result of an exact pleat from the sums of its counts, as int14 (R57). -/
def exactResult (acc : List Int) (a : List Int) : List Int :=
  acc.map fun x => signed 14 ((x - 8 * sumInt a) % 16384).toNat

/-- Per-block marks from per-lane flags: 32 lanes to a block. -/
def blockMarks (flags : List Bool) : List Bool := (chunksOf 32 flags.length flags).map fun c => c.any id

/-! ### The aligned inputs of a pleat (R86 to R89) -/

/-- What stands for an invalid block, whose outputs are poisoned (R89): free elements and a free scale (log entry 30). -/
def freeBlock (fmt : Nat) (bs : List Byte) : Block :=
  { scale := (Config.invalidBlock fmt bs 32).toNat, q := (List.range 32).map fun i => (Config.invalidBlock fmt bs i).toInt, ok := false }

/-- The aligned inputs of a pleat (R86 to R89): `base` is the address of the vector, `blk` its first block for this weight block. -/
def pleatIn (q : Panel) (c : SramCtx) (fmt : Nat) (s2 : Bool) (base blk lo n : Nat) : PleatIn :=
  let b0 := lo / 32
  let cnt := (lo + n - 1) / 32 - b0 + 1
  let ids := (List.range cnt).map fun i => blk + b0 + i
  let rd := ids.map fun b =>
    let g := base + b / 8 * fmtGroup fmt
    let e := sramRead q c (g + 8 + b % 8 * fmtField fmt) (fmtField fmt)
    let sc := sramRead q c g 8
    let k := nth (0 : Byte) sc.bytes (b % 8)
    let d := decodeBlock fmt k.toNat e.bytes
    (if d.ok then d else freeBlock fmt (k :: e.bytes), e.mark.or sc.mark, e.violation || sc.violation)
  let hb := rd.map fun (x : Block × LineMark × Bool) => hemBlock fmt s2 x.1
  let ep := pleatExp hb
  let al := hb.flatMap fun b => if b.zero then List.replicate 32 0 else alignBlock ep b
  let mark := rd.foldl (fun m (x : Block × LineMark × Bool) => m.or x.2.1) LineMark.clean
  { a := (al.drop (lo - 32 * b0)).take n, ep := ep, zero := hb.all fun b => b.zero, invalid := (hb.filter fun b => !b.ok).length,
    poison := mark.poison, uncal := mark.uncal, sat := mark.sat, violation := rd.any fun (x : Block × LineMark × Bool) => x.2.2 }

/-- How many lines of the tile input buffer the blocks of a pleat take (R44, R297): the lines of panel SRAM that hold their elements and
scales. -/
def pleatLines (fmt base blk lo n : Nat) : Nat :=
  let b0 := lo / 32
  let ids := (List.range ((lo + n - 1) / 32 - b0 + 1)).map fun i => blk + b0 + i
  (ids.flatMap fun b =>
    let g := base + b / 8 * fmtGroup fmt
    linesOf g 8 ++ linesOf (g + 8 + b % 8 * fmtField fmt) (fmtField fmt)).eraseDups.length

/-! ### Gauges (R65, R66) -/

/-- A gauge reading with its expected value enters its window; a gauge's window of 4,096 readings is latched and a new one
starts (R66). -/
def Gauge.add (g : Gauge) (i : Nat) (ex r : Int) : Gauge :=
  let n := nth 0 g.count i + 1
  let e := nth 0 g.ex i + ex
  let m := nth 0 g.sum i + r
  let v := nth 0 g.sq i + r.natAbs ^ 2
  if n < 4096 then { g with count := setNth g.count i n, ex := setNth g.ex i e, sum := setNth g.sum i m, sq := setNth g.sq i v }
  else
    { g with
      count := setNth g.count i 0
      ex := setNth g.ex i 0
      sum := setNth g.sum i 0
      sq := setNth g.sq i 0
      record := some (setNth (g.record.getD (List.replicate 4 { n := 0, ex := 0, sum := 0, sq := 0 })) i { n := n, ex := e, sum := m, sq := v }) }

/-- rne(n / d) for a positive d. -/
def rneDiv (n d : Int) : Int :=
  let q := n / d
  let r := n % d
  if 2 * r < d then q else if d < 2 * r then q + 1 else if q % 2 = 0 then q else q + 1

/-- The gauge levels (R39). -/
def gaugeLevels : List Int := [0, 5, 10, 15]

/-- Readings of a forward step: dense residuals in level-units, exact ones in thirds of a quarter count (R65). -/
def gaugeStep (g : Gauge) (exact : Bool) (rs dt : Nat) (sd : Int) (ctr : Nat) : Gauge :=
  if sd = 0 then g
  else
    (gaugeLevels.zipIdx).foldl (fun g x =>
      let err := Config.analogError (ctr + x.2)
      if exact then
        let n := x.1 * sd * 1024 + 15 * err
        if 8 * n < -15360 ∨ 1023 * 1024 * 15 ≤ 8 * n then g
        else g.add x.2 (4 * x.1 / 5 * sd) (3 * rneDiv (4 * n) 15360 - 4 * x.1 / 5 * sd)
      else
        let c := convDense rs (x.1 * sd) (err + gainErr dt (x.1 * sd) (ctr + x.2))
        if c.2 then g else g.add x.2 (x.1 * sd) (c.1 * (2 : Int) ^ rs - x.1 * sd)) g

/-! ### The bobbin (R94, R95) -/

/-- Promotion of every lane of an array (R95). -/
def HemArr.promote (h : HemArr) : HemArr :=
  if !h.run then h
  else
    let lanes := h.lanes.map fun l =>
      let r := accAdd 48 h.wempty l.w h.ew l.wsat l.n h.er
      { l with n := 0, w := r.1, wsat := l.wsat || r.2 }
    { h with
      lanes := lanes
      ew := if h.wempty then h.er else if h.er < h.ew then h.er else h.ew
      wempty := false
      run := false
      np := 0 }

/-- The lanes of an array, cleared when it holds none of the shape asked for. -/
def HemArr.lanesOf (h : HemArr) (n : Nat) : List Lane :=
  if h.lanes.length = n then h.lanes else List.replicate n Lane.start

/-- One step's results are added to the runs (R94). -/
def HemArr.take (h : HemArr) (r : HemRes) : HemArr :=
  let n := r.xs.length
  let ls := h.lanesOf n
  let withPoison (ls : List Lane) : List Lane :=
    ls.zipIdx.map fun x => if nth false r.poison (x.2 / 32) then { x.1 with poison := true } else x.1
  if r.zero then { h with lanes := withPoison ls, fed := h.fed ++ [r], uncal := h.uncal || r.uncal, satIn := h.satIn || r.satIn }
  else
    let h0 := { h with lanes := ls }
    let over16 := r.firstPhase && decide (16 ≤ h0.np)
    let leaves := (zipW (fun l x => decide (l.n + x < -524288 ∨ 524287 < l.n + x)) ls r.xs).any id
    let h1 := if h0.run && (decide (r.ep ≠ h0.er) || over16 || leaves) then h0.promote else h0
    let added := zipW (fun l (x : Int × Bool) => { l with n := l.n + x.1, flag := l.flag || x.2 }) h1.lanes (r.xs.zip r.flags)
    { h1 with
      lanes := withPoison added
      er := r.ep
      run := true
      np := h1.np + b2n r.firstPhase
      allZero := false
      uncal := h1.uncal || r.uncal
      satIn := h1.satIn || r.satIn
      fed := h1.fed ++ [r] }

/-- The contributions of an array's lanes to the registers of an evaluation (R96, R249): one for each output block. -/
def HemArr.contribs (h : HemArr) (j : EvalJob) (rank p tile arr : Nat) : List Contrib :=
  let g := h.promote
  let blocks := chunksOf 32 (modeLanes j.mode) (g.lanesOf (modeLanes j.mode))
  blocks.zipIdx.map fun x =>
    { reg := j.outReg + x.2, rank := rank, panel := p, tile := tile, arr := arr,
      lanes := x.1.map fun l => l.w
      ew := g.ew
      satConv := x.1.any fun l => l.flag
      satAcc := x.1.any fun l => l.wsat
      satIn := g.satIn
      uncal := g.uncal
      poison := x.1.any fun l => l.poison
      zero := g.allZero
      cmd := j.cmd
      step := j.step, gen := j.gen, swatch := none }

/-- An array's lanes cleared after a drain; the commands and results that wait stay. -/
def HemArr.cleared (h : HemArr) : HemArr :=
  { HemArr.start with jobs := h.jobs, results := h.results, bad := h.bad, pleatOk := h.pleatOk, buf := h.buf, acc := h.acc,
                      released := h.released }

/-- The evaluation that an array's lanes will be holding once its queued work is done (R250): that of its last evaluation, unless that
one drains or a queued drain, of mode 3, follows. A queued promotion, of mode 4, changes nothing of it. -/
def HemArr.willHold (h : HemArr) : Option EvalJob :=
  let last : Option EvalJob := match (h.jobs.filter fun j => j.mode != 4).getLast? with
    | some j => some j
    | none => (h.results.getLast?).map fun r => r.job
  match last with
  | some j => if j.mode != 3 && decide (j.lastPleat < j.finalPleat) then some j else none
  | none => h.holding

end Sys2Proof.Machine
end

