-- ==== Sys2Proof/Machine/Seq.lean ====
section
/-! DEFINITION. The sequencer's own instructions (R246, R242, R278), moves and tacks (R247, R273), core calls (R279), and
the completion of commands (R245). -/

namespace Sys2Proof.Machine

/-! ### Requests to panel SRAM (R413) -/

/-- A tag violation of a bolt-level request of a context's step, or of one row: counted, raised, and its jobs end (R413). -/
def tagFault (s : State) (h : Site) (row : Option BatchRow) : State :=
  let t := match row with | some r => r.tenant | none => h.b.tenant
  let s1 := raiseEvent (bumpFor s .sec 0x098 [(12, t), (6, h.nw)]) .sec 16 [(12, t), (6, h.nw)]
  match row with
  | some r => claimRow s1 r.session 0x18
  | none => claimAll s1 (jobsOfSteps s1 (h.b.steps.filter fun k => k.seq == h.x.step)) 0x18

/-- The request context of a bolt-level request of a site. -/
def Site.ctx (h : Site) : SramCtx := { tenant := h.b.tenant, pat := h.b.tenant, row := false }

/-- The request context of a batch row. -/
def Site.rowCtx (h : Site) (r : BatchRow) : SramCtx := { tenant := r.tenant, pat := h.b.tenant, row := true }

/-- A read of panel SRAM by an instruction, with the tag check's effects. -/
def readSram (s : State) (h : Site) (row : Option BatchRow) (addr n : Nat) : State × SramRead :=
  let c := match row with | some r => h.rowCtx r | none => h.ctx
  let r := sramRead (getPanel s h.p) c addr n
  (if r.violation then tagFault s h row else s, r)

/-- A write of panel SRAM by an instruction, with the tag check's effects. -/
def writeSram (s : State) (h : Site) (row : Option BatchRow) (addr : Nat) (pieces : List (List Byte × LineMark)) : State :=
  let c := match row with | some r => h.rowCtx r | none => h.ctx
  let n := (pieces.flatMap Prod.fst).length
  let s1 := if sramViolates (getPanel s h.p) c addr n then tagFault s h row else s
  modPanel s1 h.p fun q => sramWrite q c addr pieces

/-! ### The end of a context (R242, R275) -/

/-- A panel reports its part of a step complete (R242). -/
def reportPart (s : State) (nw p : Nat) (step : Word) : State :=
  let ids := match (getPanel s p).ctxs.find? fun x => x.step == step with
    | some x => [(4, x.slot), (64, step.toNat)]
    | none => [(4, 0), (64, step.toNat)]
  bumpFor (modStep s nw step fun t => if t.reported.contains p then t else { t with reported := t.reported ++ [p] }) (.seq p) 0x098 ids

/-- Whether every instruction of a context has completed. -/
def ctxIdle (x : Ctx) : Bool := x.cmds.isEmpty && x.loads.isEmpty && x.calls.isEmpty

/-- What follows the completion of an instruction: a FENCE whose classes are complete lets the context go on, and an ended
context whose instructions are complete reports its part, or leaves after its sealed tail. -/
def settleCtx (s : State) (p c : Nat) : State :=
  match siteOf s p c with
  | none => s
  | some h =>
    match h.x.wait with
    | .fence m =>
      if h.x.cmds.any fun k => m.testBit k.cls then s else modCtx s p c fun x => { x with wait := .none, stalled := false }
    | .ended =>
      if !ctxIdle h.x then s
      else if h.x.tail then modPanel s p fun q => { q with ctxs := q.ctxs.filter fun x => x.slot != c }
      else if h.x.reported then s
      else reportPart (modCtx s p c fun x => { x with reported := true }) h.nw p h.x.step
    | _ => s

/-! ### Scalar instructions (R246) -/

/-- A general register of the issuing context written. -/
def setReg64 (s : State) (h : Site) (n : Nat) (v : Word) : State := modCtx s h.p h.x.slot fun x => gSet x n v

/-- A scalar result into GD. -/
def scalar (f : Site → Word → Word) (s : State) (h : Site) (w : Word) : Eff := .done (setReg64 s h (g51 w) (f h w))

/-- The first operand, g[GA]. -/
def opA (h : Site) (w : Word) : Word := gReg h.x (g47 w)

/-- The second operand, g[GB]. -/
def opB (h : Site) (w : Word) : Word := gReg h.x (g43 w)

/-- NOP (R246). -/
def execNop (p c : Nat) (s : State) : Res := .next (issue s p c 0x00 fun t _ _ => .done t)

/-- LDI (R246). -/
def execLdi (p c : Nat) (s : State) : Res := .next (issue s p c 0x01 (scalar fun _ w => offOf w))

/-- LDIH (R246). -/
def execLdih (p c : Nat) (s : State) : Res :=
  .next (issue s p c 0x02 (scalar fun h w => BitVec.ofNat 64 (immOf w * 2 ^ 32) ||| (gReg h.x (g51 w) &&& 0xFFFFFFFF)))

/-- ADDI (R246). -/
def execAddi (p c : Nat) (s : State) : Res := .next (issue s p c 0x03 (scalar fun h w => opA h w + offOf w))

/-- ADD (R246). -/
def execAdd (p c : Nat) (s : State) : Res := .next (issue s p c 0x04 (scalar fun h w => opA h w + opB h w))

/-- SUB (R246). -/
def execSub (p c : Nat) (s : State) : Res := .next (issue s p c 0x05 (scalar fun h w => opA h w - opB h w))

/-- MULI (R246). -/
def execMuli (p c : Nat) (s : State) : Res := .next (issue s p c 0x06 (scalar fun h w => opA h w * offOf w))

/-- SHLI (R246). -/
def execShli (p c : Nat) (s : State) : Res := .next (issue s p c 0x07 (scalar fun h w => opA h w <<< field w 5 0))

/-- ANDI (R246). -/
def execAndi (p c : Nat) (s : State) : Res := .next (issue s p c 0x08 (scalar fun h w => opA h w &&& offOf w))

/-- The address of an LD or ST: a multiple of 8 below 0x100_0000, or the fault (R246). -/
def ldstAddr (h : Site) (w : Word) : Except Nat Nat :=
  let a := (opA h w + offOf w).toNat
  if a % 8 ≠ 0 then .error 0x03 else if sramSize ≤ a then .error 0x04 else .ok a

/-- LD (R246): the value is read at issue and arrives by LD_RESULT. -/
def execLd (p c : Nat) (s : State) : Res :=
  .next (issue s p c 0x09 fun t h w =>
    match ldstAddr h w with
    | .error e => .fault e
    | .ok a =>
      let r := readSram t h none a 8
      .done (modCtx r.1 p c fun x =>
        { x with loads := x.loads ++ [(g51 w, BitVec.ofNat 64 (leNat r.2.bytes), r.2.mark.poison && !r.2.violation)] }))

/-- LD_RESULT (R240): the oldest load's value is written. A value destroyed by an uncorrectable error ends the step's jobs
(R381). -/
def execLdResult (p c : Nat) (s : State) : Res :=
  .next (match siteOf s p c with
    | none => s
    | some h =>
      match h.x.loads with
      | [] => s
      | (r, v, bad) :: rest =>
        let s1 := modCtx s p c fun x => gSet { x with loads := rest } r v
        let s2 := if bad then claimAll s1 (jobsOfSteps s1 (h.b.steps.filter fun k => k.seq == h.x.step)) 0x14 else s1
        settleCtx s2 p c)

/-- ST (R246). -/
def execSt (p c : Nat) (s : State) : Res :=
  .next (issue s p c 0x0A fun t h w =>
    match ldstAddr h w with
    | .error e => .fault e
    | .ok a => .done (writeSram t h none a [(natLe 8 (opB h w).toNat, LineMark.clean)]))

/-- A branch: when it is taken its target must lie in the code region (R246). -/
def branchTo (s : State) (h : Site) (w : Word) (taken : Bool) : Eff :=
  let target := (BitVec.ofNat 64 h.x.pc.toNat + 8 * offOf w).toNat
  if !taken then .done s
  else if !inCode h.e target then .fault 0x04
  else .done (modCtx s h.p h.x.slot fun x => { x with pc := BitVec.ofNat 24 target })

/-- BZ (R246). -/
def execBz (p c : Nat) (s : State) : Res := .next (issue s p c 0x0B fun t h w => branchTo t h w (opA h w == 0))

/-- BNZ (R246). -/
def execBnz (p c : Nat) (s : State) : Res := .next (issue s p c 0x0C fun t h w => branchTo t h w (opA h w != 0))

/-- LOOP (R246). g0 stays zero, so that a LOOP on g0 reads zero after its decrement and falls through. -/
def execLoop (p c : Nat) (s : State) : Res :=
  .next (issue s p c 0x0D fun t h w =>
    let v := if g47 w = 0 then 0 else opA h w - 1
    branchTo (setReg64 t h (g47 w) v) h w (v != 0))

/-- END (R242). -/
def execEndProg (p c : Nat) (s : State) : Res :=
  .next (issue s p c 0x0F fun t h _ => .done (settleCtx (modCtx t p h.x.slot fun x => { x with wait := .ended }) p c))

/-- UNIT_COMMAND_COMPLETE (R245): a command whose work is done counts as complete. -/
def execUnitCommandComplete (p id : Nat) (s : State) : Res :=
  .next (match (getPanel s p).ctxs.find? fun x => x.cmds.any fun k => k.id == id && k.left == 0 with
    | none => s
    | some x =>
      settleCtx (modCtx s p x.slot fun x => { x with cmds := x.cmds.filter fun k => k.id != id }) p x.slot)

/-- FENCE (R278). -/
def execFence (p c : Nat) (s : State) : Res :=
  .next (issue s p c 0x60 fun t _ w =>
    .done (settleCtx (modCtx t p c fun x => { x with wait := .fence (immOf w), since := t.now + creditLimit t (some p), stalled := false }) p c))

/-- CALL (R279). -/
def execCall (p c : Nat) (s : State) : Res :=
  .next (issue s p c 0x61 fun t h w =>
    let id := (getPanel t p).nextCmd
    let t1 := modCtx (enterCmd t p c 0x61 1) p c fun x => { x with calls := x.calls ++ [g51 w] }
    .done (modPanel t1 p fun q =>
      { q with calls := q.calls ++ [{ ctx := c, step := h.x.step, fn := field w 15 0, arg := opA h w, gd := g51 w, cmd := id }] }))

/-- CALL_REPLY (R279): the core answers the oldest call. -/
def execCallReply (p : Nat) (reply : Word) (s : State) : Res :=
  .next (match (getPanel s p).calls with
    | [] => s
    | k :: rest =>
      let s1 := modPanel s p fun q => { q with calls := rest }
      let s2 := modCtx s1 p k.ctx fun x =>
        gSet { x with calls := x.calls.erase k.gd, cmds := x.cmds.filter fun y => y.id != k.cmd } k.gd reply
      settleCtx s2 p k.ctx)

/-- SEALW (R275): the panel's part is reported, and the context waits for the seal. In a sealed tail there is nothing to
wait for. -/
def execSealw (p c : Nat) (s : State) : Res :=
  .next (issue s p c 0x51 fun t h _ =>
    if h.x.tail then .done t
    else
      let t1 := modCtx t p c fun x => { x with wait := .sealw, since := t.now + creditLimit t (some p), stalled := false, reported := true }
      .done (if h.x.reported then t1 else reportPart t1 h.nw p h.x.step))

/-! ### MOVE and TACK (R247, R273) -/

/-- Bytes read from a bolt's scratch area under a tenant's key slot. A line last written under another slot decrypts to a
value that the spec does not state: a free value (R410). -/
def scratchRead (b : Bolt) (tenant ctr addr n : Nat) : List Byte :=
  (List.range n).map fun i =>
    let k := mapGet 0 b.scratchKey ((addr + i) / 64)
    if k = 0 ∨ k = tenant + 1 then memByte b.scratch (addr + i)
    else BitVec.ofNat 8 ((Config.freeWord (ctr + (addr + i) / 8)).toNat / 256 ^ ((addr + i) % 8))

/-- Bytes written to a bolt's scratch area under a tenant's key slot. -/
def scratchWrite (b : Bolt) (tenant addr : Nat) (bytes : List Byte) : Bolt :=
  { b with
    scratch := memWrite b.scratch addr bytes
    scratchKey := (linesOf addr bytes.length).foldl (fun m l => mapSet 0 m l (tenant + 1)) b.scratchKey }

/-- Marks of the lines of a read, one for each 64-byte line, with the bytes of that line. -/
def linePieces (q : Panel) (c : SramCtx) (addr n : Nat) : List (List Byte × LineMark) :=
  (List.range (n / 64)).map fun i =>
    let r := sramRead q c (addr + 64 * i) 64
    (r.bytes, r.mark)

/-- Plain pieces of bytes, a line each. -/
def cleanPieces (bs : List Byte) : List (List Byte × LineMark) := (chunksOf 64 bs.length bs).map fun x => (x, LineMark.clean)

/-- The poisoned lines of the scratch area. They are held with the bolt's number in the list of poisoned DRAM lines. -/
def scratchLine (nw line : Nat) : Nat := 2 ^ 48 + nw * 2 ^ 32 + line

/-- A MOVE's request context: a batch row's, or the pattern tenant's. -/
def moveRow (h : Site) (row : Nat) : Option BatchRow := if row = 0xFFFF then none else h.rows[row]?

/-- Whether a range of panel SRAM meets a panel's KV frames. -/
def meetsKv (e : PanelEntry) (addr n : Nat) : Bool := decide (0 < e.kvFrames ∧ addr < e.kvBase + e.kvFrames * 65536 ∧ e.kvBase < addr + n ∧ 0 < n)

/-- The fault of a MOVE's fields and ranges (R247, R280). A MOVE never reaches KV pages: a range of it that meets the panel's KV frames is
out of its range (log entry 235). -/
def moveFault (h : Site) (w : Word) : Option Nat :=
  let dst := (gReg h.x (g51 w)).toNat
  let src := (opA h w).toNat
  let n := (opB h w).toNat
  let dir := field w 39 36
  let row := field w 31 16
  let area := h.pat.scratchFrames * 65536
  if 3 ≤ dir ∨ (row ≠ 0xFFFF ∧ h.rows.length ≤ row) then some 0x06
  else if dst % 64 ≠ 0 ∨ src % 64 ≠ 0 ∨ n % 64 ≠ 0 then some 0x03
  else if 0x1000000 < n ∨ (if dir = 1 then area else sramSize) < src + n ∨ (if dir = 2 then area else sramSize) < dst + n
      ∨ (dir ≠ 1 ∧ meetsKv h.e src n = true) ∨ (dir ≠ 2 ∧ meetsKv h.e dst n = true)
  then some 0x04
  else none

/-- A MOVE's bytes move (R247): inside panel SRAM for DIR 0, from the scratch area for DIR 1, to it for DIR 2. -/
def moveRun (t : State) (h : Site) (w : Word) : State :=
  let dst := (gReg h.x (g51 w)).toNat
  let src := (opA h w).toNat
  let n := (opB h w).toNat
  let dir := field w 39 36
  let r := moveRow h (field w 31 16)
  let tenant := match r with | some x => x.tenant | none => h.b.tenant
  let cx := match r with | some x => h.rowCtx x | none => h.ctx
  if dir = 1 then
    let bad := (List.range (n / 64)).map fun i => t.dramPoison.contains (scratchLine h.nw (src / 64 + i))
    let bytes := scratchRead h.b tenant t.freeCtr src n
    let t2 := { t with freeCtr := t.freeCtr + (src + n) / 8 + 1 }
    writeSram t2 h r dst (zipW (fun (x : List Byte × LineMark) b => (x.1, { x.2 with poison := b })) (cleanPieces bytes) bad)
  else
    let rd := readSram t h r src n
    let pieces := linePieces (getPanel t h.p) cx src n
    if dir = 0 then writeSram rd.1 h r dst pieces
    else
      let lines := (List.range (n / 64)).map fun i => scratchLine h.nw (dst / 64 + i)
      let bad := ((pieces.zip lines).filter fun x => x.1.2.poison).map Prod.snd
      let t2 := modBolt rd.1 h.nw fun b => scratchWrite b tenant dst rd.2.bytes
      { t2 with dramPoison := (t2.dramPoison.filter fun l => !lines.contains l) ++ bad }

/-- MOVE (R247). -/
def execMove (p c : Nat) (s : State) : Res :=
  .next (issue s p c 0x10 fun t h w =>
    match moveFault h w with
    | some code => .fault code
    | none => .done (moveRun (enterCmd t p c 0x10 0) h w))

/-- A step's share of the tack region in SRAM and in DRAM (R289). -/
def tackShare (h : Site) (dram : Bool) : Nat :=
  if dram then h.pat.tackFrames * 65536 / (64 * (h.pat.window + 1)) * 64 else h.e.tackBytes / (64 * (h.pat.window + 1)) * 64

/-- The fault of a TACK's fields, range and space (R273, R280). -/
def tackFault (h : Site) (w : Word) : Option Nat :=
  let src := (opA h w).toNat
  let n := (opB h w).toNat
  let dir := field w 39 36
  if 2 ≤ dir then some 0x06
  else if src % 64 ≠ 0 ∨ n % 64 ≠ 0 then some 0x03
  else if sramSize < src + n then some 0x04
  else if (if h.kind = 2 then 264 else 8) ≤ h.x.tackCount
      ∨ tackShare h (dir == 1) < (if dir = 1 then h.x.tackDram else h.x.tackSram) + n then some 0x0F
  else none

/-- Where a step's next tack stands in the panel's tack region: its share is that of its number modulo WINDOW + 1, its tacks stand in it one
after the other (R273, R289; log entry 236). -/
def tackPlace (h : Site) : Nat := h.e.tackBase + h.x.step.toNat % (h.pat.window + 1) * tackShare h false + h.x.tackSram

/-- A TACK's bytes are stored: in the panel's tack region for DIR 0, in the bolt's DRAM part for DIR 1, which the step's own record stands for;
the record names the range that they came from (R273). -/
def tackRun (t : State) (h : Site) (w : Word) : State :=
  let src := (opA h w).toNat
  let n := (opB h w).toNat
  let dram := field w 39 36 == 1
  let rd := readSram t h none src n
  let marks := (linePieces (getPanel t h.p) h.ctx src n).map Prod.snd
  let t0 := if dram then rd.1 else writeSram rd.1 h none (tackPlace h) (linePieces (getPanel t h.p) h.ctx src n)
  let t1 := modCtx t0 h.p h.x.slot fun x =>
    { x with
      tackCount := x.tackCount + 1
      tackSram := if dram then x.tackSram else x.tackSram + n
      tackDram := if dram then x.tackDram + n else x.tackDram }
  modStep t1 h.nw h.x.step fun k =>
    { k with tacks := k.tacks ++ [{ panel := h.p, addr := src, bytes := rd.2.bytes, marks := marks, dram := dram, place := tackPlace h }] }

/-- TACK (R273): the bytes are kept with the step. -/
def execTack (p c : Nat) (s : State) : Res :=
  .next (issue s p c 0x50 fun t h w =>
    match tackFault h w with
    | some code => .fault code
    | none => .done (tackRun (enterCmd t p c 0x50 0) h w))

end Sys2Proof.Machine
end

