-- ==== Sys2Proof/Machine/Eval.lean ====
section
/-! DEFINITION. Pleat evaluation, bobbins and the reduction path: EVALD, EVALX, EVALT (R248 to R252), the pleat step (R44 to
R66), BOBBIN_ADD, BPROM, BDRAIN (R93 to R96, R253, R254), REDOPEN and the registers (R97 to R101, R255, R256), the norm
watch (R106 to R108) and the sampling of swatches (R363, R364). -/

namespace Sys2Proof.Machine

/-! ### Commands in progress (R245) -/

/-- Part of a command's work is done. -/
def decCmd (s : State) (p id n : Nat) : State :=
  modPanel s p fun q => { q with ctxs := q.ctxs.map fun x =>
    { x with cmds := modWhere (fun k : Cmd => k.id == id) (fun k => { k with left := k.left - n }) x.cmds } }

/-- Where a weight block of a panel runs: exact mode, hem position, and whether it stays in the DRAM tier (R220). The hem
position of a DRAM-tier block is tile 24 with its NUMBER, which puts it after every array of the panel (R221). -/
def blockSite (b : Bolt) (rel number : Nat) : Option (Bool × Nat × Nat × Bool) :=
  match placeOf b rel number with
  | some x => some (x.exact, x.tile, x.arr, false)
  | none =>
    if inTier b rel number then
      some ((b.dir.any fun e => e.type == 1 && e.panel == rel && e.number == number), 24, number, true)
    else none

/-! ### EVALD, EVALX, EVALT (R248 to R251) -/

/-- The evaluation descriptor's reserved bits. -/
def evalReserved (d : List Word) : Bool :=
  anyReserved [(0, 31, 31), (0, 47, 44), (0, 63, 57), (1, 63, 48), (2, 63, 53), (3, 63, 0), (4, 63, 0), (5, 63, 0), (6, 63, 0), (7, 63, 0)] d

/-- Output blocks of one weight block (R249). -/
def outBlocks (mode : Nat) : Nat := match mode with | 0 => 16 | 1 => 4 | _ => 32

/-- A tag violation of a bolt-level read by a unit (R413). -/
def boltTagFault (s : State) (p : Nat) (step : Word) : State :=
  match boltOfPanel s p with
  | none => s
  | some (nw, b) =>
    let s1 := raiseEvent (bumpFor s .sec 0x098 [(12, b.tenant), (6, nw)]) .sec 16 [(12, b.tenant), (6, nw)]
    claimAll s1 (jobsOfSteps s1 (b.steps.filter fun t => t.seq == step)) 0x18

/-- What the blocks of a pleat leave besides its digits: every invalid block counted and raised, a tag violation (R89, R413). -/
def noteBlocks (s : State) (p tile arr : Nat) (j : EvalJob) (pin : PleatIn) : State :=
  let ids := [(5, tile), (5, arr)]
  let s1 := if pin.invalid = 0 then s else raiseEvent (bumpIds s (.panel p) 0x4B8 0 pin.invalid ids) (.panel p) 20 ids
  if pin.violation then boltTagFault s1 p j.step else s1

/-- The inputs of the pleat that an array's job is at. -/
def pleatOf (s : State) (p : Nat) (j : EvalJob) : PleatIn :=
  let sp := pleatSpan j.mode j.p j.k
  pleatIn (getPanel s p) (boltCtx s p) j.inFmt j.s2 (j.inAddr + j.v * j.inStride) j.inBlock sp.1 sp.2

/-- A selection of pleats of a DRAM-tier block for one vector, evaluated on the wide lane as exact integers (R221). What rests on a
lost chunk is poisoned (R224). -/
def tierVec (s : State) (p rank : Nat) (img : List Byte × Bool) (j : EvalJob) (number : Nat) : State :=
  let jv := { j with outReg := j.outReg + j.v * j.outStride }
  let exact := j.mode == 1
  let lanes := modeLanes j.mode
  let r := (List.range (j.lastPleat + 1 - j.firstPleat)).foldl (fun (acc : State × HemArr) i =>
    let jk := { j with k := j.firstPleat + i }
    let sp := pleatSpan jk.mode jk.p jk.k
    let pin := pleatOf s p jk
    let rows := (List.range sp.2).map fun r => weightRow img.1 exact (sp.1 + r)
    let bad := decide (0 < pin.invalid) || pin.poison || pin.violation || img.2
    (noteBlocks acc.1 p 24 number jk pin,
     acc.2.take { xs := columnSums rows pin.a lanes, ep := pin.ep, zero := pin.zero, firstPhase := true,
                  flags := List.replicate lanes false, poison := List.replicate (lanes / 32) bad, uncal := pin.uncal, satIn := pin.sat,
                  weight := 0, endSel := jk.k == j.lastPleat, last := false, job := jv, inputs := [] })) (s, getHem s p 24 number)
  if j.lastPleat = j.finalPleat then
    modPanel (modHem r.1 p 24 number fun _ => r.2.cleared) p fun q => { q with bobbinOut := q.bobbinOut ++ r.2.contribs jv rank p 24 number }
  else modHem r.1 p 24 number fun _ => { r.2 with holding := some jv, fed := [] }

/-- A whole selection of pleats of a DRAM-tier block, vector by vector. -/
def tierRun (s : State) (p rank : Nat) (img : List Byte × Bool) (j : EvalJob) (number : Nat) : State :=
  pumpDrains ((List.range j.n).foldl (fun s v => tierVec s p rank img { j with v := v } number) s) p

/-- The fault of an evaluation descriptor, if it has one (R249 to R251). -/
def evalFault (s : State) (h : Site) (mode n : Nat) (d : List Word) : Option Nat :=
  let w0 := dw d 0
  let w1 := dw d 1
  let w2 := dw d 2
  let br := field w0 15 10
  let bc := field w0 25 16
  let fmt := field w0 29 26
  let p := field w0 38 32
  let rs := field w0 41 39
  let first := field w2 41 32
  let pl := field w2 52 42
  let nblk := br * bc
  let blocks := (List.range nblk).map fun i => field w0 9 0 + i
  let sites := blocks.map fun x => blockSite h.b (panelRel h.nw h.b h.p) x
  let inAddr := field w1 23 0
  let stride := field w1 47 24
  let total := modePleats mode p
  let last := if pl = 0 then total - 1 else first + pl - 1
  let perVec := (match mode with | 2 => br * 32 | 1 => bc * 4 | _ => bc * 16)
  let top := field w2 15 0 + (n - 1) * field w2 31 16 + perVec
  let bytes := fmtBytes fmt (32 * (if mode = 2 then 16 * bc else 32 * br))
  if inAddr % 8 ≠ 0 ∨ stride % 8 ≠ 0 then some 0x03
  else if 6 < fmt then some 0x05
  else if br = 0 ∨ bc = 0 ∨ 768 < nblk ∨ 2047 < n ∨ (mode = 1 ∧ bit w0 30 = true) ∨ (mode ≠ 1 ∧ 4 < rs)
      ∨ (if mode = 1 then p = 0 ∨ 127 < p else p ≠ 8 ∧ p ≠ 16 ∧ p ≠ 32 ∧ p ≠ 64) then some 0x06
  else if total ≤ first ∨ total ≤ last then some 0x06
  else if sites.any fun x => x.isNone then some 0x08
  else if sites.any fun x => match x with
      | some y => y.1 != (mode == 1) || (mode == 2 && y.2.2.2)
      | none => false then some 0x07
  else if 0 < n ∧ 2048 < top then some 0x06
  else if last < total - 1 ∧ 1 < n then some 0x06
  else if sites.any fun x => match x with
      | some y =>
        match (getHem s h.p y.2.1 y.2.2.1).willHold with
        | some j => n != 1 || first != j.lastPleat + 1
        | none => false
      | none => false then some 0x06
  else if !rangeOk inAddr stride n bytes then some 0x04
  else none

/-- The command that one block of an evaluation meets. -/
def evalJob (h : Site) (mode n cmd : Nat) (gen : BitVec 32) (d : List Word) (i : Nat) : EvalJob :=
  let w0 := dw d 0
  let w1 := dw d 1
  let w2 := dw d 2
  let bc := field w0 25 16
  let p := field w0 38 32
  let first := field w2 41 32
  let pl := field w2 52 42
  let total := modePleats mode p
  { cmd := cmd, ctx := h.x.slot, step := h.x.step, gen := gen, mode := mode, number := field w0 9 0 + i, inFmt := field w0 29 26,
    s2 := bit w0 30, p := p, rs := field w0 41 39, pol := field w0 43 42, edge := bit w0 56, layer := field w0 55 48,
    inAddr := field w1 23 0, inStride := field w1 47 24,
    inBlock := if mode = 2 then 16 * (i % bc) else 32 * (i / bc),
    outReg := field w2 15 0 + (match mode with | 2 => 32 * (i / bc) | 1 => 4 * (i % bc) | _ => 16 * (i % bc)),
    outStride := field w2 31 16, firstPleat := first, lastPleat := if pl = 0 then total - 1 else first + pl - 1,
    finalPleat := total - 1, n := n, v := 0, k := first, phase := 0 }

/-- Whether a block of an evaluation stays in the DRAM tier. -/
def tierJob (h : Site) (number : Nat) : Bool :=
  match blockSite h.b (panelRel h.nw h.b h.p) number with | some y => y.2.2.2 | none => false

/-- Whether an evaluation has a block in the DRAM tier, whose work the wide lane does (R221). -/
def evalTier (h : Site) (d : List Word) : Bool :=
  (List.range (field (dw d 0) 15 10 * field (dw d 0) 25 16)).any fun i => tierJob h (field (dw d 0) 9 0 + i)

/-- The commands of an evaluation go to the hems of their blocks, and the DRAM-tier blocks to the wide lane, as a command of fence class 3
(R278). -/
def evalStart (s : State) (h : Site) (mode n : Nat) (d : List Word) : State :=
  let op := match mode with | 0 => 0x20 | 1 => 0x21 | _ => 0x22
  let cmd := (getPanel s h.p).nextCmd
  let nblk := field (dw d 0) 15 10 * field (dw d 0) 25 16
  let js := (List.range nblk).map fun i => evalJob h mode n cmd h.b.gen d i
  let drains := fun (j : EvalJob) => if j.lastPleat = j.finalPleat then n * outBlocks mode else 0
  let arrs := js.filter fun j => !tierJob h j.number
  let tiers := (js.filter fun j => tierJob h j.number).map fun j => { j with cmd := cmd + 1 }
  let s1 := enterCmd s h.p h.x.slot op (if n = 0 then 0 else sumNat (arrs.map fun j => drains j + 1))
  let s2 := if tiers.isEmpty then s1
    else enterUnit (takeCredit s1 (.unitCmd h.p .wide)) h.p h.x.slot op .wide 3 (sumNat (tiers.map drains))
  if n = 0 then s2
  else
    let s3 := arrs.foldl (fun s j => match blockSite h.b (panelRel h.nw h.b h.p) j.number with
      | some (_, t, a, _) => modHem s h.p t a fun m => { m with jobs := m.jobs ++ [j] }
      | none => s) s2
    tiers.foldl (fun s j => tierRun s h.p h.b.rank (blockBytes h.b (panelRel h.nw h.b h.p) j.number) j j.number) s3

/-- Where a replay leaves the dense layer for its exact-mode shadow (R107, R291): at the layer's first dense evaluation, whose
descriptor names the layer, the context goes to the variant's code and the evaluation does not run (log entry 20). -/
def shadowAt (h : Site) (mode : Nat) (d : List Word) : Option Nat :=
  match h.x.shadow with
  | some l => if mode = 0 ∧ field (dw d 0) 55 48 = l then nth none h.pat.shadows l else none
  | none => none

/-- The body of the three evaluations. -/
def evalBody (mode : Nat) (s : State) (h : Site) (w : Word) : Eff :=
  withDesc s h w evalReserved fun d n =>
    match evalFault s h mode n d with
    | some e => .fault e
    | none =>
      if evalTier h d && !creditFree s (.unitCmd h.p .wide) then .wait (.unitCmd h.p .wide)
      else match shadowAt h mode d with
      | some a => .done (modCtx (giveCredit s (.unitCmd h.p .hem) 1) h.p h.x.slot fun x => { x with pc := BitVec.ofNat 24 a })
      | none => .done (evalStart s h mode n d)

/-- EVALD (R250). -/
def execEvald (p c : Nat) (s : State) : Res := .next (issue s p c 0x20 (evalBody 0))

/-- EVALX (R250). -/
def execEvalx (p c : Nat) (s : State) : Res := .next (issue s p c 0x21 (evalBody 1))

/-- EVALT (R250). -/
def execEvalt (p c : Nat) (s : State) : Res := .next (issue s p c 0x22 (evalBody 2))

/-! ### PLEAT_STEP (R44) -/

/-- The policy in force: DEFAULT acts as SPLIT on an edge layer and as CLAMP elsewhere (R51). -/
def policyOf (j : EvalJob) : Nat := if j.pol = 0 then (if j.edge then 2 else 1) else j.pol

/-- The command after the phase in hand: the next phase, pleat or vector; none after the last. -/
def EvalJob.advance (j : EvalJob) : Option EvalJob :=
  if j.phase + 1 < modePhases j.mode j.s2 then some { j with phase := j.phase + 1 }
  else if j.k < j.lastPleat then some { j with phase := 0, k := j.k + 1 }
  else if j.v + 1 < j.n then some { j with phase := 0, k := j.firstPleat, v := j.v + 1 }
  else none

/-- Whether a phase hands results to the bobbin: an exact pleat hands its one result after its last phase (R93). -/
def handsOver (j : EvalJob) : Bool := j.mode != 1 || j.phase == 3

/-- What a step leaves besides its results: counts of R54 and R59. -/
structure StepRes where
  xs : List Int
  flags : List Bool
  poison : List Bool
  splits : Nat
  fails : Nat
  convs : Nat
  drawn : Nat

/-- A dense or transposed step with its saturation policy (R48, R51 to R53, R61, R62). -/
def policyStep (run : Nat → Nat → Nat → StepOut) (j : EvalJob) (n ctr : Nat) : StepRes :=
  let o := run 0 n ctr
  if !(o.flags.any id) then { xs := o.d, flags := o.flags, poison := (blockMarks o.flags).map fun _ => false, splits := 0, fails := 0, convs := 1, drawn := o.drawn }
  else if policyOf j = 2 then
    let a := run 0 (n / 2) (ctr + o.drawn)
    let b := run (n / 2) (n - n / 2) (ctr + o.drawn + a.drawn)
    let fl := zipW (fun x y => x || y) a.flags b.flags
    { xs := zipW (· + ·) a.d b.d, flags := fl, poison := (blockMarks fl).map fun _ => false, splits := 1,
      fails := ((a.flags ++ b.flags).filter id).length, convs := 2, drawn := o.drawn + a.drawn + b.drawn }
  else
    let marks := blockMarks o.flags
    { xs := o.d, flags := o.flags, poison := if policyOf j = 3 then marks else marks.map fun _ => false, splits := 0,
      fails := (o.flags.filter id).length, convs := 1, drawn := o.drawn }

/-- A hem's results and its next command. -/
def pushResult (h : HemArr) (j : EvalJob) (r : Option HemRes) : HemArr :=
  { h with
    jobs := (match j.advance with | some x => [x] | none => []) ++ h.jobs.drop 1
    results := h.results ++ (match r with | some x => [x] | none => []) }

/-- The result of a step that is released with its outputs poisoned (R46); a stale tile's carries its mark (R120). -/
def poisonedRes (stale : Bool) (j : EvalJob) : HemRes :=
  let n := modeLanes j.mode
  { xs := List.replicate n 0, ep := 0, zero := true, firstPhase := false, flags := List.replicate n false,
    poison := List.replicate (n / 32) true, uncal := j.mode != 1 && stale, satIn := false, weight := 0,
    endSel := j.k == j.lastPleat && j.phase + 1 == modePhases j.mode j.s2,
    last := j.advance.isNone, job := { j with outReg := j.outReg + j.v * j.outStride }, inputs := [] }

/-- One exact phase with its margin checks (R57, R59): the free values drawn, whether the first try missed, and the counts in
use. A second miss keeps its own counts. -/
def exactPhase (rows : List (List Int)) (bits : List Int) (ctr : Nat) : Nat × Bool × List (List (Int × Bool)) :=
  let a := exactCounts rows bits ctr
  if (missesOf a).any id then (1024, true, exactCounts rows bits (ctr + 512)) else (512, false, a)

/-- A step has handed off: the digits of a pleat leave the input buffer with its last phase, and their lines' credits go back (R31). -/
def endStep (s : State) (p tile arr : Nat) (j : EvalJob) : State :=
  match (getHem s p tile arr).buf with
  | some b =>
    if j.phase + 1 = modePhases j.mode j.s2 then giveCredit (modHem s p tile arr fun m => { m with buf := none }) (.tileIn p tile) b.2 else s
  | none => s

/-- A step that is released without being evaluated, its outputs poisoned (R46). -/
def releaseStep (s : State) (p tile arr : Nat) (j : EvalJob) : State :=
  let r := if handsOver j then some (poisonedRes (getCal s p tile).stale j) else none
  endStep (modHem s p tile arr fun m => { pushResult m j r with pleatOk := false, released := false }) p tile arr j

/-- What every result of a pleat's step carries before its own values. -/
def baseRes (s : State) (p tile : Nat) (j : EvalJob) (pin : PleatIn) : HemRes :=
  let n := modeLanes j.mode
  { xs := List.replicate n 0, ep := pin.ep, zero := pin.zero, firstPhase := j.phase == 0 || j.mode == 1,
    flags := List.replicate n false, poison := List.replicate (n / 32) (decide (0 < pin.invalid) || pin.poison),
    uncal := j.mode != 1 && (getCal s p tile).stale || pin.uncal, satIn := pin.sat, weight := 0,
    endSel := j.k == j.lastPleat && j.phase + 1 == modePhases j.mode j.s2, last := j.advance.isNone,
    job := { j with outReg := j.outReg + j.v * j.outStride }, inputs := pin.a }

/-- An exact step (R55 to R59). Without EXACT_OK at the pleat's beginning it is not evaluated and its outputs are poisoned; a zero pleat's
steps run and are checked like any other's (R88). -/
def exactStep (s : State) (p tile arr : Nat) (h : HemArr) (j : EvalJob) (aid : ArrId) (x : Arr) (pin : PleatIn) : State :=
  let base := baseRes s p tile j pin
  let ok := if j.phase = 0 then x.exactOk else h.pleatOk
  if !ok then
    let r := if handsOver j then some { base with poison := List.replicate 4 true } else none
    modHem s p tile arr fun m => { pushResult m j r with pleatOk := ok }
  else
    let held := if j.phase = 0 then List.replicate 4 false else h.bad
    let sums := if j.phase = 0 then List.replicate 128 0 else h.acc
    let sp := pleatSpan j.mode j.p j.k
    let ds := pin.a.map fun a => digitOf j.mode j.s2 j.phase a
    let rows := (List.range sp.2).map fun r => weightRow x.image true (sp.1 + r)
    let e := exactPhase rows ds s.freeCtr
    let twice := (missesOf e.2.2).any id
    let bads := zipW (fun a b => a || b) held (blockMarks (missesOf e.2.2))
    let acc := zipW (· + ·) sums (phaseTerms j.phase e.2.2)
    let dt := driftOf s x
    let g := gaugeStep x.gauge true 0 dt (sumInt ds) (s.freeCtr + e.1)
    let s2 := { s with freeCtr := s.freeCtr + e.1 + 4 }
    let s3 := bumpIds s2 (.panel p) 0x428 tile (b2n e.2.1 + b2n twice) [(5, tile), (5, arr)]
    let s4 := modArr s3 aid fun a => { a with gauge := g, exactOk := a.exactOk && !twice }
    let s5 := if twice then scheduleRefresh (raiseEvent s4 (.panel p) 17 [(5, tile), (5, arr)]) p tile arr else s4
    let r := if handsOver j then
        some { base with xs := exactResult acc pin.a, poison := zipW (fun a b => a || b) bads base.poison }
      else none
    modHem s5 p tile arr fun m => { pushResult m j r with pleatOk := ok, bad := bads, acc := acc }

/-- The gauge readings of a dense step: of the step itself, and of both half steps of a split re-run (R52, R65). -/
def stepGauges (g : Gauge) (j : EvalJob) (ds : List Int) (split : Bool) (dt ctr : Nat) : Gauge :=
  let g1 := gaugeStep g false j.rs dt (sumInt ds) ctr
  if split then
    gaugeStep (gaugeStep g1 false j.rs dt (sumInt (ds.take (ds.length / 2))) (ctr + 4)) false j.rs dt (sumInt (ds.drop (ds.length / 2))) (ctr + 8)
  else g1

/-- A dense or transposed step with non-zero inputs (R47 to R54, R60 to R62). -/
def analogStep (s : State) (p tile arr : Nat) (j : EvalJob) (aid : ArrId) (x : Arr) (pin : PleatIn) : State :=
  let sp := pleatSpan j.mode j.p j.k
  let ds := pin.a.map fun a => digitOf j.mode j.s2 j.phase a
  let wt := digitWeight j.mode j.s2 j.phase
  let win := j.k / (512 / j.p)
  let dt := driftOf s x
  let rows := if j.mode = 0 then (List.range sp.2).map fun r => weightRow x.image false (sp.1 + r)
    else (List.range 256).map fun r => weightRow x.image false (256 * win + r)
  let run : Nat → Nat → Nat → StepOut := fun lo m ctr =>
    if j.mode = 0 then denseStep ((rows.drop lo).take m) ((ds.drop lo).take m) j.rs dt ctr
    else transStep rows (sp.1 + lo) m ((ds.drop lo).take m) j.rs dt ctr
  let o := policyStep run j sp.2 s.freeCtr
  let put {α : Type} (z : α) (xs : List α) (k : Nat) : List α :=
    if j.mode = 0 then xs else List.replicate (k * win) z ++ xs ++ List.replicate (k * (3 - win)) z
  let g := if j.mode = 0 then stepGauges x.gauge j ds (o.splits == 1) dt (s.freeCtr + o.drawn) else x.gauge
  let ids := [(5, tile), (5, arr)]
  let fb := (o.poison.filter id).length
  let s2 := { s with freeCtr := s.freeCtr + o.drawn + 12 }
  let s3 := bumpIds s2 (.panel p) (if j.mode = 0 then 0x408 else 0x410) tile o.fails ids
  let s5 := bumpIds (bumpIds s3 (.panel p) 0x418 tile o.splits ids) (.panel p) 0x420 tile fb ids
  let s6 := if fb = 0 then s5 else raiseEvent s5 (.panel p) 18 ids
  let base := baseRes s p tile j pin
  let r : HemRes := { base with
    xs := put 0 (o.xs.map fun d => wt * d) 256
    flags := put false o.flags 256
    poison := zipW (fun a b => a || b) (put false o.poison 8) base.poison
    weight := wt.natAbs ^ 2 * o.convs }
  let s8 := modHem (modArr s6 aid fun a => { a with gauge := g }) p tile arr fun m => pushResult m j (some r)
  if g.record ≠ x.gauge.record then gaugeLatched s8 p tile arr else s8

/-- The step of an array on its inputs, in its mode. -/
def runPleat (s : State) (p tile arr : Nat) (j : EvalJob) (pin : PleatIn) : State :=
  let h := getHem s p tile arr
  let aid := physArr s p tile arr
  let x := getArr s aid
  let t := if j.mode = 1 then exactStep s p tile arr h j aid x pin
    else if pin.zero then modHem s p tile arr fun m => pushResult m j (some (baseRes s p tile j pin))
    else analogStep s p tile arr j aid x pin
  endStep t p tile arr j

/-- The lines that a pleat's blocks take in the tile input buffer. -/
def linesOfPleat (j : EvalJob) : Nat :=
  let sp := pleatSpan j.mode j.p j.k
  pleatLines j.inFmt (j.inAddr + j.v * j.inStride) j.inBlock sp.1 sp.2

/-- The digits of a pleat arrive in the tile input buffer (R44, R86): their lines take its credits, and their blocks are judged. -/
def loadPleat (s : State) (p tile arr : Nat) (j : EvalJob) : State :=
  let pin := pleatOf s p j
  let s1 := takeCredits s (.tileIn p tile) (linesOfPleat j)
  noteBlocks (modHem s1 p tile arr fun m => { m with buf := some (pin, linesOfPleat j) }) p tile arr j pin

/-- Whether a step may start at an array: its hem has room at the bobbin (R44, R297), its job is an evaluation, and no run of its tile holds
back a new pleat (R122 step 2). -/
def mayStep (s : State) (p tile arr : Nat) (j : EvalJob) : Bool :=
  decide ((getHem s p tile arr).results.length < 2) && decide (j.mode ≤ 2) && !(j.phase == 0 && calHolds s p tile)

/-- Whether a waiting step is released with poison: its position has failed, or the programming it waited for has (R46). -/
def mustRelease (s : State) (p tile arr : Nat) : Bool :=
  s.arrays.failedPos.contains (posKey p tile arr) || (getHem s p tile arr).released

/-- A step whose digits are in the buffer: it runs once its array is PROGRAMMED (R46). -/
def stepBuffered (s : State) (p tile arr : Nat) (j : EvalJob) (pin : PleatIn) : State :=
  if (getArr s (physArr s p tile arr)).st = .programmed then runPleat s p tile arr j pin else s

/-- PLEAT_STEP (R44): the digits of a pleat come into the tile input buffer, and one step of one array runs. It waits for the
buffer's credits, while the array is not PROGRAMMED (R46), while the tile is being measured and the array stands at a pleat
boundary (R122), and while two results wait at the bobbin (R297). -/
def execPleatStep (p tile arr : Nat) (s : State) : Res :=
  .next (match (getHem s p tile arr).jobs with
    | [] => s
    | j :: _ =>
      if !mayStep s p tile arr j then s
      else if mustRelease s p tile arr then releaseStep s p tile arr j
      else
        match (getHem s p tile arr).buf with
        | some b => stepBuffered s p tile arr j b.1
        | none =>
          if creditsFree s (.tileIn p tile) (linesOfPleat j) then stepBuffered (loadPleat s p tile arr j) p tile arr j (pleatOf s p j)
          else beginWait s (.tileIn p tile))

/-! ### BOBBIN_ADD, BPROM, BDRAIN -/

/-- Whether a drained contribution is sampled, and by which checker array (R363). -/
def sampleChecker (s : State) (nw : Nat) (b : Bolt) (p : Nat) (j : EvalJob) (poison : Bool) : Option ArrId :=
  let ctl := dieReg s 0x500
  let rate := field ctl 7 4
  let draw := (Config.swatchDraw (getPanel s p).swatchGen).toNat
  if !bit ctl 0 || poison || draw % 2 ^ rate != 0 then none
  else (b.checkers.find? fun c => c.ready && c.panel == panelRel nw b p && c.number == j.number).map fun c => c.arr

/-- An array's lanes drain as contributions (R96); one may be sampled for a swatch (R363, R364). Blocks marked by the bobbin's
accumulation are counted (R101). -/
def drainArr (s : State) (p tile arr : Nat) (j : EvalJob) : State :=
  match boltOfPanel s p with
  | none => modHem s p tile arr HemArr.cleared
  | some (nw, b) =>
    let h := (getHem s p tile arr).promote
    let cs := h.contribs j b.rank p tile arr
    let sats := (cs.filter fun c => c.satAcc).length
    let s1 := bumpIds s (.panel p) 0x4B0 0 sats [(5, tile), (5, arr)]
    let s2 := if sats = 0 then s1 else raiseEvent s1 (.panel p) 21 [(5, tile), (5, arr)]
    let poison := cs.any fun c => c.poison
    let pick := sampleChecker s2 nw b p j poison
    let s3 := modPanel s2 p fun q => { q with swatchGen := q.swatchGen + 1 }
    match pick with
    | none =>
      pumpDrains (modPanel (modHem s3 p tile arr HemArr.cleared) p fun q => { q with bobbinOut := q.bobbinOut ++ cs }) p
    | some ck =>
      let id := s3.ras.nextSwatch
      let sw : Swatch :=
        { id := id, bolt := nw, step := j.step, panel := p, tile := tile, arr := arr, number := j.number, checker := ck,
          mode := j.mode, rs := j.rs, tol := field (dieReg s3 0x500) 15 8, job := j, inputs := h.fed, lanes := h.lanesOf (modeLanes j.mode), ew := h.ew, failed := false,
          checkLanes := [], checkEw := 0, referee := none }
      let s4 := { s3 with ras := { s3.ras with swatches := s3.ras.swatches ++ [sw], nextSwatch := id + 1 } }
      let s5 := bumpFor (modStep s4 nw j.step fun t => { t with swatches := t.swatches ++ [id] }) .die 0x510 [(64, j.step.toNat), (6, p), (5, tile), (5, arr)]
      pumpDrains (modPanel (modHem s5 p tile arr HemArr.cleared) p fun q =>
        { q with bobbinOut := q.bobbinOut ++ cs.map fun c => { c with swatch := some id } }) p

/-- Whether a bobbin still holds an array's last drain for want of reduction credits (R31). -/
def drainsWait (s : State) (p tile arr : Nat) : Bool := (getPanel s p).bobbinOut.any fun c => c.tile == tile && c.arr == arr

/-- A drain or a promotion that waits behind the evaluations of its array runs in its turn (R253, R254). -/
def queuedTurn (s : State) (p tile arr : Nat) : State :=
  let h := getHem s p tile arr
  match h.jobs with
  | j :: rest =>
    if j.mode = 4 then decCmd (modHem s p tile arr fun m => { m.promote with jobs := rest }) p j.cmd 1
    else if j.mode = 3 then
      match h.holding with
      | some k => drainArr (modHem s p tile arr fun m => { m with jobs := rest, holding := none }) p tile arr { k with cmd := j.cmd }
      | none => s
    else s
  | [] => s

/-- The oldest result of a bobbin is added; what ends its selection drains, or leaves the lanes holding. -/
def addResult (s : State) (p tile arr : Nat) (r : HemRes) (rest : List HemRes) : State :=
  let s1 := modHem s p tile arr fun m => { (if m.holding.isSome then { m with holding := none } else m).take r with results := rest }
  let s2 := if !r.endSel then s1
    else if r.job.lastPleat = r.job.finalPleat then drainArr s1 p tile arr r.job
    else modHem s1 p tile arr fun m => { m with holding := some r.job }
  if r.last then decCmd s2 p r.job.cmd 1 else s2

/-- BOBBIN_ADD (R94): the oldest result waiting at an array's bobbin is added; at the end of a block's last pleat the lanes
drain, and a selection that ends before it leaves them holding. A BDRAIN or a BPROM that waits its turn runs here. A bobbin whose last
drain still waits for reduction credits adds nothing. -/
def execBobbinAdd (p tile arr : Nat) (s : State) : Res :=
  .next (if drainsWait s p tile arr then s
    else match (getHem s p tile arr).results with
      | r :: rest => addResult s p tile arr r rest
      | [] => queuedTurn s p tile arr)

/-- The blocks of a format-4 instruction. -/
def blockRange (w : Word) : List Nat := (List.range (field w 41 32)).map fun i => field w 51 42 + i

/-- Where the blocks of a format-4 instruction are placed. -/
def rangeSites (h : Site) (w : Word) : List (Option (Bool × Nat × Nat × Bool)) :=
  (blockRange w).map fun x => blockSite h.b (panelRel h.nw h.b h.p) x

/-- The last evaluation that an array still has before it, queued or on its way to the bobbin. -/
def HemArr.queued (h : HemArr) : Option EvalJob :=
  match h.jobs.getLast? with
  | some j => some j
  | none => (h.results.getLast?).map fun r => r.job

/-- One block's bobbin is promoted under a command of a step: at once, or behind the evaluations that it still has before it (R253). -/
def promoteBlock (cmd : Nat) (step : Word) (gen : BitVec 32) (t : State) (p : Nat) (x : Option (Bool × Nat × Nat × Bool)) : State :=
  match x with
  | none => t
  | some y =>
    match (getHem t p y.2.1 y.2.2.1).queued with
    | some k => modHem t p y.2.1 y.2.2.1 fun m => { m with jobs := m.jobs ++ [{ k with cmd := cmd, step := step, gen := gen, mode := 4, phase := 0 }] }
    | none => modHem t p y.2.1 y.2.2.1 HemArr.promote

/-- How many of some blocks have evaluations before a promotion. -/
def promoteCount (s : State) (p : Nat) (sites : List (Option (Bool × Nat × Nat × Bool))) : Nat :=
  (sites.filter fun x => match x with | some y => (getHem s p y.2.1 y.2.2.1).queued.isSome | none => false).length

/-- BPROM (R253): the runs are promoted, after the evaluations of the blocks that came before it. -/
def execBprom (p c : Nat) (s : State) : Res :=
  .next (issue s p c 0x28 fun t h w =>
    let sites := rangeSites h w
    if sites.any fun x => x.isNone then .fault 0x08
    else .done (sites.foldl (fun u x => promoteBlock (getPanel t p).nextCmd h.x.step h.b.gen u p x) (enterCmd t p c 0x28 (promoteCount t p sites))))

/-- Whether a block is one that an EVAL leaves holding (R254). -/
def willHoldAt (s : State) (p : Nat) (x : Option (Bool × Nat × Nat × Bool)) : Option EvalJob :=
  match x with
  | some y => (getHem s p y.2.1 y.2.2.1).willHold
  | none => none

/-- One held block drains under a command: at once when its bobbin holds it with nothing before, else in its turn (R254). -/
def drainBlock (cmd : Nat) (t : State) (p : Nat) (x : Option (Bool × Nat × Nat × Bool)) : State :=
  match x with
  | none => t
  | some y =>
    let m := getHem t p y.2.1 y.2.2.1
    match m.jobs.isEmpty && m.results.isEmpty, m.holding with
    | true, some k =>
      drainArr (modHem t p y.2.1 y.2.2.1 fun m => { m with holding := none }) p y.2.1 y.2.2.1 { k with cmd := cmd }
    | _, _ =>
      match m.willHold with
      | some k => modHem t p y.2.1 y.2.2.1 fun m => { m with jobs := m.jobs ++ [{ k with cmd := cmd, mode := 3, phase := 0 }] }
      | none => t

/-- How many contributions some held blocks drain to. -/
def drainCount (s : State) (p : Nat) (sites : List (Option (Bool × Nat × Nat × Bool))) : Nat :=
  sumNat (sites.map fun x => match willHoldAt s p x with | some j => outBlocks j.mode | none => 0)

/-- BDRAIN (R254): each block of the range, left holding by an EVAL, drains; one that is not is a FIELD fault. -/
def execBdrain (p c : Nat) (s : State) : Res :=
  .next (issue s p c 0x29 fun t h w =>
    let sites := rangeSites h w
    if sites.any fun x => x.isNone then .fault 0x08
    else if sites.any fun x => (willHoldAt t p x).isNone then .fault 0x06
    else .done (sites.foldl (fun u x => drainBlock (getPanel t p).nextCmd u p x) (enterCmd t p c 0x29 (drainCount t p sites))))

/-! ### REDOPEN and the reduction path -/

/-- The reserved bits of REDOPEN's descriptor (R255). -/
def redReserved (d : List Word) : Bool :=
  anyReserved [(0, 23, 23), (0, 63, 32), (1, 63, 48), (2, 63, 25), (3, 63, 11), (4, 63, 0), (5, 63, 0), (6, 63, 0), (7, 63, 0)] d

/-- The norm watch's control register of a panel (R109). -/
def nwCtrl (s : State) (p : Nat) : Word := getReg s (.panel p) 0x480

/-- The registers that a REDOPEN descriptor names (R255). -/
def redRegs (d : List Word) : List Nat := (List.range (field (dw d 0) 22 11)).map fun i => field (dw d 0) 10 0 + i

/-- The fault of a REDOPEN (R255, R256, R280). -/
def redFault (t : State) (p : Nat) (w : Word) (d : List Word) : Option Nat :=
  let first := field (dw d 0) 10 0
  let count := field (dw d 0) 22 11
  let contrib := field (dw d 0) 31 24
  let dst := field (dw d 1) 23 0
  let stride := field (dw d 1) 47 24
  let scale := field (dw d 2) 23 0
  let noscale := bit (dw d 2) 24
  if g47 w ≠ 0 then some 0x06
  else if count = 0 ∨ 2048 < first + count ∨ contrib = 0 ∨ stride < 128 then some 0x06
  else if dst % 64 ≠ 0 ∨ stride % 64 ≠ 0 ∨ scale % 64 ≠ 0 then some 0x03
  else if !rangeOk dst stride count 128 ∨ (!noscale ∧ sramSize < scale + 64 * count) then some 0x04
  else if (redRegs d).any fun r => (mapGet RedReg.start (getPanel t p).regs r).isOpen then some 0x09
  else none

/-- Whether the registers that a descriptor opens form a sample of the norm watch (R106, R108, R255); NW_CTRL is read when it
forms (R109). -/
def redWatched (h : Site) (d : List Word) : Bool := bit (dw d 3) 8 && h.x.shadow != some (field (dw d 3) 7 0)

/-- A register as a REDOPEN opens it (R255). -/
def redOpened (t : State) (h : Site) (d : List Word) (r : Nat) : RedReg :=
  let first := field (dw d 0) 10 0
  let dst := field (dw d 1) 23 0
  let stride := field (dw d 1) 47 24
  { isOpen := true, contrib := field (dw d 0) 31 24, dst := dst + (r - first) * stride,
    scale := if bit (dw d 2) 24 then none else some (field (dw d 2) 23 0 + 64 * (r - first)), layer := field (dw d 3) 7 0,
    nw := if redWatched h d then some (dst, stride, field (dw d 0) 22 11) else none, pol := field (dw d 3) 10 9,
    step := h.x.step, cmd := (getPanel t h.p).nextCmd, held := [] }

/-- The registers of a REDOPEN open, and a watched layer's step waits for its samples (R255, R106). -/
def redOpen (t : State) (h : Site) (d : List Word) : State :=
  let layer := field (dw d 3) 7 0
  let t1 := enterCmd t h.p h.x.slot 0x2C (field (dw d 0) 22 11)
  let t2 := if redWatched h d then
      modStep t1 h.nw h.x.step fun k => { k with norms := k.norms ++ [(h.p, layer)] }
    else t1
  modPanel t2 h.p fun q => { q with regs := (redRegs d).foldl (fun m r => mapSet RedReg.start m r (redOpened t h d r)) q.regs }

/-- REDOPEN (R255). -/
def execRedopen (p c : Nat) (s : State) : Res :=
  .next (issue s p c 0x2C fun t h w =>
    withDesc t h w redReserved fun d _ =>
      match redFault t h.p w d with
      | some code => .fault code
      | none => .done (redOpen t h d))

/-- The order in which contributions are added (R98, R99). -/
def contribLt (a b : Contrib) : Bool :=
  if a.rank ≠ b.rank then decide (a.rank < b.rank)
  else if a.panel ≠ b.panel then decide (a.panel < b.panel)
  else if a.tile ≠ b.tile then decide (a.tile < b.tile)
  else decide (a.arr < b.arr)

/-- A long register as its contributions are added (R97): lanes with their marks, the exponent, whether it is empty. -/
structure LongReg where
  lanes : List (Int × Bool)
  el : Int
  isEmpty : Bool

/-- One contribution added. A zero contribution changes neither lanes nor exponent. -/
def LongReg.add (l : LongReg) (c : Contrib) : LongReg :=
  if c.zero then l
  else
    { lanes := zipW (fun (x : Int × Bool) v =>
        let r := accAdd 64 l.isEmpty x.1 l.el x.2 v c.ew
        (r.1, x.2 || r.2)) l.lanes c.lanes
      el := if l.isEmpty then c.ew else if c.ew < l.el then c.ew else l.el
      isEmpty := false }

/-- A finished register (R100, R101): its values, marks, and what it reports. -/
structure Finished where
  ys : List F32
  mark : LineMark
  accSat : Bool
  nonfinite : Bool

/-- A register finishes into binary32 under its scales. -/
def finishReg (r : RedReg) (scales : List BF16) (scalePoison : Bool) : Finished :=
  let cs := sortBy contribLt r.held
  let l := cs.foldl LongReg.add { lanes := List.replicate 32 (0, false), el := 0, isEmpty := true }
  let fin (c : BF16) : Bool := isFin (ofBF16 c)
  let ys := zipW (fun (x : Int × Bool) c => if fin c then finishLane x.1 l.el c else (qNaN, false)) l.lanes scales
  let accSat := (l.lanes.any fun x => x.2) || ys.any fun y => y.2
  let sat := accSat || cs.any fun c => c.satConv || c.satAcc
  let nonfin := scales.any fun c => !fin c
  let poison := (cs.any fun c => c.poison) || nonfin || scalePoison || (sat && r.pol == 3)
  { ys := ys.map Prod.fst, mark := { poison := poison, sat := sat || cs.any (fun c => c.satIn), uncal := cs.any fun c => c.uncal },
    accSat := accSat, nonfinite := nonfin }

/-- The bytes of binary32 values. -/
def f32Bytes (xs : List F32) : List Byte := xs.flatMap fun x => natLe 4 x.toNat

/-- Binary32 values from bytes. -/
def bytesF32 (bs : List Byte) : List F32 := words32 bs

/-- A norm r over some values (R106). -/
def normOf (ys : List F32) : F32 := fSqrt (fDiv (fDot ys ys) (fOfNat ys.length))

/-- The sample of the registers that an instruction opened (R106, R255), under NW_CTRL as it stands now (R109): with the watch off there
is none, and the seal waits for it only when it may act. -/
def formSample (s : State) (p : Nat) (r : RedReg) : State :=
  match r.nw with
  | none => s
  | some (dst, stride, count) =>
    let q := getPanel s p
    let ctl := nwCtrl s p
    let ys := (List.range count).flatMap fun i => bytesF32 (memBytes q.sram (dst + i * stride) 128)
    let s1 := if bit ctl 0 && field ctl 2 1 != 0 then s
      else match boltOfPanel s p with
        | some (nw, _) => modStep s nw r.step fun t => { t with norms := t.norms.filter fun x => x != (p, r.layer) }
        | none => s
    if bit ctl 0 then modPanel s1 p fun q => { q with samples := q.samples ++ [{ layer := r.layer, grad := false, step := r.step, r := normOf ys }] }
    else s1

/-- The pattern fault of a contribution that reaches a closed register (R256), at the context of its step; the faulting instruction
is the one whose command sent the contribution. -/
def closedFault (s : State) (p : Nat) (step : Word) (cmd : Nat) : State :=
  match (getPanel s p).ctxs.find? fun x => x.step == step with
  | some x =>
    (match x.cmds.find? fun k => k.id == cmd with
     | some k => patternFault s p x.slot 0x0A k.pc.toNat k.opcode
     | none => patternFault s p x.slot 0x0A x.pc.toNat 0)
  | none => s

/-- A register that has all its contributions finishes, writes its values and closes (R100, R255). -/
def regFinish (s : State) (p n : Nat) (r : RedReg) : State :=
  let q := getPanel s p
  let cx := boltCtx s p
  let sc := match r.scale with | some a => sramRead q cx a 64 | none => { bytes := [], mark := LineMark.clean, violation := false }
  let scales : List BF16 := match r.scale with
    | some _ => (chunksOf 2 64 sc.bytes).map fun b => BitVec.ofNat 16 (leNat b)
    | none => List.replicate 32 0x3F80
  let f := finishReg r scales sc.mark.poison
  let s0 := if sc.violation || sramViolates q cx r.dst 128 then boltTagFault s p r.step else s
  let s1 := if f.accSat then raiseEvent (bumpFor s0 (.panel p) 0x4B0 [(8, r.layer)]) (.panel p) 21 [(8, r.layer)] else s0
  let s2 := if f.nonfinite then raiseEvent s1 (.panel p) 22 [(8, r.layer)] else s1
  let s3 := modPanel s2 p fun q =>
    { sramWrite q cx r.dst [(f32Bytes f.ys, f.mark)] with regs := mapSet RedReg.start q.regs n RedReg.start }
  let s4 := decCmd s3 p r.cmd 1
  if (getPanel s4 p).regs.any fun kv => kv.2.isOpen && kv.2.cmd == r.cmd then s4 else formSample s4 p r

/-- A contribution reaches its register, which holds it and finishes with the last one; a closed register is a pattern fault (R98,
R256). -/
def contribArrive (s : State) (p : Nat) (d : Contrib) : State :=
  let r := mapGet RedReg.start (getPanel s p).regs d.reg
  if !r.isOpen then decCmd (closedFault s p d.step d.cmd) p d.cmd 1
  else
    let s1 := decCmd s p d.cmd 1
    let r1 := { r with held := r.held ++ [d] }
    if r1.held.length < r1.contrib then modPanel s1 p fun q => { q with regs := mapSet RedReg.start q.regs d.reg r1 }
    else regFinish s1 p d.reg r1

/-- A contribution from another panel or module as the panel holds it: no command of this panel's waits for it. -/
def meshContrib (s : State) (p : Nat) (c : RedItem) : Contrib :=
  { reg := c.reg, rank := c.rank, panel := c.panel, tile := c.tile, arr := c.arr, lanes := c.lanes, ew := c.ew, satConv := c.satConv,
    satAcc := c.satAcc, satIn := c.satIn, uncal := c.uncal, poison := c.poison, zero := c.zero, cmd := (getPanel s p).nextCmd,
    step := c.step, gen := c.gen, swatch := none }

/-- Whether what arrives for a step is of the bolt's present generation and of a step that it holds (R371). -/
def currentStep (s : State) (p : Nat) (step : Word) (gen : BitVec 32) : Bool :=
  match boltOfPanel s p with
  | some (_, b) => b.gen == gen && b.steps.any fun t => t.seq == step
  | none => false

/-- REDUCTION_CONTRIBUTION (R98, R99): a contribution of the panel's own bobbins, which gives its reduction credit back, or one that arrives
over the mesh or the fabric reaches its register. What belongs to a discarded step is dropped. -/
def execReductionContribution (p : Nat) (src : ContribFrom) (s : State) : Res :=
  .next (match src with
    | .drain i =>
      match (getPanel s p).drains[i]? with
      | none => s
      | some d =>
        pumpDrains (contribArrive (giveCredit (modPanel s p fun q => { q with drains := q.drains.eraseIdx i }) (.drains p d.tile) 1) p d) p
    | .mesh c => if currentStep s p c.step c.gen then contribArrive s p (meshContrib s p c) else s)

/-! ### The norm watch (R106 to R108, R111) -/

/-- The estimate of a layer and space. -/
def nwEst (s : State) (p layer : Nat) (grad : Bool) : F32 × BitVec 16 := mapGet ((0 : F32), (0 : BitVec 16)) (getPanel s p).est (layer + 256 * b2n grad)

/-- Whether a sample jumps (R106). -/
def nwJump (ctl : Word) (m : F32) (cnt : BitVec 16) (r : F32) : Bool :=
  let f := fDiv (fOfNat (field ctl 15 8)) (fOfNat 4)
  !isFin r || (decide (field ctl 31 24 ≤ cnt.toNat) && fGt m 0 && fGt r (fMul f m))

/-- The estimate after a sample that does not jump (R106). -/
def nwUpdate (ctl : Word) (m : F32) (cnt : BitVec 16) (r : F32) : F32 × BitVec 16 :=
  let w := fDiv fOne (fOfNat (2 ^ field ctl 19 16))
  (if cnt = 0 then r else fAdd m (fMul (fAdd r (fNegate m)) w), if cnt = 0xFFFF then cnt else cnt + 1)

/-- Whether a layer has an exact-mode shadow (R108). -/
def hasShadow (b : Bolt) (layer : Nat) : Bool := match b.pat with | some t => (nth none t.shadows layer).isSome | none => false

/-- A jump is counted, latched, recorded and raised (R107, R111, R504). -/
def nwLatch (s : State) (p : Nat) (n : NormSample) (noShadow : Bool) : State :=
  let s1 := modPanel s p fun q =>
    if q.nwHeld then { q with nwLast := q.nwLast ||| bitOf 42 }
    else { q with
      nwLast := packReg [(0, 32, n.r.toNat), (32, 8, n.layer), (40, 1, b2n n.grad), (41, 1, b2n noShadow)]
      nwLastStep := n.step
      nwHeld := true }
  let s2 := bbRecord (bumpFor s1 (.panel p) 0x4A8 [(8, n.layer)]) (.panel p) (0x1000 + n.layer + 256 * b2n n.grad) (natLe 8 n.step.toNat ++ natLe 4 n.r.toNat)
  raiseEvent s2 (.panel p) 23 [(8, n.layer)]

/-- A sample is tested and entered, for some jobs that an ABORT ends (R106, R107). -/
def nwEnterFor (ids : List Nat) (s : State) (p nw : Nat) (n : NormSample) (b : Bolt) : State :=
  let ctl := nwCtrl s p
  let e := nwEst s p n.layer n.grad
  let k := n.layer + 256 * b2n n.grad
  let act := if n.grad then field ctl 4 3 else field ctl 2 1
  let done (s : State) : State := modStep s nw n.step fun t =>
    { t with norms := t.norms.filter fun x => x != (p, n.layer), entered := t.entered ++ [(p, k)] }
  if !nwJump ctl e.1 e.2 n.r then
    done (modPanel s p fun q => { q with est := mapSet ((0 : F32), (0 : BitVec 16)) q.est k (nwUpdate ctl e.1 e.2 n.r) })
  else
    let noShadow := !n.grad && act == 1 && !hasShadow b n.layer
    let s1 := nwLatch s p n noShadow
    if act = 2 then done (claimAll s1 ids 0x13)
    else if act = 1 && !n.grad && !noShadow then
      modStep (done s1) nw n.step fun t => { t with asked := t.asked ++ [.normReexec n.layer] }
    else done s1

/-- A forward sample is tested and entered: an ABORT ends every job with a row in its step. -/
def nwEnter (s : State) (p nw : Nat) (b : Bolt) (n : NormSample) : State :=
  nwEnterFor (jobsOfSteps s (b.steps.filter fun t => t.seq == n.step)) s p nw n b

/-- NORM_SAMPLE (R106): a held sample is tested once every earlier step has entered its own or completed its part. -/
def execNormSample (p i : Nat) (s : State) : Res :=
  .next (match (getPanel s p).samples[i]?, boltOfPanel s p with
    | some n, some (nw, b) =>
      let k := n.layer + 256 * b2n n.grad
      let blocked := (b.steps.any fun t => !t.sealed && decide (t.seq < n.step) && !t.reported.contains p && !t.entered.contains (p, k))
        || (getPanel s p).samples.any fun m => m.layer == n.layer && m.grad == n.grad && decide (m.step < n.step)
      if blocked then s else nwEnter (modPanel s p fun q => { q with samples := q.samples.eraseIdx i }) p nw b n
    | _, _ => s)

end Sys2Proof.Machine
end

