-- ==== Sys2Proof/Machine/Units.lean ====
section
/-! DEFINITION. The activation units and the wide lane: vectors read from and written to panel SRAM with their marks (R84,
R89, R92, R103, R379), ACT and CVT (R258, R260), WMV, WEW, WNORM, WLOOK and WAD (R261 to R265). -/

namespace Sys2Proof.Machine

/-! ### Vectors -/

/-- A block of up to 32 values as a unit reads it, or is to write it, with its marks. -/
structure VBlk where
  xs : List F32
  mark : LineMark
  invalid : Bool
  deriving DecidableEq, Repr

/-- Block b of a vector in panel SRAM. An invalid block is poisoned (R89); a clamp of decoding is a saturation mark (R260). -/
def readVBlk (q : Panel) (c : SramCtx) (f addr b : Nat) : VBlk × Bool :=
  if f = 8 then
    let r := sramRead q c (addr + 128 * b) 128
    ({ xs := words32 r.bytes, mark := r.mark, invalid := false }, r.violation)
  else if f = 7 then
    let r := sramRead q c (addr + 64 * b) 64
    ({ xs := (chunksOf 2 32 r.bytes).map fun x => ofBF16 (BitVec.ofNat 16 (leNat x)), mark := r.mark, invalid := false }, r.violation)
  else
    let g := addr + b / 8 * fmtGroup f
    let r := sramRead q c (g + b % 8) 1
    let e := sramRead q c (g + 8 + b % 8 * fmtField f) (fmtField f)
    let k := decodeBlock f (leNat r.bytes) e.bytes
    let v := blockF32 f k
    let m := r.mark.or e.mark
    ({ xs := v.1, mark := { m with poison := m.poison || !k.ok, sat := m.sat || v.2 }, invalid := !k.ok },
      r.violation || e.violation)

/-- Invalid blocks that a vector instruction reads count in FMT_FAULTS, and FMT_FAULT is raised (R89, R113). Its descriptor names neither
tile and array nor layer (R257), so that none stands behind the event (log entry 223). -/
def countInvalid (s : State) (p n : Nat) : State :=
  if n = 0 then s else raiseEvent (bumpTile s (.panel p) 0x4B8 0 n) (.panel p) 20 []

/-- A vector of n elements read by a bolt-level request, with the effects of invalid blocks and of the tag check. -/
def readVec (s : State) (h : Site) (f addr n : Nat) : State × List VBlk :=
  let bs := (List.range (n / 32)).map fun b => readVBlk (getPanel s h.p) h.ctx f addr b
  let s1 := countInvalid s h.p (bs.filter fun b => b.1.invalid).length
  (if bs.any fun b => b.2 then tagFault s1 h none else s1, bs.map Prod.fst)

/-- Marks of a whole vector. -/
def allMarks (bs : List VBlk) : LineMark := bs.foldl (fun m b => m.or b.mark) LineMark.clean

/-- The pieces that a narrow vector is written as: the scale bytes of a group carry the marks of its blocks; padding blocks
complete the last group (R84, R85). -/
def narrowPieces (f : Nat) (es : List (Encoded × LineMark)) : List (List Byte × LineMark) :=
  (chunksOf 8 es.length es).flatMap fun g =>
    let pad := List.replicate (8 - g.length) (({ scale := 0, bytes := List.replicate (fmtField f) 0, sat := false, poison := false } : Encoded), LineMark.clean)
    let full := g ++ pad
    (full.map fun e => BitVec.ofNat 8 e.1.scale, full.foldl (fun m e => m.or e.2) LineMark.clean)
      :: full.map fun e => (e.1.bytes, e.2)

/-- Values written as a vector in a format: encoded block by block, non-finite groups poisoned and reported (R90 to R92,
R103). -/
def writeVec (s : State) (h : Site) (f addr : Nat) (bs : List (List F32 × LineMark)) : State :=
  let es : List (Encoded × LineMark) := bs.map fun b =>
    let e := encodeBlock f b.1
    (e, { b.2 with poison := b.2.poison || e.poison, sat := b.2.sat || e.sat })
  let bad := (es.filter fun e => e.1.poison).length
  let s1 := (List.range bad).foldl (fun s _ => raiseEvent s (.panel h.p) 22 []) s
  writeSram s1 h none addr (if f ≤ 6 then narrowPieces f es else es.map fun e => (e.1.bytes, e.2))

/-- Two vectors' blocks put together value by value. -/
def zipBlk (f : F32 → F32 → F32) (xs ys : List VBlk) : List (List F32 × LineMark) :=
  zipW (fun (a b : VBlk) => (zipW f a.xs b.xs, a.mark.or b.mark)) xs ys

/-- A vector's blocks changed value by value. -/
def mapBlk (f : F32 → F32) (xs : List VBlk) : List (List F32 × LineMark) := xs.map fun b => (b.xs.map f, b.mark)

/-! ### Faults of the vector instructions (R257, R280) -/

/-- The first fault of some checks. -/
def firstFault : List (Option Nat) → Option Nat
  | [] => none
  | none :: r => firstFault r
  | some c :: _ => some c

/-- A fault when a test holds. -/
def faultIf (b : Bool) (code : Nat) : Option Nat := if b then some code else none

/-- The faults of a run of n vectors in panel SRAM: alignment, then range. -/
def runFault (f addr stride n bytes : Nat) : Option Nat :=
  if addr % fmtAlign f ≠ 0 ∨ stride % fmtAlign f ≠ 0 then some 0x03
  else if !rangeOk addr stride n bytes then some 0x04
  else none

/-- LEN outside its range. -/
def lenFault (v : VecDesc) : Option Nat := faultIf (v.len % 32 != 0 || decide (v.len < 32) || decide (262144 < v.len)) 0x06

/-- Whether a format is BF16 or binary32. -/
def wideFmt (f : Nat) : Bool := f == 7 || f == 8

/-- An instruction that shares the vector descriptor: its faults first, then one vector after the other. -/
def vecInstr (s : State) (p c op : Nat) (faults : Site → VecDesc → Nat → List (Option Nat))
    (one : State → Site → VecDesc → Nat → State) : Res :=
  .next (issue s p c op fun t h w =>
    withDesc t h w vecReserved fun d n =>
      let v := vecDesc d
      match firstFault (faults h v n) with
      | some code => .fault code
      | none => .done ((List.range n).foldl (fun t i => one t h v i) (enterCmd t p c op 0)))

/-! ### ACT and CVT (R258, R260) -/

/-- The faults of ACT's operands (R258). -/
def actFaults (_ : Site) (v : VecDesc) (n : Nat) : List (Option Nat) :=
  let gated := 128 ≤ v.func
  [lenFault v, faultIf (v.fmt0 != 8 || decide (8 < v.dfmt) || (gated && v.fmt1 != 8)) 0x05, faultIf (decide (7 < v.func % 128)) 0x06,
    runFault 8 v.src0 v.stride0 n (4 * v.len), if gated then runFault 8 v.src1 v.stride1 n (4 * v.len) else none,
    runFault v.dfmt v.dst v.dstStride n (fmtBytes v.dfmt v.len)]

/-- ACT's effect on vector i (R258). -/
def actOne (t : State) (h : Site) (v : VecDesc) (i : Nat) : State :=
  let r0 := readVec t h 8 (v.src0 + i * v.stride0) v.len
  if v.func < 128 then writeVec r0.1 h v.dfmt (v.dst + i * v.dstStride) (mapBlk (actFn v.func) r0.2)
  else
    let r1 := readVec r0.1 h 8 (v.src1 + i * v.stride1) v.len
    writeVec r1.1 h v.dfmt (v.dst + i * v.dstStride) (zipBlk (fun x x1 => fMul (actFn (v.func % 128) x) x1) r0.2 r1.2)

/-- ACT (R258). -/
def execAct (p c : Nat) (s : State) : Res := vecInstr s p c 0x30 actFaults actOne

/-- The faults of CVT's operands (R260). -/
def cvtFaults (_ : Site) (v : VecDesc) (n : Nat) : List (Option Nat) :=
  [lenFault v, faultIf (decide (8 < v.fmt0) || decide (8 < v.dfmt)) 0x05, runFault v.fmt0 v.src0 v.stride0 n (fmtBytes v.fmt0 v.len),
    runFault v.dfmt v.dst v.dstStride n (fmtBytes v.dfmt v.len)]

/-- CVT's effect on vector i (R260). -/
def cvtOne (t : State) (h : Site) (v : VecDesc) (i : Nat) : State :=
  let r0 := readVec t h v.fmt0 (v.src0 + i * v.stride0) v.len
  writeVec r0.1 h v.dfmt (v.dst + i * v.dstStride) (mapBlk (fun x => x) r0.2)

/-- CVT (R260). -/
def execCvt (p c : Nat) (s : State) : Res := vecInstr s p c 0x31 cvtFaults cvtOne

/-! ### Weights of the wide lane (R219, R257) -/

/-- Whether a lost chunk of the segment space lies in a range of it (R224, R379). -/
def segPoison (b : Bolt) (lo n : Nat) : Bool :=
  let es := sortBy (fun (x y : DirEntry) => x.number < y.number) (b.dir.filter fun e => e.type == 2)
  let spans := es.foldl (fun (acc : Nat × List (Nat × DirEntry)) e =>
    let so := (acc.1 + 63) / 64 * 64
    (so + e.bytes, acc.2 ++ [(so, e)])) (0, [])
  spans.2.any fun x => (List.range ((x.2.bytes + 65535) / 65536)).any fun i =>
    decide (lo < x.1 + 65536 * (i + 1) ∧ x.1 + 65536 * i < lo + n)
      && (match b.copy.find? fun k => k.idx == x.2.firstChunk + i with | some k => k.lost | none => true)

/-- The fault of a run of weight bytes at WADDR. -/
def weightFault (h : Site) (v : VecDesc) (f bytes : Nat) : Option Nat :=
  if v.waddr % fmtAlign f ≠ 0 then some 0x03
  else if (if v.wdram then (segSpace h.b).length else sramSize) < v.waddr + bytes then some 0x04
  else none

/-- Weight bytes at an offset from WADDR, with whether they are poisoned and whether the tag check failed. -/
def weightBytes (s : State) (h : Site) (v : VecDesc) (off n : Nat) : List Byte × Bool × Bool :=
  if v.wdram then ((segSpace h.b).drop (v.waddr + off) |>.take n, segPoison h.b (v.waddr + off) n, false)
  else
    let r := sramRead (getPanel s h.p) h.ctx (v.waddr + off) n
    (r.bytes, r.mark.poison, r.violation)

/-- A weight row as exact numbers, with the number of invalid blocks (R103). MXINT8 values need not fit binary32. -/
def weightTerms (f n : Nat) (bs : List Byte) : List Term × Nat :=
  if f = 8 then ((words32 bs).map termOf, 0)
  else if f = 7 then ((chunksOf 2 n bs).map fun x => termOf (ofBF16 (BitVec.ofNat 16 (leNat x))), 0)
  else
    let ks := (List.range (n / 32)).map fun b =>
      let g := b / 8 * fmtGroup f
      decodeBlock f (bytesNat bs (g + b % 8) 1) ((bs.drop (g + 8 + b % 8 * fmtField f)).take (fmtField f))
    (ks.flatMap fun k => k.q.map fun q => .fin { m := q, e := (k.scale : Int) - 127 + fmtUnit f }, (ks.filter fun k => !k.ok).length)

/-- The exact product of two terms. -/
def Term.mul (a b : Term) : Term :=
  let zero : Term → Bool := fun t => match t with | .fin d => d.m == 0 | _ => false
  let neg : Term → Bool := fun t => match t with | .fin d => decide (d.m < 0) | .inf n => n | .nan => false
  match a, b with
  | .nan, _ => .nan
  | _, .nan => .nan
  | .fin x, .fin y => .fin (x.mul y)
  | x, y => if zero x || zero y then .nan else .inf (neg x != neg y)

/-- The dot product of R103 over exact terms. -/
def termDot (ws xs : List Term) : F32 :=
  let n := xs.length
  (zipW (fun g k => termRound ((zipW Term.mul g k).foldl termAdd (.fin Dy.zero))) (chunksOf 32 n ws) (chunksOf 32 n xs)).foldl fAdd 0

/-- Values in blocks of 32 that share one mark. -/
def markBlocks (m : LineMark) (ys : List F32) : List (List F32 × LineMark) := (chunksOf 32 ys.length ys).map fun b => (b, m)

/-! ### WMV, WEW, WNORM, WLOOK (R261 to R264) -/

/-- The faults of WMV's operands (R261). -/
def wmvFaults (h : Site) (v : VecDesc) (n : Nat) : List (Option Nat) :=
  [lenFault v, faultIf (!(v.wfmt == 6 || wideFmt v.wfmt)) 0x06, faultIf (!wideFmt v.fmt0) 0x05,
    runFault v.fmt0 v.src0 v.stride0 n (fmtBytes v.fmt0 v.len), runFault 8 v.dst v.dstStride n (4 * v.m),
    weightFault h v v.wfmt (v.m * fmtBytes v.wfmt v.len)]

/-- WMV's effect on vector i (R261). -/
def wmvOne (t : State) (h : Site) (v : VecDesc) (i : Nat) : State :=
  let r0 := readVec t h v.fmt0 (v.src0 + i * v.stride0) v.len
  let xs := (r0.2.flatMap fun b => b.xs).map termOf
  let mark := allMarks r0.2
  let rb := fmtBytes v.wfmt v.len
  let rows := (List.range v.m).map fun k =>
    let w := weightBytes r0.1 h v (k * rb) rb
    let e := weightTerms v.wfmt v.len w.1
    (termDot e.1 xs, w.2.1 || e.2 != 0, w.2.2, e.2)
  let s1 := countInvalid r0.1 h.p (sumNat (rows.map fun r => r.2.2.2))
  let s2 := if rows.any fun r => r.2.2.1 then tagFault s1 h none else s1
  writeVec s2 h 8 (v.dst + i * v.dstStride) ((chunksOf 32 v.m rows).map fun g =>
    (g.map fun r => r.1, { mark with poison := mark.poison || g.any fun r => r.2.1 }))

/-- WMV (R261). -/
def execWmv (p c : Nat) (s : State) : Res := vecInstr s p c 0x38 wmvFaults wmvOne

/-- The functions of WEW that read one source. -/
def ewUnary (f : Nat) : Bool := f ∈ [4, 5, 6, 8, 9, 11]

/-- The operation of WEW (R262). -/
def ewOp (f : Nat) (a x0 x1 : F32) : F32 :=
  match f with
  | 0 => fAdd x0 x1
  | 1 => fMul x0 x1
  | 2 => fSub x0 x1
  | 3 => fDiv x0 x1
  | 4 => fSqrt x0
  | 5 => fRsqrt x0
  | 6 => fExp x0
  | 7 => fAdd (fMul a x0) x1
  | 8 => fAdd x0 a
  | 9 => fMul x0 a
  | 10 => fMaximum x0 x1
  | _ => x0

/-- The faults of WEW's operands (R262). -/
def wewFaults (_ : Site) (v : VecDesc) (n : Nat) : List (Option Nat) :=
  [lenFault v, faultIf (decide (11 < v.func)) 0x06, faultIf (!wideFmt v.fmt0 || (!ewUnary v.func && !wideFmt v.fmt1)) 0x05,
    runFault v.fmt0 v.src0 v.stride0 n (fmtBytes v.fmt0 v.len),
    if ewUnary v.func then none else runFault v.fmt1 v.src1 v.stride1 n (fmtBytes v.fmt1 v.len),
    runFault 8 v.dst v.dstStride n (4 * v.len)]

/-- WEW's effect on vector i (R262). -/
def wewOne (t : State) (h : Site) (v : VecDesc) (i : Nat) : State :=
  let r0 := readVec t h v.fmt0 (v.src0 + i * v.stride0) v.len
  if ewUnary v.func then writeVec r0.1 h 8 (v.dst + i * v.dstStride) (mapBlk (fun x => ewOp v.func v.a x 0) r0.2)
  else
    let r1 := readVec r0.1 h v.fmt1 (v.src1 + i * v.stride1) v.len
    writeVec r1.1 h 8 (v.dst + i * v.dstStride) (zipBlk (ewOp v.func v.a) r0.2 r1.2)

/-- WEW (R262). -/
def execWew (p c : Nat) (s : State) : Res := vecInstr s p c 0x39 wewFaults wewOne

/-- The factors of the normalisation of a vector (R263): the values before the gain, each rounded as the rule says. -/
def normalise (layer : Bool) (eps : F32) (xs : List F32) : List F32 :=
  let n := fOfNat xs.length
  let ds := if layer then
      let mu := fDiv (fDot xs (List.replicate xs.length fOne)) n
      xs.map fun x => fSub x mu
    else xs
  let r := fRsqrt (fAdd (fDiv (fDot ds ds) n) eps)
  ds.map fun d => fMul d r

/-- The faults of WNORM's operands (R263). -/
def wnormFaults (h : Site) (v : VecDesc) (n : Nat) : List (Option Nat) :=
  [lenFault v, faultIf (decide (1 < v.func) || (v.func == 1 && !wideFmt v.wfmt)) 0x06, faultIf (!wideFmt v.fmt0 || !wideFmt v.fmt1) 0x05,
    runFault v.fmt0 v.src0 v.stride0 n (fmtBytes v.fmt0 v.len), runFault v.fmt1 v.src1 v.stride1 n (fmtBytes v.fmt1 v.len),
    runFault 8 v.dst v.dstStride n (4 * v.len), if v.func = 1 then weightFault h v v.wfmt (fmtBytes v.wfmt v.len) else none]

/-- WNORM's effect on vector i (R263). -/
def wnormOne (t : State) (h : Site) (v : VecDesc) (i : Nat) : State :=
  let r0 := readVec t h v.fmt0 (v.src0 + i * v.stride0) v.len
  let r1 := readVec r0.1 h v.fmt1 (v.src1 + i * v.stride1) v.len
  let m0 := allMarks r0.2
  let ys := chunksOf 32 v.len (normalise (v.func == 1) v.a (r0.2.flatMap fun b => b.xs))
  let out := zipW (fun (y : List F32) (g : VBlk) => (zipW fMul y g.xs, m0.or g.mark)) ys r1.2
  if v.func = 0 then writeVec r1.1 h 8 (v.dst + i * v.dstStride) out
  else
    let w := weightBytes r1.1 h v 0 (fmtBytes v.wfmt v.len)
    let bs := if v.wfmt = 8 then words32 w.1 else (chunksOf 2 v.len w.1).map fun x => ofBF16 (BitVec.ofNat 16 (leNat x))
    let s1 := if w.2.2 then tagFault r1.1 h none else r1.1
    writeVec s1 h 8 (v.dst + i * v.dstStride) (zipW (fun (o : List F32 × LineMark) b =>
      (zipW fAdd o.1 b, { o.2 with poison := o.2.poison || w.2.1 })) out (chunksOf 32 v.len bs))

/-- WNORM (R263). -/
def execWnorm (p c : Nat) (s : State) : Res := vecInstr s p c 0x3A wnormFaults wnormOne

/-- The faults of WLOOK's operands (R264). -/
def wlookFaults (h : Site) (v : VecDesc) (n : Nat) : List (Option Nat) :=
  [lenFault v, faultIf (v.wfmt != 7) 0x06, runFault 8 v.src0 4 n 4, runFault 8 v.dst v.dstStride n (4 * v.len),
    weightFault h v 7 (v.m * (2 * v.len))]

/-- WLOOK's effect on vector i (R264). -/
def wlookOne (t : State) (h : Site) (v : VecDesc) (i : Nat) : State :=
  let r := readSram t h none (v.src0 + 4 * i) 4
  let tok := leNat r.2.bytes
  if v.m ≤ tok then
    writeVec r.1 h 8 (v.dst + i * v.dstStride) (markBlocks { r.2.mark with poison := true } (List.replicate v.len 0))
  else
    let w := weightBytes r.1 h v (tok * (2 * v.len)) (2 * v.len)
    let s1 := if w.2.2 then tagFault r.1 h none else r.1
    writeVec s1 h 8 (v.dst + i * v.dstStride) (markBlocks { r.2.mark with poison := r.2.mark.poison || w.2.1 }
      ((chunksOf 2 v.len w.1).map fun x => ofBF16 (BitVec.ofNat 16 (leNat x))))

/-- WLOOK (R264). -/
def execWlook (p c : Nat) (s : State) : Res := vecInstr s p c 0x3B wlookFaults wlookOne

/-! ### WAD (R187, R265) -/

/-- Row k of an MXINT8 matrix as exact numbers, with the number of invalid blocks: the rows' blocks of 32 follow one another in the groups
of eight of R84, so that each takes 33 bytes (R187, R190). -/
def mxRow (len : Nat) (bytes : List Byte) (k : Nat) : List Term × Nat :=
  let ks := (List.range (len / 32)).map fun i =>
    let b := k * (len / 32) + i
    let g := b / 8 * fmtGroup 6
    decodeBlock 6 (bytesNat bytes (g + b % 8) 1) ((bytes.drop (g + 8 + b % 8 * fmtField 6)).take (fmtField 6))
  (ks.flatMap fun x => x.q.map fun q => .fin { m := q, e := (x.scale : Int) - 127 + fmtUnit 6 }, (ks.filter fun x => !x.ok).length)

/-- The dot products of the rows of n elements of a slot's matrix with a vector; in MXINT8 a row is padded to a multiple of 32 (R187). -/
def slotRows (mx : Bool) (bytes : List Byte) (rows n : Nat) (xs : List Term) : List F32 × Nat :=
  let len := if mx then (n + 31) / 32 * 32 else n
  let x := xs ++ List.replicate (len - n) (.fin Dy.zero)
  let rs := (List.range rows).map fun k =>
    let e := if mx then mxRow len bytes k else weightTerms 7 len ((bytes.drop (k * (2 * n))).take (2 * n))
    (termDot e.1 x, e.2)
  (rs.map Prod.fst, sumNat (rs.map Prod.snd))

/-- The bytes of a slot's matrix of rows of n elements. -/
def slotBytes (mx : Bool) (rows n : Nat) : Nat := if mx then fmtBytes 6 (rows * ((n + 31) / 32 * 32)) else rows * (2 * n)

/-- The faults of WAD's operands (R265). -/
def wadFaults (h : Site) (v : VecDesc) (n : Nat) : List (Option Nat) :=
  [lenFault v, faultIf (decide (h.rows.length < v.firstRow + n)) 0x06, faultIf (!wideFmt v.fmt0) 0x05,
    runFault v.fmt0 v.src0 v.stride0 n (fmtBytes v.fmt0 v.len), runFault 8 v.dst v.dstStride n (4 * v.m)]

/-- WAD's effect on vector i (R265). -/
def wadOne (t : State) (h : Site) (v : VecDesc) (i : Nat) : State :=
  match h.rows[v.firstRow + i]? with
  | none => t
  | some row =>
    if row.slot = 0x7F then t
    else
      let base := h.e.adapterBase + row.slot * h.pat.slotBytes
      let part := memBytes (getPanel t h.p).sram base h.pat.slotBytes
      let l := Config.adapterLayout part v.aux
      let mx := l.1
      let rank := l.2.1.toNat + 1
      let ra := readSram t h (some row) (base + l.2.2.1) (slotBytes mx rank v.len)
      let rb := readSram ra.1 h (some row) (base + l.2.2.2.1) (slotBytes mx v.m rank)
      let r0 := readVec rb.1 h v.fmt0 (v.src0 + i * v.stride0) v.len
      let hs := slotRows mx ra.2.bytes rank v.len ((r0.2.flatMap fun b => b.xs).map termOf)
      let ts := slotRows mx rb.2.bytes v.m rank (hs.1.map termOf)
      let bad := ra.2.mark.poison || rb.2.mark.poison
      let s1 := countInvalid r0.1 h.p (hs.2 + ts.2)
      let s2 := if bad && !ra.2.violation && !rb.2.violation then claimRow s1 row.session 0x14 else s1
      let dst := v.dst + i * v.dstStride
      let rd := readSram s2 h none dst (4 * v.m)
      let m0 := (allMarks r0.2).or { ra.2.mark.or rb.2.mark with poison := bad || hs.2 + ts.2 != 0 }
      writeVec rd.1 h 8 dst (markBlocks (m0.or rd.2.mark)
        (zipW (fun d x => fAdd d (fMul l.2.2.2.2 x)) (words32 rd.2.bytes) ts.1))

/-- WAD (R265): DST takes the adapter term of each row's slot; a row without an adapter set leaves it. The places of A, B
and s in the slot are free values. A poisoned slot ends the row's job (R380). -/
def execWad (p c : Nat) (s : State) : Res := vecInstr s p c 0x3C wadFaults wadOne

end Sys2Proof.Machine
end

