-- ==== Sys2Proof/Machine/Attn.lean ====
section
/-! DEFINITION. The attention units: the attention descriptor (R138, R267), reading of key and value blocks (R158, R159,
R169), scores and running statistics (R141 to R146), splits, partials and their fold (R147 to R150), ATTN, KVW and ATTB
(R152, R155, R268 to R270). -/

namespace Sys2Proof.Machine

/-! ### The attention descriptor (R267) -/

/-- The fields of an attention descriptor. -/
structure AttDesc where
  layer : Nat
  head : Nat
  g : Nat
  fmt : Nat
  d : Nat
  bitmap : Bool
  saveLse : Bool
  window : Nat
  scale : F32
  qa : Nat
  oa : Nat
  la : Nat
  ba : Nat
  bStride : Nat
  dout : Nat
  dq : Nat
  dk : Nat
  dv : Nat
  firstRow : Nat

/-- An attention descriptor from its words. -/
def attDesc (w : List Word) : AttDesc :=
  let w0 := dw w 0
  let w1 := dw w 1
  let w2 := dw w 2
  let w3 := dw w 3
  let w4 := dw w 4
  let w5 := dw w 5
  { layer := field w0 7 0, head := field w0 13 8, g := field w0 17 14 + 1, fmt := field w0 21 18, d := kvWidth (field w0 23 22),
    bitmap := bit w0 24, saveLse := bit w0 25, window := field w0 63 32, scale := BitVec.ofNat 32 (field w1 31 0), qa := field w1 55 32,
    oa := field w2 23 0, la := field w2 47 24, ba := field w3 23 0, bStride := field w3 47 24, dout := field w4 23 0, dq := field w4 47 24,
    dk := field w5 23 0, dv := field w5 47 24, firstRow := field (dw w 6) 9 0 }

/-- The reserved bits of an attention descriptor. -/
def attReserved (d : List Word) : Bool :=
  anyReserved [(0, 31, 26), (1, 63, 56), (2, 63, 48), (3, 63, 48), (4, 63, 48), (5, 63, 48), (6, 63, 10), (7, 63, 0)] d

/-- The home panel of a KV head, 0xFF for none (R530). -/
def homeOf (t : Pattern) (layer head : Nat) : Nat := nth 0xFF (nth [] t.homes layer) head

/-- The faults that ATTN, KVW and ATTB share: R138's limits, then the rows. -/
def attFaults (h : Site) (a : AttDesc) (n : Nat) : List (Option Nat) :=
  [faultIf (!(a.fmt == 0 || a.fmt == 4 || a.fmt == 5) || decide (h.pat.layers ≤ a.layer)) 0x0B,
    faultIf (decide (h.rows.length < a.firstRow + n)) 0x06]

/-! ### Key and value blocks (R158, R159) -/

/-- Bytes of a KV page: a DRAM page's own, or the lines of an SRAM frame under the row's tenant. -/
def kvBytes (s : State) (cx : SramCtx) (frame off n : Nat) : List Byte × Bool × Bool :=
  if isSramFrame frame then
    let r := sramRead (getPanel s ((frame - 8388608) / 256)) cx ((frame - 8388608) % 256 * 65536 + off) n
    (r.bytes, r.mark.poison && !r.violation, r.violation)
  else (memBytes (getPage s frame).mem off n, false, false)

/-- The number of a block in its page: chunk, part (0 K, 1 V), token and block along the head dimension. -/
def kvBlockNo (d c part t h : Nat) : Nat := ((c * 2 + part) * 32 + t) * (d / 32) + h

/-- The offset of a part in its page. -/
def kvPartAt (fmt d c part : Nat) : Nat := 0x100 + c * kvChunkBytes fmt d + part * (kvChunkBytes fmt d / 2)

/-- What reading key or value rows meets besides their values: poison of the KV writer, poison of memory (the page will be
dropped), and a tag violation. A block that memory poisoned is listed by its number plus 2¹⁶. -/
structure KvFlags where
  poison : Bool
  memory : Bool
  viol : Bool

/-- The flags of two reads. -/
def KvFlags.or (a b : KvFlags) : KvFlags := { poison := a.poison || b.poison, memory := a.memory || b.memory, viol := a.viol || b.viol }

/-- No flag. -/
def KvFlags.none : KvFlags := { poison := false, memory := false, viol := false }

/-- The d elements of the row of a token in a part, exactly. -/
def kvRow (s : State) (cx : SramCtx) (frame fmt d c part t : Nat) : List Term × KvFlags :=
  let g := getPage s frame
  let rs := (List.range (d / 32)).map fun h =>
    let b := t * (d / 32) + h
    let at_ := kvPartAt fmt d c part + b / 8 * fmtGroup fmt
    let sc := kvBytes s cx frame (at_ + b % 8) 1
    let el := kvBytes s cx frame (at_ + 8 + b % 8 * fmtField fmt) (fmtField fmt)
    let k := decodeBlock fmt (leNat sc.1) el.1
    let no := kvBlockNo d c part t h
    let mem := sc.2.1 || el.2.1 || g.poison.contains (no + 65536)
    (k.q.map fun q => Term.fin { m := q, e := (k.scale : Int) - 127 + fmtUnit fmt },
      ({ poison := mem || g.poison.contains no || !k.ok, memory := mem, viol := sc.2.2 || el.2.2 } : KvFlags))
  (rs.flatMap Prod.fst, (rs.map Prod.snd).foldl KvFlags.or KvFlags.none)

/-! ### Scores and statistics (R141 to R146) -/

/-- A row's running statistics. -/
structure AttSt where
  m : F32
  l : F32
  o : List F32
  deriving DecidableEq, Repr

/-- −∞. -/
def fNegInf : F32 := 0xFF800000

/-- The initial state of R143. -/
def AttSt.start (d : Nat) : AttSt := { m := fNegInf, l := 0, o := List.replicate d 0 }

/-- The greater of two values; the first of equal ones. -/
def fMax2 (a b : F32) : F32 := if fGt b a then b else a

/-- sum32: an exact sum rounded once. -/
def sum32 (ts : List Term) : F32 := termRound (ts.foldl termAdd (.fin Dy.zero))

/-- The live keys of a chunk: their scores and value rows, folded into the statistics (R143). -/
def attChunk (x : AttSt) (ss : List F32) (vs : List (List Term)) : AttSt :=
  match ss with
  | [] => x
  | s0 :: _ =>
    let mn := fMax2 x.m (ss.foldl fMax2 s0)
    let alpha := if x.m = fNegInf then 0 else fExp (fSub x.m mn)
    let ps := ss.map fun t => fExp (fSub t mn)
    { m := mn
      l := fAdd (fMul x.l alpha) (sum32 (ps.map termOf))
      o := x.o.zipIdx.map fun (y : F32 × Nat) =>
        fAdd (fMul y.1 alpha) (sum32 (zipW (fun p v => Term.mul (termOf p) (nth (.fin Dy.zero) v y.2)) ps vs)) }

/-- Whether key t is not masked by position, window or bitmap (R142). -/
def keyOpen (r : RemoteJob) (t : Nat) : Bool :=
  decide (t ≤ r.pos) && (r.window == 0 || decide (r.pos < t + r.window))
    && (match r.bitmap with | none => true | some b => (nth (0 : Byte) b (t / 8)).getLsbD (t % 8))

/-- What became of a run of segments. -/
inductive RunStat where
  | ok | absent | unwritten
  deriving DecidableEq, Repr

/-- A query row in a pass: its statistics, what its backward pass has formed, whether it has stopped (R144), whether it read
poison, and whether a key of it was live. -/
structure PassRow where
  r : RemoteJob
  x : AttSt
  back : List BackPart
  stop : Bool
  poison : Bool
  live : Bool

/-- A pass in progress (R145): up to eight rows of a session over one segment, what its blocks brought, and how it stands. -/
structure PassAcc where
  s : State
  rows : List PassRow
  flags : KvFlags
  frames : List Nat
  stat : RunStat

/-- A chunk of the backward pass of one row, over its live keys with their score, key and value rows (R155). -/
def backChunk (r : RemoteJob) (b : BackIn) (ts : List Nat) (ss : List F32) (ks vs : List (List Term)) : BackPart :=
  let ps := ss.map fun x => fExp (fSub x b.lse)
  let ds := zipW (fun q v => fMul q (fSub (termDot v (b.dout.map termOf)) b.dd)) ps vs
  { dq := (List.range r.d).map fun j => fMul r.scale (sum32 (zipW (fun x (k : List Term) => Term.mul (termOf x) (nth (.fin Dy.zero) k j)) ds ks))
    adds := zipW (fun t (x : F32 × F32) => (t, r.q.map fun q => fMul (fMul r.scale x.2) q, b.dout.map fun o => fMul x.1 o)) ts (ps.zip ds) }

/-- One row's share of a chunk whose blocks the pass has fetched: its live keys are scored (R141 to R144, R155). -/
def rowChunk (s : State) (cx : SramCtx) (frame c0 at_ : Nat) (y : PassRow) : PassRow × KvFlags :=
  let r := y.r
  let valid := (getPage s frame).valid
  let live := if y.stop then [] else (List.range 32).filter fun t => keyOpen r (c0 + t) && decide (at_ + t < valid)
  if live.isEmpty then (y, KvFlags.none)
  else
    let ks := live.map fun t => kvRow s cx frame r.fmt r.d (at_ / 32) 0 t
    let vs := live.map fun t => kvRow s cx frame r.fmt r.d (at_ / 32) 1 t
    let ss := ks.map fun x => fMul r.scale (termDot x.1 (r.q.map termOf))
    let fl := ((ks ++ vs).map Prod.snd).foldl KvFlags.or KvFlags.none
    let bad := ss.any fun x => !isFin x
    let z : PassRow := { y with stop := bad, poison := y.poison || fl.poison || fl.viol, live := true }
    (if bad then z
     else
      match r.back with
      | none => { z with x := attChunk y.x ss (vs.map Prod.fst) }
      | some b => { z with back := y.back ++ [backChunk r b (live.map fun t => c0 + t) ss (ks.map Prod.fst) (vs.map Prod.fst)] }, fl)

/-- One chunk of a pass that some row has live: its page is translated and read once for all its rows (R145, R162, R164, R165). -/
def passChunk (panel : Nat) (cx : SramCtx) (a : PassAcc) (c0 : Nat) : PassAcc :=
  match a.rows with
  | [] => a
  | y :: _ =>
    if a.stat != .ok || !(a.rows.any fun x => !x.stop && (List.range 32).any fun t => keyOpen x.r (c0 + t)) then a
    else
      let tpp := kvTpp y.r.fmt y.r.d
      let k := pteKey y.r.session y.r.layer y.r.kvHead (c0 / tpp)
      let e := walkPte a.s y.r.session y.r.layer y.r.kvHead (c0 / tpp)
      if e.dropped then { a with stat := .absent, rows := a.rows.map fun x => { x with live := true } }
      else if !e.present then { a with stat := .unwritten }
      else
        let s1 := touchFrame (translate a.s panel k) e.frame
        let xs := a.rows.map (rowChunk s1 cx e.frame c0 (c0 % tpp))
        let fl := (xs.map Prod.snd).foldl KvFlags.or KvFlags.none
        { s := s1, rows := xs.map Prod.fst, flags := a.flags.or fl, frames := if fl.memory then a.frames ++ [e.frame] else a.frames, stat := .ok }

/-- What identifies an attention event: session, layer and KV head (R179). -/
def attIds (r : RemoteJob) : List (Nat × Nat) := [(14, r.session), (8, r.layer), (6, r.kvHead)]

/-- A pass or KVW of a step meets a dropped entry: counted, raised; the job ends KV_ABSENT, or a recall of the step is asked
for (R168). The request stands with the step until the recall. -/
def kvAbsent (s : State) (panel : Nat) (r : RemoteJob) : State :=
  let s1 := raiseEvent (bumpIds s (.att panel) 0x090 0 1 (attIds r)) (.att panel) 17 (attIds r)
  if !bit (dieReg s1 0x208) 2 then claimRow s1 r.session 0x12
  else
    match boltOfPanel s1 r.home with
    | none => s1
    | some (nw, _) => modStep s1 nw r.step fun t =>
        if t.asked.contains (.kvAbsent r.session) then t else { t with asked := t.asked ++ [.kvAbsent r.session] }

/-- The reports of a pass: rows that a non-finite score has stopped (R144), poisoned blocks, counted at their source, with the drop
of a page that memory struck (R169), tag violations (R413) and dropped entries. -/
def passReports (panel : Nat) (r : RemoteJob) (stopped : Bool) (a : PassAcc) : State :=
  let s0 := if stopped then claimRow (raiseEvent a.s (.att panel) 16 (attIds r)) r.session 0x14 else a.s
  let s1 := if a.flags.poison then
      claimRow (raiseEvent (modPanel s0 panel fun q => { q with attPoisons := q.attPoisons + 1 }) (.att panel) 18 (attIds r)) r.session 0x14
    else s0
  let s2 := if a.flags.viol then
      claimRow (raiseEvent (bumpFor s1 .sec 0x098 [(12, (getSession s1 r.session).tenant), (14, r.session)]) .sec 16 [(12, (getSession s1 r.session).tenant), (14, r.session)]) r.session 0x18
    else s1
  let s3 := a.frames.eraseDups.foldl dropFrame s2
  if a.stat = .absent then kvAbsent s3 panel r else s3

/-- What a row's pass over a segment comes to (R146, R155). -/
def PassRow.part (y : PassRow) (seg : Nat) : PartMsg :=
  { cmd := y.r.cmd, step := y.r.step, gen := y.r.gen, row := y.r.row, head := y.r.head, seg := seg, m := y.x.m, l := y.x.l, o := y.x.o,
    poison := y.stop || y.poison, live := y.live, back := y.r.back.map fun _ => y.back }

/-- Runs in progress: the rows that have stopped, the partials formed, and how they stand. -/
structure RunAcc where
  s : State
  stopped : List (Nat × Nat)
  parts : List PartMsg
  stat : RunStat

/-- One pass: up to eight rows over the chunks of a segment (R145, R146). -/
def runPass (panel : Nat) (cx : SramCtx) (seg : Nat) (acc : RunAcc) (rs : List RemoteJob) : RunAcc :=
  match rs with
  | [] => acc
  | r :: _ =>
    if acc.stat = .unwritten then acc
    else
      let ys := rs.map fun x : RemoteJob =>
        ({ r := x, x := AttSt.start x.d, back := [], stop := acc.stopped.contains (x.row, x.head), poison := false, live := false } : PassRow)
      let a := (List.range 16).foldl (fun a c => passChunk panel cx a (512 * seg + 32 * c))
        { s := acc.s, rows := ys, flags := KvFlags.none, frames := [], stat := .ok }
      let new := ((a.rows.filter fun y => y.stop).map fun y => (y.r.row, y.r.head)).filter fun k => !acc.stopped.contains k
      { s := passReports panel r (!new.isEmpty) a, stopped := acc.stopped ++ new, parts := acc.parts ++ a.rows.map fun y => y.part seg, stat := a.stat }

/-- The runs of one session's query rows on one unit, segment by segment in ascending order: for each, the rows whose runs hold it, in
their order, eight to a pass (R145, R146). -/
def runSegs (s : State) (panel : Nat) (cx : SramCtx) (rs : List RemoteJob) : RunAcc :=
  let segs := (List.range (rs.foldl (fun n r => max n (r.first + r.count)) 0)).filter fun i => rs.any fun r => decide (r.first ≤ i ∧ i < r.first + r.count)
  segs.foldl (fun acc i =>
    let mine := rs.filter fun r => decide (r.first ≤ i ∧ i < r.first + r.count)
    (chunksOf 8 mine.length mine).foldl (runPass panel cx i) acc)
    { s := s, stopped := [], parts := [], stat := .ok }

/-! ### The fold (R148 to R150) -/

/-- merge of R148. -/
def attMerge (a b : AttSt) : AttSt :=
  if b.m = fNegInf then a
  else if a.m = fNegInf then b
  else
    let mn := fMax2 a.m b.m
    let ea := fExp (fSub a.m mn)
    let eb := fExp (fSub b.m mn)
    { m := mn, l := fAdd (fMul a.l ea) (fMul b.l eb), o := zipW (fun x y => fAdd (fMul x ea) (fMul y eb)) a.o b.o }

/-- The held partials that can be folded are folded, in ascending segment order. -/
def AttRow.drain (r : AttRow) : Nat → AttRow
  | 0 => r
  | n + 1 =>
    match r.held.find? fun x => x.1 == r.next with
    | none => r
    | some x =>
      let f := attMerge { m := r.m, l := r.l, o := r.o } { m := x.2.1, l := x.2.2.1, o := x.2.2.2 }
      AttRow.drain { r with next := r.next + 1, m := f.m, l := f.l, o := f.o, held := r.held.filter fun y => y.1 != r.next } n

/-- A partial reaches its row. -/
def AttRow.put (r : AttRow) (x : PartMsg) : AttRow :=
  AttRow.drain { r with
    held := r.held ++ [(x.seg, x.m, x.l, x.o)]
    live := r.live || x.live
    mark := { r.mark with poison := r.mark.poison || x.poison } } (r.held.length + 1)

/-- finish of R148: the outputs, the log-sum-exp and the masked-row flag. -/
def attFinish (x : AttSt) : List F32 × F32 × Bool :=
  if x.m = fNegInf then (x.o.map fun _ => 0, fNegInf, true)
  else (x.o.map fun y => fDiv y x.l, fAdd x.m (fLog x.l), false)

/-- What identifies a row of an ATTN in an event (R179). -/
def AttJob.ids (j : AttJob) (session : Nat) : List (Nat × Nat) := [(14, session), (8, j.layer), (6, j.kvHead)]

/-- The masked-row flag in binary32 (R154; log entry 227). -/
def maskedFlag (m : Bool) : F32 := if m then 0x3F800000 else 0

/-- A row whose segments are all folded is finished and written (R148, R154). One that had no live key in any segment counts, and its
masked-row flag goes with the output block (R150). -/
def finishRow (s : State) (p : Nat) (j : AttJob) (r : AttRow) : State :=
  let f := attFinish { m := r.m, l := r.l, o := r.o }
  let cx := boltCtx s p
  let masked := f.2.2 && !r.live
  let s1 := bumpIds s (.att p) 0x080 0 (b2n masked) (j.ids r.session)
  let viol := sramViolates (getPanel s1 p) cx r.out (4 * j.d)
    || (match r.lse with | some a => sramViolates (getPanel s1 p) cx a 8 | none => false)
  let s2 := if viol then boltTagFault s1 p j.step else s1
  let bad := r.mark.poison || f.1.any fun x => !isFin x
  let s3 := modPanel s2 p fun q =>
    let q1 := sramWrite q cx r.out ((chunksOf 32 j.d f.1).map fun b =>
      (b.flatMap fun x => natLe 4 x.toNat, { r.mark with poison := r.mark.poison || b.any (fun x => !isFin x), masked := masked }))
    match r.lse with
    | some a => sramWrite q1 cx a [(natLe 4 f.2.1.toNat ++ natLe 4 (maskedFlag f.2.2).toNat, { LineMark.clean with poison := bad })]
    | none => q1
  let s4 := if bad then claimRow s3 r.session 0x14 else s3
  decCmd s4 p j.cmd 1

/-- Partials reach the command they belong to; rows that are complete finish. -/
def foldParts (s : State) (p : Nat) (xs : List PartMsg) : State :=
  xs.foldl (fun s x =>
    match (getPanel s p).att.find? fun j => j.cmd == x.cmd with
    | none => s
    | some j =>
      let rows := j.rows.map fun r => if r.row == x.row && r.head == x.head then r.put x else r
      let full := rows.filter fun r => decide (r.segs ≤ r.next)
      let rest := rows.filter fun r => decide (r.next < r.segs)
      let s1 := modPanel s p fun q =>
        { q with att := if rest.isEmpty then q.att.filter fun k => k.cmd != j.cmd
                        else modWhere (fun k : AttJob => k.cmd == j.cmd) (fun k => { k with rows := rest }) q.att }
      full.foldl (fun s r => finishRow s p j r) s1) s

/-! ### What a backward pass returns (R155) -/

/-- An accumulator in panel SRAM takes a row of contributions, each addition rounded (R155). -/
def accRow (s : State) (p : Nat) (step : Word) (addr : Nat) (xs : List F32) (poison : Bool) : State :=
  let cx := boltCtx s p
  let r := sramRead (getPanel s p) cx addr (4 * xs.length)
  let s1 := if r.violation then boltTagFault s p step else s
  modPanel s1 p fun q => sramWrite q cx addr
    [((zipW fAdd (words32 r.bytes) xs).flatMap fun x => natLe 4 x.toNat, { r.mark with poison := r.mark.poison || poison })]

/-- What one segment returns is added: dq chunk by chunk, the key and value contributions to their accumulators. -/
def addBack (s : State) (p : Nat) (j : BackJob) (r : BackRow) (poison : Bool) (xs : List BackPart) : State × BackRow :=
  ((xs.flatMap fun x => x.adds).foldl (fun s x =>
      accRow (accRow s p j.step (j.dk + x.1 * (4 * j.d)) x.2.1 poison) p j.step (j.dv + x.1 * (4 * j.d)) x.2.2 poison) s,
    { r with next := r.next + 1, dq := xs.foldl (fun q x => zipW fAdd q x.dq) r.dq, mark := { r.mark with poison := r.mark.poison || poison } })

/-- The segments of a row that have come are added, in ascending order. -/
def addHeld (p : Nat) (j : BackJob) : Nat → State × BackRow → State × BackRow
  | 0, a => a
  | n + 1, a =>
    match a.2.held.find? fun x => x.1 == a.2.next with
    | none => a
    | some x =>
      let b := addBack a.1 p j a.2 x.2.1 x.2.2
      addHeld p j n (b.1, { b.2 with held := b.2.held.filter fun y => y.1 != x.1 })

/-- A row of a backward pass is over: dq is written (R155). -/
def finishBack (s : State) (p : Nat) (j : BackJob) (r : BackRow) : State :=
  let cx := boltCtx s p
  let bad := r.mark.poison || r.dq.any fun x => !isFin x
  let s1 := if sramViolates (getPanel s p) cx r.out (4 * j.d) then boltTagFault s p j.step else s
  let s2 := modPanel s1 p fun q => sramWrite q cx r.out [(r.dq.flatMap fun x => natLe 4 x.toNat, { r.mark with poison := bad })]
  decCmd (if r.mark.poison then claimRow s2 r.session 0x14 else s2) p j.cmd 1

/-- The rows of a backward pass add what has come of them in their order, a later row only once the ones before it are over. -/
def drainBack (s : State) (p cmd : Nat) : Nat → State
  | 0 => s
  | n + 1 =>
    match (getPanel s p).attb.find? fun j => j.cmd == cmd with
    | none => s
    | some j =>
      match j.rows with
      | [] => modPanel s p fun q => { q with attb := q.attb.filter fun k => k.cmd != cmd }
      | r :: rest =>
        let a := addHeld p j (r.held.length + 1) (s, r)
        let put (rows : List BackRow) : State :=
          modPanel a.1 p fun q => { q with attb := modWhere (fun k : BackJob => k.cmd == cmd) (fun k => { k with rows := rows }) q.attb }
        if a.2.segs ≤ a.2.next then drainBack (finishBack (put rest) p j a.2) p cmd n else put (a.2 :: rest)

/-- What a segment of a backward pass returns reaches its row at home; it is held until its turn. -/
def takeBack (s : State) (p : Nat) (x : PartMsg) (xs : List BackPart) : State :=
  match (getPanel s p).attb.find? fun j => j.cmd == x.cmd with
  | none => s
  | some j =>
    let mine (r : BackRow) : Bool := r.row == x.row && r.head == x.head
    let s1 := modPanel s p fun q => { q with attb := modWhere (fun k : BackJob => k.cmd == x.cmd) (fun k =>
      { k with rows := modWhere mine (fun r => { r with held := r.held ++ [(x.seg, x.poison, xs)] }) k.rows }) q.attb }
    drainBack s1 p x.cmd (j.rows.length + 1)

/-- A partial at its home panel: of a forward pass to the fold, of a backward pass to its accumulators. -/
def takePart (s : State) (p : Nat) (x : PartMsg) : State :=
  match x.back with
  | none => foldParts s p [x]
  | some xs => takeBack s p x xs

/-- The bytes of a partial on the mesh (log entry 221). -/
def PartMsg.bytes (x : PartMsg) (d : Nat) : Nat :=
  match x.back with
  | none => 8 + 4 * d
  | some xs => 8 + sumNat (xs.map fun y => 4 * d + y.adds.length * (4 + 8 * d))

/-! ### ATTN (R147, R268, R269) -/

/-- The sizes and starts of S contiguous runs over n segments, the larger runs first (R147). -/
def splitRuns (n s : Nat) : List (Nat × Nat) :=
  (List.range s).map fun i =>
    let start := i * (n / s) + (if i < n % s then i else n % s)
    (start, n / s + (if i < n % s then 1 else 0))

/-- The panel of run i of a head with a home panel (R147). -/
def runPanel (t : Pattern) (home i : Nat) : Nat :=
  let at_ := (findIdxFrom (fun x => x == home) t.attnList 0).getD 0
  if i = 0 then home else nth home t.attnList ((at_ + i) % t.attnList.length)

/-- Whether a row of a step counts: its session's rows have not been discarded (R203). -/
def rowLive (h : Site) (r : BatchRow) : Bool :=
  match findStep h.b h.x.step with
  | some t => !t.dead.contains r.session
  | none => true

/-- A query row of an attention instruction as work for a unit. -/
def attWork (s : State) (h : Site) (a : AttDesc) (cmd v g : Nat) (r : BatchRow) : RemoteJob × LineMark × Bool :=
  let q := getPanel s h.p
  let rq := sramRead q h.ctx (a.qa + (v * a.g + g) * (4 * a.d)) (4 * a.d)
  let rb := if a.bitmap then sramRead q h.ctx (a.ba + v * a.bStride) (r.pos / 8 + 1)
    else { bytes := [], mark := LineMark.clean, violation := false }
  ({ home := h.p, cmd := cmd, step := h.x.step, gen := h.b.gen, row := a.firstRow + v, head := g, session := r.session, pos := r.pos,
     layer := a.layer, kvHead := a.head, fmt := a.fmt, d := a.d, window := a.window, bitmap := if a.bitmap then some rb.bytes else none,
     scale := a.scale, q := words32 rq.bytes, first := 0, count := 0 },
    { rq.mark with poison := rq.mark.poison || rb.mark.poison }, rq.violation || rb.violation)

/-- The live rows of an attention instruction, each with its position in the instruction. -/
def attRows (h : Site) (a : AttDesc) (n : Nat) : List (Nat × BatchRow) :=
  ((List.range n).filterMap fun v => (h.rows[a.firstRow + v]?).map fun r => (v, r)).filter fun x => rowLive h x.2

/-- The faults of ATTN's addresses. -/
def attnAddr (h : Site) (a : AttDesc) (n : Nat) : List (Option Nat) :=
  let w := 4 * a.g * a.d
  [runFault 8 a.qa 0 1 (n * w), runFault 8 a.oa 0 1 (n * w), if a.saveLse then runFault 8 a.la 0 1 (8 * n * a.g) else none,
    faultIf (a.bitmap && (attRows h a n).any fun x => decide (sramSize < a.ba + x.1 * a.bStride + x.2.pos / 8 + 1)) 0x04]

/-- The faults of ATTN's descriptor and addresses (R138, R268, R280). -/
def attnFaults (h : Site) (a : AttDesc) (n : Nat) : List (Option Nat) :=
  attFaults h a n ++ [faultIf (homeOf h.pat a.layer a.head != h.p) 0x0B] ++ attnAddr h a n

/-- The query rows of an attention instruction: row of the instruction, query head, batch row. -/
def attnQueries (h : Site) (a : AttDesc) (n : Nat) : List (Nat × Nat × BatchRow) :=
  (attRows h a n).flatMap fun x => (List.range a.g).map fun g => (x.1, g, x.2)

/-- The runs of a query row, each with its panel: run 0 at the home panel (R147). -/
def rowRuns (h : Site) (wk : RemoteJob) (r : BatchRow) : List (Nat × RemoteJob) :=
  let nseg := r.pos / 512 + 1
  let np := h.b.cols * h.b.rows
  let sp := min r.splits np
  ((splitRuns nseg (min sp nseg)).zipIdx).map fun y => (runPanel h.pat h.p y.2, { wk with first := y.1.1, count := y.1.2 })

/-- The runs of one session leave for their panels, in the order of the runs (R269, log entry 221). -/
def sendRuns (s : State) (h : Site) (a : AttDesc) (runs : List (Nat × RemoteJob)) : State :=
  (((runs.map Prod.fst).filter fun x => x != h.p).eraseDups).foldl (fun s x =>
    let rs := (runs.filter fun y => y.1 == x).map Prod.snd
    sendLoad s h.p x 0 (rs.length * (64 + 4 * a.d)) h.x.step h.b.gen (.run rs)) s

/-- The query rows of an attention instruction by session: sessions as they come, the rows of each in ascending position and then
query head (R145). -/
def bySession (qs : List (Nat × Nat × BatchRow)) : List (List (Nat × Nat × BatchRow)) :=
  (qs.map fun x => x.2.2.session).eraseDups.map fun n =>
    sortBy (fun x y => decide (x.2.2.pos < y.2.2.pos) || (x.2.2.pos == y.2.2.pos && decide (x.2.1 < y.2.1))) (qs.filter fun x => x.2.2.session == n)

/-- One session's runs at their issue: this panel's are computed at once, the others leave; the partials of this panel's runs, and
whether a range was never written (R147, R162). -/
def sessionRuns (s : State) (h : Site) (a : AttDesc) (cx : SramCtx) (runs : List (Nat × RemoteJob)) : State × List PartMsg × Bool :=
  let loc := runSegs s h.p cx ((runs.filter fun y => y.1 == h.p).map Prod.snd)
  (sendRuns loc.s h a runs, loc.parts, loc.stat == .unwritten)

/-- The query rows of one session in an ATTN (R147, R268). -/
def attnSession (h : Site) (a : AttDesc) (cmd : Nat) (acc : State × Bool) (xs : List (Nat × Nat × BatchRow)) : State × Bool :=
  match xs with
  | [] => acc
  | x0 :: _ =>
    let go := xs.foldl (fun (b : State × List (Nat × RemoteJob)) x =>
      let wk := attWork b.1 h a cmd x.1 x.2.1 x.2.2
      (if wk.2.2 then tagFault b.1 h none else b.1, b.2 ++ rowRuns h wk.1 x.2.2)) (acc.1, [])
    let r := sessionRuns go.1 h a (h.rowCtx x0.2.2) go.2
    (foldParts r.1 h.p r.2.1, acc.2 || r.2.2)

/-- ATTN's rows are taken up and each session's query rows are worked on; the flag says that a range was never written (R162, R268). -/
def attnRun (t : State) (h : Site) (a : AttDesc) (n : Nat) : State × Bool :=
  let cmd := (getPanel t h.p).nextCmd
  let qs := attnQueries h a n
  let t1 := enterCmd t h.p h.x.slot 0x40 qs.length
  let mk (x : Nat × Nat × BatchRow) : AttRow :=
    { row := a.firstRow + x.1, head := x.2.1, session := x.2.2.session, pos := x.2.2.pos, segs := x.2.2.pos / 512 + 1, next := 0,
      m := fNegInf, l := 0, o := List.replicate a.d 0, held := [], out := a.oa + (x.1 * a.g + x.2.1) * (4 * a.d),
      lse := if a.saveLse then some (a.la + 8 * (x.1 * a.g + x.2.1)) else none, mark := (attWork t h a cmd x.1 x.2.1 x.2.2).2.1, live := false }
  let t2 := if qs.isEmpty then t1 else modPanel t1 h.p fun q =>
    { q with att := q.att ++ [{ cmd := cmd, ctx := h.x.slot, step := h.x.step, layer := a.layer, kvHead := a.head, d := a.d, rows := qs.map mk }] }
  (bySession qs).foldl (attnSession h a cmd) (t2, false)

/-- ATTN (R268): every query row of every batch row; run 0 is computed here at once, the others are sent to their panels. -/
def execAttn (p c : Nat) (s : State) : Res :=
  .next (issue s p c 0x40 fun t h w =>
    withDesc t h w attReserved fun d n =>
      match firstFault (attnFaults h (attDesc d) n) with
      | some code => .fault code
      | none => let go := attnRun t h (attDesc d) n; if go.2 then .fault 0x0C else .done go.1)

/-- REMOTE_RUN (R269): a unit serves the runs that reached it in the order in which they came, and the partials leave for the home
panel in the activation channel (R149, R315). A range that the session never wrote is a pattern fault of the home context (R162). -/
def execRemoteRun (p i : Nat) (s : State) : Res :=
  .next (match (getPanel s p).remote[i]? with
    | none => s
    | some rs =>
      if i ≠ 0 then s
      else
        let s1 := modPanel s p fun q => { q with remote := q.remote.eraseIdx i }
        match rs with
        | [] => s1
        | r :: _ =>
          let cx : SramCtx := { tenant := (getSession s r.session).tenant, pat := patTenant s r.home, row := true }
          let a := runSegs s1 p cx rs
          if a.stat = .unwritten then
            match (getPanel a.s r.home).ctxs.find? fun x => x.step == r.step with
            | some x => patternFault a.s r.home x.slot 0x0C x.pc.toNat (if r.back.isSome then 0x42 else 0x40)
            | none => a.s
          else a.parts.foldl (fun s x => sendLoad s p r.home 1 (x.bytes r.d) r.step r.gen (.part x)) a.s)

/-- PARTIAL_FOLD (R148, R149, R155): a partial that has reached its home panel is folded, or held until its turn. -/
def execPartialFold (p i : Nat) (s : State) : Res :=
  .next (match (getPanel s p).parts[i]? with
    | none => s
    | some x => takePart (modPanel s p fun q => { q with parts := q.parts.eraseIdx i }) p x)

/-! ### KVW (R152, R153, R270) -/

/-- A step remembers a page's TOKENS_VALID as it was before the step first wrote it (R153). -/
def rememberPage (s : State) (nw : Nat) (step : Word) (frame valid : Nat) : State :=
  modStep s nw step fun t => if t.kvUndo.any (fun x => x.1 == frame) then t else { t with kvUndo := t.kvUndo ++ [(frame, valid)] }

/-- The blocks of a row encoded at their places in a page. -/
def kvPut (s : State) (cx : SramCtx) (frame fmt d c part t : Nat) (es : List Encoded) (poison : Bool) : State :=
  (es.zipIdx).foldl (fun (s : State) (x : Encoded × Nat) =>
    let b := t * (d / 32) + x.2
    let at_ := kvPartAt fmt d c part + b / 8 * fmtGroup fmt
    let no := kvBlockNo d c part t x.2
    let s1 := modPage s frame fun g =>
      let keep := g.poison.filter fun y => y != no && y != no + 65536
      { g with
        mem := if isSramFrame frame then g.mem
          else memWrite (memWrite g.mem (at_ + b % 8) [BitVec.ofNat 8 x.1.scale]) (at_ + 8 + b % 8 * fmtField fmt) x.1.bytes
        poison := if poison || x.1.poison then keep ++ [no] else keep }
    if isSramFrame frame then
      modPanel s1 ((frame - 8388608) / 256) fun q =>
        let base := (frame - 8388608) % 256 * 65536 + at_
        sramWrite (sramWrite q cx (base + b % 8) [([BitVec.ofNat 8 x.1.scale], LineMark.clean)]) cx
          (base + 8 + b % 8 * fmtField fmt) [(x.1.bytes, LineMark.clean)]
    else s1) s

/-- What one row of a KVW comes to: written, left alone, absent, unwritten, or out of frames. -/
inductive KvwRow where
  | ok (s : State)
  | absent
  | unwritten
  | exhausted

/-- The page that a row of a KVW writes: the present one, or one allocated at position 0 of its range; a recomputation
allocates the dropped pages of its span and leaves written slots alone (R152, R162, R163, R168). -/
def kvwPage (s : State) (h : Site) (a : AttDesc) (r : BatchRow) : KvwRow :=
  let tpp := kvTpp a.fmt a.d
  let e := getPte s (pteKey r.session a.layer a.head (r.pos / tpp))
  if e.present then .ok s
  else if e.dropped ∧ h.kind ≠ 3 then .absent
  else if r.pos % tpp ≠ 0 then (if e.dropped then .absent else .unwritten)
  else
    match allocPage s (homeOf h.pat a.layer a.head) r.session a.layer a.head (r.pos / tpp) a.fmt (bitLen (a.d / 32) - 1) r.tenant with
    | some t => .ok t
    | none => .exhausted

/-- One row of a KVW, with a run's identity for its reports. -/
def kvwRow (s : State) (h : Site) (a : AttDesc) (v : Nat) (r : BatchRow) : State × Bool :=
  let id : RemoteJob :=
    { home := h.p, cmd := 0, step := h.x.step, gen := 0, row := a.firstRow + v, head := 0, session := r.session, pos := r.pos, layer := a.layer,
      kvHead := a.head, fmt := a.fmt, d := a.d, window := 0, bitmap := none, scale := 0, q := [], first := 0, count := 0 }
  if 131072 ≤ r.pos then (claimRow s r.session 0x10, false)
  else
    match kvwPage s h a r with
    | .absent => (kvAbsent s h.p id, false)
    | .unwritten => (s, true)
    | .exhausted => (kvExhausted s r.session, false)
    | .ok s1 =>
      let tpp := kvTpp a.fmt a.d
      let k := pteKey r.session a.layer a.head (r.pos / tpp)
      let frame := (getPte s1 k).frame
      let slot := r.pos % tpp
      let valid := (getPage s1 frame).valid
      if h.kind = 3 ∧ slot < valid then (s1, false)
      else
        let rk := readSram s1 h none (a.qa + v * (4 * a.d)) (4 * a.d)
        let rv := readSram rk.1 h none (a.oa + v * (4 * a.d)) (4 * a.d)
        let ek := (chunksOf 32 a.d (words32 rk.2.bytes)).map (encodeBlock a.fmt)
        let ev := (chunksOf 32 a.d (words32 rv.2.bytes)).map (encodeBlock a.fmt)
        let s2 := ((ek ++ ev).filter fun e => e.poison).foldl (fun s _ => raiseEvent s (.att h.p) 16 (attIds id)) rv.1
        let s2 := modBolt s2 h.nw fun b => { b with tpp := tpp }
        let s3 := touchFrame (translate (rememberPage s2 h.nw h.x.step frame valid) h.p k) frame
        let s4 := kvPut s3 (h.rowCtx r) frame a.fmt a.d (slot / 32) 0 (slot % 32) ek rk.2.mark.poison
        let s5 := kvPut s4 (h.rowCtx r) frame a.fmt a.d (slot / 32) 1 (slot % 32) ev rv.2.mark.poison
        (modHeader s5 frame fun g =>
          { g with
            valid := if g.valid < slot + 1 then slot + 1 else g.valid
            writeStep := h.x.step }, false)

/-- The faults of KVW's descriptor and addresses (R138, R270, R280). -/
def kvwFaults (h : Site) (a : AttDesc) (n : Nat) : List (Option Nat) :=
  attFaults h a n ++ [runFault 8 a.qa 0 1 (n * (4 * a.d)), runFault 8 a.oa 0 1 (n * (4 * a.d))]

/-- KVW's rows are written in order; the flag says that a range was never written (R152, R162, R270). -/
def kvwRun (t : State) (h : Site) (a : AttDesc) (n : Nat) : State × Bool :=
  (attRows h a n).foldl (fun (acc : State × Bool) x => if acc.2 then acc else kvwRow acc.1 h a x.1 x.2)
    (enterCmd t h.p h.x.slot 0x41 0, false)

/-- KVW (R270). -/
def execKvw (p c : Nat) (s : State) : Res :=
  .next (issue s p c 0x41 fun t h w =>
    withDesc t h w attReserved fun d n =>
      match firstFault (kvwFaults h (attDesc d) n) with
      | some code => .fault code
      | none => let go := kvwRun t h (attDesc d) n; if go.2 then .fault 0x0C else .done go.1)

/-! ### ATTB (R155, R270) -/

/-- The inputs of a query row's backward pass: its work, and the row that waits at home. A masked row has no work (R155). -/
def backWork (s : State) (h : Site) (a : AttDesc) (cmd v g : Nat) (r : BatchRow) : State × Option RemoteJob × BackRow :=
  let i := v * a.g + g
  let wk := attWork s h a cmd v g r
  let s0 := if wk.2.2 then tagFault s h none else s
  let ro := readSram s0 h none (a.oa + i * (4 * a.d)) (4 * a.d)
  let rd := readSram ro.1 h none (a.dout + i * (4 * a.d)) (4 * a.d)
  let rl := readSram rd.1 h none (a.la + 8 * i) 8
  let dout := words32 rd.2.bytes
  let masked := bytesNat rl.2.bytes 4 4 % 2 ^ 31 != 0
  (rl.1,
    if masked then none
    else some { wk.1 with back := some { dout := dout, lse := BitVec.ofNat 32 (bytesNat rl.2.bytes 0 4), dd := fDot dout (words32 ro.2.bytes) } },
    { row := a.firstRow + v, head := g, session := r.session, segs := if masked then 0 else r.pos / 512 + 1, next := 0,
      dq := List.replicate a.d 0, held := [], out := a.dq + i * (4 * a.d), mark := wk.2.1.or (ro.2.mark.or (rd.2.mark.or rl.2.mark)) })

/-- ATTB's rows: ascending query position. -/
def attbRows (h : Site) (a : AttDesc) (n : Nat) : List (Nat × BatchRow) :=
  sortBy (fun (x y : Nat × BatchRow) => x.2.pos < y.2.pos) (attRows h a n)

/-- The faults of ATTB's place, descriptor and addresses (R138, R155, R270, R280). -/
def attbFaults (h : Site) (a : AttDesc) (n : Nat) : List (Option Nat) :=
  let wb := n * (4 * a.g * a.d)
  let top := (attbRows h a n).foldl (fun m x => if m < x.2.pos + 1 then x.2.pos + 1 else m) 0
  [faultIf (h.kind != 2) 0x10] ++ attFaults h a n ++ attnAddr h { a with saveLse := true } n
    ++ [runFault 8 a.dout 0 1 wb, runFault 8 a.dq 0 1 wb, runFault 8 a.dk 0 1 (top * (4 * a.d)), runFault 8 a.dv 0 1 (top * (4 * a.d))]

/-- The query rows of one session in an ATTB: the runs of R147, as in the forward pass. -/
def attbSession (h : Site) (a : AttDesc) (acc : State × Bool) (xs : List (BatchRow × RemoteJob)) : State × Bool :=
  match xs with
  | [] => acc
  | x0 :: _ =>
    let r := sessionRuns acc.1 h a (h.rowCtx x0.1) (xs.flatMap fun x => rowRuns h x.2 x.1)
    (r.2.1.foldl (fun s x => takePart s h.p x) r.1, acc.2 || r.2.2)

/-- ATTB's query rows, taken up in ascending position and then head; the flag says that a range was never written (R155, R162,
R270). What their segments give is added in that order, whichever panel formed it. -/
def attbRun (t : State) (h : Site) (a : AttDesc) (n : Nat) : State × Bool :=
  let cmd := (getPanel t h.p).nextCmd
  let qs := (attbRows h a n).flatMap fun x => (List.range a.g).map fun g => (x.1, g, x.2)
  let t1 := enterCmd t h.p h.x.slot 0x42 qs.length
  let go := qs.foldl (fun (b : State × List (BatchRow × RemoteJob) × List BackRow) x =>
    let w := backWork b.1 h a cmd x.1 x.2.1 x.2.2
    (w.1, (match w.2.1 with | some r => b.2.1 ++ [(x.2.2, r)] | none => b.2.1), b.2.2 ++ [w.2.2])) (t1, [], [])
  let t2 := if qs.isEmpty then go.1 else modPanel go.1 h.p fun q =>
    { q with attb := q.attb ++ [{ cmd := cmd, ctx := h.x.slot, step := h.x.step, d := a.d, dk := a.dk, dv := a.dv, rows := go.2.2 }] }
  let ss := (go.2.1.map fun x => x.1.session).eraseDups.map fun n => go.2.1.filter fun x => x.1.session == n
  let r := ss.foldl (attbSession h a) (t2, false)
  (drainBack r.1 h.p cmd (qs.length + 1), r.2)

/-- ATTB (R270): rows in ascending query position, then head. -/
def execAttb (p c : Nat) (s : State) : Res :=
  .next (issue s p c 0x42 fun t h w =>
    withDesc t h w attReserved fun d n =>
      match firstFault (attbFaults h (attDesc d) n) with
      | some code => .fault code
      | none => let go := attbRun t h (attDesc d) n; if go.2 then .fault 0x0C else .done go.1)

end Sys2Proof.Machine
end

