-- ==== Sys2Proof/Machine/Hash.lean ====
section
/-! DEFINITION. The fixed functions over bytes that the spec names by their standards: SHA-512 (R391 to R403), HKDF (R398), the
CRC-64/ECMA-182 of the prefix tree (R170) and Philox4x32-10 (R196). -/

namespace Sys2Proof.Machine

/-! ### SHA-512 -/

/-- Round constants 0 to 19 of SHA-512. -/
def shaK0 : List Word :=
  [0x428A2F98D728AE22, 0x7137449123EF65CD, 0xB5C0FBCFEC4D3B2F, 0xE9B5DBA58189DBBC,
   0x3956C25BF348B538, 0x59F111F1B605D019, 0x923F82A4AF194F9B, 0xAB1C5ED5DA6D8118,
   0xD807AA98A3030242, 0x12835B0145706FBE, 0x243185BE4EE4B28C, 0x550C7DC3D5FFB4E2,
   0x72BE5D74F27B896F, 0x80DEB1FE3B1696B1, 0x9BDC06A725C71235, 0xC19BF174CF692694,
   0xE49B69C19EF14AD2, 0xEFBE4786384F25E3, 0x0FC19DC68B8CD5B5, 0x240CA1CC77AC9C65]

/-- Round constants 20 to 39 of SHA-512. -/
def shaK1 : List Word :=
  [0x2DE92C6F592B0275, 0x4A7484AA6EA6E483, 0x5CB0A9DCBD41FBD4, 0x76F988DA831153B5,
   0x983E5152EE66DFAB, 0xA831C66D2DB43210, 0xB00327C898FB213F, 0xBF597FC7BEEF0EE4,
   0xC6E00BF33DA88FC2, 0xD5A79147930AA725, 0x06CA6351E003826F, 0x142929670A0E6E70,
   0x27B70A8546D22FFC, 0x2E1B21385C26C926, 0x4D2C6DFC5AC42AED, 0x53380D139D95B3DF,
   0x650A73548BAF63DE, 0x766A0ABB3C77B2A8, 0x81C2C92E47EDAEE6, 0x92722C851482353B]

/-- Round constants 40 to 59 of SHA-512. -/
def shaK2 : List Word :=
  [0xA2BFE8A14CF10364, 0xA81A664BBC423001, 0xC24B8B70D0F89791, 0xC76C51A30654BE30,
   0xD192E819D6EF5218, 0xD69906245565A910, 0xF40E35855771202A, 0x106AA07032BBD1B8,
   0x19A4C116B8D2D0C8, 0x1E376C085141AB53, 0x2748774CDF8EEB99, 0x34B0BCB5E19B48A8,
   0x391C0CB3C5C95A63, 0x4ED8AA4AE3418ACB, 0x5B9CCA4F7763E373, 0x682E6FF3D6B2B8A3,
   0x748F82EE5DEFB2FC, 0x78A5636F43172F60, 0x84C87814A1F0AB72, 0x8CC702081A6439EC]

/-- Round constants 60 to 79 of SHA-512. -/
def shaK3 : List Word :=
  [0x90BEFFFA23631E28, 0xA4506CEBDE82BDE9, 0xBEF9A3F7B2C67915, 0xC67178F2E372532B,
   0xCA273ECEEA26619C, 0xD186B8C721C0C207, 0xEADA7DD6CDE0EB1E, 0xF57D4F7FEE6ED178,
   0x06F067AA72176FBA, 0x0A637DC5A2C898A6, 0x113F9804BEF90DAE, 0x1B710B35131C471B,
   0x28DB77F523047D84, 0x32CAAB7B40C72493, 0x3C9EBE0A15C9BEBC, 0x431D67C49C100D4C,
   0x4CC5D4BECB3E42B6, 0x597F299CFC657E2A, 0x5FCB6FAB3AD6FAEC, 0x6C44198C4A475817]

/-- The round constants of SHA-512. -/
def shaK : List Word := shaK0 ++ shaK1 ++ shaK2 ++ shaK3

/-- The initial hash value of SHA-512. -/
def shaH : List Word :=
  [0x6A09E667F3BCC908, 0xBB67AE8584CAA73B, 0x3C6EF372FE94F82B, 0xA54FF53A5F1D36F1,
   0x510E527FADE682D1, 0x9B05688C2B3E6C1F, 0x1F83D9ABFB41BD6B, 0x5BE0CD19137E2179]

/-- The message schedule continued: `w` holds the last sixteen words, newest first, and `acc` all so far, newest first. -/
def shaSched : Nat → List Word → List Word
  | 0, acc => acc
  | n + 1, acc =>
    let g (i : Nat) : Word := nth 0 acc i
    let x := g 14
    let y := g 1
    let s0 := x.rotateRight 1 ^^^ x.rotateRight 8 ^^^ (x >>> 7)
    let s1 := y.rotateRight 19 ^^^ y.rotateRight 61 ^^^ (y >>> 6)
    shaSched n ((g 15 + s0 + g 6 + s1) :: acc)

/-- One round of SHA-512 on the eight working words. -/
def shaRound (h : List Word) (kw : Word × Word) : List Word :=
  match h with
  | [a, b, c, d, e, f, g, hh] =>
    let s1 := e.rotateRight 14 ^^^ e.rotateRight 18 ^^^ e.rotateRight 41
    let ch := (e &&& f) ^^^ (~~~e &&& g)
    let t1 := hh + s1 + ch + kw.1 + kw.2
    let s0 := a.rotateRight 28 ^^^ a.rotateRight 34 ^^^ a.rotateRight 39
    let mj := (a &&& b) ^^^ (a &&& c) ^^^ (b &&& c)
    [t1 + (s0 + mj), a, b, c, d + t1, e, f, g]
  | _ => h

/-- One block of 128 bytes. -/
def shaBlock (h : List Word) (bs : List Byte) : List Word :=
  let w := ((chunksOf 8 16 bs).map fun x => BitVec.ofNat 64 (beNat x)).reverse
  let ws := (shaSched 64 w).reverse
  zipW (fun a b => a + b) h ((zipW Prod.mk shaK ws).foldl shaRound h)

/-- The message padded to whole blocks. -/
def shaPad (bs : List Byte) : List Byte :=
  let n := bs.length
  bs ++ [0x80] ++ List.replicate ((239 - n % 128) % 128) 0 ++ natBe 16 (8 * n)

/-- SHA-512 of bytes. -/
def sha512 (bs : List Byte) : BitVec 512 :=
  let p := shaPad bs
  let h := (chunksOf 128 p.length p).foldl shaBlock shaH
  BitVec.ofNat 512 (h.foldl (fun a w => a * 2 ^ 64 + w.toNat) 0)

/-! ### HMAC and HKDF with SHA-512 (R398, R477): RFC 2104 and RFC 5869 -/

/-- SHA-512 as its 64 bytes. -/
def sha512Bytes (bs : List Byte) : List Byte := natBe 64 (sha512 bs).toNat

/-- HMAC-SHA-512: a key longer than a block of 128 bytes enters as its digest. -/
def hmacSha512 (key msg : List Byte) : List Byte :=
  let k := if 128 < key.length then sha512Bytes key else key
  let k0 := k ++ List.replicate (128 - k.length) 0
  sha512Bytes ((k0.map fun b => b ^^^ 0x5C) ++ sha512Bytes ((k0.map fun b => b ^^^ 0x36) ++ msg))

/-- The blocks T(i), T(i + 1), … of HKDF's expansion after the block `prev`, `n` of them. -/
def hkdfBlocks (prk info : List Byte) : Nat → Nat → List Byte → List Byte
  | 0, _, _ => []
  | n + 1, i, prev =>
    let t := hmacSha512 prk (prev ++ info ++ [BitVec.ofNat 8 i])
    t ++ hkdfBlocks prk info n (i + 1) t

/-- HKDF with SHA-512: extraction under the salt, then expansion to `len` bytes. An empty salt is 64 zero bytes. -/
def hkdfSha512 (salt ikm info : List Byte) (len : Nat) : List Byte :=
  let s := if salt.isEmpty then List.replicate 64 0 else salt
  (hkdfBlocks (hmacSha512 s ikm) info ((len + 63) / 64) 1 []).take len

/-! ### CRC-64/ECMA-182 (R170) -/

/-- One bit of the division. -/
def crcBit (c : Word) : Word := if c.getLsbD 63 then (c <<< 1) ^^^ 0x42F0E1EBA9EA3693 else c <<< 1

/-- One byte, most significant bit first. -/
def crcByte (c : Word) (b : Byte) : Word :=
  (List.range 8).foldl (fun c _ => crcBit c) (c ^^^ (BitVec.ofNat 64 b.toNat <<< 56))

/-- The CRC of bytes, from zero, with no final change. -/
def crc64 (bs : List Byte) : Word := bs.foldl crcByte 0

/-! ### Philox4x32-10 (R196) -/

/-- One round on a counter of four words under a key of two. -/
def philoxRound (c : Nat × Nat × Nat × Nat) (k : Nat × Nat) : Nat × Nat × Nat × Nat :=
  let p0 := 0xD2511F53 * c.1
  let p1 := 0xCD9E8D57 * c.2.2.1
  ((p1 / 2 ^ 32) ^^^ c.2.1 ^^^ k.1, p1 % 2 ^ 32, (p0 / 2 ^ 32) ^^^ c.2.2.2 ^^^ k.2, p0 % 2 ^ 32)

/-- n rounds, the key raised after each. -/
def philoxRounds : Nat → Nat × Nat × Nat × Nat → Nat × Nat → Nat × Nat × Nat × Nat
  | 0, c, _ => c
  | n + 1, c, k => philoxRounds n (philoxRound c k) ((k.1 + 0x9E3779B9) % 2 ^ 32, (k.2 + 0xBB67AE85) % 2 ^ 32)

/-- The four output words for a counter and a 64-bit key. -/
def philox (key : Word) (c : Nat × Nat × Nat × Nat) : Nat × Nat × Nat × Nat :=
  philoxRounds 10 c (key.toNat % 2 ^ 32, key.toNat / 2 ^ 32)

end Sys2Proof.Machine
end

