-- ==== Sys2Proof/Machine/Commit.lean ====
section
/-! DEFINITION. What the loader and Jobel's checker assignment do in the background: a commit from its first request to
RESIDENT (R213 steps 7 to 9, R216, R217, R222), the end of an unload (R411), checker arrays (R360 to R362), and the
admission of programming requests (R70). -/

namespace Sys2Proof.Machine

/-! ### Phases and keys (R234, R403, R406) -/

/-- Whether a session is open on a bolt (R213, R286, R411). -/
def sessionsOn (s : State) (nw : Nat) : Bool := s.sessions.any fun kv => kv.2.st != .free && kv.2.bolt == nw

/-- A bolt's phase changes, and its measurement's change count with it (R403). -/
def setPhase (b : Bolt) (ph : Nat) : Bolt := if b.phase = ph then b else { b with phase := ph, changes := b.changes + 1 }

/-- The data keys bound to a bolt are erased, and its grants lapse (R406, R407). -/
def eraseBoltKeys (s : State) (nw : Nat) : State :=
  { s with sec := { s.sec with
    dataKeys := s.sec.dataKeys.filter fun k => k.bolt != nw
    grants := s.sec.grants.filter fun g => g.1 != nw } }

/-- The phase that a bolt falls back to when a load leaves it: RESIDENT, or the one that it had before the load. -/
def restPhase (b : Bolt) (l : Load) : Nat := if b.weights.isSome then 4 else l.rest

/-! ### The load's parts (R207, R213, R218) -/

/-- IMAGE_NONCE of a header. -/
def headerNonce (h : List Byte) : Word := BitVec.ofNat 64 (bytesNat h 0x18 8)

/-- PATTERN of a header. -/
def headerPattern (h : List Byte) : Nat := bytesNat h 0x10 4

/-- The SHA-512 digest of R213 step 4: the plaintext of every chunk after the directory, in ascending index. -/
def loadDigest (l : Load) : BitVec 512 :=
  let cs := sortBy (fun (x y : Chunk) => decide (x.idx < y.idx)) (l.chunks.filter fun c => decide (l.dirChunks ≤ c.idx))
  sha512 (cs.flatMap fun c => c.bytes)


/-- The physical arrays of a bolt's panels that hold levels, in whatever state, or are being programmed. -/
def heldArrays (s : State) (nw : Nat) (b : Bolt) : List ArrId :=
  let pps := (boltPanels nw b).map (physPanel s)
  (s.arrays.arrs.filter fun kv => pps.contains (kv.1 / 34 / 25) && (kv.2.st == .programmed || kv.2.st == .programming || kv.2.st == .unusable || !kv.2.image.isEmpty)).map
    fun kv => arrOfKey kv.1

/-- Requests of a bolt that wait for admission are withdrawn, zeroisations apart; arrays that were being programmed for it stop
where they stand and are unusable. -/
def dropRequests (s : State) (nw : Nat) : State :=
  let hit (x : Arr) : Bool := x.st == .programming && (match x.req with | some r => r.kind != .zeroise && r.bolt == nw | none => false)
  { s with arrays := { s.arrays with
    waiting := s.arrays.waiting.filter fun r => r.kind == .zeroise || r.bolt != nw
    arrs := s.arrays.arrs.map fun kv =>
      if hit kv.2 then
        (kv.1, { kv.2 with
          st := .unusable
          req := none
          holder := match kv.2.req with | some r => reqTenant s r | none => none })
      else kv } }


/-! ### Checker arrays (R360 to R362) -/

/-- The panel of a bolt, by relative index, behind a physical panel. -/
def relOfPhys (s : State) (nw : Nat) (b : Bolt) (pp : Nat) : Option Nat :=
  (List.range (b.cols * b.rows)).find? fun r => physPanel s (relPanel nw b r) == pp

/-- The physical arrays that may hold a checker copy (R360): gussets and arrays that serve no position, spare-tile arrays and
logical arrays without a placed block; none that is programming, zeroising, retired, failed or a repair's. -/
def checkerArrays (s : State) (nw : Nat) (b : Bolt) : List ArrId :=
  (List.range (b.cols * b.rows)).flatMap fun rel =>
    let pp := physPanel s (relPanel nw b rel)
    (List.range 25).flatMap fun pt =>
      if s.start.area.failedTiles.contains (pp, pt) then []
      else
        let lt := logTile s pp pt
        ((List.range 34).map fun i => ({ pp := pp, tile := pt, arr := i } : ArrId)).filter fun a =>
          let st := (getArr s a).st
          let serves := match lt with
            | none => false
            | some t => (List.range 32).any fun x =>
                (physArr s (relPanel nw b rel) t x) == a &&
                  ((placeAt b rel t x).isSome || s.arrays.failedPos.contains (posKey (relPanel nw b rel) t x))
          !serves && (st == .zeroised || st == .programmed) && !(s.arrays.waiting.any fun r => r.kind != .checker && r.target == a)
            && !(s.ras.repairs.any fun x => match x.1 with
              | .array p t _ => physPanel s p == pp && physTile s pp t == pt && x.2 == a.arr
              | .tile p _ => physPanel s p == pp && pt == x.2
              | .panel _ => x.2 == pp)

/-- Whether a placed block is eligible for a checker array: of another panel, or of another tile in a one-panel bolt. -/
def eligible (s : State) (nw : Nat) (b : Bolt) (a : ArrId) (x : Place) : Bool :=
  if b.cols * b.rows = 1 then (physArr s (relPanel nw b x.panel) x.tile x.arr).tile != a.tile
  else relOfPhys s nw b a.pp != some x.panel

/-- One uniform choice from a list, with the draws so far. -/
def pickOne {α : Type} (ctr : Nat) (xs : List α) : Option α :=
  if xs.isEmpty then none else xs[(Config.random64 ctr).toNat % xs.length]?

/-- An assignment that gives each checker array a block that no other holds. -/
def assignArrays (s : State) (nw : Nat) (b : Bolt) : List ArrId → Nat → List Place → List Checker
  | [], _, _ => []
  | a :: rest, ctr, left =>
    match pickOne ctr (left.filter fun x => eligible s nw b a x) with
    | some x => { arr := a, panel := x.panel, number := x.number, ready := false } :: assignArrays s nw b rest (ctr + 1) (left.erase x)
    | none => assignArrays s nw b rest (ctr + 1) left

/-- An assignment that gives each block to one checker array, when there are more arrays than blocks. -/
def assignBlocks (s : State) (nw : Nat) (b : Bolt) : List Place → Nat → List ArrId → List Checker
  | [], _, _ => []
  | x :: rest, ctr, left =>
    match pickOne ctr (left.filter fun a => eligible s nw b a x) with
    | some a => { arr := a, panel := x.panel, number := x.number, ready := false } :: assignBlocks s nw b rest (ctr + 1) (left.erase a)
    | none => assignBlocks s nw b rest (ctr + 1) left

/-- Jobel draws a new assignment of a bolt's checker arrays (R361). -/
def rotateCheckers (s : State) (nw : Nat) : State :=
  match getBolt s nw with
  | none => s
  | some b =>
    let s0 := { s with arrays := { s.arrays with waiting := s.arrays.waiting.filter fun r => !(r.kind == .checker && r.bolt == nw) } }
    let arrs := checkerArrays s0 nw b
    let blocks := b.place.filter fun x => arrs.any fun a => eligible s0 nw b a x
    let cs := if arrs.length < blocks.length then assignArrays s0 nw b arrs s.freeCtr b.place
      else assignBlocks s0 nw b blocks s.freeCtr arrs
    modBolt { s0 with freeCtr := s0.freeCtr + arrs.length + blocks.length } nw fun b =>
      { b with checkers := cs, lastRotate := s.now, rotateSec := field (dieReg s 0x500) 27 16 }

/-- Checker copies that wait for their programming are asked for, eight at a time (R362). -/
def feedCheckers (s : State) (nw : Nat) : State :=
  match getBolt s nw with
  | none => s
  | some b =>
    (b.checkers.filter fun c => !c.ready && (getArr s c.arr).st != .programming).foldl (fun s c =>
      match placeOf b c.panel c.number with
      | none => s
      | some x =>
        if 8 ≤ (s.arrays.waiting.filter fun r => r.kind == .checker).length ∨ (s.arrays.waiting.any fun r => r.target == c.arr) = true then s
        else requestProg s { placeReq s nw b .checker x with target := c.arr }) s

/-! ### A commit (R213 steps 7 to 9) -/

/-- The requests of a commit under R222: at most MAX_ARRAYS of the loader's wait for admission. A unit under repair has had its
requests from the repair. -/
def feedLoad (s : State) (nw : Nat) (b : Bolt) (l : Load) : State :=
  b.place.foldl (fun s x =>
    let r := placeReq s nw b .load x
    let st := (getArr s r.target).st
    if progLimit s / 2 ≤ (s.arrays.waiting.filter fun q => q.kind == .load).length then s
    else if r.kind == .repair || !l.waitArrays.contains r.target || st == .programming || st == .retired
        || s.arrays.failedPos.contains (posKey (relPanel nw b x.panel) x.tile x.arr)
        || (s.arrays.waiting.any fun q => q.kind == .load && q.target == r.target) then s
    else requestProg s r) s

/-- Whether an array holds the levels of a weight block of a bolt's repair copy, in its mode. -/
def holdsBlock (s : State) (b : Bolt) (a : ArrId) (x : Place) : Bool :=
  let y := getArr s a
  y.st == .programmed && y.exact == x.exact && blockLevels b x.panel x.number == some y.image

/-- The blocks that arrays are known to hold, at a commit: none of an earlier image of the bolt, and with `keep` those whose levels
stay. -/
def resetSources (s : State) (nw : Nat) (b : Bolt) (keep : Bool) : State :=
  let held := heldArrays s nw b
  let s1 := { s with arrays := { s.arrays with arrs := s.arrays.arrs.foldl (fun m kv => mapMod Arr.start m kv.1 fun x =>
    if x.src.map Prod.fst = some nw then { x with src := none } else x) s.arrays.arrs } }
  if keep then held.foldl (fun s a => modArr s a fun x => { x with src := (b.place.find? fun y => holdsBlock s b a y).map fun y => (nw, y.panel, y.number) }) s1
  else s1

/-- Step 7: the old repair copy goes, the retained record is written, and programming begins. `keep` says that the image is that of
the retained record (R226): an array of the placement that holds its block needs no programming then, and a copy of a block
elsewhere stays. Blocks whose unit is under repair go to the spare. -/
def beginCommit (s : State) (nw : Nat) (b : Bolt) (l : Load) (keep : Bool) : State :=
  let b1 := { setPhase b 3 with
    tenant := l.tenant
    weights := none
    digest := 0
    copy := l.chunks
    dir := l.dir
    place := l.place
    tier := l.tier
    copyFrames := l.frames
    nonce := headerNonce l.header
    arraysDone := 0
    checkers := [] }
  let s1 := setBolt (dropRequests s nw) nw (some b1)
  let s2 := resetSources { s1 with ras := { s1.ras with lostChunks := s1.ras.lostChunks.filter fun x => x.1 != nw } } nw b1 keep
  let reqs := l.place.map fun x => (placeReq s2 nw b1 .load x, x)
  let targets := reqs.map fun x => x.1.target
  let rest := (heldArrays s2 nw b1).filter fun a => !targets.contains a && !(keep && l.place.any fun x => holdsBlock s2 b1 a x)
  let todo := reqs.filter fun x => !(keep && holdsBlock s2 b1 x.1.target x.2)
  let s3 := ownPanels (eraseBoltKeys s2 nw) (boltPanels nw b) b.port nw l.tenant
  let s4 := modSec s3 fun a =>
    { a with records := (a.records.filter fun r => r.bolt != nw) ++
        [{ bolt := nw, cols := b.cols, rows := b.rows, port := b.port, tenant := l.tenant, pattern := headerPattern l.header,
           nonce := headerNonce l.header, place := l.place.map fun x => (x.panel, x.number, x.exact, x.tile, x.arr),
           digest := loadDigest l }] }
  let s5 := (todo.filter fun x => x.1.kind == .repair).foldl (fun s x => requestProg s x.1) (rest.foldl queueZero s4)
  let l1 := { l with waitArrays := todo.map fun x => x.1.target, committing := true }
  feedLoad (modBolt s5 nw fun b => { b with load := some l1, zeroWait := rest }) nw b1 l1

/-- The job that a load in its present part answers to. -/
def loadJob (l : Load) : Nat := l.commitJob.getD l.job

/-- Step 9: the bolt is RESIDENT. -/
def finishLoad (s : State) (nw : Nat) (b : Bolt) (l : Load) : State :=
  let b1 := { setPhase b 4 with
    weights := some (headerPattern l.header)
    digest := loadDigest l
    load := none }
  let s1 := raiseEvent (setBolt s nw (some b1)) .die 44 [(6, nw), (32, 0)]
  feedCheckers (rotateCheckers (closeJobId s1 (loadJob l) 0 0) nw) nw

/-- A load ends without success: its frames are free, its job has its status, and LOAD_FAIL is raised unless the end is a
supersession or a cancel (R235). -/
def failLoad (s : State) (nw : Nat) (b : Bolt) (l : Load) (status chunk : Nat) : State :=
  let b1 := if b.phase = 3 then { setPhase b 6 with load := none } else setPhase { b with load := none } (restPhase b l)
  let s1 := setBolt (if b.phase = 3 then dropRequests s nw else s) nw (some b1)
  let s2 := if status = 0x32 ∨ status = 1 then s1 else raiseEvent s1 .die 45 [(6, nw), (32, chunk)]
  closeJobId s2 (loadJob l) status chunk

/-- Whether a position that the placement uses has FAILED (R216). -/
def placeFailed (s : State) (nw : Nat) (b : Bolt) : Bool :=
  b.place.any fun x => s.arrays.failedPos.contains (posKey (relPanel nw b x.panel) x.tile x.arr)

/-- Whether a load has lost the job it answers to, before its commit began. -/
def loadOrphan (s : State) (b : Bolt) (l : Load) : Bool :=
  b.phase != 3 && (!l.staged || l.committing) && (getJob s (loadJob l)).isNone

/-- An unload ends once its last array is ZEROISED (R411). -/
def finishUnload (s : State) (nw : Nat) (b : Bolt) : State :=
  match b.unloadJob with
  | none => s
  | some j =>
    if b.zeroWait.isEmpty then
      closeJobId (ownPanels (setBolt s nw (some { setPhase b 0 with unloadJob := none, tenant := 0 })) (boltPanels nw b) b.port nw 0) j 0 0
    else s

/-- The loader's next move for one bolt: a commit that waits for its last session, requests under R222, the end of a commit or of
an unload. -/
def pumpBolt (s : State) (nw : Nat) : State :=
  match getBolt s nw with
  | none => s
  | some b =>
    match b.load with
    | none => finishUnload s nw b
    | some l =>
      if loadOrphan s b l then failLoad s nw b l 0x1F 0
      else if b.phase = 3 then
        if placeFailed s nw b then failLoad s nw b l 0x33 0
        else if l.waitArrays.isEmpty && b.zeroWait.isEmpty then finishLoad s nw b l
        else feedLoad s nw b l
      else if l.staged && l.committing && !sessionsOn s nw then
        let s1 := beginCommit s nw b l false
        match getBolt s1 nw with
        | some b1 =>
          (match b1.load with
            | some l1 => if l1.waitArrays.isEmpty && b1.zeroWait.isEmpty then finishLoad s1 nw b1 l1 else s1
            | none => s1)
        | none => s1
      else s

/-- The loader's next moves for every bolt, and the checker copies that wait. -/
def pumpLoads (s : State) : State :=
  (boltList s).foldl (fun s x => feedCheckers (pumpBolt s x.1) x.1) s

/-- An array that a commit or an unload waited for is done. -/
def arrayDone (s : State) (a : ArrId) (accepted : Bool) : State :=
  { s with bolts := s.bolts.foldl (fun m kv => mapMod none m kv.1 fun o => o.map fun b =>
      { b with
        zeroWait := b.zeroWait.filter fun x => x != a
        arraysDone := if accepted && (match b.load with | some l => l.waitArrays.contains a | none => false) then b.arraysDone + 1 else b.arraysDone
        load := b.load.map fun l => { l with waitArrays := l.waitArrays.filter fun x => x != a } }) s.bolts }

/-- PROG_ADMIT (R70): the next request in the order of admission; the loader and Jobel refill what they keep waiting (R222,
R362). A management-only restart holds admission back (R488). -/
def execProgAdmit (s : State) : Res := .next (if s.start.restarting || !s.power.compute then s else pumpLoads (admitNext s))

end Sys2Proof.Machine
end

