-- ==== Sys2Proof/Machine/Admit.lean ====
section
/-! DEFINITION. The admission of a submission entry (R440, R447, R492): which function may submit a command, and the answers
OPCODE_INVALID, NOT_OWNER and ENTRY_INVALID that come before the command itself. -/

namespace Sys2Proof.Machine

/-- The opcodes of R440. -/
def opcodes : List Nat :=
  [0x01, 0x02, 0x03, 0x04, 0x05, 0x06, 0x08, 0x09, 0x0A, 0x0B, 0x0C, 0x0D, 0x0E, 0x10, 0x11, 0x12, 0x13, 0x14, 0x18, 0x19, 0x1A,
    0x20, 0x21, 0x22, 0x23, 0x24, 0x28, 0x30, 0x31, 0x32]

/-- The commands that limp mode accepts: SIG_READ, FW_LOAD, SELF_TEST, BB_READ (R492). -/
def limpOpcode (op : Nat) : Bool := op == 0x28 || op == 0x30 || op == 0x31 || op == 0x32

/-- The commands that wait for Jobel during a management-only restart (R488). -/
def jobelOpcode (op : Nat) : Bool :=
  [0x01, 0x02, 0x10, 0x11, 0x12, 0x13, 0x14, 0x18, 0x19, 0x1A, 0x20, 0x21, 0x22, 0x23, 0x24, 0x28, 0x30, 0x31, 0x32].contains op

/-- A PF of either port. -/
def fromPf (_ : State) (d : Dispatched) : Bool := d.fn == 0

/-- A VF whose assigned tenant is a tenant (R440, R452). -/
def fromVf (s : State) (d : Dispatched) (t : Nat) : Bool := d.fn != 0 && decide ((getVf s d.port d.fn).tenant = some t)

/-- The PF of the port that owns the bolt named. -/
def fromOwner (s : State) (d : Dispatched) : Bool :=
  d.fn == 0 && (match getBolt s d.entry.bolt with | some b => b.port == d.port | none => false)

/-- The owner, or a VF of the owning port within its tenant (R447). -/
def fromOwnerVf (s : State) (d : Dispatched) : Bool :=
  (d.fn == 0 || fromVf s d d.entry.tenant) && (match getBolt s d.entry.bolt with | some b => b.port == d.port | none => false)

/-- The owner of a session, or a VF within the session's tenant. A FREE session has no owner: the command itself answers. -/
def fromSession (s : State) (d : Dispatched) : Bool :=
  let e := getSession s d.entry.session
  if e.st = .free then d.fn == 0 || fromVf s d d.entry.tenant
  else e.port == d.port && (d.fn == 0 || fromVf s d e.tenant)

/-- A PF, or a VF within its tenant. -/
def fromPfVf (s : State) (d : Dispatched) : Bool := d.fn == 0 || fromVf s d d.entry.tenant

/-- SESSION_REFUSED with its tenant, where the entry is an open (R182, R206). -/
def refusedOpen (s : State) (d : Dispatched) : State :=
  if d.entry.opcode = 0x08 then raiseEvent s .die 42 [(12, d.entry.tenant)] else s

/-- A fetched entry runs as one command: nothing happens for a number that names no such entry, or while a management-only restart
keeps Jobel from it; limp mode and functions that the table does not admit are answered first. Every refused open raises SESSION_REFUSED
(R182). -/
def command (s : State) (id op : Nat) (may : State → Dispatched → Bool) (act : State → Dispatched → State) : State :=
  match s.dispatched.find? fun d => d.id == id with
  | none => s
  | some d =>
    if d.entry.opcode ≠ op ∨ (s.start.restarting = true ∧ jobelOpcode op = true) then s
    else if s.start.limp ≠ 0 ∧ limpOpcode op = false then finishEntry (refusedOpen s d) d 0x21 0
    else if !may s d then finishEntry (refusedOpen s d) d 0x22 0
    else act s d

/-- ARG0 of an entry, bits [hi:lo]. -/
def arg0 (d : Dispatched) (hi lo : Nat) : Nat := field d.entry.arg0 hi lo

/-- ARG1 of an entry, bits [hi:lo]. -/
def arg1 (d : Dispatched) (hi lo : Nat) : Nat := field d.entry.arg1 hi lo

end Sys2Proof.Machine
end

