-- ==== Sys2Proof/Machine/Patterns.lean ====
section
/-! DEFINITION. The pattern image (R286 to R302, R530): its header, panel table, attention table, shadow table, stitch plan
and relocations, each read and checked as the loader does, and the installation of a pattern that passes. -/

namespace Sys2Proof.Machine

/-- Bits [hi:lo] of a number. -/
def nbits (w hi lo : Nat) : Nat := w / 2 ^ lo % 2 ^ (hi + 1 - lo)

/-- A 64-bit word of a plaintext. -/
def w64 (p : List Byte) (off : Nat) : Nat := bytesNat p off 8

/-! ### Header and panel table (R287 to R289) -/

/-- The pattern header (R287). -/
structure PatHead where
  pattern : Nat
  cols : Nat
  rows : Nat
  window : Nat
  rowLimit : Nat
  scratch : Nat
  tack : Nat
  layers : Nat
  flows : Nat
  groups : Nat
  slots : Nat
  slotBytes : Nat
  panelsAt : Nat
  planAt : Nat
  relocAt : Nat
  relocs : Nat
  shadowAt : Nat
  vocab : Nat
  attnAt : Nat

/-- The header's fields. -/
def patHead (p : List Byte) : PatHead :=
  let a := w64 p 0
  let b := w64 p 8
  let c := w64 p 0x10
  let d := w64 p 0x18
  let e := w64 p 0x20
  let f := w64 p 0x28
  { pattern := nbits a 31 0, cols := nbits a 35 32, rows := nbits a 39 36, window := nbits a 44 40, rowLimit := nbits a 55 45,
    scratch := nbits b 31 0, tack := nbits b 63 32, layers := nbits c 8 0, flows := nbits c 23 16, groups := nbits c 29 24,
    slots := nbits c 38 32, slotBytes := nbits c 63 40, panelsAt := nbits d 31 0, planAt := nbits d 63 32,
    relocAt := nbits e 31 0, relocs := nbits e 63 32, shadowAt := nbits f 31 0, vocab := nbits f 50 32,
    attnAt := bytesNat p 0x30 4 }

/-- The fields that R284 and R287 bound, and the tables inside the plaintext. -/
def headOk (p : List Byte) (h : PatHead) (b : Bolt) : Bool :=
  decide (64 ≤ p.length) && ((p.drop 0x34).take 12).all (· == 0)
  && h.cols == b.cols && h.rows == b.rows && decide (1 ≤ h.window ∧ h.window ≤ 16)
  && decide (1 ≤ h.rowLimit ∧ h.rowLimit ≤ 1024) && decide (1 ≤ h.layers ∧ h.layers ≤ 256)
  && decide (h.groups ≤ 32 ∧ h.flows ≤ 255 ∧ h.scratch ≤ 65536) && decide (1 ≤ h.slots ∧ h.slots ≤ 64) && h.slotBytes % 64 == 0
  && decide (2 ≤ h.vocab ∧ h.vocab ≤ 262144)
  && decide (h.panelsAt + 64 * (h.cols * h.rows) ≤ p.length) && decide (h.planAt + 16 ≤ p.length)
  && decide (h.relocAt + 16 * h.relocs ≤ p.length) && decide (h.attnAt + 64 * (1 + h.layers) ≤ p.length)
  && decide (h.shadowAt = 0 ∨ h.shadowAt + 4 * h.layers ≤ p.length)

/-- A panel-table entry (R288). -/
def panelRow (p : List Byte) (at_ : Nat) : PanelEntry :=
  let w (i : Nat) : Nat := w64 p (at_ + 8 * i)
  { codeBase := nbits (w 0) 23 0, codeBytes := nbits (w 0) 47 24, batchBase := nbits (w 1) 23 0, tackBase := nbits (w 1) 47 24,
    tackBytes := nbits (w 2) 23 0, adapterBase := nbits (w 2) 47 24, kvBase := nbits (w 3) 23 0, kvFrames := nbits (w 3) 31 24,
    ringBase := nbits (w 4) 23 0, ringBytes := nbits (w 4) 47 24, entryDecode := nbits (w 5) 23 0,
    entryPrefill := nbits (w 5) 47 24, entryTune := nbits (w 6) 23 0, entryRecompute := nbits (w 6) 47 24,
    imageAt := nbits (w 7) 31 0, imageBytes := nbits (w 7) 63 32 }

/-- The regions of a panel, as base and length (R289). -/
def panelRegions (h : PatHead) (e : PanelEntry) : List (Nat × Nat) :=
  [(e.codeBase, e.codeBytes), (e.batchBase, h.window * (64 + 16 * h.rowLimit)), (e.tackBase, e.tackBytes),
    (e.adapterBase, h.slots * h.slotBytes), (e.kvBase, e.kvFrames * 65536), (e.ringBase, e.ringBytes)]

/-- Whether two regions share a byte. -/
def meets (a b : Nat × Nat) : Bool := decide (0 < a.2 ∧ 0 < b.2 ∧ a.1 < b.1 + b.2 ∧ b.1 < a.1 + a.2)

/-- Whether no two of a list of regions meet. -/
def disjoint : List (Nat × Nat) → Bool
  | [] => true
  | a :: r => (r.all fun b => !meets a b) && disjoint r

/-- The checks of R288 and R289 on one entry. -/
def panelRowOk (p : List Byte) (h : PatHead) (e : PanelEntry) : Bool :=
  let rs := panelRegions h e
  let entry (a : Nat) : Bool := a % 8 == 0 && decide (e.codeBase ≤ a ∧ a < e.codeBase + e.codeBytes)
  rs.all (fun r => r.1 % 64 == 0 && decide (r.1 + r.2 ≤ sramSize)) && e.kvBase % 65536 == 0 && decide (e.kvFrames ≤ 128)
  && disjoint rs && entry e.entryDecode && entry e.entryPrefill && entry e.entryTune && entry e.entryRecompute
  && decide (e.imageAt + e.imageBytes ≤ p.length ∧ e.imageBytes ≤ sramSize)

/-! ### Attention and shadow tables (R291, R530) -/

/-- The attention list, bolt-relative. -/
def attnRel (p : List Byte) (h : PatHead) : List Nat :=
  let n := bytesNat p h.attnAt 1
  ((p.drop (h.attnAt + 1)).take n).map fun b => b.toNat

/-- The home panels of each layer, bolt-relative, 0xFF for none. -/
def homesRel (p : List Byte) (h : PatHead) : List (List Nat) :=
  (List.range h.layers).map fun l => ((p.drop (h.attnAt + 64 * (l + 1))).take 64).map fun b => b.toNat

/-- The checks of R530. -/
def attnOk (p : List Byte) (h : PatHead) : Bool :=
  let n := bytesNat p h.attnAt 1
  let l := attnRel p h
  decide (1 ≤ n ∧ n ≤ 48) && !hasDup l && l.all (fun x => decide (x < h.cols * h.rows))
  && (homesRel p h).all fun hs => hs.all fun x => x == 0xFF || l.contains x

/-- The shadow table: the code address of each layer's exact-mode variant. -/
def shadowsOf (p : List Byte) (h : PatHead) : List (Option Nat) :=
  if h.shadowAt = 0 then []
  else (List.range h.layers).map fun l =>
    let w := bytesNat p (h.shadowAt + 4 * l) 4
    if nbits w 31 31 = 1 then some (nbits w 23 0) else none

/-! ### The stitch plan (R294 to R296) -/

/-- A flow entry as the plan holds it. -/
structure PlanFlow where
  flow : Nat
  src : Nat
  mcast : Bool
  dst : Nat
  vc : Nat
  off : Nat
  len : Nat
  deriving DecidableEq, Repr

/-- A flow entry. -/
def planFlow (p : List Byte) (at_ : Nat) : PlanFlow :=
  let a := w64 p at_
  let b := w64 p (at_ + 8)
  { flow := nbits a 7 0, src := nbits a 13 8, mcast := nbits a 14 14 == 1, dst := nbits a 20 15, vc := nbits a 22 21,
    off := nbits b 23 0, len := nbits b 47 24 }

/-- The members of a group entry. -/
def groupOf (p : List Byte) (at_ : Nat) : List Nat :=
  let a := w64 p at_
  (List.range 48).filter fun i => a / 2 ^ i % 2 == 1

/-- A link entry. -/
def linkEntry (p : List Byte) (at_ : Nat) : LinkPlan :=
  let a := w64 p at_
  { panel := nbits a 5 0, dir := nbits a 7 6, stitch := ((p.drop (at_ + 8)).take 64).map fun b => b.toNat }

/-- Columns or rows passed from a to b, each with the next: n steps. -/
def walk (a b : Nat) : Nat → List Nat
  | 0 => []
  | n + 1 => if a = b then [] else a :: walk (if a < b then a + 1 else a - 1) b n

/-- The links of the path from one panel to another: along the row, then along the column (R294). -/
def pathLinks (cols src dst : Nat) : List (Nat × Nat) :=
  let r := src / cols
  let c := dst % cols
  ((walk (src % cols) c 8).map fun x => (r * cols + x, if x < c then 0 else 2))
  ++ ((walk r (dst / cols) 8).map fun y => (y * cols + c, if y < dst / cols then 3 else 1))

/-- The receivers of a flow. -/
def flowDsts (groups : List (List Nat)) (f : PlanFlow) : List Nat := if f.mcast then nth [] groups f.dst else [f.dst]

/-- Whether a link stays inside a bolt of a shape. -/
def linkInside (cols rows : Nat) (l : LinkPlan) : Bool :=
  decide (l.panel < cols * rows) &&
    (match l.dir with
      | 0 => decide (l.panel % cols + 1 < cols)
      | 1 => decide (cols ≤ l.panel)
      | 2 => decide (0 < l.panel % cols)
      | _ => decide (l.panel + cols < cols * rows))

/-- The stitch plan's parts. -/
structure StitchPlan where
  flows : List PlanFlow
  groups : List (List Nat)
  links : List LinkPlan
  headOk : Bool

/-- The stitch plan of a plaintext. -/
def stitchPlan (p : List Byte) (h : PatHead) : StitchPlan :=
  let a := w64 p h.planAt
  let nf := nbits a 7 0
  let ng := nbits a 13 8
  let nl := nbits a 31 16
  let f0 := h.planAt + 16
  let g0 := f0 + 16 * nf
  let l0 := g0 + 8 * ng
  { flows := (List.range nf).map fun i => planFlow p (f0 + 16 * i)
    groups := (List.range ng).map fun i => groupOf p (g0 + 8 * i)
    links := (List.range nl).map fun i => linkEntry p (l0 + 72 * i)
    headOk := nbits a 15 14 == 0 && nbits a 63 32 == 0 && w64 p (h.planAt + 8) == 0 && nf == h.flows && ng == h.groups
      && decide (l0 + 72 * nl ≤ p.length) }

/-- The checks of R296. -/
def planOk (h : PatHead) (es : List PanelEntry) (t : StitchPlan) : Bool :=
  let n := h.cols * h.rows
  let dsts := flowDsts t.groups
  t.headOk && !hasDup (t.flows.map fun f => f.flow)
  && t.flows.all (fun f =>
    decide (f.flow ≤ 254) && (f.vc == 1 || f.vc == 2) && decide (f.src < n)
    && (if f.mcast then decide (f.dst < t.groups.length) && !(dsts f).contains f.src else decide (f.dst < n))
    && f.len % 2048 == 0 && decide (2048 ≤ f.len)
    && (dsts f).all fun d => match es[d]? with | some e => decide (f.off + f.len ≤ e.ringBytes) | none => false)
  && t.groups.all (fun g => !g.isEmpty && g.all fun x => decide (x < n))
  && !hasDup (t.links.map fun l => (l.panel, l.dir))
  && t.links.all (fun l => linkInside h.cols h.rows l && l.stitch.all fun x => x == 0xFF ||
      (match t.flows.find? fun f => f.flow == x with
        | some f => (dsts f).any fun d => (pathLinks h.cols f.src d).contains (l.panel, l.dir)
        | none => false))
  && (List.range n).all fun r => disjoint ((t.flows.filter fun f => (dsts f).contains r).map fun f => (f.off, f.len))

/-! ### Relocation (R300, R301) -/

/-- Where a pattern's DRAM areas begin: the loader's choice within the weight region, for which the spec gives no rule. -/
structure RelocBase where
  scratch : Nat
  tack : Nat
  seg : Nat → Nat

/-- What the entries insert. -/
structure RelocEnv where
  nw : Nat
  cols : Nat
  rows : Nat
  rank : Nat
  ranks : Nat
  base : RelocBase

/-- The value of an entry; none where its kind or operand is refused. -/
def relocValue (v : RelocEnv) (kind addend : Nat) : Option Nat :=
  match kind with
  | 0 => if addend < v.cols * v.rows then some (v.nw + addend / v.cols * 8 + addend % v.cols) else none
  | 1 => some v.nw
  | 2 => some v.rank
  | 3 => some v.ranks
  | 4 => some (v.base.scratch + addend)
  | 5 => some (v.base.tack + addend)
  | 6 => some (v.base.seg addend)
  | _ => none

/-- A list of bytes with some of its bytes replaced. -/
def splice (bs : List Byte) (at_ : Nat) (new : List Byte) : List Byte := bs.take at_ ++ new ++ bs.drop (at_ + new.length)

/-- One image with the bits [lo + width − 1 : lo] of the word at an address replaced. -/
def patchWord (img : List Byte) (addr lo width v : Nat) : List Byte :=
  let w := w64 img addr
  splice img addr (natLe 8 (w - nbits w (lo + width - 1) lo * 2 ^ lo + v * 2 ^ lo))

/-- One relocation entry applied to every image that it names. -/
def relocOne (v : RelocEnv) (imgs : List (List Byte)) (a b : Nat) : Option (List (List Byte)) :=
  let panel := nbits a 5 0
  let all := nbits a 6 6 == 1
  let addr := nbits a 31 8
  let lo := nbits a 41 36
  let width := nbits a 47 42 + 1
  match relocValue v (nbits a 35 32) b with
  | none => none
  | some x =>
    let hit (i : Nat) : Bool := all || i == panel
    let bad := (imgs.zipIdx).any fun g => hit g.2 && decide (g.1.length < addr + 8)
    if addr % 8 ≠ 0 ∨ 64 < lo + width ∨ 2 ^ width ≤ x ∨ bad = true ∨ (!all && decide (imgs.length ≤ panel)) = true then none
    else some ((imgs.zipIdx).map fun g => if hit g.2 then patchWord g.1 addr lo width x else g.1)

/-- Entries in table order. -/
def relocAll (p : List Byte) (v : RelocEnv) : Nat → Nat → List (List Byte) → Option (List (List Byte))
  | 0, _, imgs => some imgs
  | n + 1, at_, imgs =>
    match relocOne v imgs (w64 p at_) (w64 p (at_ + 8)) with
    | some i => relocAll p v n (at_ + 16) i
    | none => none

/-- Whether a pattern uses its module's rank: it has a relocation of KIND 2 (R99, R300, R369). -/
def usesRank (p : List Byte) (h : PatHead) : Bool :=
  (List.range h.relocs).any fun i => nbits (w64 p (h.relocAt + 16 * i)) 35 32 == 2

/-! ### What the loader makes of a plaintext -/

/-- A pattern read from its plaintext, with its initial images before relocation. -/
structure PatRead where
  head : PatHead
  pat : Pattern
  images : List (List Byte)

/-- The pattern of a plaintext for a bolt: PATTERN_FORMAT (0x3C) or PLAN_INVALID (0x3A) where it is refused. -/
def readPattern (p : List Byte) (nw : Nat) (b : Bolt) : Except Nat PatRead :=
  let h := patHead p
  if !headOk p h b then .error 0x3C
  else
    let n := h.cols * h.rows
    let es := (List.range n).map fun i => panelRow p (h.panelsAt + 64 * i)
    if !(es.all (panelRowOk p h) && attnOk p h) then .error 0x3C
    else
      let t := stitchPlan p h
      if !planOk h es t then .error 0x3A
      else
        let g (r : Nat) : Nat := relPanel nw b r
        .ok {
          head := h
          pat := {
            pattern := h.pattern, window := h.window, rowLimit := h.rowLimit, scratchFrames := h.scratch, tackFrames := h.tack,
            layers := h.layers, slots := h.slots, slotBytes := h.slotBytes, vocab := h.vocab, panels := es,
            flows := t.flows.map fun f =>
              { flow := f.flow, src := g f.src, mcast := f.mcast, dsts := (flowDsts t.groups f).map g, vc := f.vc, ringOff := f.off,
                ringLen := f.len }
            links := t.links.map fun l => { l with panel := g l.panel }
            attnList := (attnRel p h).map g
            homes := (homesRel p h).map fun hs => hs.map fun x => if x = 0xFF then 0xFF else g x
            shadows := shadowsOf p h, plain := p, images := [], digest := sha512 p }
          images := es.map fun e => (p.drop e.imageAt).take e.imageBytes }

/-- A bolt's rank and the size of its span (R301, R369): a pattern that uses module ranks takes this module's rank and the ranks
of the plan in force; any other is a span of one. -/
def spanOf (s : State) (p : List Byte) (h : PatHead) : Nat × Nat :=
  match s.fab.plan with
  | some t => if usesRank p h && s.fab.rank != 0xFF then (s.fab.rank, (t.entries.filter fun e => e.role != 3).length) else (0, 1)
  | none => (0, 1)

/-! ### Installation (R288, R289, R292, R371, R412) -/

/-- The lines of a region take the pattern tenant's tag; a line that another tag held is zeroed first. -/
def tagRegion (q : Panel) (tag : BitVec 14) (r : Nat × Nat) : Panel :=
  (linesOf r.1 r.2).foldl (fun q l =>
    let q1 := if mapGet 0 q.tags l = tag then q else sramFree q (64 * l) 64
    { q1 with tags := mapSet 0 q1.tags l tag }) q

/-- One panel takes its relocated image and its regions' tags; contexts, estimates and rings of the old pattern go. -/
def installPanel (q : Panel) (tenant : Nat) (old : Option (Pattern × PanelEntry)) (t : Pattern) (e : PanelEntry) (me : Nat) (img : List Byte) : Panel :=
  let tag := tenantTag tenant
  let q0 := match old with | some (o, f) => sramFree q f.adapterBase (o.slots * o.slotBytes) | none => q
  let q1 := [(e.codeBase, e.codeBytes), (e.batchBase, t.window * (64 + 16 * t.rowLimit)), (e.tackBase, e.tackBytes),
    (e.ringBase, e.ringBytes), (0, img.length)].foldl (fun q r => tagRegion q tag r) q0
  { q1 with
    sram := memWrite q1.sram 0 img
    marks := q1.marks.filter fun x => decide (img.length ≤ 64 * x.1)
    ctxs := []
    regs := []
    drains := []
    hems := []
    samples := []
    est := []
    att := []
    attb := []
    remote := []
    parts := []
    cands := []
    merges := []
    calls := []
    rings := []
    unwanted := []
    rxBufs := []
    rxWait := []
    batches := []
    recalling := none
    stitch := (t.links.filter fun l => l.panel == me).foldl (fun m l => mapDel m l.dir) q1.stitch }

/-- The SRAM frames of some panels that hold KV pages: their pages are dropped before the frames move (R164, R166). -/
def dropSramPages (s : State) (ps : List Nat) : State :=
  (s.kv.used.filter fun f => isSramFrame f && ps.contains ((f - 8388608) / 256)).foldl (fun s f =>
    if s.kv.used.contains f then dropFrame s f else s) s

/-- A pattern that has passed its checks comes into force. -/
def installPattern (s : State) (nw : Nat) (b : Bolt) (tenant : Nat) (r : PatRead) (rank : Nat × Nat) (imgs : List (List Byte)) : State :=
  let ps := boltPanels nw b
  let s1 := dropSramPages s ps
  let s2 := (ps.zipIdx).foldl (fun s (x : Nat × Nat) =>
    match r.pat.panels[x.2]? with
    | none => s
    | some e =>
      let old := match b.pat with | some o => (o.panels[x.2]?).map fun f => (o, f) | none => none
      modPanel s x.1 fun q => installPanel q tenant old r.pat e x.1 (nth [] imgs x.2)) s1
  let s3 := ownPanels (eraseBoltKeys s2 nw) ps b.port nw tenant
  modBolt s3 nw fun b =>
    { b with
      tenant := tenant
      pat := some { r.pat with images := imgs }
      patFrames := r.head.scratch + r.head.tack
      scratch := []
      scratchKey := []
      gen := 0
      steps := []
      slots := []
      recalling := none
      rank := rank.1
      ranks := rank.2
      wanted := []
      tpp := 0
      changes := b.changes + 1 }

end Sys2Proof.Machine
end

