-- ==== Sys2Proof/Machine/Keys.lean ====
section
/-! DEFINITION. The PUF root and the keys derived from it (R397, R398): the identity wrap key, the retained seal key with the tags of the
retained areas (R477, R479), and the black-box key (R506, R508). -/

namespace Sys2Proof.Machine

/-- The root in Jobel's key engine: the PUF's, once it has been reconstructed (R397). -/
def pufRootOf (s : State) : Option (BitVec 256) := if s.sec.pufOk then some Config.pufRoot else none

/-- A key derived from the root by HKDF with SHA-512, an empty salt and an info string (R398). The root enters most significant byte first
(DESIGN CHOICE, log entry 244). -/
def ladderKey (s : State) (info : String) : Option (List Byte) :=
  (pufRootOf s).map fun r => hkdfSha512 [] (natBe 32 r.toNat) (info.toList.map fun c => BitVec.ofNat 8 c.toNat) 32

/-- The key that wraps the identity private key at rest. -/
def identityWrapKey (s : State) : Option (List Byte) := ladderKey s "K2 identity wrap"

/-- The key of the integrity tags over retained state. -/
def retainedSealKey (s : State) : Option (List Byte) := ladderKey s "K2 retained seal"

/-- The key that encrypts black-box records at rest. -/
def blackBoxKey (s : State) : Option (List Byte) := ladderKey s "K2 black box"

/-! ### What the keys protect -/

/-- The identity private key as the vendor-sealed area holds it (R399, R477): under AES-256-GCM. The spec gives the nonce no value: zero,
as the key wraps this one text (DESIGN CHOICE, log entry 244). -/
def wrappedIdentity (s : State) : Option (List Byte) :=
  (identityWrapKey s).map fun k => Config.cipherText (BitVec.ofNat 256 (beNat k)) 0 [] (Config.identityPrivate s.sec.identity)

/-- Numbers as an area holds them: how many, then each in eight bytes. -/
def natsBytes (xs : List Nat) : List Byte := natLe 4 xs.length ++ xs.flatMap (natLe 8)

/-- Bytes with their length before them. -/
def sizedBytes (bs : List Byte) : List Byte := natLe 4 bs.length ++ bs

/-- A configuration copy's bytes under its tag: generation and registers in order of page and offset. -/
def cfgBytes (gen : Word) (regs : Map Word) : List Byte := natLe 8 gen.toNat ++ natsBytes (regs.flatMap fun kv => [kv.1, kv.2.toNat])

/-- A plan's bytes in the security area. -/
def planAreaBytes (t : Plan) : List Byte :=
  natsBytes (t.generation.toNat :: t.entries.flatMap fun e => [e.addr, e.digest.toNat / 2 ^ 64, e.digest.toNat % 2 ^ 64, e.rank, e.role, e.planes.toNat])
    ++ sizedBytes t.signer

/-- A bolt's retained record as bytes. -/
def boltRecordBytes (r : BoltRecord) : List Byte :=
  natsBytes [r.bolt, r.cols, r.rows, r.port, r.tenant, r.pattern, r.nonce.toNat]
    ++ natsBytes (r.place.flatMap fun (x : Nat × Nat × Bool × Nat × Nat) => [x.1, x.2.1, if x.2.2.1 then 1 else 0, x.2.2.2.1, x.2.2.2.2])
    ++ natBe 64 r.digest.toNat

/-- A security copy's bytes under its tag: generation and contents in the order of R477. The spec gives no layout (DESIGN CHOICE, log entry
244). -/
def secAreaBytes (gen : Word) (a : SecArea) : List Byte :=
  natLe 8 gen.toNat ++ sizedBytes (a.owner.getD []) ++ natLe 2 a.minSvn.toNat
  ++ (match a.plan with | some t => planAreaBytes t | none => []) ++ a.records.flatMap boltRecordBytes
  ++ natsBytes (a.arrays.flatMap fun kv => [kv.1, kv.2.1, if kv.2.2.1 then 1 else 0, if kv.2.2.2 then 1 else 0])
  ++ natsBytes (a.seamFailed.flatMap fun x => [x.1, x.2]) ++ natsBytes (a.darns.flatMap fun x => [x.1, x.2])
  ++ natsBytes a.failedPanels ++ natsBytes (a.failedTiles.flatMap fun x => [x.1, x.2])

/-- An area's tag: HMAC-SHA-512 of its bytes under the retained seal key; none without the root. -/
def areaTag (s : State) (bytes : List Byte) : Option (BitVec 512) :=
  (retainedSealKey s).map fun k => BitVec.ofNat 512 (beNat (hmacSha512 k bytes))

/-- Whether a tag found undamaged verifies (R479). -/
def tagVerifies (s : State) (found : Bool) (tag : Option (BitVec 512)) (bytes : List Byte) : Bool :=
  found && (tag.isNone || tag == areaTag s bytes)

/-- Whether a configuration copy found undamaged verifies. -/
def cfgVerifies (s : State) (found : Bool) (c : CfgCopy) : Bool := tagVerifies s found c.tag (cfgBytes c.gen c.regs)

/-- Whether a security copy found undamaged verifies. -/
def secVerifies (s : State) (found : Bool) (c : SecCopy) : Bool := tagVerifies s found c.tag (secAreaBytes c.gen c.area)

/-- A configuration copy as a commit writes it (R478). -/
def sealCfg (s : State) (gen : Word) (regs : Map Word) : CfgCopy := { gen := gen, regs := regs, tag := areaTag s (cfgBytes gen regs) }

/-- A security copy as a commit writes it (R478). -/
def sealSec (s : State) (gen : Word) (a : SecArea) : SecCopy := { gen := gen, area := a, tag := areaTag s (secAreaBytes gen a) }

end Sys2Proof.Machine
end

