-- ==== Sys2Proof/Machine/SelfTest.lean ====
section
/-! DEFINITION. Self-test (R495 to R501, R511) and the black box (R502 to R510): the queue of targets, result records, the flush
engine, the store and the readout window. -/

namespace Sys2Proof.Machine

/-! ### Targets (R495, R499) -/

/-- Whether a kind applies to a target: 0 LOGIC, 1 SRAM, 2 ARRAY on panels and spare panels, 3 DRAM on stacks. -/
def kindApplies (kind target : Nat) : Bool := if kind = 3 then decide (52 ≤ target ∧ target ≤ 55) else decide (kind < 3 ∧ target ≤ 49)

/-- Whether a target bit is one that R499 names. -/
def targetNamed (t : Nat) : Bool := decide (t ≤ 49) || decide (52 ≤ t ∧ t ≤ 55)

/-- The kinds and targets of a SELF_TEST, in the order of R500. -/
def selfTestPlan (kinds targets : Nat) : List (Nat × Nat) :=
  (List.range 56).flatMap fun t =>
    if targets.testBit t && targetNamed t then
      ((List.range 4).filter fun k => kinds.testBit k && kindApplies k t).map fun k => (k, t)
    else []

/-- The physical panel that a target tests. -/
def targetPhys (s : State) (t : Nat) : Nat := if t < 48 then physPanel s t else (t - 48) * 25 + 24

/-- The half of the DRAM range that a frame lies in (R318). -/
def frameHalf (s : State) (f : Nat) : Nat := if f < dramFrames s / 2 then 0 else 1

/-- Whether a frame of a half's DRAM range is allocated: pool frames, and any use of a weight region that reaches into it. -/
def halfInUse (s : State) (h : Nat) : Bool :=
  let base := field (dieReg s 0x380) 22 0
  let last := base + regionFrames s - 1
  ((s.kv.used.filter fun f => !isSramFrame f) ++ s.kv.tables.map Prod.fst).any (fun f => frameHalf s f == h)
  || (decide (0 < regionUsed s) && (frameHalf s base == h || frameHalf s last == h))

/-- The block state that a target shows now: OFF while its rails are down (R491). -/
def shownState (s : State) (p : PageId) : BlkSt := if pagePowered s p then (getHdr s p).st else .off

/-- Whether a target meets its kind's precondition (R495). -/
def targetReady (s : State) (kind t : Nat) : Bool :=
  if kind = 3 then stackOn s (t - 52) && !halfInUse s ((t - 52) / 2)
  else if t < 48 then
    decide (t < panelsEn s) && (boltOfPanel s t).isNone && (shownState s (.panel t) == .ready || shownState s (.panel t) == .off)
  else
    (List.range 48).all (fun p => physPanel s p != targetPhys s t) && !s.start.area.failedPanels.contains (targetPhys s t)

/-- The page that shows a target's state; a spare panel has none (R22). -/
def targetPage (kind t : Nat) : Option PageId := if kind = 3 then some (.stack (t - 52)) else if t < 48 then some (.panel t) else none

/-- The physical arrays of a panel that an ARRAY test would skip (R496). -/
def skippedArrays (s : State) (pp : Nat) : Nat :=
  (s.arrays.arrs.filter fun kv => kv.1 / 34 / 25 == pp && kv.2.st != .zeroised).length

/-! ### The engine (R498, R500, R501) -/

/-- The 16 bytes of a result record. -/
def recordOf (r : StRec) : List Byte :=
  natLe 8 r.signature.toNat ++ [BitVec.ofNat 8 r.kind, BitVec.ofNat 8 r.target, BitVec.ofNat 8 r.result, 0]
    ++ natLe 2 r.skipped ++ natLe 2 r.failed

/-- A result is noted: in the status registers, and for a job in its output buffer. -/
def noteResult (s : State) (q : StReq) (r : StRec) : State :=
  let s1 := { s with st := { s.st with
    lastKind := BitVec.ofNat 2 r.kind
    lastTarget := BitVec.ofNat 6 r.target
    lastResult := BitVec.ofNat 2 r.result } }
  match q.job.bind (getJob s1) with
  | none => s1
  | some j =>
    let n := s1.st.results.length
    let s2 := emit s1 (.data j.port j.ring (j.outAddr + BitVec.ofNat 64 (16 * n)) (recordOf r))
    modJob { s2 with st := { s2.st with results := s2.st.results ++ [r] } } j.id fun x => { x with outBytes := 16 * (n + 1) }

/-- A request is over once none of its targets waits: ST_DONE, and a job's completion with the number of records. -/
def requestOver (s : State) (q : StReq) (kind target : Nat) : State :=
  if q.job.isSome && s.st.queue.any (fun x => x.job == q.job) then s
  else
    let s1 := raiseEvent s .bb 16 [(2, kind), (6, target)]
    match q.job with
    | none => s1
    | some id =>
      let n := s1.st.results.length
      let st := match getJob s1 id with | some j => j.status.getD 0 | none => 0
      closeJobId { s1 with st := { s1.st with results := [] } } id st n

/-- The next targets: those that miss their precondition are skipped, the first other one is under test. -/
def stNext : Nat → State → State
  | 0, s => s
  | fuel + 1, s =>
    if s.st.running.isSome then s
    else
      match s.st.queue with
      | [] => s
      | q :: rest =>
        let s1 := { s with st := { s.st with queue := rest } }
        if targetReady s q.kind q.target then
          let before := match targetPage q.kind q.target with | some p => (getHdr s p).st | none => .ready
          let s2 := { s1 with st := { s1.st with
            running := some q
            before := before
            lastKind := BitVec.ofNat 2 q.kind
            lastTarget := BitVec.ofNat 6 q.target } }
          let s3 := if s.start.limp = 0 then s2 else { s2 with power := { s2.power with compute := true } }
          match targetPage q.kind q.target with | some p => setBlk s3 p .test false 4 | none => s3
        else
          stNext fuel (requestOver (noteResult s1 q { signature := 0, kind := q.kind, target := q.target, result := 2, skipped := 0, failed := 0 })
            q q.kind q.target)

/-- Requests join the queue; an idle engine starts at once. -/
def stQueue (s : State) (qs : List StReq) : State :=
  let s1 := { s with st := { s.st with queue := s.st.queue ++ qs } }
  stNext (s1.st.queue.length + 1) s1

/-- What a test leaves of its target's contents (R495, R496). -/
def testedContents (s : State) (kind t : Nat) : State :=
  if kind = 3 then s
  else if kind = 2 then bumpTile s .sec 0x0B8 0 (850 - skippedArrays s (targetPhys s t))
  else if t < 48 then modPanel s t sramZero
  else s

/-- The failure-signature class of a kind. -/
def kindClass (kind : Nat) : Nat := match kind with | 0 => 2 | 1 => 3 | 2 => 0 | _ => 4

/-- A target that has failed (R498). -/
def targetFailed (s : State) (kind t : Nat) : State :=
  let pp := targetPhys s t
  let s1 := match targetPage kind t with
    | some p => setBlk s p .failed false 4
    | none => modSec s fun a => { a with failedPanels := withOnce a.failedPanels pp }
  let s2 := raiseEvent s1 .bb 17 [(2, kind), (6, t)]
  writeSig s2 { SigInfo.plain (kindClass kind) 10 kind with
    logical := if kind ≠ 3 ∧ t < 48 then some (t, 0, 0) else none
    physical := if kind = 3 then none else some (pp / 25, pp, 0, 0) }

/-- SELF_TEST_TARGET_DONE (R497, R498): the signature is compared with the golden one of its kind and stepping. -/
def execSelfTestTargetDone (signature : Word) (failed : Nat) (s : State) : Res :=
  .next (match s.st.running with
    | none => s
    | some q =>
      let pass := signature == Config.golden q.kind s.stepping
      let skipped := if q.kind = 2 then skippedArrays s (targetPhys s q.target) else 0
      let s1 := testedContents { s with st := { s.st with running := none, lastSig := signature } } q.kind q.target
      let s2 := if s.start.limp = 0 then s1 else { s1 with power := { s1.power with compute := false } }
      let s3 := if pass then (match targetPage q.kind q.target with | some p => setBlk s2 p s.st.before false 4 | none => s2)
        else targetFailed s2 q.kind q.target
      let r : StRec := { signature := signature, kind := q.kind, target := q.target, result := if pass then 0 else 1, skipped := skipped,
                         failed := if q.kind = 2 then failed else 0 }
      let s4 := bbRecord s3 .bb 0x130 (natLe 8 signature.toNat ++ [BitVec.ofNat 8 q.kind, BitVec.ofNat 8 q.target, BitVec.ofNat 8 r.result])
      let s5 := requestOver (noteResult s4 q r) q q.kind q.target
      stNext (s5.st.queue.length + 1) s5)

/-- An ABORT of a SELF_TEST job (R500): the target under test finishes, and no further one runs. -/
def abortSelfTest (s : State) (j : Job) : State :=
  let mine := s.st.queue.filter fun q => q.job == some j.id
  let s1 := modJob { s with st := { s.st with queue := s.st.queue.filter fun q => q.job != some j.id } } j.id fun x => { x with status := some 1 }
  let s2 := mine.foldl (fun s q => noteResult s q { signature := 0, kind := q.kind, target := q.target, result := 3, skipped := 0, failed := 0 }) s1
  if s2.st.running.any fun q => q.job == some j.id then s2
  else closeJobId { s2 with st := { s2.st with results := [] } } j.id 1 s2.st.results.length

/-- SELF_TEST (R499, R501). -/
def execSelfTest (id : Nat) (s : State) : Res :=
  .next (command s id 0x31 fromPf fun s d =>
    let plan := selfTestPlan (arg0 d 3 0) (arg1 d 63 0)
    if d.entry.outLen < 16 * plan.length then finishEntry s d 0x21 0
    else if plan.isEmpty then finishEntry s d 0 0
    else stQueue (startJob s d (jobOf d .selfTest)) (plan.map fun x => { kind := x.1, target := x.2, job := some d.id }))

/-- ST_CMD (R511): one kind on one target; a TARGET that names a reserved bit drops the write. -/
def execStCmd (w : Window) (value : Word) (s : State) : Res :=
  .next (gated s w .bb 0x0C8 value.toNat fun s =>
    let t := field value 13 8
    let k := field value 1 0
    if !targetNamed t then capture s .bb 2 (winCode w) 0x0C8 (value.toNat % 2 ^ 32)
    else if bit value 16 && kindApplies k t then stQueue s [{ kind := k, target := t, job := none }]
    else s)

/-! ### The flush engine (R506, R507) -/

/-- The generation of the slot to be written is the lower of the two, compared as a wrapping number. -/
def lowerSlotB (b : BlackBox) : Bool := let d := (b.slotA.gen - b.slotB.gen).toNat; decide (0 < d ∧ d < 32768)

/-- A flush begins, unless one runs or no record is newer than the last completed one. -/
def startFlush (s : State) (trigger : Nat) : State :=
  let newer := match s.bb.live.getLast?, s.bb.lastFlushed with
    | some r, some f => r.seq != f
    | some _, none => true
    | none, _ => false
  if s.bb.flushing.isSome || !newer then s
  else
    let inB := lowerSlotB s.bb
    let s1 := bbRecord s .bb 0x102 [BitVec.ofNat 8 trigger, BitVec.ofNat 8 (b2n inB)]
    let f : BbFlush := { trigger := trigger, slotB := inB, recs := s1.bb.live }
    { s1 with bb := { s1.bb with
      flushing := some f
      slotA := if inB then s1.bb.slotA else { s1.bb.slotA with valid := false }
      slotB := if inB then { s1.bb.slotB with valid := false } else s1.bb.slotB } }

/-- BB_FLUSH (R506): one of the triggers 1 to 7. -/
def execBbFlush (trigger : Nat) (s : State) : Res := .next (if 1 ≤ trigger ∧ trigger ≤ 7 then startFlush s trigger else s)

/-- BB_FLUSHED (R506, R507, R511): the slot holds the flush, or its write has failed and the other slot is kept. -/
def execBbFlushed (ok : Bool) (s : State) : Res :=
  .next (match s.bb.flushing with
    | none => s
    | some f =>
      let s1 := { s with bb := { s.bb with flushing := none } }
      if !ok then raiseEvent s1 .bb 19 [(8, f.trigger)]
      else
        let gen := (if f.slotB then s.bb.slotA.gen else s.bb.slotB.gen) + 1
        let slot : BbSlot := { valid := true, gen := gen, recs := f.recs }
        let s2 := { s1 with bb := { s1.bb with
          slotA := if f.slotB then s1.bb.slotA else slot
          slotB := if f.slotB then slot else s1.bb.slotB
          lastTrigger := BitVec.ofNat 8 f.trigger
          lastFlushed := f.recs.getLast?.map fun r => r.seq } }
        raiseEvent s2 .bb 18 [(8, f.trigger)])

/-- FLUSH (R506 trigger 7). -/
def execFlush (w : Window) (s : State) : Res := .next (gated s w .bb 0x098 1 fun s => startFlush s 7)

/-- CLEAR_STORE (R510): both slots become invalid; dropped during a flush. -/
def execClearStore (w : Window) (s : State) : Res :=
  .next (gated s w .bb 0x098 2 fun s =>
    if s.bb.flushing.isSome then capture s .bb 5 (winCode w) 0x098 2
    else { s with bb := { s.bb with slotA := { s.bb.slotA with valid := false }, slotB := { s.bb.slotB with valid := false } } })

/-- BB_EPOCH (R505): the marker is written and enters an EPOCH record. -/
def execBbEpoch (w : Window) (value : Word) (s : State) : Res :=
  .next (gated s w .bb 0x080 value.toNat fun s =>
    bbRecord { s with bb := { s.bb with epoch := value } } .bb 0x101 [BitVec.ofNat 8 (winCode w)])

/-! ### Reading back (R508 to R510) -/

/-- Whether a slot's records can be read: it holds a completed flush, and the black-box key can be derived (R398, R508). -/
def slotOpens (s : State) (x : BbSlot) : Bool := x.valid && !s.bb.locked && (blackBoxKey s).isSome

/-- The 32 bytes of a record (R503). -/
def bbBytes (r : BbRec) : List Byte :=
  natLe 8 r.seq.toNat ++ natLe 8 r.epoch.toNat ++ [r.type, r.inst] ++ natLe 2 r.code.toNat ++ (r.data ++ List.replicate 12 0).take 12

/-- What the non-volatile bank holds of a slot (R506): its records under the black-box key. The spec names no cipher or nonce for it:
AES-256-GCM with the flush generation as the nonce (DESIGN CHOICE, log entry 244). -/
def slotAtRest (s : State) (x : BbSlot) : Option (List Byte) :=
  (blackBoxKey s).map fun k => Config.cipherText (BitVec.ofNat 256 (beNat k)) (x.gen.setWidth 96) [] (x.recs.flatMap bbBytes)

/-- The records of a source: 0 the live ring, 1 slot A, 2 slot B; a locked or invalid slot returns none. -/
def bbSource (s : State) (n : Nat) : List BbRec :=
  match n with
  | 0 => s.bb.live
  | 1 => if slotOpens s s.bb.slotA then s.bb.slotA.recs else []
  | 2 => if slotOpens s s.bb.slotB then s.bb.slotB.recs else []
  | _ => []

/-- An entry answered with bytes written to its output buffer. -/
def finishOutput (s : State) (d : Dispatched) (bytes : List Byte) (detail : Nat) : State :=
  let s1 := if bytes.isEmpty then s else emit s (.data d.port d.ring d.entry.outAddr bytes)
  let s2 := { s1 with dispatched := s1.dispatched.filter fun x => x.id != d.id }
  let c := { Completion.simple 0 d.entry.tag (BitVec.ofNat 32 detail) with outBytes := bytes.length }
  settleRing (queueCompletion s2 d.port d.ring c) d.port d.ring

/-- BB_READ (R509). -/
def execBbRead (id : Nat) (s : State) : Res :=
  .next (command s id 0x32 fromPf fun s d =>
    let rs := (bbSource s (arg0 d 1 0)).filter fun r => decide ((r.seq - d.entry.arg1).toNat < 2 ^ 63)
    let out := rs.take (d.entry.outLen / 32)
    finishOutput s d (out.flatMap bbBytes) out.length)

/-- SIG_READ (R387, R440): unread records into 192-byte slots, oldest first. -/
def execSigRead (id : Nat) (s : State) : Res :=
  .next (command s id 0x28 fromPf fun s d =>
    let out := (s.ras.sigs.filter fun g => !g.read).take (d.entry.outLen / 192)
    let seqs := out.map fun g => g.seq
    let s1 := { s with ras := { s.ras with sigs := s.ras.sigs.map fun g => if seqs.contains g.seq then { g with read := true } else g } }
    finishOutput s1 d (out.flatMap fun g => (sigCbor s g ++ List.replicate 192 0).take 192) out.length)

/-- A window's readout selection (R510). -/
def bbSel (s : State) : Window → BbSel
  | .mgmt => s.bb.selMgmt
  | .pf p => if p = 0 then s.bb.selPf0 else s.bb.selPf1
  | .vf _ _ => BbSel.start

/-- A window's changed selection. -/
def setBbSel (s : State) (w : Window) (x : BbSel) : State :=
  match w with
  | .mgmt => { s with bb := { s.bb with selMgmt := x } }
  | .pf p => if p = 0 then { s with bb := { s.bb with selPf0 := x } } else { s with bb := { s.bb with selPf1 := x } }
  | .vf _ _ => s

/-- Word k of the record that a selection names; zero beyond the source's last record. -/
def bbWord (s : State) (x : BbSel) (k : Nat) : Word :=
  match (bbSource s x.source.toNat)[x.index.toNat]? with
  | some r => BitVec.ofNat 64 (leNat (((bbBytes r).drop (8 * k)).take 8))
  | none => 0

/-- BB_RD_DATA3_READ (R510): the last word of the record, and INDEX goes on by one. -/
def execBbRdData3Read (w : Window) (s : State) : Res :=
  .next (if !mayRead s w .bb then { s with lastRead := 0 }
    else
      let x := bbSel s w
      setBbSel { s with lastRead := bbWord s x 3 } w { x with index := x.index + 1 })

end Sys2Proof.Machine
end

