-- ==== Sys2Proof/Machine/Rings.lean ====
section
/-! DEFINITION. Rings (R436 to R445), functions (R424, R426, R452), pairing (R449 to R451) and the host link (R453, R454). -/

namespace Sys2Proof.Machine

/-! ### Jobs of functions and rings -/

/-- A job is aborted when nothing else has claimed it (R202, R204, R215, R500): the state after, and whether the abort won. -/
def abortJob (s : State) (j : Job) : State × Bool :=
  if s.claims.any fun c => c.1 == j.id then (s, false)
  else
    match j.kind with
    | .gen _ => (endJob s j.id 1 0, true)
    | .tune _ => (endJob s j.id 1 0, true)
    | .load =>
      (match (boltList s).find? fun x => match x.2.load with | some l => loadJob l == j.id | none => false with
        | some (nw, b) =>
          (match b.load with
            | some l => if b.phase = 3 then (s, false) else (failLoad s nw b l 1 0, true)
            | none => (s, false))
        | none => (s, false))
    | .selfTest => if j.status.isSome then (s, false) else (abortSelfTest s j, true)
    | .pattern => (s, false)
    | .firmware => (s, false)
    | .close => (s, false)

/-- The entries of a ring that have been fetched and not yet run leave with a status. -/
def dropEntries (s : State) (test : Dispatched → Bool) (status : Nat) : State :=
  (s.dispatched.filter test).foldl (fun s d => finishEntry s d status 0) s

/-- A ring enters ERROR (R438). -/
def ringError (s : State) (port ring err : Nat) : State :=
  let s1 := modRing s port ring fun r => { r with st := .error, err := err, waiting := [], stalled := false, unsig := 0, unsigSince := none }
  settleRing (raiseEvent (bumpFor s1 (.host port) 0x0B8 [(12, ring)]) (.host port) 18 [(12, ring)]) port ring

/-- Every ring of a port. -/
def portRings (s : State) (port : Nat) : List Nat := (s.rings.filter fun kv => kv.1 / 4096 == port).map fun kv => kv.1 % 4096

/-- EN is cleared on a ring (R437): it becomes ASSIGNED once its jobs have ended. -/
def closeRing (s : State) (port ring : Nat) : State :=
  settleRing (modRing s port ring fun r => { r with cfg := r.cfg &&& ~~~bitOf 48, closing := true }) port ring

/-! ### The ring page (R436, R437) -/

/-- The ring that a ring page of a window shows: the ring of that number for a PF, the ring in that slot for a VF; none for a ring
of another function (R427, R437). -/
def pageRing (s : State) (w : Window) (n : Nat) : Option (Nat × Nat) :=
  if !windowOn s w then none else match w with
  | .mgmt => none
  | .pf p => let r := getRing s p n; if r.st != .free && r.fn == 0 then some (p, n) else none
  | .vf p v =>
    ((portRings s p).find? fun k => let r := getRing s p k; r.st != .free && r.fn == v && r.slot == n).map fun k => (p, k)

/-- Whether ring doorbells act (R417, R481, R486): the module is READY, in limp mode or restarting Jobel, and a link stream that is
required is secure. -/
def doorbellsOn (s : State) (port : Nat) : Bool :=
  (s.start.phase == 7 || s.start.phase == 8 || s.start.phase == 10)
  && (!bit (getReg s .sec 0x088) 1 || s.sec.ide.any fun x => x.port == port && x.stream == 0 && x.secure)

/-- A dropped write of a ring page, recorded by the host port page with the ring number as DETAIL (R437). -/
def ringDrop (s : State) (w : Window) (port ring off code : Nat) : State := capture s (.host port) code (winCode w) off ring

/-- Whether a RING_CFG value is inside its ranges (R436). -/
def ringCfgOk (fn : Nat) (v : Word) : Bool :=
  decide (4 ≤ field v 3 0 ∧ field v 3 0 ≤ 14 ∧ 4 ≤ field v 7 4 ∧ field v 7 4 ≤ 14) && (fn == 0 || decide (field v 19 8 ≤ 15))

/-- RING_CFG without its reserved bits. -/
def ringCfgBits (v : Word) : Word := v &&& 0x10FFFFFFFFFFF

/-- A write of RING_CFG (R437). The write that clears EN clears it whatever its other fields hold (DEDUCED, log entry 29). -/
def writeRingCfg (s : State) (w : Window) (n : Nat) (v : Word) : State :=
  match pageRing s w n with
  | none => s
  | some (p, k) =>
    let r := getRing s p k
    if bit r.cfg 48 then
      if bit v 48 then ringDrop s w p k 0x010 (if ringCfgOk r.fn v then 5 else 2)
      else
        let s1 := modRing s p k fun r => { r with closing := true }
        let s2 := dropEntries s1 (fun d => d.port == p && d.ring == k) 1
        let s3 := (s2.jobs.filter fun j => j.port == p && j.ring == k).foldl (fun s j => (abortJob s j).1) s2
        pumpLoads (closeRing s3 p k)
    else if !ringCfgOk r.fn v then ringDrop s w p k 0x010 2
    else if r.st != .assigned then ringDrop s w p k 0x010 5
    else if bit v 48 then
      modRing s p k fun r =>
        { r with
          st := .enabled
          cfg := ringCfgBits v
          sqTail := 0
          sqHead := 0
          cqTail := 0
          cqHead := 0
          phase := true
          err := 0
          waiting := []
          stalled := false
          unsig := 0
          unsigSince := none
          closing := false }
    else modRing s p k fun r => { r with cfg := ringCfgBits v }

/-- A write of SQ_BASE, CQ_BASE or RING_PASID (R437): dropped while EN is 1. -/
def writeRingBase (s : State) (w : Window) (n off : Nat) (v : Word) : State :=
  match pageRing s w n with
  | none => s
  | some (p, k) =>
    let r := getRing s p k
    if bit r.cfg 48 || r.st != .assigned then ringDrop s w p k off 5
    else modRing s p k fun r =>
      if off = 0x018 then { r with sqBase := v &&& ~~~(0xFFF : Word) }
      else if off = 0x020 then { r with cqBase := v &&& ~~~(0xFFF : Word) }
      else { r with pasid := v &&& 0x1FFFFF }

/-- RING_ENABLE (R437): a write of RING_CFG that sets EN. -/
def execRingEnable (w : Window) (ring : Nat) (cfg : Word) (s : State) : Res := .next (writeRingCfg s w ring (cfg ||| bitOf 48))

/-- RING_DISABLE (R437): a write of RING_CFG that clears EN. -/
def execRingDisable (w : Window) (ring : Nat) (cfg : Word) (s : State) : Res := .next (writeRingCfg s w ring (cfg &&& ~~~bitOf 48))

/-- SQ_TAIL (R438): entries up to the tail may be fetched; a tail at or above the queue's size puts the ring in ERROR. Doorbells
before READY are dropped and recorded (R481). -/
def execSqTail (w : Window) (ring value : Nat) (s : State) : Res :=
  .next (match pageRing s w ring with
    | none => s
    | some (p, k) =>
      let t := value % 65536
      if !doorbellsOn s p then ringDrop s w p k 0x000 4
      else if (getRing s p k).st != .enabled then s
      else if sqSize (getRing s p k) ≤ t then ringError s p k 1
      else modRing s p k fun r => { r with sqTail := t })

/-- CQ_HEAD (R438). -/
def execCqHead (w : Window) (ring value : Nat) (s : State) : Res :=
  .next (match pageRing s w ring with
    | none => s
    | some (p, k) =>
      if !doorbellsOn s p then ringDrop s w p k 0x008 4
      else if (getRing s p k).st != .enabled then s
      else modRing s p k fun r => { r with cqHead := value % 65536 })

/-! ### Entries and completions (R438, R443, R445) -/

/-- Whether a function may master the bus (R424). -/
def mayMaster (s : State) (port fn : Nat) : Bool :=
  let q := getPort s port
  q.up && q.released && q.busMaster.contains fn && !q.d3hot.contains fn

/-- ENTRY_FETCH (R438, R440): the entry at SQ_HEAD arrives by DMA and is dispatched; an unknown opcode is answered at once. -/
def execEntryFetch (port ring : Nat) (dma : Dma Entry) (s : State) : Res :=
  .next (let r := getRing s port ring
    if r.st != .enabled || !bit r.cfg 48 || r.sqHead == r.sqTail || !mayMaster s port r.fn || s.start.phase == 9 then s
    else
      match dma with
      | .dmaError => ringError s port ring 2
      | .atsFault => ringError s port ring 3
      | .ok e =>
        let d : Dispatched := { id := s.nextId, port := port, ring := ring, fn := r.fn, entry := e }
        let s1 := modRing { s with nextId := s.nextId + 1, dispatched := s.dispatched ++ [d] } port ring fun r =>
          { r with sqHead := (r.sqHead + 1) % sqSize r }
        if opcodes.contains e.opcode then s1 else finishEntry s1 d 0x20 0)

/-- A ring sends its interrupt vector. -/
def ringSignal (s : State) (port ring : Nat) : State :=
  let r := getRing s port ring
  sendMsix (modRing s port ring fun r => { r with unsig := 0, unsigSince := none }) port r.fn (field r.cfg 19 8)

/-- A completion entry has been written: the vector follows for COAL_COUNT of them, or for each with both settings at 0 (R445). -/
def countSignal (s : State) (port ring : Nat) : State :=
  let s1 := modRing s port ring fun r => { r with unsig := r.unsig + 1, unsigSince := some (r.unsigSince.getD s.now) }
  let r := getRing s1 port ring
  let n := field r.cfg 27 20
  if (n = 0 ∧ field r.cfg 43 28 = 0) ∨ (0 < n ∧ n ≤ r.unsig) then ringSignal s1 port ring else s1

/-- COMPLETION_POST (R438, R443): the completion at the front is written while the queue has room. -/
def execCompletionPost (port ring : Nat) (dma : Dma Unit) (s : State) : Res :=
  .next (let r := getRing s port ring
    match r.waiting with
    | [] => s
    | (_, c) :: rest =>
      if r.st != .enabled || (r.cqTail + 1) % cqSize r == r.cqHead || !mayMaster s port r.fn then s
      else
        match dma with
        | .dmaError => ringError s port ring 2
        | .atsFault => ringError s port ring 3
        | .ok _ =>
          let t := (r.cqTail + 1) % cqSize r
          let s1 := emit s (.completion port ring r.cqTail r.sqHead r.phase c)
          let s2 := modRing s1 port ring fun r =>
            { r with
              waiting := rest
              stalled := false
              cqTail := t
              phase := if t = 0 then !r.phase else r.phase }
          settleRing (countSignal s2 port ring) port ring)

/-- CQ_STALL (R438): the completion at the front has waited beyond the credit-wait limit for room. -/
def execCqStall (port ring : Nat) (s : State) : Res :=
  .next (let r := getRing s port ring
    match r.waiting with
    | [] => s
    | (t, _) :: _ =>
      if r.st != .enabled || r.stalled || (r.cqTail + 1) % cqSize r != r.cqHead || decide (s.now ≤ t + creditLimit s none) then s
      else raiseEvent (bumpFor (modRing s port ring fun r => { r with stalled := true }) (.host port) 0x0C0 [(12, ring)]) (.host port) 19 [(12, ring)])

/-- COAL_TIMER (R445): COAL_TIME has passed since the first unsignalled completion. -/
def execCoalTimer (port ring : Nat) (s : State) : Res :=
  .next (let r := getRing s port ring
    match r.unsigSince with
    | none => s
    | some t => if r.st = .enabled ∧ 0 < field r.cfg 43 28 ∧ t + field r.cfg 43 28 ≤ s.now then ringSignal s port ring else s)

/-! ### RING_ASSIGN and VF_ASSIGN (R452) -/

/-- Whether a ring may be assigned or freed by a port: FREE, or its own with EN at 0. -/
def ringOpen (s : State) (port ring : Nat) : Bool :=
  let r := getRing s port ring
  (getRing s (1 - port) ring).st == .free && (r.st == .free || (r.st == .assigned && !r.closing))

/-- Whether a VF's interface holds its assignment (R418). -/
def vfLocked (s : State) (port fn : Nat) : Bool := fn != 0 && (getVf s port fn).tdi != .unlocked

/-- RING_ASSIGN. -/
def execRingAssign (w : Window) (port : Nat) (value : Word) (s : State) : Res :=
  .next (gated s w (.host port) 0x0A0 value.toNat fun s =>
    let k := field value 11 0
    let fn := field value 19 12
    let slot := field value 23 20
    let taken := fn != 0 && (portRings s port).any fun x => x != k && (let r := getRing s port x; r.st != .free && r.fn == fn && r.slot == slot)
    let held := vfLocked s port (getRing s port k).fn || (!bit value 24 && vfLocked s port fn)
    if !ringOpen s port k || held || (!bit value 24 && taken) then capture s (.host port) 2 (winCode w) 0x0A0 (value.toNat % 2 ^ 32)
    else if bit value 24 then modRing s port k fun _ => Ring.start
    else modRing s port k fun _ => { Ring.start with st := .assigned, fn := fn, slot := if fn = 0 then 0 else slot })

/-- Whether a function has a job that has not ended, or an entry that has not run. -/
def fnBusy (s : State) (port fn : Nat) : Bool :=
  s.jobs.any (fun j => j.port == port && j.fn == fn) || s.dispatched.any fun d => d.port == port && d.fn == fn

/-- VF_ASSIGN. -/
def execVfAssign (w : Window) (port : Nat) (value : Word) (s : State) : Res :=
  .next (gated s w (.host port) 0x0A8 value.toNat fun s =>
    let v := field value 7 0
    let t := field value 19 8
    if v = 0 ∨ fnBusy s port v = true ∨ vfLocked s port v = true then capture s (.host port) 2 (winCode w) 0x0A8 (value.toNat % 2 ^ 32)
    else
      let clear := bit value 20
      setOwner (modVf s port v fun x => { x with tenant := if clear then none else some t }) (.tenant port v) 2 0x3F (if clear then 0 else t))

/-! ### Pairing (R449 to R451) -/

/-- Bolts and their sessions pass to a port (R448): pages and measurement follow. -/
def passBolts (s : State) (test : Nat → Bolt → Bool) (port : Nat) : State :=
  (boltList s).foldl (fun s x =>
    if !test x.1 x.2 then s
    else
      let s1 := ownPanels s (boltPanels x.1 x.2) port x.1 x.2.tenant
      let s2 := modBolt s1 x.1 fun b => { b with port := port, changes := b.changes + 1 }
      { s2 with sessions := s2.sessions.map fun kv => if kv.2.st != .free && kv.2.bolt == x.1 then (kv.1, { kv.2 with port := port }) else kv }) s

/-- The bolts that a port owns. -/
def portBolts (s : State) (port : Nat) : Nat := ((boltList s).filter fun x => x.2.port == port).length

/-- The surviving port takes every bolt of a LOST port (R450). -/
def adopt (s : State) (lost : Nat) : State :=
  let to_ := 1 - lost
  let s1 := endJobs s (fun j => j.port == lost) 0x1C
  let s2 := { s1 with dispatched := s1.dispatched.filter fun d => d.port != lost }
  let s3 := passBolts s2 (fun _ b => b.port == lost) to_
  let s4 := { s3 with rings := s3.rings.filter fun kv => kv.1 / 4096 != lost }
  pumpLoads (raiseEvent (bumpFor s4 (.host to_) 0x0D8 [(2, to_)]) (.host to_) 17 [(2, to_)])

/-- PAIR_CTRL. -/
def pairCtrl (s : State) : Word := dieReg s 0x580

/-- A port's pairing interval in µs. -/
def pairInterval (s : State) : Nat := field (pairCtrl s) 15 8 * 100000

/-- HEARTBEAT (R449): a write by the port's own PF makes it LIVE; the first port to become LIVE again while the other is LOST
adopts (R450). -/
def execHeartbeat (w : Window) (port : Nat) (s : State) : Res :=
  .next (gated s w (.host port) 0x0B0 0 fun s =>
    if w != .pf port then s
    else
      let s1 := modPort s port fun q => { q with pair := .live, lastHb := some s.now }
      if (getPort s port).pair = .lost ∧ (getPort s (1 - port)).pair = .lost ∧ bit (pairCtrl s) 1 = true then adopt s1 (1 - port) else s1)

/-- HEARTBEAT_LOSS (R449, R450). -/
def execHeartbeatLoss (port : Nat) (s : State) : Res :=
  .next (let q := getPort s port
    let silent := match q.lastHb with | some t => decide (t + pairInterval s * field (pairCtrl s) 19 16 ≤ s.now) | none => false
    let down := match q.downSince with | some t => decide (t + pairInterval s ≤ s.now) | none => false
    if 2 ≤ port ∨ !bit (pairCtrl s) 0 ∨ q.pair ≠ .live ∨ (!silent && !down) = true then s
    else
      let s1 := modPort s port fun q => { q with pair := .lost }
      let s2 := raiseEvent (bumpFor s1 (.host (1 - port)) 0x0D0 [(2, port)]) (.host (1 - port)) 16 [(2, port)]
      if bit (pairCtrl s) 1 && (getPort s2 (1 - port)).pair == .live then adopt s2 port else s2)

/-! ### The link and its functions (R424 to R426, R453, R454) -/

/-- A VF's interface that leaves its lock or run state against its rules enters ERROR (R418): its rings stop, what they have not
delivered is discarded, and its jobs end. -/
def tdiFail (s : State) (port vf : Nat) : State :=
  let st := (getVf s port vf).tdi
  if st = .unlocked ∨ st = .error then s
  else
    let s1 := modVf s port vf fun v => { v with tdi := .error }
    let mine := (portRings s1 port).filter fun k => (getRing s1 port k).fn == vf
    let s2 := mine.foldl (fun s k => modRing s port k fun r =>
      { r with
        closing := r.closing || r.st == .enabled || r.st == .error
        st := if r.st = .enabled then .error else r.st
        cfg := r.cfg &&& ~~~bitOf 48
        waiting := []
        unsig := 0
        unsigSince := none }) s1
    let s3 := { s2 with dispatched := s2.dispatched.filter fun d => !(d.port == port && d.fn == vf) }
    let s4 := endJobs s3 (fun j => j.port == port && j.fn == vf) 0x19
    let s5 := mine.foldl (fun s k => settleRing s port k) s4
    pumpLoads (raiseEvent s5 .sec 21 [(2, port), (8, vf)])

/-- The VFs of a port with an interface that is not unlocked. -/
def lockedVfs (s : State) (port : Nat) : List Nat :=
  (s.vfs.filter fun kv => kv.1 / 256 == port && kv.2.tdi != .unlocked).map fun kv => kv.1 % 256

/-- LINK_CHANGE (R454): the link's rate, width, mode or UP changes. A link that falls or leaves FLIT mode loses its IDE streams
(R417, R418). -/
def execLinkChange (port rate width : Nat) (flit up : Bool) (s : State) : Res :=
  .next (let q := getPort s port
    if 2 ≤ port ∨ !q.released ∨ (q.rate = rate ∧ q.width = width ∧ q.flit = flit ∧ q.up = up) then s
    else
      let s1 := modPort s port fun q =>
        { q with
          rate := rate
          width := width
          flit := flit
          up := up
          retrains := if up then (if q.retrains = 0xFFFF then q.retrains else q.retrains + 1) else q.retrains
          downSince := if up then none else some (q.downSince.getD s.now) }
      let s2 := if up && flit then s1 else
        (lockedVfs s1 port).foldl (fun s v => tdiFail s port v) { s1 with sec := { s1.sec with ide := s1.sec.ide.filter fun x => x.port != port } }
      if q.rate = rate ∧ q.width = width ∧ q.up = up then s2 else raiseEvent s2 (.host port) 20 [(2, port)])

/-- The number of a word of a function's MSI-X table in the register table, above every page's registers. -/
def msixKey (port fn off : Nat) : Nat := 2 ^ 40 + (port * 256 + fn) * 65536 + off

/-- The MSI-X tables of functions become zero (R426). -/
def clearMsixTable (s : State) (port : Nat) (test : Nat → Bool) : State :=
  { s with regs := s.regs.filter fun kv =>
      !(decide (2 ^ 40 ≤ kv.1) && (kv.1 - 2 ^ 40) / 65536 / 256 == port && test ((kv.1 - 2 ^ 40) / 65536 % 256)) }

/-- One function's rings close and its jobs end (R426, R490). -/
def resetFn (s : State) (port : Nat) (test : Nat → Bool) : State :=
  let mine := (portRings s port).filter fun k => test (getRing s port k).fn
  let s1 := mine.foldl (fun s k => modRing s port k fun r =>
    { r with
      cfg := r.cfg &&& ~~~bitOf 48
      closing := r.closing || r.st == .enabled || r.st == .error }) s
  let s2 := dropEntries s1 (fun d => d.port == port && test d.fn) 0x1D
  let s3 := endJobs s2 (fun j => j.port == port && test j.fn) 0x1D
  let s4 := clearMsixTable (pumpLoads (mine.foldl (fun s k => settleRing s port k) s3)) port test
  modPort s4 port fun q =>
    { q with
      msixOn := q.msixOn.filter fun f => !test f
      msixMasked := q.msixMasked.filter fun x => !test x.1
      msixPending := q.msixPending.filter fun x => !test x.1
      busMaster := q.busMaster.filter fun f => !test f
      d3hot := q.d3hot.filter fun f => !test f
      atsOn := q.atsOn.filter fun f => !test f
      pasidOn := q.pasidOn.filter fun f => !test f
      cfgSpace := q.cfgSpace.filter fun x => !test (x.1 / 4096) }

/-- FLR (R426): of one VF, or of the PF with every VF of it. A VF with a locked interface enters ERROR (R418). -/
def execFlr (port fn : Nat) (s : State) : Res :=
  .next (if 2 ≤ port then s
    else
      let s1 := (lockedVfs s port).foldl (fun s v => if fn = 0 ∨ v = fn then tdiFail s port v else s) s
      let s2 := resetFn s1 port fun f => fn == 0 || f == fn
      if fn = 0 then modPort s2 port fun q => { q with numVfs := 0 } else s2)

/-- A change of a list of functions or entries. -/
def setMember {α : Type} [DecidableEq α] (xs : List α) (x : α) (on : Bool) : List α :=
  if on then (if xs.contains x then xs else xs ++ [x]) else xs.filter fun y => y != x

/-- An MSI-X entry that has a pending bit and is unmasked sends its message (R424, R427). -/
def flushMsix (s : State) (port fn vector : Nat) : State :=
  let q := getPort s port
  if q.msixPending.contains (fn, vector) && !q.msixMasked.contains (fn, vector) && q.msixOn.contains fn then
    sendMsix (modPort s port fun q => { q with msixPending := setMember q.msixPending (fn, vector) false }) port fn vector
  else s

/-- CONFIGURATION_REQUEST (R424): a configuration write acts under the PCIe rules. A change that TDISP forbids puts a locked VF in
ERROR (R418). -/
def execConfigurationRequest (port : Nat) (c : CfgWrite) (s : State) : Res :=
  .next (if 2 ≤ port ∨ !(getPort s port).released then s
    else
      let guard (fn : Nat) (s : State) : State := if fn ≠ 0 ∧ vfLocked s port fn = true then tdiFail s port fn else s
      match c with
      | .numVfs n on =>
        let s1 := (lockedVfs s port).foldl (fun s v => tdiFail s port v) s
        let m := if on then min n 255 else 0
        let s2 := resetFn s1 port fun f => decide (m < f)
        modPort s2 port fun q => { q with numVfs := m }
      | .msixEnable fn on => modPort s port fun q => { q with msixOn := setMember q.msixOn fn on }
      | .msixEntry fn v masked => flushMsix (modPort s port fun q => { q with msixMasked := setMember q.msixMasked (fn, v) masked }) port fn v
      | .powerState fn hot => guard fn (modPort s port fun q => { q with d3hot := setMember q.d3hot fn hot })
      | .busMaster fn on => (if on then id else guard fn) (modPort s port fun q => { q with busMaster := setMember q.busMaster fn on })
      | .atsEnable fn on =>
        modPort s port fun q => { q with atsOn := setMember q.atsOn fn on, ats := if on then q.ats else [] }
      | .pasidEnable fn on => modPort s port fun q => { q with pasidOn := setMember q.pasidOn fn on }
      | .other fn off v => modPort s port fun q => { q with cfgSpace := mapSet 0 q.cfgSpace (fn * 4096 + off) v })

/-- ATS_INVALIDATION (R424): cached translations of the range go, and the request is answered. -/
def execAtsInvalidation (port : Nat) (page : Word) (size : Nat) (s : State) : Res :=
  .next (if 2 ≤ port then s
    else emit (modPort s port fun q => { q with ats := q.ats.filter fun x =>
      !(decide (page.toNat < x.1.toNat + x.2 ∧ x.1.toNat < page.toNat + size)) }) (.atsAnswer port))

end Sys2Proof.Machine
end

