-- ==== Sys2Proof/Machine/Net.lean ====
section
/-! DEFINITION. Messages between panels (R271, R272, R298), the mesh's links and stitches (R292 to R294, R314 to R317, R326),
the seam's lanes (R322 to R324), credits and their watch (R31 to R37, R299), and the arbiters (R306 to R313). -/

namespace Sys2Proof.Machine

/-! ### Routes (R294) -/

/-- The branches of a flit at a router: directions with the receivers behind each. -/
def branches (s : State) (p : Nat) (f : MFlit) : List (Nat × List Nat) :=
  ([0, 1, 2, 3, 4].map fun d => (d, f.dsts.filter fun x => flitDir s p f x == d)).filter fun b => !b.2.isEmpty

/-- Whether a row pair of the seam carries anything: one of its two lanes is up (R324). -/
def linkUp (s : State) (p dir : Nat) : Bool :=
  match linkQueue p dir 0 with
  | .seamLane h l _ => laneUp s h l || laneUp s h (l + 1)
  | _ => true

/-- The queues whose credits a flit needs to leave a router, itself at its source: its links, and the rings of all the receivers of a
flow's flit (R298, R317). -/
def flitQueues (s : State) (p : Nat) (f : QFlit) : List QueueId :=
  ((branches s p f.flit).filter fun b => b.1 != 4).map (fun b => linkQueue p b.1 f.flit.vc)
  ++ (if f.inp = 4 ∧ f.flit.load = .flow then f.flit.dsts.map fun d => .flowRing d f.flit.flow else [])

/-- The first flit of each input and channel of a router, of its own panel of each flow: the ones that can leave (R31). -/
def routerHeads (q : Panel) : List QFlit :=
  q.router.foldl (fun acc f =>
    if acc.any fun g => g.inp == f.inp && g.flit.vc == f.flit.vc && (f.inp != 4 || g.flit.flow == f.flit.flow) then acc else acc ++ [f]) []

/-- The physical routers between two logical neighbours: those strictly between them on the die's grid (R21). A spare stands off the
grid, where the darn spine leads to it (R328). -/
def routersBetween (s : State) (p n : Nat) : List Nat :=
  let a := physPanel s p
  let b := physPanel s n
  let at_ (x : Nat) : Nat × Nat := (x % 25 / 4, x / 25 * 4 + x % 25 % 4)
  if a % 25 = 24 ∨ b % 25 = 24 then []
  else ((List.range 50).filter fun x => x % 25 != 24 && x != a && x != b
    && ((at_ x).1 == (at_ a).1 && (at_ x).1 == (at_ b).1
          && (decide ((at_ a).2 < (at_ x).2 ∧ (at_ x).2 < (at_ b).2) || decide ((at_ b).2 < (at_ x).2 ∧ (at_ x).2 < (at_ a).2))
        || (at_ x).2 == (at_ a).2 && (at_ x).2 == (at_ b).2
          && (decide ((at_ a).1 < (at_ x).1 ∧ (at_ x).1 < (at_ b).1) || decide ((at_ b).1 < (at_ x).1 ∧ (at_ x).1 < (at_ a).1))))

/-- The physical routers behind some panels and between those of them that are neighbours take a bolt tag (R21, R326). -/
def tagRouters (s : State) (ps : List Nat) (tag : Nat) : State :=
  let rs := ps.flatMap fun p => physPanel s p ::
    [0, 3].flatMap fun d => match dirStep s p d with
      | some n => if ps.contains n then routersBetween s p n else []
      | none => []
  { s with net := { s.net with tags := rs.foldl (fun m r => mapSet 0x3F m r tag) s.net.tags } }

/-- The bolt tag of a physical router (R326). -/
def routerTag (s : State) (r : Nat) : Nat := mapGet 0x3F s.net.tags r

/-- Whether a hop passes a bolt's boundary: a router on it carries another tag than the one before it (R326). -/
def crossesBoundary (s : State) (p n : Nat) : Bool :=
  (routersBetween s p n ++ [physPanel s n]).any fun r => routerTag s r != routerTag s (physPanel s p)

/-- Whether a flit has every credit it needs, and routers that forward (R327). -/
def flitReady (s : State) (p : Nat) (f : QFlit) : Bool :=
  !routerHeld s p && (flitQueues s p f).all (creditFree s) &&
    (branches s p f.flit).all fun b => b.1 == 4 || (linkUp s p b.1 && (match dirStep s p b.1 with | some n => !routerHeld s n | none => false))

/-! ### The receivers' rings (R272, R298) -/

/-- Part of a command's work is done at a panel whose context may have left. -/
def ackFlit (s : State) (f : MFlit) : State := decCmd s f.src f.cmd 1

/-- A RECV's command counts as complete once its message is written. -/
def recvDone (x : Ctx) : Ctx :=
  { x with
    wait := .none
    stalled := false
    cmds := x.cmds.map fun k => if k.opcode == 0x49 then { k with left := 0 } else k }

/-- The oldest context that waits on a flow copies what its ring holds of the next message, one flit; a message of another
length is discarded, whatever of it is still on its way too, and the context faults (R272). -/
def serveOne (s : State) (p flow : Nat) : State :=
  let q := getPanel s p
  let waiting := q.ctxs.find? fun x => match x.wait with | .recv f _ _ _ => f == flow | _ => false
  match waiting, q.rings.find? fun f => f.flow == flow with
  | some x, some f =>
    match x.wait with
    | .recv _ addr len got =>
      if got = 0 ∧ f.msgLen ≠ len then
        let mine (g : MFlit) : Bool := g.flow == flow && g.src == f.src && g.cmd == f.cmd
        let msg := q.rings.filter mine
        let s1 := msg.foldl (fun s _ => giveCredit s (.flowRing p flow) 1) s
        patternFault (modPanel s1 p fun q =>
          { q with
            rings := q.rings.filter fun g => !mine g
            unwanted := if msg.any fun g => g.last then q.unwanted else q.unwanted ++ [(flow, f.src, f.cmd)] }) p x.slot 0x0E
          (x.pc.toNat - 8) 0x49
      else
        let cx := boltCtx s p
        let s0 := if sramViolates q cx (addr + got) 64 then boltTagFault s p x.step else s
        let s1 := modPanel (giveCredit s0 (.flowRing p flow) 1) p fun q =>
          { sramWrite q cx (addr + got) [(f.data, f.mark)] with rings := q.rings.eraseP fun g => g.flow == flow }
        modCtx s1 p x.slot fun y => if f.last then recvDone y else { y with wait := .recv flow addr len (got + 64) }
    | _ => s
  | _, _ => s

/-- A waiting RECV copies as much as the ring holds. -/
def serveRecv (s : State) (p flow : Nat) : State :=
  (List.range (getPanel s p).rings.length).foldl (fun s _ => serveOne s p flow) s

/-- A flit enters its receiver's ring, or is discarded with its credit returned: a stale one, and what still comes of a message that
matched no RECV (R272, R298, R371). -/
def deliverFlit (s : State) (p : Nat) (f : MFlit) : State :=
  if f.load ≠ .flow then takeLoad s p f
  else if staleAt s p f.step f.gen then giveCredit (ackFlit s f) (.flowRing p f.flow) 1
  else if (getPanel s p).unwanted.contains (f.flow, f.src, f.cmd) then
    giveCredit (ackFlit (if f.last then modPanel s p fun q => { q with unwanted := q.unwanted.erase (f.flow, f.src, f.cmd) } else s) f)
      (.flowRing p f.flow) 1
  else
    let s1 := modPanel (ackFlit s f) p fun q => { q with rings := q.rings ++ [{ f with dsts := [p] }] }
    serveRecv s1 p f.flow

/-! ### Links (R292, R293, R314 to R317, R326) -/

/-- One copy of a flit crosses a link, or is dropped at a bolt's boundary (R326). The link's stitch counter advances for every
channel but control (R292). A flit of no flow that has come to its end is taken there, and its credit goes back. -/
def crossLink (s : State) (p dir : Nat) (f : MFlit) (dsts : List Nat) : State :=
  match dirStep s p dir with
  | none => s
  | some n =>
    if f.vc ≠ 0 ∧ crossesBoundary s p n then
      raiseEvent (bumpFor s (.router p) 0x0A0 [(8, f.flow)]) (.router p) 16 [(8, f.flow)]
    else
      let g := { f with dsts := dsts, rowFirst := f.rowFirst || jobelDetour s p f }
      let ends := f.load != .flow && flitDir s n g (dsts.headD n) == 4
      let s1 := if ends then s else takeCredit s (linkQueue p dir f.vc)
      let s2 := bumpFor s1 (.router p) (0x080 + 8 * f.vc) [(8, f.flow)]
      let s3 := if f.vc = 0 then s2 else modPanel s2 p fun q => { q with stitch := mapSet 0 q.stitch dir ((mapGet 0 q.stitch dir + 1) % 64) }
      if ends then takeLoad s3 n g
      else modPanel s3 n fun q => { q with router := q.router ++ [{ out := flitDir s n g (dsts.headD n), inp := (dir + 2) % 4, flit := g }] }

/-- A flit leaves a router on all its branches in one step (R317). -/
def moveFlit (s : State) (p : Nat) (f : QFlit) : State :=
  let s1 := leaveRouter (modPanel s p fun q => { q with router := q.router.erase f }) p f
  let s2 := if f.inp = 4 ∧ f.flit.load = .flow then f.flit.dsts.foldl (fun s d => takeCredit s (.flowRing d f.flit.flow)) s1 else s1
  (branches s p f.flit).foldl (fun s b => if b.1 = 4 then deliverFlit s p f.flit else crossLink s p b.1 f.flit b.2) s2

/-- The flow assigned to the stitch at which a link's next flit falls (R293). -/
def stitchFlow (s : State) (p dir : Nat) : Option Nat :=
  match boltOfPanel s p with
  | none => none
  | some (_, b) =>
    match b.pat with
    | none => none
    | some t =>
      match t.links.find? fun l => l.panel == p && l.dir == dir with
      | none => none
      | some l =>
        let f := nth 0xFF l.stitch (mapGet 0 (getPanel s p).stitch dir)
        if f = 0xFF then none else some f

/-- The candidate of a channel whose input port is next in round-robin order after the last one served. -/
def nextInput (cs : List QFlit) (last : Nat) : Option QFlit :=
  ((List.range 5).map fun i => (last + 1 + i) % 5).findSome? fun i => cs.find? fun f => f.inp == i

/-- The flit that a link sends next: control first, then the flow of the stitch, then the channels in turn (R293, R316). -/
def linkPick (s : State) (p dir : Nat) : Option (QFlit × Bool) :=
  let q := getPanel s p
  let cs := (routerHeads q).filter fun f => ((branches s p f.flit).any fun b => b.1 == dir) && flitReady s p f
  let vcs (v : Nat) : List QFlit := cs.filter fun f => f.flit.vc == v
  let turn (v : Nat) : Option QFlit := nextInput (vcs v) (mapGet 4 q.rr (8 * dir + v))
  match turn 0 with
  | some f => some (f, false)
  | none =>
    let own := match stitchFlow s p dir with
      | some fl => cs.find? fun f => f.flit.flow == fl
      | none => none
    match own with
    | some f => some (f, false)
    | none =>
      let last := mapGet 0 q.rr (8 * dir + 4)
      (((List.range 3).map fun i => (last + i) % 3 + 1).findSome? turn).map fun f => (f, true)

/-- The queues on which a link's waiting flits wait (R36). -/
def linkWaits (s : State) (p dir : Nat) : List QueueId :=
  ((routerHeads (getPanel s p)).filter fun f => (branches s p f.flit).any fun b => b.1 == dir).flatMap fun f =>
    (flitQueues s p f).filter fun k => !creditFree s k

/-- FLIT_SEND (R293, R316). -/
def execFlitSend (p dir : Nat) (s : State) : Res :=
  .next (if 4 ≤ dir then s
    else match linkPick s p dir with
    | some (f, openStitch) =>
      let s1 := modPanel s p fun q =>
        { q with rr := (if openStitch then mapSet 0 (mapSet 4 q.rr (8 * dir + f.flit.vc) f.inp) (8 * dir + 4) (f.flit.vc) else
            mapSet 4 q.rr (8 * dir + f.flit.vc) f.inp) }
      moveFlit s1 p f
    | none => (linkWaits s p dir).foldl beginWait s)

/-- FLOW_FLIT_ARRIVE (R298): a flit of the flow that has reached its only receiver's router enters the ring. -/
def execFlowFlitArrive (p flow : Nat) (s : State) : Res :=
  .next (match (routerHeads (getPanel s p)).find? fun f => f.flit.flow == flow && ((branches s p f.flit).all fun b => b.1 == 4) with
    | some f => if flitReady s p f then moveFlit s p f else (flitQueues s p f).foldl (fun s k => if creditFree s k then s else beginWait s k) s
    | none => s)

/-- The generation that a panel puts into what it sends: one that has not yet heard of a recall sends the one before. -/
def sendGen (s : State) (p : Nat) (b : Bolt) : BitVec 32 := if (getPanel s p).recalling.isSome then b.gen - 1 else b.gen

/-- The flow that a SEND or RECV names (R271, R272). -/
def instrFlow (h : Site) (w : Word) : Option Flow := h.pat.flows.find? fun f => f.flow == field w 43 36

/-- The fault of a SEND: a message is 64 bytes to 1 MiB long (R271, R280, R284). -/
def sendFault (h : Site) (w : Word) (f : Flow) : Option Nat :=
  let addr := (gReg h.x (g51 w)).toNat
  let n := (gReg h.x (g47 w)).toNat
  if f.src ≠ h.p then some 0x0D
  else if n % 64 ≠ 0 then some 0x03
  else if n = 0 ∨ 0x100000 < n ∨ sramSize < addr + n then some 0x04
  else none

/-- A message's flits enter the router of its source, one for each 64 bytes (R271, R293). -/
def sendRun (t : State) (h : Site) (w : Word) (f : Flow) : State :=
  let addr := (gReg h.x (g51 w)).toNat
  let n := (gReg h.x (g47 w)).toNat
  let cmd := (getPanel t h.p).nextCmd
  let t1 := enterCmd t h.p h.x.slot 0x48 (n / 64 * f.dsts.length)
  let rd := readSram t1 h none addr n
  let lines := linePieces (getPanel t1 h.p) h.ctx addr n
  modPanel rd.1 h.p fun q => { q with router := q.router ++ (lines.zipIdx).map fun (x : (List Byte × LineMark) × Nat) =>
    { out := nextDir h.p (f.dsts.headD h.p), inp := 4,
      flit := { cmd := cmd, flow := f.flow, vc := f.vc, src := h.p, dsts := f.dsts, data := x.1.1, last := x.2 + 1 == n / 64, msgLen := n,
                mark := x.1.2, step := h.x.step, gen := sendGen t h.p h.b, tenant := h.b.tenant } } }

/-- SEND (R271): the message enters the source router as flits, in order. -/
def execSend (p c : Nat) (s : State) : Res :=
  .next (issue s p c 0x48 fun t h w =>
    match instrFlow h w with
    | none => .fault 0x0D
    | some f =>
      match sendFault h w f with
      | some code => .fault code
      | none => .done (sendRun t h w f))

/-- The fault of a RECV's length and range (R272, R280). -/
def recvFault (h : Site) (w : Word) : Option Nat :=
  if (gReg h.x (g47 w)).toNat % 64 ≠ 0 then some 0x03
  else if sramSize < (gReg h.x (g51 w)).toNat + (gReg h.x (g47 w)).toNat then some 0x04
  else none

/-- The context waits for the flow's next message, and takes what has come of it (R272). -/
def recvRun (t : State) (h : Site) (w : Word) (f : Flow) : State :=
  serveRecv (modCtx (enterCmd t h.p h.x.slot 0x49 1) h.p h.x.slot fun x =>
    { x with
      wait := .recv f.flow (gReg h.x (g51 w)).toNat (gReg h.x (g47 w)).toNat 0
      since := t.now + creditLimit t (some h.p)
      stalled := false }) h.p f.flow

/-- RECV (R272). -/
def execRecv (p c : Nat) (s : State) : Res :=
  .next (issue s p c 0x49 fun t h w =>
    match instrFlow h w with
    | none => .fault 0x0D
    | some f =>
      match recvFault h w with
      | some code => .fault code
      | none => .done (recvRun t h w f))

/-! ### Units that fail (R313, R377, R385) -/

/-- A unit is declared FAILED: its page says so, the die page raises UNIT_FAILED, a signature is written, and its repair begins
at its own level. -/
def failUnit (s : State) (page : PageId) (cls detector : Nat) (u : Option RepairUnit) : State :=
  if (getHdr s page).st = .failed then s
  else
    let s1 := setBlk s page .failed false 2
    let ids := match u with | some (.array p t a) => [(6, p), (5, t), (5, a)] | some (.tile p t) => [(6, p), (5, t)] | some (.panel p) => [(6, p)] | none => []
    let s2 := raiseEvent s1 .die 59 ids
    let s3 := writeSig s2 { SigInfo.plain cls detector 0 with
      logical := match u with | some (.array p t a) => some (p, t, a) | some (.tile p t) => some (p, t, 0) | some (.panel p) => some (p, 0, 0) | none => none }
    match u with
    | some (.tile p t) => if underRepair s3 p t 0 then s3 else repairTile s3 p t
    | some (.panel p) => if underRepair s3 p 0 0 then s3 else repairPanel s3 p
    | some (.array p t a) => unitFault s3 p t a
    | none => s3

/-! ### Seam lanes (R324) -/

/-- One half's lanes changed. -/
def modSeam (s : State) (half : Nat) (f : SeamHalf → SeamHalf) : State :=
  { s with net := if half = 0 then { s.net with seam0 := f s.net.seam0 } else { s.net with seam1 := f s.net.seam1 } }

/-- SEAM_PARITY (R324): a beat of a lane in the sending direction of a half fails its check at the other half. -/
def execSeamParity (half lane : Nat) (s : State) : Res :=
  .next (let h := if half = 0 then s.net.seam0 else s.net.seam1
    if 2 ≤ half ∨ 15 ≤ lane ∨ !h.lanesUp.getLsbD lane then s
    else
      let s1 := bumpFor s (.half (1 - half)) 0x090 [(16, lane)]
      let times := (mapGet [] h.errors lane).filter (fun t => decide (s.now ≤ t + 1000)) ++ [s.now]
      if times.length < 16 then modSeam s1 half fun x => { x with errors := mapSet [] x.errors lane times }
      else
        let s2 := modSeam s1 half fun x =>
          { x with
            lanesUp := x.lanesUp &&& ~~~(BitVec.ofNat 15 (2 ^ lane))
            errors := mapDel x.errors lane }
        writeSig (raiseEvent s2 (.half half) 16 [(16, lane)]) { SigInfo.plain 5 6 0 with lane := some lane })

/-! ### Credits (R31 to R36, R299) -/

/-- CREDIT_RETURN (R32, R35): the receiver removed an item. A count that would rise above the depth is a hardware fault. -/
def execCreditReturn (q : QueueId) (s : State) : Res :=
  .next (if usedCredits s q = 0 then setBlk (raiseEvent s (receiverPage s q) 3 (queueIds q)) (receiverPage s q) .failed false 6
    else giveCredit s q 1)

/-- CREDIT_STALL (R36). -/
def execCreditStall (q : QueueId) (s : State) : Res :=
  .next (match mapGet none s.net.waits (queueKey q) with
    | some t =>
      if t < s.now ∧ mapGet false s.net.stalls (queueKey q) = false then
        raiseEvent { s with net := { s.net with stalls := mapSet false s.net.stalls (queueKey q) true } } (senderPage s q) 4 (queueIds q)
      else s
    | none => s)

/-- CONTEXT_WAIT_STALL (R299): a context waits at FENCE, RECV or SEALW beyond the limit. -/
def execContextWaitStall (p c : Nat) (s : State) : Res :=
  .next (match getCtx s p c with
    | none => s
    | some x =>
      let op := match x.wait with | .fence _ => 0x60 | .recv _ _ _ _ => 0x49 | .sealw => 0x51 | _ => 0
      if op ≠ 0 ∧ !x.stalled ∧ x.since < s.now then
        raiseEvent (modCtx s p c fun y => { y with stalled := true }) (.seq p) 4 [(4, c), (8, op)]
      else s)

/-! ### Arbiters (R306 to R313) -/

/-- A resource's number. -/
def resKey : ResId → Nat
  | .slice p k => p * 256 + k
  | .seam h l => 2 ^ 20 + h * 256 + l
  | .dram h c => 2 * 2 ^ 20 + h * 256 + c
  | .kwath p => 3 * 2 ^ 20 + p

/-- The page and repair of the unit behind a requester (R313): the ports of R304 at a slice, a panel's spine port at a DRAM
channel, a panel at a lane or a Kwath port; none for a requester that is no unit of a page (log entry 19). -/
def arbUnit (r : ResId) (who : Nat) : Option (PageId × Option RepairUnit) :=
  match r with
  | .slice p _ =>
    if who < 24 then some (.panel p, some (.tile p who))
    else some (match who with | 24 => .core p | 25 => .seq p | 26 => .att p | 28 => .router p | 30 => .smp p | _ => .panel p, some (.panel p))
  | .dram h _ => if who < 24 then some (.panel (who / 4 * 8 + 4 * h + who % 4), some (.panel (who / 4 * 8 + 4 * h + who % 4))) else none
  | .seam _ _ => if who < 48 then some (.panel who, some (.panel who)) else none
  | .kwath _ => if who < 48 then some (.panel who, some (.panel who)) else none

/-- A resource's arbiter. A requester's fence has lifted once its unit has left FAILED (R313). -/
def getArb (s : State) (r : ResId) : Arbiter :=
  let a := mapGet Arbiter.start s.net.arbs (resKey r)
  { a with fenced := a.fenced.filter fun who => match arbUnit r who with | some u => (getHdr s u.1).st == .failed | none => true }

/-- A changed arbiter. -/
def setArb (s : State) (r : ResId) (a : Arbiter) : State :=
  { s with net := { s.net with arbs := mapSet Arbiter.start s.net.arbs (resKey r) a } }

/-- The resource that serves a request: of the service lanes 12 and 13 the other one while one is down (R324). -/
def resSteer (s : State) : ResId → ResId
  | .seam h l => .seam h (if l = 12 ∨ l = 13 then serviceLane s h l else l)
  | r => r

/-- Whether the resource is there: its slice, service lane, channel or port. Lane 14 carries nothing while it is down (R324). -/
def resExists (s : State) : ResId → Bool
  | .slice p k => p < panelsEn s && k < 8
  | .seam h l => h < 2 && 12 ≤ l && l < 15 && (l != 14 || laneUp s h 14)
  | .dram h c => h < 2 && decide (c < 32 * (if stackOn s (2 * h) then 1 else 0) + 32 * (if stackOn s (2 * h + 1) then 1 else 0))
  | .kwath p => p < 16

/-- The quantum of a resource (R307). -/
def resQuantum : ResId → Nat
  | .slice _ _ => 16
  | .seam _ _ => 64
  | .dram _ _ => 64
  | .kwath _ => 256

/-- The watchdog limit of a resource in µs (R330). -/
def resLimit (s : State) : ResId → Nat
  | .slice _ _ => field (dieReg s 0x400) 7 0
  | .seam _ _ => field (dieReg s 0x400) 15 8
  | .dram _ _ => field (dieReg s 0x400) 23 16
  | .kwath _ => 4 * field (dieReg s 0x400) 31 24

/-- Whether a request is of class 0 (R307): the sequencer at a slice, control flits on lane 14; elsewhere as posted. -/
def resClass0 (r : ResId) (who : Nat) (posted : Bool) : Bool :=
  match r with
  | .slice _ _ => who == 25
  | .seam _ l => l == 14 && posted
  | _ => posted

/-- The request that is granted next: class 0 in arrival order, class 1 in turn after the pointer (R308). -/
def arbNext (a : Arbiter) : Option ArbReq :=
  let ok := a.waiting.filter fun q => !a.fenced.contains q.who
  let c0 := sortBy (fun (x y : ArbReq) => x.arrived < y.arrived) (ok.filter fun q => q.class0)
  match c0 with
  | q :: _ => some q
  | [] =>
    let c1 := sortBy (fun (x y : ArbReq) => x.who < y.who) (ok.filter fun q => !q.class0)
    match a.pointer with
    | none => c1.head?
    | some k => match c1.find? fun q => k < q.who with
      | some q => some q
      | none => c1.head?

/-- A grant of the next request, without its side effects: the arbiter with the request taken out. -/
def arbTake (a : Arbiter) : Arbiter × Option ArbReq :=
  match arbNext a with
  | none => (a, none)
  | some q => ({ a with waiting := a.waiting.erase q, pointer := if q.class0 then a.pointer else some q.who }, some q)

/-- The order in which the waiting requests will be granted (R311), with fuel their number. -/
def arbOrder (a : Arbiter) : Nat → List Nat
  | 0 => []
  | n + 1 => match arbTake a with
    | (b, some q) => q.arrived :: arbOrder b n
    | _ => []

/-- Every waiting requester is sent its turn hint, at most 63 (R311). -/
def arbHints (a : Arbiter) : Arbiter :=
  let o := arbOrder a a.waiting.length
  { a with waiting := a.waiting.map fun q =>
      { q with hint := BitVec.ofNat 6 (match findIdxFrom (fun x => x == q.arrived) o 0 with | some i => if 63 < i then 63 else i | none => 63) } }

/-- The next grant, with its count at a slice page. -/
def arbGrant (s : State) (r : ResId) (a : Arbiter) : State :=
  match arbTake a with
  | (b, some q) =>
    let s1 := setArb s r (arbHints { b with holder := some (q, 0, s.now) })
    match r with
    | .slice p k => bumpFor s1 (.slice p k) 0x080 [(16, q.who), (16, q.progress)]
    | _ => s1
  | (b, none) => setArb s r (arbHints { b with holder := none })

/-- ARB_REQUEST (R306, R311). -/
def execArbRequest (r0 : ResId) (requester items : Nat) (class0 : Bool) (s : State) : Res :=
  .next (let r := resSteer s r0
    if !resExists s r || items == 0 || (match r with | .slice _ _ => decide (31 ≤ requester) | _ => false) then s
    else
      let a := getArb s r
      let q : ArbReq := { who := requester, class0 := resClass0 r requester class0, items := items, progress := 0, arrived := a.arrivals, hint := 0 }
      let b := { a with waiting := a.waiting ++ [q], arrivals := a.arrivals + 1 }
      if b.holder.isSome then setArb s r (arbHints b) else arbGrant s r b)

/-- Whether a tenure is to be revoked at the end of an item (R309). -/
def arbRevoke (r : ResId) (a : Arbiter) (q : ArbReq) (moved : Nat) : Bool :=
  let ok := a.waiting.filter fun x => !a.fenced.contains x.who
  (decide (resQuantum r ≤ moved) && ok.any fun x => x.class0 == q.class0) || (!q.class0 && ok.any fun x => x.class0)

/-- A request that gave its tenure up for want of a credit stays posted, behind the grant that follows it (R306). -/
def arbPost (s : State) (r : ResId) (q : ArbReq) : State :=
  let a := getArb s r
  setArb s r (arbHints { a with waiting := a.waiting ++ [{ q with arrived := a.arrivals }], arrivals := a.arrivals + 1 })

/-- ARB_ITEM_DONE (R306, R309, R310): the holder has moved one item. With no holder, a request that gave up its tenure is
granted again. -/
def execArbItemDone (r : ResId) (nextCredit : Bool) (s : State) : Res :=
  .next (let a := getArb s r
    match a.holder with
    | none => if a.waiting.isEmpty then s else arbGrant s r a
    | some (q, moved, _) =>
      let q1 := { q with progress := q.progress + 1 }
      let back : Arbiter := { a with holder := none, waiting := a.waiting ++ [{ q1 with arrived := a.arrivals }], arrivals := a.arrivals + 1 }
      if q1.items ≤ q1.progress then arbGrant s r { a with holder := none }
      else if arbRevoke r a q (moved + 1) then
        arbGrant (match r with | .slice p k => bumpFor s (.slice p k) 0x088 [(16, q1.who), (16, q1.progress)] | _ => s) r back
      else if !nextCredit then arbPost (arbGrant s r { a with holder := none }) r q1
      else setArb s r { a with holder := some (q1, moved + 1, s.now) })

/-- The counter and event of a resource's watchdog (R331, R332, R359). -/
def arbTrip (r : ResId) : PageId × Nat × Nat :=
  match r with
  | .slice p k => (.slice p k, 0x090, 16)
  | .seam h _ => (.half h, 0x0A0, 17)
  | .dram h _ => (.half h, 0x098, 18)
  | .kwath p => (.kwath p, 0x0A8, 18)

/-- ARB_WATCHDOG (R313): a holder that has a credit has moved nothing for longer than the limit. -/
def execArbWatchdog (r : ResId) (s : State) : Res :=
  .next (let a := getArb s r
    match a.holder with
    | none => s
    | some (q, _, last) =>
      if s.now ≤ last + resLimit s r then s
      else
        let t := arbTrip r
        let b := { a with holder := none, fenced := if a.fenced.contains q.who then a.fenced else a.fenced ++ [q.who] }
        let s1 := raiseEvent (bumpFor (arbGrant s r b) t.1 t.2.1 [(16, q.who), (16, q.progress)]) t.1 t.2.2 [(16, q.who), (16, q.progress)]
        match arbUnit r q.who with
        | some u => failUnit s1 u.1 7 7 u.2
        | none => s1)

end Sys2Proof.Machine
end

