-- ==== Sys2Proof/Machine/Kwath.lean ====
section
/-! DEFINITION. The Kwath fabric (R333 to R359): lanes and ports, LSEQ order and replays, messages between modules, roles,
discovery, the plan, re-shaping around faults, and the fabric key. -/

namespace Sys2Proof.Machine

/-! ### Lanes, ports, planes (R334, R335) -/

/-- FAB_CTRL. -/
def fabCtrl (s : State) : Word := dieReg s 0x480
/-- DISC_WAIT in µs. -/
def discWaitUs (s : State) : Nat := field (fabCtrl s) 15 8 * 100000
/-- HB in µs. -/
def hbUs (s : State) : Nat := field (fabCtrl s) 23 16 * 10000
/-- 2^KEY_LIFE. -/
def keyLife (s : State) : Nat := 2 ^ field (fabCtrl s) 29 24

/-- Whether a port has a lane up. -/
def kwPortUp (s : State) (p : Nat) : Bool := (List.range 8).any fun l => (getLane s p l).up

/-- What the module knows of a rack address; absent where it knows nothing. -/
def peerOf (s : State) (a : Nat) : PeerState :=
  (s.fab.peers.find? fun x => x.addr == a).getD { addr := a, planes := 0, rank := 0xFF, cls := 0 }

/-- Whether a port takes messages to send: it is up and neither drained nor draining (R532), and no debug unlock has stopped fabric
traffic (R420); a port whose address differs from the module's majority address is fenced (R348). -/
def kwSends (s : State) (p : Nat) : Bool :=
  let h := getHdr s (.kwath p)
  kwPortUp s p && s.sec.debug == 0 && !h.held && (h.st == .ready || h.st == .active) && !(getKw s p).mismatch

/-- The planes that are up between this module and another, in ascending order, in one half or in both. -/
def planesTo (s : State) (a : Nat) (half : Option Nat) : List Nat :=
  (List.range 16).filter fun p => kwSends s p && (peerOf s a).planes.getLsbD p && (match half with | some h => p / 8 == h | none => true)

/-- The plane that a message takes (R340): among those of the sender's half, or among all when none of them is up. -/
def pickPlane (s : State) (half a : Nat) (seq : BitVec 32) : Option Nat :=
  let mine := planesTo s a (some half)
  let ps := if mine.isEmpty then planesTo s a none else mine
  if ps.isEmpty then none else ps[((peerOf s a).rank + seq.toNat) % ps.length]?

/-- The address that holds a rank. -/
def addrOfRank (s : State) (r : Nat) : Option Nat := (s.fab.peers.find? fun x => x.rank == r && (x.cls == 1 || x.cls == 2)).map fun x => x.addr

/-- The first 16 bytes of this module's identity digest (R345). -/
def ownDigest (s : State) : BitVec 128 := BitVec.ofNat 128 (s.sec.identity.toNat / 2 ^ 384)

/-! ### Sending (R337, R338, R340, R354) -/

/-- The payload flits and the packets of a message (R354): VC 0 is not encrypted. -/
def txSize (vc : Nat) (data : List Byte) : Nat × Nat :=
  let n := (data.length + 63) / 64
  (n, if vc = 0 then 0 else (n + 31) / 32)

/-- One waiting message sends what its channel's credits allow (R337): LSEQ advances over its payload and tag flits; with its last flit it
is on its way, and each of its packets has taken a counter. A channel that has no credit left holds what stands behind. -/
def pumpTx (plane : Nat) (acc : State × List KwTx) (m : KwTx) : State × List KwTx :=
  let q : QueueId := .kwLink plane m.vc
  if acc.2.any fun x => x.vc == m.vc then (acc.1, acc.2 ++ [m])
  else
    let n := min m.left (queueDepth acc.1 q - usedCredits acc.1 q)
    let s1 := modKw (takeCredits acc.1 q n) plane fun k => { k with txSeq := k.txSeq + BitVec.ofNat 16 n, txCount := k.txCount + n }
    if n < m.left then (beginWait s1 q, acc.2 ++ [{ m with left := m.left - n }])
    else (emit { s1 with fab := { s1.fab with packets := s1.fab.packets + (txSize m.vc m.data).2 } } (.fabric plane m.dst m.vc m.seq m.data), acc.2)

/-- A port's waiting messages send what they can, in order in each channel. -/
def pumpKw (s : State) (plane : Nat) : State :=
  let r := (getKw s plane).txQueue.foldl (pumpTx plane) (s, [])
  modKw r.1 plane fun k => { k with txQueue := r.2 }

/-- A message goes to a plane's port, whose flits leave as their credits allow. -/
def transmit (s : State) (plane dst vc : Nat) (seq : BitVec 32) (data : List Byte) : State :=
  let z := txSize vc data
  pumpKw (modKw s plane fun k => { k with txQueue := k.txQueue ++ [{ dst := dst, vc := vc, seq := seq, data := data, left := z.1 + z.2 }] }) plane

/-- A port that has gone down keeps nothing to send, and its link begins again with every credit (R337, R340). -/
def clearLink (s : State) (plane : Nat) : State :=
  let s1 := modKw s plane fun k => { k with txQueue := [] }
  [0, 1, 2].foldl (fun s vc => giveCredit s (.kwLink plane vc) (usedCredits s (.kwLink plane vc))) s1

/-- The plane that a message leaves on: none on an encrypted channel while the module holds no key (R348 step 7, R354). -/
def sendPlane (s : State) (half dst vc : Nat) (seq : BitVec 32) : Option Nat :=
  if vc ≠ 0 ∧ s.fab.key.isNone = true then none else pickPlane s half dst seq

/-- A message to another module: it is held until acknowledged, and leaves at once when a plane is up (R340). Plane 16 stands
for none. -/
def sendMsg (s : State) (half dst vc : Nat) (data : List Byte) : State :=
  let k := dst * 4 + vc
  let seq := mapGet (0 : BitVec 32) s.fab.txSeq k
  let plane := sendPlane s half dst vc seq
  let s1 := { s with fab := { s.fab with
    txSeq := mapSet 0 s.fab.txSeq k (seq + 1)
    unacked := s.fab.unacked ++ [{ dst := dst, vc := vc, seq := seq, plane := plane.getD 16, half := half, data := data }] } }
  match plane with
  | some p => transmit s1 p dst vc seq data
  | none => s1

/-- A message of VC 0 that nothing acknowledges: a HELLO, a heartbeat, an acknowledgement or a control message. -/
def sendControl (s : State) (dst : Nat) (data : List Byte) : State :=
  match pickPlane s 0 dst 0 with
  | some p => transmit s p dst 0 0 data
  | none => s

/-- Messages whose plane is down are sent again on a plane that is up (R340). -/
def resendMsgs (s : State) (lost : TxMsg → Bool) : State :=
  (s.fab.unacked.filter lost).foldl (fun s m =>
    match sendPlane s m.half m.dst m.vc m.seq with
    | some p =>
      transmit { s with fab := { s.fab with unacked := s.fab.unacked.map fun x =>
        if x = m then { x with plane := p } else x } } p m.dst m.vc m.seq m.data
    | none => { s with fab := { s.fab with unacked := s.fab.unacked.map fun x => if x = m then { x with plane := 16 } else x } }) s

/-- The header of the plan in force: GENERATION and ENTRIES (R345); zero where there is none. -/
def planHeader (s : State) : List Byte :=
  match s.fab.plan with
  | some p => natLe 8 (p.generation.toNat + 65536 * p.entries.length) ++ natLe 8 0
  | none => natLe 8 0 ++ natLe 8 0

/-- A broadcast message (R336, R353): VC 2 to multicast group 0, which holds every admitted module; chunk i leaves on the i-th plane that is
up, modulo their number. Nothing leaves while the module holds no key or no plane is up. -/
def multicast (s : State) (idx : Nat) (data : List Byte) : State :=
  let ps := (List.range 16).filter (kwSends s)
  if s.fab.key.isNone then s
  else match ps[idx % ps.length]? with
    | some p => transmit s p 0 2 (BitVec.ofNat 32 idx) data
    | none => s

/-- The HELLO that this module sends on a port (R348): digest, address, role, and the header of its signed plan with the generation. -/
def sendHello (s : State) (port : Nat) : State :=
  if s.sec.debug ≠ 0 then s else transmit s port 63 0 0 (natBe 16 (ownDigest s).toNat ++ [BitVec.ofNat 8 s.fab.addr, BitVec.ofNat 8 s.fab.role]
    ++ planHeader s)

/-! ### Degraded shapes and re-shaping (R349, R351) -/

/-- Whether something that is planned is missing: a rank with no module, or a planned module on fewer planes than planned. -/
def planDegraded (s : State) : Bool :=
  match s.fab.plan with
  | none => false
  | some t => t.entries.any fun e => e.role != 3 && e.addr != s.fab.addr &&
      (let x := peerOf s e.addr
       if x.cls == 1 then x.planes &&& e.planes != e.planes
       else !(s.fab.peers.any fun y => y.cls == 2 && y.rank == e.rank))

/-- STATE after a change: RUNNING when nothing that is planned is missing, DEGRADED otherwise. -/
def settleFab (s : State) : State :=
  if s.fab.st = 4 ∨ s.fab.st = 5 then
    { s with fab := { s.fab with st := if s.fab.faults.isEmpty && !planDegraded s then 4 else 5 } }
  else s

/-- Traffic is re-shaped for a fault, once: 0 a lane, 1 a port of a module, 3 a module, 4 the manager. -/
def reshape (s : State) (f : Nat × Nat × Nat) : State :=
  if s.fab.faults.contains f then s
  else
    let s1 := bumpFor { s with fab := { s.fab with faults := s.fab.faults ++ [f] } } .die 0x4A0 [(6, f.2.1), (6, f.2.2)]
    settleFab (raiseEvent s1 .die 50 [(6, f.2.1), (6, f.2.2)])

/-- A repaired fault's re-shaping is reversed. -/
def unshape (s : State) (f : Nat × Nat × Nat) : State :=
  settleFab { s with fab := { s.fab with faults := s.fab.faults.filter fun x => x != f } }

/-- A module's port on a plane goes down (R342, R351): its peers stop using it, and messages on it go elsewhere. -/
def downPlane (s : State) (a plane : Nat) : State :=
  let own := a == s.fab.addr
  let s1 := if own then clearLink ((List.range 8).foldl (fun s l => modLane s plane l fun x => { x with up := false }) s) plane
    else modKw { s with fab := { s.fab with peers := s.fab.peers.map fun x =>
      if x.addr = a then { x with planes := x.planes &&& ~~~(BitVec.ofNat 16 (2 ^ plane)) } else x } } plane fun k =>
      { k with txQueue := k.txQueue.filter fun m => m.dst != a || m.vc == 2 }
  let s2 := reshape s1 (1, a, plane)
  resendMsgs s2 fun m => m.plane == plane && (own || m.dst == a)

/-! ### The rows: lanes and flits -/

/-- Whether more than sixteen uncorrectable codewords fell within the last second (R334). -/
def laneBad (s : State) (x : KwLane) : Bool := decide (16 < (x.errors.filter fun t => decide (s.now < t + 1000000)).length)

/-- KW_LANE_DOWN (R334, R351). -/
def execKwLaneDown (port lane : Nat) (lostLock : Bool) (s : State) : Res :=
  .next (let x := getLane s port lane
    if !x.up || !(lostLock || laneBad s x) then s
    else
      let s1 := modLane s port lane fun x => { x with up := false, errors := [], lastTry := some s.now }
      let s2 := raiseEvent s1 (.kwath port) 16 [(4, port), (3, lane)]
      let s3 := writeSig s2 { SigInfo.plain 6 6 0 with lane := some lane }
      let s4 := reshape s3 (0, port, lane)
      if kwPortUp s4 port then s4 else downPlane s4 s4.fab.addr port)

/-- A port that comes up joins discovery (R348) and takes messages that wait for a plane. -/
def portJoined (s : State) (port : Nat) : State :=
  let s1 := unshape s (1, s.fab.addr, port)
  let s2 := { s1 with fab := { s1.fab with
    st := if s1.fab.st = 1 then 2 else s1.fab.st
    discSince := match s1.fab.discSince with | some t => some t | none => some s.now } }
  resendMsgs (sendHello s2 port) fun m => m.plane == 16

/-- KW_LANE_RETRAIN (R334): a down lane tries once every ten seconds, while the lasers are on. -/
def execKwLaneRetrain (port lane : Nat) (ok : Bool) (s : State) : Res :=
  .next (let x := getLane s port lane
    let due := match x.lastTry with | none => true | some t => decide (t + 10000000 ≤ s.now)
    if x.up || !s.fab.lasers || !due then s
    else
      let was := kwPortUp s port
      let s1 := modLane s port lane fun x => { x with lastTry := some s.now, up := ok, errors := [] }
      if !ok then s1
      else
        let s2 := unshape s1 (0, port, lane)
        if was then s2 else portJoined s2 port)

/-- UNCORRECTABLE_CODEWORD (R334): counted in KW_FEC_UNCORR and towards the lane's limit. -/
def execUncorrectableCodeword (port lane : Nat) (s : State) : Res :=
  .next (if !(getLane s port lane).up then s
    else bumpFor (modLane s port lane fun x =>
      { x with errors := (x.errors.filter fun t => decide (s.now < t + 1000000)) ++ [s.now] }) (.kwath port) 0x088 [(3, lane)])

/-- Whether a module's traffic other than HELLOs is dropped on a port (R350, R356). -/
def kwFenced (s : State) (port src : Nat) : Bool := s.fab.fencedMods.contains src || (getKw s port).fenced.contains src

/-- A packet's tag has failed (R356): counted, raised, replayed from the packet's first flit; sixteen within a second fence the
sender on the plane. -/
def tagFailed (s : State) (port : Nat) (f : KwFlit) : State :=
  let s1 := raiseEvent (bumpFor s (.kwath port) 0x098 [(6, f.src)]) (.kwath port) 17 [(6, f.src)]
  let s2 := modKw s1 port fun k =>
    { k with
      authTimes := (k.authTimes.filter fun t => decide (s.now < t + 1000000)) ++ [s.now]
      rxSeq := k.pktFirst
      asking := true }
  let s3 := emit s2 (.kwReplayAsk port (getKw s2 port).pktFirst)
  if 16 ≤ (getKw s3 port).authTimes.length then
    downPlane (modKw s3 port fun k => { k with fenced := if k.fenced.contains f.src then k.fenced else k.fenced ++ [f.src], authTimes := [] }) f.src port
  else s3

/-- Whether a tag flit's epoch is one that the receiver accepts (R355). -/
def epochOk (s : State) (e : BitVec 8) : Bool := e == s.fab.epoch || (s.fab.prevKey.isSome && e == s.fab.epoch - 1)

/-- A sender has sent a packet of an epoch; the key before is dropped once every keyed sender has sent one of the new epoch. -/
def sawEpoch (s : State) (port src : Nat) (e : BitVec 8) : State :=
  let s1 := modKw s port fun k => { k with epochs := (k.epochs.filter fun x => x.1 != src) ++ [(src, e)] }
  let seen (a : Nat) : Bool := (List.range 16).any fun p => (getKw s1 p).epochs.contains (a, s1.fab.epoch)
  if s1.fab.keyed.all fun a => a == s1.fab.addr || seen a then { s1 with fab := { s1.fab with prevKey := none } } else s1

/-- A flit in LSEQ order passes on (R337, R347, R350, R354): its credits return to this sender; any VC 0 flit of the manager is
a sign of its life; a packet's first flit and its tag flit are noted and checked. -/
def acceptFlit (s : State) (port : Nat) (f : KwFlit) : State :=
  let s1 := pumpKw ((f.credits.zipIdx).foldl (fun s (x : Nat × Nat) => if x.1 = 0 then s else giveCredit s (.kwLink port x.2) x.1) s) port
  if kwFenced s1 port f.src && !f.hello then s1
  else
    let mgr := match s1.fab.plan with | some t => t.entries.any (fun e => e.addr == f.src && e.role == 1) | none => false
    let s2 := if f.vc = 0 ∧ f.hello = false ∧ mgr = true then { s1 with fab := { s1.fab with lastHb := some s1.now } } else s1
    let s3 := if f.first then modKw s2 port fun k => { k with pktFirst := f.lseq } else s2
    if !f.tagFlit then s3
    else if f.tagOk && epochOk s3 f.epoch then sawEpoch s3 port f.src f.epoch
    else tagFailed s3 port f

/-- Flits in order pass on as long as the next is at hand: one turn for each flit held. -/
def drainFlits (s : State) (port : Nat) : Nat → State
  | 0 => s
  | n + 1 =>
    let k := getKw s port
    match k.rxHeld.find? fun f => f.lseq == k.rxSeq with
    | none => s
    | some f =>
      let s1 := modKw s port fun k => { k with rxSeq := k.rxSeq + 1, asking := false, rxHeld := k.rxHeld.filter fun x => x.lseq != f.lseq }
      drainFlits (acceptFlit s1 port f) port n

/-- KW_FLIT_RECEIVE (R337, R338): a flit ahead of its order is held and a replay from the first missing LSEQ is asked for once; a
flit already passed on is dropped. -/
def execKwFlitReceive (port : Nat) (f : KwFlit) (s : State) : Res :=
  .next (let k := getKw s port
    let ahead := (f.lseq - k.rxSeq).toNat
    if !kwPortUp s port || s.sec.debug != 0 || decide (32768 ≤ ahead) then s
    else
      let s1 := modKw s port fun k => { k with rxHeld := (k.rxHeld.filter fun x => x.lseq != f.lseq) ++ [f] }
      if ahead = 0 then drainFlits s1 port (k.rxHeld.length + 1)
      else if k.asking then s1
      else emit (modKw s1 port fun k => { k with asking := true }) (.kwReplayAsk port k.rxSeq))

/-- KW_REPLAY_REQUEST (R338): every flit from the first missing one is sent again; a request beyond the held flits takes the
port down. -/
def execKwReplayRequest (port : Nat) (lseq : BitVec 16) (s : State) : Res :=
  .next (let k := getKw s port
    let back := (k.txSeq - lseq).toNat
    if !kwPortUp s port || s.sec.debug != 0 || back == 0 then s
    else if back ≤ 2048 ∧ back ≤ k.txCount then emit (bumpFor s (.kwath port) 0x090 [(4, port)]) (.kwFlits port lseq (k.txSeq - 1))
    else downPlane s s.fab.addr port)

/-! ### The rows: messages (R340 to R343) -/

/-- The jobs of a bolt's unsealed steps end because a module is lost (R342). -/
def peerLost (s : State) (nw : Nat) : State :=
  match getBolt s nw with
  | none => s
  | some b => claimAll s (jobsOfSteps s (b.steps.filter fun t => !t.sealed)) 0x16

/-- FABRIC_SEND (R340 to R342): a panel core's send descriptor; its length is a multiple of 64 up to 1 MiB. -/
def execFabricSend (p dstRank dstPanel flow addr len : Nat) (s : State) : Res :=
  .next (match boltOfPanel s p with
    | none => s
    | some (nw, b) =>
      if len = 0 ∨ len % 64 ≠ 0 ∨ 0x100000 < len ∨ 255 < flow ∨ sramSize < addr + len ∨ s.fab.key.isNone = true then s
      else
        match addrOfRank s dstRank with
        | none => match s.fab.lostMods with | [] => s | _ => peerLost s nw
        | some a =>
          if s.fab.lostMods.contains a then peerLost s nw
          else
            let r := sramRead (getPanel s p) (boltCtx s p) addr len
            let s1 := if r.violation then
                claimAll (raiseEvent (bumpFor s .sec 0x098 [(12, b.tenant), (6, nw)]) .sec 16 [(12, b.tenant), (6, nw)])
                  (jobsOfSteps s (b.steps.filter fun t => !t.sealed)) 0x18
              else s
            let head := natLe 2 dstPanel ++ natLe 2 flow ++ natLe 2 b.tenant
              ++ natLe 4 (match b.pat with | some t => t.pattern | none => 0) ++ [BitVec.ofNat 8 (b2n r.mark.poison)]
            sendMsg s1 (halfOf p) a 1 (head ++ r.bytes))

/-- A message enters a posted buffer, marked when it carries poison (R341, R342); a line that another tenant holds is not written (R413). -/
def fillBuffer (s : State) (p : Nat) (b : RxBuf) (m : FabMsg) : State :=
  let data := m.data.take b.len
  let s1 := if sramViolates (getPanel s p) (boltCtx s p) b.addr data.length then
      match boltOfPanel s p with
      | some (nw, x) => raiseEvent (bumpFor s .sec 0x098 [(12, x.tenant), (6, nw)]) .sec 16 [(12, x.tenant), (6, nw)]
      | none => s
    else s
  modPanel s1 p fun q =>
    sramWrite { q with rxBufs := q.rxBufs.erase b } (boltCtx s p) b.addr [(data, { LineMark.clean with poison := m.poison })]

/-- The next message that waits for a buffer of a flow takes it. -/
def serveBuffer (s : State) (p flow : Nat) : State :=
  let q := getPanel s p
  match q.rxBufs.find? fun b => b.flow == flow, q.rxWait.find? fun m => m.flow == flow with
  | some b, some m => fillBuffer (modPanel s p fun q => { q with rxWait := q.rxWait.erase m }) p b m
  | _, _ => s

/-- A message reaches its panel (R341, R343, R371). -/
def deliverMsg (s : State) (m : FabMsg) : State :=
  let ok := match boltOfPanel s m.dstPanel with
    | some (_, b) => b.tenant == m.tenant && (match b.pat with | some t => t.pattern == m.pattern | none => false)
    | none => false
  if !ok then
    raiseEvent (bumpFor s (.kwath (m.port % 16)) 0x0A0 [(6, m.src), (8, m.flow)]) (.kwath (m.port % 16)) 17 [(6, m.src), (8, m.flow)]
  else if m.basting && staleAt s m.dstPanel m.step m.gen then s
  else serveBuffer (modPanel s m.dstPanel fun q => { q with rxWait := q.rxWait ++ [m] }) m.dstPanel m.flow

/-- Messages received ahead of order are delivered as long as the next is at hand. -/
def drainEarly (s : State) (k : Nat) : Nat → State
  | 0 => s
  | n + 1 =>
    let want := mapGet (0 : BitVec 32) s.fab.rxSeq k
    match s.fab.early.find? fun m => m.src * 4 + m.vc == k && m.seq == want with
    | none => s
    | some m =>
      let s1 := { s with fab := { s.fab with early := s.fab.early.erase m, rxSeq := mapSet 0 s.fab.rxSeq k (want + 1) } }
      drainEarly (deliverMsg s1 m) k n

/-- FABRIC_MESSAGE_RECEIVE (R340, R341): acknowledged; delivered in the order of its source and VC; a copy of one delivered is
discarded. -/
def execFabricMessageReceive (m : FabMsg) (s : State) : Res :=
  .next (if s.fab.fencedMods.contains m.src ∨ s.sec.debug ≠ 0 then s
    else
      let k := m.src * 4 + m.vc
      let ahead := (m.seq - mapGet (0 : BitVec 32) s.fab.rxSeq k).toNat
      let s1 := sendControl s m.src (natLe 1 m.vc ++ natLe 4 m.seq.toNat)
      if 2147483648 ≤ ahead ∨ s1.fab.early.contains m = true then s1
      else drainEarly { s1 with fab := { s1.fab with early := s1.fab.early ++ [m] } } k (s1.fab.early.length + 1))

/-- RECEIVE_BUFFER_POST (R341). -/
def execReceiveBufferPost (p flow addr len : Nat) (s : State) : Res :=
  .next (if (boltOfPanel s p).isNone ∨ 255 < flow ∨ sramSize < addr + len then s
    else serveBuffer (modPanel s p fun q => { q with rxBufs := q.rxBufs ++ [{ flow := flow, addr := addr, len := len }] }) p flow)

/-- MESSAGE_ACK (R340): the message is held no longer. -/
def execMessageAck (dst vc : Nat) (seq : BitVec 32) (s : State) : Res :=
  .next { s with fab := { s.fab with unacked := s.fab.unacked.filter fun m => !(m.dst == dst && m.vc == vc && m.seq == seq) } }

/-! ### Discovery, plan, keys (R344 to R350, R354, R355) -/

/-- The planes on which a HELLO was seen under its sender's majority address (R348). -/
def helloPlanes (m : HelloMsg) : BitVec 16 :=
  let count (a : Nat) : Nat := (m.seen.filter fun x => x.2 == a).length
  let best := m.seen.foldl (fun b x => if count b < count x.2 then x.2 else b) m.addr
  m.seen.foldl (fun w x => if x.2 = best then w ||| BitVec.ofNat 16 (2 ^ x.1) else w) 0

/-- The address that most ports report. -/
def majority (seen : List (Nat × Nat)) (d : Nat) : Nat :=
  let count (a : Nat) : Nat := (seen.filter fun x => x.2 == a).length
  seen.foldl (fun b x => if count b < count x.2 then x.2 else b) d

/-- The comparison of R349 and R350: what each address turns out to be. -/
def comparePlan (s : State) (t : Plan) : List PeerState :=
  let hello (a : Nat) : Option HelloMsg := s.fab.hellos.find? fun m => m.addr == a
  let own (e : PlanEntry) : Bool := e.addr == s.fab.addr
  let matched (e : PlanEntry) : Bool := own e || (match hello e.addr with | some m => m.digest == e.digest | none => false)
  let planes (e : PlanEntry) : BitVec 16 :=
    if own e then BitVec.ofNat 16 ((List.range 16).foldl (fun w p => if kwPortUp s p then w + 2 ^ p else w) 0)
    else match hello e.addr with | some m => helloPlanes m | none => 0
  let es := sortBy (fun (x y : PlanEntry) => decide (x.addr < y.addr)) t.entries
  let missing := es.filter fun e => e.role != 3 && !matched e
  let spares := es.filter fun e => e.role == 3 && matched e
  let darns := missing.zip spares
  (es.map fun e =>
    if e.role = 3 then
      (match darns.find? fun d => d.2.addr == e.addr with
        | some d => { addr := e.addr, planes := planes e, rank := d.1.rank, cls := 2 }
        | none => if matched e then { addr := e.addr, planes := planes e, rank := 0xFF, cls := 4 }
                  else { addr := e.addr, planes := 0, rank := 0xFF, cls := if (hello e.addr).isSome then 3 else 0 })
    else if matched e then { addr := e.addr, planes := planes e, rank := e.rank, cls := 1 }
    else { addr := e.addr, planes := 0, rank := 0xFF, cls := if (hello e.addr).isSome then 3 else 0 })
  ++ ((s.fab.hellos.filter fun m => m.addr != s.fab.addr && !(t.entries.any fun e => e.addr == m.addr)).map fun m =>
    { addr := m.addr, planes := helloPlanes m, rank := 0xFF, cls := 3 })

/-- The plan's outcome comes into force: darns and fences that are new are counted and raised (R349, R350). FAB_EXTRA is the
manager's. A fenced module stays fenced until a plan that names it is in force, also while nothing is heard of it. -/
def adoptPeers (s : State) (ps : List PeerState) (manager : Bool) : State :=
  let newDarns := ps.filter fun x => x.cls == 2 && !(s.fab.peers.any fun y => y.addr == x.addr && y.cls == 2 && y.rank == x.rank)
  let newFences := ps.filter fun x => x.cls == 3 && !s.fab.fencedMods.contains x.addr
  let s1 := if manager then newDarns.foldl (fun s x => raiseEvent (bumpFor s .die 0x4A8 [(6, x.addr), (8, x.rank)]) .die 52 [(6, x.addr), (8, x.rank)]) s else s
  let s2 := newFences.foldl (fun s x =>
    let t := bumpFor s .die 0x4B0 [(6, x.addr)]
    if manager then raiseEvent t .die 51 [(6, x.addr)] else t) s1
  let mine := ps.find? fun x => x.addr == s.fab.addr
  let still := s.fab.fencedMods.filter fun a => !(ps.any fun x => x.addr == a && x.cls != 0)
  { s2 with fab := { s2.fab with
    peers := (ps.filter fun x => !still.contains x.addr) ++ still.map fun a => { addr := a, planes := 0, rank := 0xFF, cls := 3 }
    fencedMods := (ps.filter fun x => x.cls == 3).map (fun x => x.addr) ++ still
    rank := match mine with | some x => x.rank | none => s2.fab.rank } }

/-- The modules that the manager admits: planned, darned in, or unused spares. -/
def admitted (s : State) : List Nat := (s.fab.peers.filter fun x => (x.cls == 1 || x.cls == 2 || x.cls == 4) && x.addr != s.fab.addr).map fun x => x.addr

/-- A new epoch (R354, R355): a fresh key for this module and, wrapped, for every admitted one. The key-encryption key that
attestation brought stands as 2^16 plus the module's address. -/
def newEpoch (s : State) : State :=
  if s.sec.debug ≠ 0 then s else
  let key := Config.randomKey s.freeCtr
  let e := s.fab.epoch + 1
  let mods := admitted s
  let s1 := drawFree { s with fab := { s.fab with
    prevKey := s.fab.key
    key := some key
    epoch := e
    packets := 0
    keyed := mods ++ [s.fab.addr] } }
  let s2 := mods.foldl (fun s a => emit s (.fabricKey a e { kek := 65536 + a, label := 0, message := natLe 32 key.toNat })) s1
  resendMsgs s2 fun m => m.plane == 16

/-- The faults that still stand once the peers are known (R351): a lane's own end, a port that is down, a module that is lost or absent. -/
def healFaults (s : State) : State :=
  { s with fab := { s.fab with faults := s.fab.faults.filter fun f =>
      if f.1 = 0 then true
      else if f.1 = 1 then (if f.2.1 = s.fab.addr then !kwPortUp s f.2.2 else !(peerOf s f.2.1).planes.getLsbD f.2.2)
      else (peerOf s f.2.1).planes == 0 && f.2.1 != s.fab.addr } }

/-- The manager's work once it knows its neighbours (R348 steps 5 to 7): plan state and keys go to every admitted module. -/
def manage (s : State) : State :=
  match s.fab.plan with
  | none => s
  | some t =>
    let s1 := healFaults (adoptPeers s (comparePlan s t) true)
    let s2 := (admitted s1).foldl (fun s a => sendMsg s 0 a 0 (natLe 2 t.generation.toNat)) s1
    let s3 := newEpoch s2
    let bad := planDegraded s3
    let s4 := { s3 with fab := { s3.fab with st := if bad || !s3.fab.faults.isEmpty then 5 else 4, discSince := none } }
    if bad then raiseEvent s4 .die 50 [(6, s4.fab.addr)] else s4

/-- The module's active role changes (R346, R347). -/
def setRole (s : State) (r : Nat) : State := raiseEvent { s with fab := { s.fab with role := r } } .die 53 [(2, r)]

/-- PLANE_DOWN (R351). -/
def execPlaneDown (addr plane : Nat) (s : State) : Res := .next (if s.fab.roleInForce = 0 then s else downPlane s addr plane)

/-- HEARTBEAT_SEND (R344). -/
def execHeartbeatSend (s : State) : Res :=
  .next (let due := match s.fab.lastHb with | none => true | some t => decide (t + hbUs s ≤ s.now)
    if s.fab.role ≠ 2 ∨ s.fab.st < 4 ∨ s.sec.debug ≠ 0 ∨ due = false then s
    else (admitted s).foldl (fun s a => sendControl s a [1]) { s with fab := { s.fab with lastHb := some s.now } })

/-- MANAGER_LOST (R347, R351): three heartbeats are missed; the standby becomes the manager. -/
def execManagerLost (s : State) : Res :=
  .next (match s.fab.lastHb with
    | none => s
    | some t =>
      if (s.fab.role ≠ 1 ∧ s.fab.role ≠ 3) ∨ s.fab.st < 4 ∨ s.now < t + 3 * hbUs s then s
      else
        let mgr : Nat := match s.fab.plan with | some p => (match p.entries.find? fun e => e.role == 1 with | some e => e.addr | none => 0) | none => 0
        let s1 := reshape { s with fab := { s.fab with lastHb := none, hellos := s.fab.hellos.filter fun m => m.addr != mgr } } (4, mgr, 0)
        if s.fab.role = 3 then manage (setRole s1 2) else setRole s1 1)

/-- MODULE_LOST (R342, R351): the jobs that wait on it end, other modules stop sending to it, and the manager darns its rank. -/
def execModuleLost (addr : Nat) (s : State) : Res :=
  .next (if s.fab.roleInForce = 0 ∨ addr = s.fab.addr ∨ s.fab.lostMods.contains addr = true then s
    else
      let rank := (peerOf s addr).rank
      let s1 := { s with fab := { s.fab with
        lostMods := s.fab.lostMods ++ [addr]
        hellos := s.fab.hellos.filter fun m => m.addr != addr
        unacked := s.fab.unacked.filter fun m => m.dst != addr
        peers := s.fab.peers.map fun x => if x.addr = addr then { x with planes := 0 } else x } }
      let s2 := reshape s1 (3, addr, 0)
      let s3 := (boltList s2).foldl (fun s x => if 1 < x.2.ranks ∧ rank < x.2.ranks then peerLost s x.1 else s) s2
      if s3.fab.role = 2 then manage s3 else s3)

/-- Whether a HELLO tells a running manager something new: a module that it has not admitted on those planes (R348, R351). -/
def newcomer (s : State) (m : HelloMsg) : Bool :=
  let x := peerOf s m.addr
  s.fab.discSince.isNone && !((x.cls == 1 || x.cls == 2 || x.cls == 4) && x.planes == helloPlanes m)

/-- HELLO (R346, R348, R350): collected. One that names this module's own digest says which address each of its ports sees (log
entry 21). A second manager's makes the one of lower plan generation, or the higher address, a worker. -/
def execHello (m : HelloMsg) (s : State) : Res :=
  .next (if s.fab.roleInForce = 0 then s
    else if m.digest = ownDigest s then
      let a := majority m.seen m.addr
      let s1 := { s with fab := { s.fab with addr := a } }
      m.seen.foldl (fun s x => modKw s x.1 fun k => { k with addrSeen := x.2, mismatch := x.2 != a }) s1
    else
      let s1 := { s with fab := { s.fab with
        hellos := (s.fab.hellos.filter fun x => x.addr != m.addr) ++ [m]
        lostMods := s.fab.lostMods.filter fun a => a != m.addr
        discSince := if s.fab.role = 2 ∧ 4 ≤ s.fab.st ∧ newcomer s m = true then some s.now else s.fab.discSince } }
      if s1.fab.role = 2 ∧ m.role = 2 ∧ m.sigOk = true then
        let mine := match s1.fab.plan with | some p => p.generation | none => 0
        if mine < m.planGen ∨ (mine = m.planGen ∧ m.addr < s1.fab.addr) then setRole s1 1
        else raiseEvent s1 .die 53 [(2, 2)]
      else s1)

/-- DISC_WAIT (R348 steps 4 to 6). -/
def execDiscWait (s : State) : Res :=
  .next (match s.fab.discSince with
    | none => s
    | some t => if s.fab.role = 2 ∧ t + discWaitUs s ≤ s.now then manage s else s)

/-- FABRIC_KEY_RECEIVE (R348 step 7, R354): the wrapped key opens under this module's key-encryption key. -/
def execFabricKeyReceive (epoch : BitVec 8) (ct : Oaep) (s : State) : Res :=
  .next (if s.fab.roleInForce = 0 ∨ s.sec.debug ≠ 0 ∨ s.sec.kekReady = false ∨ ct.kek ≠ s.sec.kekId ∨ ct.message.length ≠ 32 then s
    else
      let s1 := { s with fab := { s.fab with
        prevKey := s.fab.key
        key := some (BitVec.ofNat 256 (leNat ct.message))
        epoch := epoch
        packets := 0
        keyed := admitted s ++ [s.fab.addr] } }
      let s2 := { s1 with fab := { s1.fab with st := if s1.fab.faults.isEmpty && !planDegraded s1 then 4 else 5 } }
      resendMsgs s2 fun m => m.plane == 16)

/-- EPOCH_REQUEST (R355): a sender that has used its packet counters asks for a new epoch; the manager starts one. -/
def execEpochRequest (sender : Nat) (s : State) : Res :=
  .next (if s.fab.st < 4 ∨ (sender = s.fab.addr ∧ s.fab.packets < keyLife s) then s
    else if s.fab.role = 2 then newEpoch s
    else if sender = s.fab.addr then
      (match s.fab.plan with
        | some p => (match p.entries.find? fun e => e.role == 1 with | some e => sendControl s e.addr [2] | none => s)
        | none => s)
    else s)

/-- The role that a plan gives this module, or the one it runs under. -/
def plannedRole (s : State) (p : Plan) : Nat :=
  match p.entries.find? fun e => e.addr == s.fab.addr with
  | some e => if s.fab.role = 2 then 2 else if e.role = 2 then 3 else s.fab.role
  | none => s.fab.role

/-- PLAN_STATE_RECEIVE (R345, R349, R350): a plan whose signature the owner key does not verify is refused and counted on the
port that brought it; a plan older than the one in force is superseded already. -/
def execPlanStateReceive (m : PlanMsg) (s : State) : Res :=
  .next (if s.fab.roleInForce = 0 then s
    else if s.sec.owner ≠ some m.plan.signer then raiseEvent (bumpFor s (.kwath m.port) 0x0B0 [(4, m.port)]) .die 54 [(4, m.port)]
    else if (match s.fab.plan with | some p => decide (m.plan.generation < p.generation) | none => false) then s
    else
      let s1 := healFaults (adoptPeers { s with fab := { s.fab with plan := some m.plan, role := plannedRole s m.plan } } m.peers false)
      settleFab { s1 with fab := { s1.fab with st := if s1.fab.st = 2 ∨ s1.fab.st = 1 then 3 else s1.fab.st, lastHb := some s1.now } })

end Sys2Proof.Machine
end

