-- ==== Sys2Proof/Machine/Sampler.lean ====
section
/-! DEFINITION. The sampler: the sampling block (R195), the draw (R196), SAMPLE and SMERGE (R197, R198, R276, R277). -/

namespace Sys2Proof.Machine

/-! ### The sampling block (R195) -/

/-- A request's sampling block. -/
structure SampBlock where
  temp : F32
  topP : F32
  rep : F32
  freq : F32
  pres : F32
  topK : Nat
  reset : Bool
  seed : Word
  deriving DecidableEq, Repr

/-- The fields of a sampling block's 32 bytes. -/
def sampBlock (bs : List Byte) : SampBlock :=
  { temp := BitVec.ofNat 32 (bytesNat bs 0 4), topP := BitVec.ofNat 32 (bytesNat bs 4 4), rep := BitVec.ofNat 32 (bytesNat bs 8 4),
    freq := BitVec.ofNat 32 (bytesNat bs 12 4), pres := BitVec.ofNat 32 (bytesNat bs 16 4),
    topK := bytesNat bs 16 8 / 2 ^ 32 % 2 ^ 11, reset := (bytesNat bs 16 8).testBit 48, seed := BitVec.ofNat 64 (bytesNat bs 24 8) }

/-- Whether a finite value lies between two. -/
def fBetween (lo hi x : F32) : Bool := isFin x && !(toDy x).lt (toDy lo) && !(toDy hi).lt (toDy x)

/-- Whether a block keeps the ranges of R195. TEMP is +0 or 2⁻⁸ to 256; the bounds are their binary32 patterns. -/
def sampOk (bs : List Byte) : Bool :=
  let b := sampBlock bs
  let w2 := bytesNat bs 16 8
  bs.length == 32 && (b.temp == 0 || fBetween 0x3B800000 0x43800000 b.temp)
    && fBetween 0 fOne b.topP && !isZero b.topP && fBetween 0x3D800000 0x41800000 b.rep
    && fBetween 0xC1800000 0x41800000 b.freq && fBetween 0xC1800000 0x41800000 b.pres
    && decide (1 ≤ b.topK ∧ b.topK ≤ 1024) && w2 / 2 ^ 43 % 2 ^ 5 == 0 && w2 / 2 ^ 49 == 0

/-! ### The draw (R196) -/

/-- sat32: a value beyond the range takes the largest finite value of its sign. -/
def sat32 (x : F32) : F32 := if isInf x then withSign (fNeg x) 0x7F7FFFFF else x

/-- A logit after the penalties of its token's count. -/
def penalised (b : SampBlock) (count : BitVec 16) (z : F32) : F32 :=
  if count = 0 then z
  else
    let z1 := if fGt z 0 then sat32 (fDiv z b.rep) else sat32 (fMul z b.rep)
    let z2 := sat32 (fSub z1 (sat32 (fMul b.freq (fOfNat count.toNat))))
    sat32 (fSub z2 b.pres)

/-- The order of the draw: the higher logit first, the lower token among equals. -/
def candLt (a b : BitVec 32 × F32) : Bool := fGt a.2 b.2 || (!fGt b.2 a.2 && decide (a.1.toNat < b.1.toNat))

/-- The first K of some candidates in the order of the draw. -/
def firstK (k : Nat) (cs : List (BitVec 32 × F32)) : List (BitVec 32 × F32) := (sortBy candLt cs).take k

/-- The count of a token in a count table. -/
def countOf (counts : List (BitVec 32 × BitVec 16)) (t : BitVec 32) : BitVec 16 :=
  match counts.find? fun c => c.1 == t with
  | some c => c.2
  | none => 0

/-- Running sums of the probabilities up to the first that reaches a limit. -/
def cumUpTo (lim : F32) : List F32 → F32 → List F32
  | [], _ => []
  | p :: ps, acc =>
    let a := fAdd acc p
    a :: if fGt lim a then cumUpTo lim ps a else []

/-- The token drawn for a position from candidates in order (R196). -/
def drawToken (b : SampBlock) (pos : Nat) (cs : List (BitVec 32 × F32)) : BitVec 32 :=
  match cs with
  | [] => 0xFFFFFFFF
  | top :: _ =>
    if b.temp = 0 then top.1
    else
      let ys := cs.map fun c => sat32 (fDiv c.2 b.temp)
      let y0 := sat32 (fDiv top.2 b.temp)
      let pr := ys.map fun y => fExp (fSub y y0)
      let lim := fMul b.topP (pr.foldl fAdd 0)
      let cum := cumUpTo lim pr 0
      let x0 := (philox b.seed (pos % 2 ^ 32, 0, 0, 0)).1
      let u := withSign false (roundMag (x0 / 256) (-24) false)
      let tgt := fMul u (lastOr 0 cum)
      match (cs.zip cum).find? fun x => fGt x.2 tgt with
      | some x => x.1.1
      | none => (lastOr top (cs.take cum.length)).1

/-! ### SMERGE (R198, R277) -/

/-- A drawn token enters the count table: a token that would be the 4,097th distinct one does not (R185). -/
def enterCount (s : State) (p session : Nat) (tok : BitVec 32) : State :=
  let e := getSession s session
  if e.counts.any fun c => c.1 == tok then
    let up : BitVec 32 × BitVec 16 → BitVec 32 × BitVec 16 := fun c => (c.1, if c.2 = 0xFFFF then c.2 else c.2 + 1)
    modSession s session fun e => { e with counts := modWhere (fun c => c.1 == tok) up e.counts }
  else if e.counts.length < 4096 then modSession s session fun e => { e with counts := e.counts ++ [(tok, 1)] }
  else
    let s1 := bumpFor s (.smp p) 0x090 [(12, e.tenant), (14, session)]
    match sessionJob s session with
    | none => s1
    | some j =>
      match getJob s1 j with
      | none => s1
      | some x =>
        let raised := match x.kind with | .gen g => g.truncRaised | _ => false
        let s2 := modJob s1 j fun x =>
          { x with
            penTrunc := true
            kind := match x.kind with | .gen g => .gen { g with truncRaised := true } | k => k }
        if raised then s2 else raiseEvent s2 (.smp p) 16 [(14, session)]

/-- A step remembers a session's count table as it was before the step first changed it (R198). -/
def rememberCounts (s : State) (nw : Nat) (step : Word) (session : Nat) : State :=
  let c := (getSession s session).counts
  modStep s nw step fun t => if t.countUndo.any (fun x => x.1 == session) then t else { t with countUndo := t.countUndo ++ [(session, c)] }

/-- A drawn token enters the count table and the token log as basting (R185, R198). -/
def enterToken (s : State) (p nw : Nat) (step : Word) (row : BatchRow) (tok : BitVec 32) : State :=
  let s0 := enterCount (rememberCounts s nw step row.session) p row.session tok
  let s1 := match ensureLog s0 row.session (row.pos + 1) with
    | some t => t
    | none => kvExhausted s0 row.session
  let s2 := modSession s1 row.session fun e => { e with log := e.log.take (row.pos + 1) ++ [(tok, step)] }
  match sessionJob s2 row.session with
  | none => s2
  | some j => modJob s2 j fun x =>
      match x.kind with
      | .gen g => { x with kind := .gen { g with drawn := g.drawn ++ [(step, row.pos + 1, tok)] } }
      | _ => x

/-- The generation job of a session. -/
def genOf (s : State) (session : Nat) : Option (Job × GenJob) :=
  match sessionJob s session with
  | none => none
  | some j =>
    match getJob s j with
    | none => none
    | some x => match x.kind with | .gen g => some (x, g) | _ => none

/-- One row of a merge whose candidates are all there: the token is drawn, written and entered. A row that consumes poison
draws nothing and its job ends (R197, R380); the row of an ended job draws nothing (R203). -/
def mergeRow (s : State) (p nw : Nat) (b : Bolt) (m : MergeJob) (v row : Nat) (cs : List CandMsg) : State :=
  match findStep b m.step with
  | none => s
  | some t =>
    match t.rows[row]? with
    | none => s
    | some r =>
      match t.dead.contains r.session, genOf s r.session, b.pat with
      | false, some (j, g), some pat =>
        if cs.any fun c => c.poison then claimRow s r.session 0x14
        else
          let blk := sampBlock g.block
          let k := if blk.topK < pat.vocab then blk.topK else pat.vocab
          let tok := drawToken blk (r.pos + 1) (firstK k (cs.flatMap fun c => c.cands))
          let who := [(12, r.tenant), (14, r.session)]
          let s1 := bumpFor s (.smp p) 0x080 who
          let s2 := if blk.temp = 0 then bumpFor s1 (.smp p) 0x088 who else s1
          let s3 := modJob s2 j.id fun x => { x with sat := x.sat || cs.any fun c => c.sat, uncal := x.uncal || cs.any fun c => c.uncal }
          let cx := boltCtx s3 p
          let s4 := if sramViolates (getPanel s3 p) cx (m.dst + 4 * v) 4 then boltTagFault s3 p m.step else s3
          let s5 := modPanel s4 p fun q => sramWrite q cx (m.dst + 4 * v) [(natLe 4 tok.toNat, LineMark.clean)]
          enterToken s5 p nw m.step r tok
      | _, _, _ => s

/-- The rows of a merge that have candidates from all its panels are drawn, in order (R277). -/
def settleMerge (s : State) (p nw : Nat) (b : Bolt) (m : MergeJob) : State :=
  m.rows.foldl (fun s x =>
    let cs := (getPanel s p).cands.filter fun c => c.step == m.step && c.row == x.2
    if (cs.map fun c => c.panel).eraseDups.length < m.aux then s
    else
      let s1 := mergeRow s p nw b m x.1 x.2 cs
      decCmd (modPanel s1 p fun q =>
        { q with
          cands := q.cands.filter fun c => !(c.step == m.step && c.row == x.2)
          merges := (q.merges.map fun k => if k.cmd == m.cmd then { k with rows := k.rows.filter fun y => y != x } else k).filter
            fun k => !k.rows.isEmpty }) p m.cmd 1) s

/-- The oldest merges of a lead panel draw what they can (R240: commands of one unit run in their order). -/
def settleMerges (s : State) (p : Nat) : State :=
  match boltOfPanel s p with
  | none => s
  | some (nw, b) => (getPanel s p).merges.foldl (fun s m => settleMerge s p nw b m) s

/-- The faults of SAMPLE (R276, R280). -/
def sampleFaults (h : Site) (v : VecDesc) (n : Nat) : List (Option Nat) :=
  [faultIf (decide (h.rows.length < v.firstRow + n)) 0x06, faultIf (!wideFmt v.fmt0) 0x05,
    runFault v.fmt0 v.src0 v.stride0 n (fmtBits v.fmt0 / 8 * v.m)]

/-- SAMPLE's effect on row i (R276): the first K candidates of a drawn row's logits reach the lead sampler. -/
def sampleRow (t : State) (h : Site) (v : VecDesc) (i : Nat) : State :=
  let es := fmtBits v.fmt0 / 8
  match h.rows[v.firstRow + i]? with
  | none => t
  | some row =>
    if !row.draw then t
    else
      let r := readSram t h none (v.src0 + i * v.stride0) (es * v.m)
      let zs := (chunksOf es (es * v.m) r.2.bytes).map fun x =>
        if v.fmt0 = 7 then ofBF16 (BitVec.ofNat 16 (leNat x)) else BitVec.ofNat 32 (leNat x)
      let bad := r.2.mark.poison || zs.any fun z => !isFin z
      let cs := match genOf r.1 row.session with
        | none => []
        | some (_, g) =>
          let blk := sampBlock g.block
          let counts := (getSession r.1 row.session).counts
          firstK blk.topK ((zs.zipIdx).map fun (z : F32 × Nat) =>
            let tok := BitVec.ofNat 32 (v.bval.toNat + z.2)
            (tok, penalised blk (countOf counts tok) z.1))
      modPanel r.1 h.nw fun q =>
        { q with cands := q.cands ++ [{ step := h.x.step, row := v.firstRow + i, panel := h.p, cands := if bad then [] else cs,
                                        poison := bad, sat := r.2.mark.sat, uncal := r.2.mark.uncal }] }

/-- SAMPLE (R276): a row whose DRAW bit is 1 is scanned and its first K candidates reach the lead sampler. A block with
poison, or a logit that is not finite (R103), makes the message poison. -/
def execSample (p c : Nat) (s : State) : Res :=
  .next (issue s p c 0x58 fun t h w =>
    withDesc t h w vecReserved fun d n =>
      match firstFault (sampleFaults h (vecDesc d) n) with
      | some code => .fault code
      | none => .done (settleMerges ((List.range n).foldl (fun t i => sampleRow t h (vecDesc d) i) (enterCmd t p c 0x58 0)) h.nw))

/-- The faults of SMERGE (R277, R280). -/
def smergeFaults (h : Site) (v : VecDesc) (n : Nat) : List (Option Nat) :=
  [faultIf (h.p != h.nw) 0x10, faultIf (decide (h.rows.length < v.firstRow + n ∨ v.aux = 0 ∨ h.b.cols * h.b.rows < v.aux)) 0x06,
    runFault 8 v.dst 4 n 4]

/-- SMERGE's effect (R277): a row that draws no token gets 0xFFFF_FFFF at once; the others wait for their candidate messages. -/
def smergeRun (t : State) (h : Site) (v : VecDesc) (n : Nat) : State :=
  let all := (List.range n).map fun i => (i, v.firstRow + i)
  let draws : Nat × Nat → Bool := fun x => match h.rows[x.2]? with | some r => r.draw | none => false
  let cmd := (getPanel t h.p).nextCmd
  let live := all.filter draws
  let t1 := enterCmd t h.p h.x.slot 0x59 live.length
  let t2 := (all.filter fun x => !draws x).foldl (fun t x => writeSram t h none (v.dst + 4 * x.1) [(natLe 4 0xFFFFFFFF, LineMark.clean)]) t1
  let t3 := if live.isEmpty then t2 else modPanel t2 h.p fun q =>
    { q with merges := q.merges ++ [{ cmd := cmd, ctx := h.x.slot, step := h.x.step, aux := v.aux, dst := v.dst, rows := live }] }
  settleMerges t3 h.p

/-- SMERGE (R277). -/
def execSmerge (p c : Nat) (s : State) : Res :=
  .next (issue s p c 0x59 fun t h w =>
    withDesc t h w vecReserved fun d n =>
      match firstFault (smergeFaults h (vecDesc d) n) with
      | some code => .fault code
      | none => .done (smergeRun t h (vecDesc d) n))

end Sys2Proof.Machine
end

