-- ==== Sys2Proof/Machine/Steps.lean ====
section
/-! DEFINITION. Steps: their formation and batch tables (R237 to R239, R369), adapter slots (R189, R190), sealing and release
(R242, R275, R370), the optimiser update (R201), recall and replay (R274, R371 to R374), and terminal claims (R202). -/

namespace Sys2Proof.Machine

/-! ### Batch tables (R156, R238) -/

/-- A batch table's bytes. -/
def batchBytes (t : Batch) : List Byte :=
  natLe 8 t.step.toNat ++ natLe 8 (packFields [(0, t.rows.length), (12, t.kind)]) ++ List.replicate 48 0
  ++ t.rows.flatMap fun r =>
    natLe 8 (packFields [(0, r.session), (16, r.tenant), (28, r.bucket), (32, r.slot), (39, r.splits), (44, b2n r.draw)])
    ++ natLe 4 r.pos ++ natLe 4 r.ctx

/-- The bucket of a context length with its split count: the first whose UPPER reaches it. -/
def bucketOf (s : State) (ctx : Nat) : Nat × Nat :=
  match (s.kv.buckets.zipIdx).find? fun x => decide (ctx ≤ x.1.1) with
  | some x => (x.2, x.1.2)
  | none => (0, 1)

/-- The order of rows in a step: bucket, then session, then position. -/
def rowLt (a b : BatchRow) : Bool :=
  if a.bucket = b.bucket then (if a.session = b.session then decide (a.pos < b.pos) else decide (a.session < b.session))
  else decide (a.bucket < b.bucket)

/-- A batch row of a session at a position. -/
def mkRow (s : State) (session slot pos ctx : Nat) (draw : Bool) : BatchRow :=
  let k := bucketOf s ctx
  { session := session, tenant := (getSession s session).tenant, bucket := k.1, slot := slot, splits := k.2, draw := draw, pos := pos, ctx := ctx }

/-! ### Adapter slots (R188 to R190) -/

/-- The resident slot of a set of a tenant, as the set stands (R201). -/
def slotOf (b : Bolt) (tenant set : Nat) : Option Nat :=
  (b.slots.find? fun x => x.2.st == 2 && !x.2.stale && x.2.tenant == tenant && x.2.set == set).map Prod.fst

/-- The adapter set that a session's rows use: the session's own, or while a tuning job runs the source set before its first
optimiser step and the target set from then on (R183, R199). -/
def sessionSet (s : State) (session : Nat) : Nat :=
  let e := getSession s session
  match e.job.bind (getJob s) with
  | some j => (match j.kind with | .tune t => if t.doneSteps = 0 then t.srcSet else t.dstSet | _ => e.aset)
  | none => e.aset

/-- The slot of a session's rows: 0x7F without a set; none while the set is not resident. -/
def sessionSlot (s : State) (b : Bolt) (session : Nat) : Option Nat :=
  let x := sessionSet s session
  if x = 0xFFFF then some 0x7F else slotOf b (getSession s session).tenant x

/-- Whether a step is unsealed, or runs its sealed tail on some panel (R190). -/
def stepOpen (s : State) (nw : Nat) (b : Bolt) (t : Step) : Bool :=
  !t.sealed || (boltPanels nw b).any fun p => (getPanel s p).ctxs.any fun c => c.tail && c.step == t.seq

/-- Whether an unsealed step, or one that runs its sealed tail, refers to a set. -/
def setInUse (s : State) (nw : Nat) (b : Bolt) (x : Nat × Nat) : Bool :=
  b.steps.any fun t => t.sets.contains x && stepOpen s nw b t

/-- The distinct sets that unsealed or running steps need (R190). -/
def setsInUse (s : State) (nw : Nat) (b : Bolt) : List (Nat × Nat) :=
  ((b.steps.filter (stepOpen s nw b)).flatMap fun t => t.sets).eraseDups

/-- A slot for a set (R189 step 1): a free one, or the least recently used resident one that nothing refers to. -/
def chooseSlot (s : State) (nw : Nat) (b : Bolt) (slots : Nat) : Option Nat :=
  match (List.range slots).find? fun k => (mapGet AdSlot.start b.slots k).st == 0 with
  | some k => some k
  | none =>
    let free := (List.range slots).filter fun k =>
      let a := mapGet AdSlot.start b.slots k
      a.st == 2 && !setInUse s nw b (a.tenant, a.set)
    (sortBy (fun x y => decide ((mapGet AdSlot.start b.slots x).lastUse < (mapGet AdSlot.start b.slots y).lastUse)) free).head?

/-- ADAPTER_SLOT_LOAD (R189 steps 1 and 2, R190). -/
def execAdapterSlotLoad (nw tenant set : Nat) (s : State) : Res :=
  .next (match getBolt s nw with
    | none => s
    | some b =>
      match b.pat with
      | none => s
      | some t =>
        let known := s.sets.any fun a => a.tenant == tenant && a.set == set
        let busy := b.slots.any fun x => x.2.st != 0 && !x.2.stale && x.2.tenant == tenant && x.2.set == set
        if !b.wanted.contains (tenant, set) || !known || busy then s
        else
          match chooseSlot s nw b t.slots with
          | none => beginWait s (.adapterSlots nw)
          | some k =>
            let s1 := endWait s (.adapterSlots nw)
            let s2 := modBolt s1 nw fun b => { b with slots := mapSet AdSlot.start b.slots k { st := 1, tenant := tenant, set := set, lastUse := b.nextStep.toNat } }
            (boltPanels nw b).foldl (fun s p =>
              match panelEntry nw b p with
              | some e => modPanel s p fun q => sramFree q (e.adapterBase + k * t.slotBytes) t.slotBytes
              | none => s) s2)

/-! ### Contexts of a step (R239) -/

/-- Whether a panel's batch table slot is free. -/
def slotFree (q : Panel) (c : Nat) : Bool := !(q.ctxs.any fun x => x.slot == c) && !(q.batches.any fun x => x.1 == c)

/-- The batch table slots that are free on every panel of a bolt and that no held step keeps. -/
def batchSlots (s : State) (nw : Nat) (b : Bolt) (window : Nat) : List Nat :=
  (List.range window).filter fun c => (boltPanels nw b).all (fun p => slotFree (getPanel s p) c) && b.steps.all fun t => t.sealed || t.held != some c

/-- The lowest of them. -/
def batchSlot (s : State) (nw : Nat) (b : Bolt) (window : Nat) : Option Nat := (batchSlots s nw b window).head?

/-- The entry of a step's kind (R288). -/
def entryOf (e : PanelEntry) (kind : Nat) : Nat :=
  match kind with | 0 => e.entryDecode | 1 => e.entryPrefill | 2 => e.entryTune | _ => e.entryRecompute

/-- A panel places a batch table and starts the step's context. -/
def startCtx (s : State) (p : Nat) (e : PanelEntry) (rowLimit slot : Nat) (t : Batch) (shadow : Option Nat) : State :=
  let at_ := batchAddr e rowLimit slot
  let x : Ctx :=
    { slot := slot, step := t.step, pc := BitVec.ofNat 24 (entryOf e t.kind),
      g := mapSet 0 (mapSet 0 (mapSet 0 [] 1 (BitVec.ofNat 64 at_)) 2 (BitVec.ofNat 64 t.rows.length)) 3 (BitVec.ofNat 64 t.kind),
      loads := [], calls := [], wait := .none, since := 0, stalled := false, cmds := [], reported := false, tail := false,
      shadow := shadow, tackCount := 0, tackSram := 0, tackDram := 0 }
  let cx := boltCtx s p
  modPanel s p fun q =>
    let q1 := sramWrite q cx at_ [(batchBytes t, LineMark.clean)]
    { q1 with ctxs := q1.ctxs ++ [x] }

/-- BATCH_TABLE_RECEIVE (R34, R237, R239): the oldest table that has reached a panel starts its context, within the window. A
table of a recalled generation is discarded (R371). -/
def execBatchTableReceive (p : Nat) (s : State) : Res :=
  .next (match (getPanel s p).batches, boltOfPanel s p with
    | (c, t, gen) :: rest, some (nw, b) =>
      match b.pat, panelEntry nw b p with
      | some pat, some e =>
        let s1 := modPanel s p fun q => { q with batches := rest }
        if staleAt s p t.step gen then s1
        else if pat.window ≤ (getPanel s p).ctxs.length then s
        else startCtx (modStep s1 nw t.step fun k => { k with toSend := k.toSend.filter fun x => x != p }) p e pat.rowLimit c t none
      | _, _ => s
    | _, _ => s)

/-! ### Formation (R237) -/

/-- Whether a bolt serves (R286): its pattern is that of its resident weights. -/
def serving (b : Bolt) : Bool :=
  (match b.pat, b.weights with | some t, some w => t.pattern == w | _, _ => false) && b.phase != 3 && b.phase != 6

/-- The tokens of a generation job still without a sealed row: a drawn token that has had none, then the prompt (R185). -/
def genTokens (g : GenJob) : List (BitVec 32) := g.carry.toList ++ g.prompt

/-- The kind of step that a job's next row belongs to. -/
def jobStepKind (j : Job) : Option Nat :=
  match j.kind with
  | .gen g => if g.prompt.isEmpty then some 0 else some 1
  | .tune _ => some 2
  | _ => none

/-- The bolt of a job's session. -/
def jobBolt (s : State) (j : Job) : Nat := (getSession s j.session).bolt

/-- The jobs of a bolt that are ready for a step: running, not ended, not held for budget. -/
def readyJobs (s : State) (nw : Nat) : List Job :=
  s.jobs.filter fun j => (jobStepKind j).isSome && j.ready.isSome && jobBolt s j == nw && (getSession s j.session).st == .running
    && (getSession s j.session).job == some j.id && !(s.claims.any fun c => c.1 == j.id)

/-- The ready job that has been ready longest. -/
def longestReady (js : List Job) : Option Job :=
  (sortBy (fun (x y : Job) => decide (x.ready.getD 0 < y.ready.getD 0)) js).head?

/-- The mark of a reservation granted outside a step (R193). -/
def looseReservation : Word := 0xFFFFFFFFFFFFFFFF

/-- The rows that a job brings to a step, up to a number of them: consecutive positions of a generation, or one row for each
sequence of a tuning step (log entry 22). -/
def jobRows (s : State) (j : Job) (slot room : Nat) : List BatchRow :=
  match j.kind with
  | .gen g =>
    let n := (genTokens g).length
    (List.range (min n room)).map fun i => mkRow s j.session slot (g.nextPos + i) (g.nextPos + i + 1) (decide (i + 1 = n))
  | .tune t =>
    (List.range (min t.perStep room)).filterMap fun i =>
      (t.seqs[(t.doneSteps * t.perStep + i) % t.seqs.length]?).map fun q => mkRow s j.session slot (q.length - 1) q.length false
  | _ => []

/-- The slot number of a row until its set is resident. -/
def noSlot : Nat := 0x7E

/-- What a step under formation has so far: its rows, the jobs that bring them, the sets that it and the open steps need, and those of its
own that are not resident. -/
structure Forming where
  rows : List BatchRow
  jobs : List Job
  sets : List (Nat × Nat)
  wanted : List (Nat × Nat)

/-- A job's rows join a step under formation. -/
def Forming.take (f : Forming) (rs : List BatchRow) (j : Job) (sets wanted : List (Nat × Nat)) : Forming :=
  { rows := f.rows ++ rs, jobs := f.jobs ++ [j], sets := sets, wanted := f.wanted ++ wanted }

/-- One ready job gives its rows, while the step has room. It is left out when its set would pass the number of slots, counted with every
open step's (R190), when its set is not at rest, and a tuning job also when its sequences find no room beside other rows (log entry 224). A
set that is not resident is asked for (R189). -/
def takeJob (s : State) (b : Bolt) (limit slots : Nat) (f : Forming) (j : Job) : Forming :=
  let room := limit - f.rows.length
  let crowded := match j.kind with | .tune t => !f.rows.isEmpty && decide (room < t.perStep) | _ => false
  let key := ((getSession s j.session).tenant, sessionSet s j.session)
  let rs (slot : Nat) : List BatchRow := jobRows s j slot room
  if crowded || (rs 0).isEmpty then f
  else
    match sessionSlot s b j.session with
    | some 0x7F => f.take (rs 0x7F) j f.sets []
    | slot =>
      if !f.sets.contains key && decide (slots ≤ f.sets.length) then f
      else if slot.isNone && !(s.sets.any fun a => a.tenant == key.1 && a.set == key.2) then f
      else f.take (rs (slot.getD noSlot)) j (if f.sets.contains key then f.sets else f.sets ++ [key]) (if slot.isNone then [key] else [])

/-- Ready jobs give their rows in the order of R156. -/
def takeJobs (s : State) (nw : Nat) (b : Bolt) (limit slots : Nat) (js : List Job) : Forming :=
  js.foldl (takeJob s b limit slots) { rows := [], jobs := [], sets := setsInUse s nw b, wanted := [] }

/-- A job that draws reserves one token (R191, R192): granted, or refused with its session put in HOLD. -/
def reserveJob (s : State) (step : Word) (j : Job) : State × Bool :=
  if j.reserved.contains looseReservation then
    (modJob s j.id fun x => { x with reserved := x.reserved.erase looseReservation ++ [step] }, true)
  else
    match reserveToken s j.tenant with
    | some t => (modJob t j.id fun x => { x with reserved := x.reserved ++ [step] }, true)
    | none => (setHold (budgetRefused s j.tenant) j.session true, false)

/-- The reservations of a step, in ascending session number: the state after them and the sessions refused. -/
def reserveAll (s : State) (step : Word) (js : List Job) (draws : List Nat) : State × List Nat :=
  (sortBy (fun (x y : Job) => decide (x.session < y.session)) js).foldl (fun acc j =>
    if !draws.contains j.session then acc
    else
      let r := reserveJob acc.1 step j
      (r.1, if r.2 then acc.2 else acc.2 ++ [j.session])) (s, [])

/-- The ranges of a session's dropped pages, in any layer and head: FIRST_POS and end. -/
def droppedPages (s : State) (session : Nat) : List (Nat × Nat) :=
  ((sessionKeys s session).filter fun k => (getPte s k).dropped).map fun k =>
    (k % 1024 * (getPte s k).tpp, (k % 1024 + 1) * (getPte s k).tpp)

/-- The recomputation span of a session (R168). -/
def recompSpan (s : State) (session : Nat) : Option (Nat × Nat) :=
  let e := getSession s session
  let len := e.sealedLen - (match e.carry with | some _ => 1 | none => 0)
  match droppedPages s session with
  | [] => none
  | d :: ds =>
    let top := ds.foldl (fun m x => if m.1 < x.1 then x else m) d
    some ((ds.map Prod.fst).foldl min d.1, min top.2 len)

/-- The span of a recomputation entry: the one fixed at its first step, or the one that the dropped pages give. -/
def recompOpen (s : State) (x : Nat × Nat × Nat) : Option (Nat × Nat) :=
  if x.2.2 = 0 then (match recompSpan s x.1 with | some r => if r.1 < r.2 then some r else none | none => none)
  else if x.2.1 < x.2.2 then some x.2 else none

/-- Rows of a RECOMPUTE step, with the entries moved on. -/
def recompRows (s : State) (b : Bolt) (limit : Nat) (xs : List (Nat × Nat × Nat)) : List BatchRow × List (Nat × Nat × Nat) × List (Nat × Nat) :=
  xs.foldl (fun acc x =>
    match recompOpen s x with
    | none => (acc.1, acc.2.1 ++ [x], acc.2.2)
    | some (lo, hi) =>
      match sessionSlot s b x.1 with
      | none => (acc.1, acc.2.1 ++ [x], acc.2.2 ++ [((getSession s x.1).tenant, sessionSet s x.1)])
      | some slot =>
        let n := min (hi - lo) (limit - acc.1.length)
        (acc.1 ++ (List.range n).map (fun i => mkRow s x.1 slot (lo + i) (lo + i + 1) false), acc.2.1 ++ [(x.1, lo + n, hi)], acc.2.2))
    ([], [], [])

/-- A new step with its rows sorted (R237 steps 3 and 4). -/
def newStep (nw : Nat) (b : Bolt) (seq : Word) (kind : Nat) (rows : List BatchRow) (sets : List (Nat × Nat)) : Step :=
  { seq := seq, kind := kind, rows := sortBy rowLt rows, gen := b.gen, toSend := boltPanels nw b, reported := [], swatches := [],
    norms := [], asked := [], entered := [], partSealed := false, ranks := [], sealed := false, tacks := [], kvUndo := [], countUndo := [],
    dead := [], sets := sets, grads := [] }

/-- A prompt or carried token enters the session's log, and with COUNT_PROMPT a prompt token its count table (R185). -/
def enterPrompt (s : State) (nw : Nat) (seq : Word) (session pos : Nat) (tok : BitVec 32) (prompt : Bool) : State :=
  let e := getSession s session
  if pos < e.log.length then s
  else
    let s1 := match ensureLog s session pos with | some t => t | none => kvExhausted s session
    let s2 := modSession s1 session fun e => { e with log := e.log ++ [(tok, seq)] }
    if e.countPrompt && prompt then enterCount (rememberCounts s2 nw seq session) nw session tok else s2

/-- The tokens of a step's rows enter their sessions' logs as the step starts (R185). -/
def enterRows (s : State) (nw : Nat) (t : Step) : State :=
  if 2 ≤ t.kind then s
  else
    t.rows.foldl (fun s r =>
      match genOf s r.session with
      | none => s
      | some (_, g) =>
        match (genTokens g)[r.pos - g.nextPos]? with
        | none => s
        | some tok => enterPrompt s nw t.seq r.session r.pos tok (g.carry.isNone || decide (g.nextPos < r.pos))) s

/-- A step goes to every panel of the bolt, and to the leads of the other ranks (R237 step 5, R369). -/
def sendStep (s : State) (nw : Nat) (b : Bolt) (slot : Nat) (t : Step) : State :=
  let batch : Batch := { step := t.seq, kind := t.kind, rows := t.rows }
  let s1 := (boltPanels nw b).foldl (fun s p => modPanel s p fun q => { q with batches := q.batches ++ [(slot, batch, b.gen)] }) s
  if b.rank ≠ 0 then s1
  else (List.range (b.ranks - 1)).foldl (fun s r =>
    match addrOfRank s (r + 1) with | some a => sendMsg s (halfOf nw) a 1 (batchBytes batch) | none => s) s1

/-- A step is added to its bolt and sent. One with a row whose set is not resident keeps its batch table slot and starts once the set is
(R189). -/
def formStep (s : State) (nw : Nat) (b : Bolt) (slot kind : Nat) (rows : List BatchRow) : State :=
  let sets := ((rows.filter fun r => r.slot != 0x7F).map fun r => (r.tenant, sessionSet s r.session)).eraseDups
  let waits := rows.any fun r => r.slot == noSlot
  let t := { newStep nw b b.nextStep kind rows sets with held := if waits then some slot else none }
  let used (a : AdSlot) : Bool := a.st == 2 && sets.contains (a.tenant, a.set)
  let s1 := modBolt s nw fun b =>
    { b with
      nextStep := b.nextStep + 1
      steps := b.steps ++ [t]
      slots := b.slots.map fun x => (x.1, if used x.2 then { x.2 with lastUse := t.seq.toNat } else x.2) }
  if waits then s1 else enterRows (sendStep s1 nw b slot t) nw t

/-- A held step starts once every set that it needs is resident (R189 step 4): its rows get their slots and its table is sent. -/
def startStep (s : State) (nw : Nat) (t : Step) : State :=
  match getBolt s nw, t.held with
  | some b, some slot =>
    if t.sealed || !(t.rows.all fun r => t.dead.contains r.session || (sessionSlot s b r.session).isSome) then s
    else
      let rows := t.rows.map fun r => { r with slot := (sessionSlot s b r.session).getD 0x7F }
      let t1 := { t with rows := rows, held := none, gen := b.gen }
      enterRows (sendStep (modStep s nw t.seq fun _ => t1) nw b slot t1) nw t1
  | _, _ => s

/-- The steps of a bolt that have waited for a set, and wait for none any more, start. -/
def startHeld (s : State) (nw : Nat) : State :=
  match getBolt s nw with
  | none => s
  | some b => if b.recalling.isSome then s else b.steps.foldl (fun s t => startStep s nw t) s

/-- ADAPTER_SLOT_RESIDENT (R189 steps 3 and 4): every panel holds its part, each line tagged for the tenant, and the steps
that have waited for the set start. -/
def execAdapterSlotResident (nw slot : Nat) (s : State) : Res :=
  .next (match getBolt s nw with
    | none => s
    | some b =>
      let a := mapGet AdSlot.start b.slots slot
      match b.pat, s.sets.find? fun x => x.tenant == a.tenant && x.set == a.set with
      | some t, some set =>
        if a.st ≠ 1 then s
        else
          let s1 := (boltPanels nw b).foldl (fun s p =>
            match panelEntry nw b p with
            | none => s
            | some e =>
              let base := e.adapterBase + slot * t.slotBytes
              let part := match set.segs.find? fun g => g.1 == panelRel nw b p with | some g => g.2.take t.slotBytes | none => []
              modPanel s p fun q =>
                let q1 := { q with tags := (linesOf base t.slotBytes).foldl (fun m l => mapSet (0 : BitVec 14) m l (tenantTag a.tenant)) q.tags }
                sramWrite q1 { tenant := a.tenant, pat := b.tenant, row := false } base [(part, LineMark.clean)]) s
          startHeld (modBolt s1 nw fun b =>
            { b with
              slots := mapSet AdSlot.start b.slots slot { a with st := 2 }
              wanted := b.wanted.filter fun x => x != (a.tenant, a.set) }) nw
      | _, _ => s)

/-- Sets asked for and not yet resident. -/
def wantSets (s : State) (nw : Nat) (xs : List (Nat × Nat)) : State :=
  modBolt s nw fun b => { b with wanted := xs.foldl (fun w x => if w.contains x then w else w ++ [x]) b.wanted }

/-- A RECOMPUTE step of the sessions that a recall waits for (R168, R237). -/
def formRecompute (s : State) (nw : Nat) (b : Bolt) (slot limit : Nat) (r : Recall) : State :=
  let f := recompRows s b limit r.recompute
  let s1 := wantSets s nw f.2.2
  if f.1.isEmpty then s1
  else formStep (modBolt s1 nw fun b => { b with recalling := some { r with recompute := f.2.1 } }) nw b slot 3 f.1

/-- A step of the ready jobs of one kind (R237). -/
def formReady (s : State) (nw : Nat) (b : Bolt) (slot limit : Nat) : State :=
  let js := readyJobs s nw
  match (longestReady js).bind jobStepKind with
  | none => s
  | some kind =>
    let key (j : Job) : Nat := match jobRows s j 0 1 with | r :: _ => r.bucket | [] => 0
    let order := sortBy (fun (x y : Job) => if key x = key y then decide (x.session < y.session) else decide (key x < key y))
      (js.filter fun j => jobStepKind j == some kind)
    let f := takeJobs s nw b limit (match b.pat with | some t => t.slots | none => 0) order
    let s1 := wantSets s nw f.wanted
    let draws := (f.rows.filter fun r => r.draw).map fun r => r.session
    let res := reserveAll s1 b.nextStep f.jobs draws
    let rows := f.rows.filter fun r => !res.2.contains r.session
    if rows.isEmpty then res.1
    else
      let took := (f.jobs.filter fun j => !res.2.contains j.session).map fun j => j.id
      let s2 := { res.1 with jobs := res.1.jobs.map fun j => if took.contains j.id then { j with ready := none } else j }
      formStep s2 nw b slot kind rows

/-- Whether every panel of a bolt takes new work: READY or ACTIVE, and not held (R431, R532). -/
def panelsServe (s : State) (nw : Nat) (b : Bolt) : Bool :=
  (boltPanels nw b).all fun p => let h := getHdr s (.panel p); !h.held && (h.st == .ready || h.st == .active)

/-- STEP_FORM (R237): the lead of rank 0 forms a step, while a batch table slot is free within the window (R34) and no recall
waits. While recomputation is pending, it forms RECOMPUTE steps alone. -/
def execStepForm (nw : Nat) (s : State) : Res :=
  .next (match getBolt s nw with
    | none => s
    | some b =>
      match b.pat with
      | none => s
      | some pat =>
        if b.rank ≠ 0 ∨ b.stopped = true ∨ serving b = false ∨ panelsServe s nw b = false ∨ s.hk.stopping.isSome = true then s
        else
          match batchSlot s nw b pat.window with
          | none => s
          | some slot =>
            let limit := min 1024 pat.rowLimit
            match b.recalling with
            | none => formReady s nw b slot limit
            | some r => if r.waiting.isEmpty && r.verdicts.isEmpty then formRecompute s nw b slot limit r else s)

/-- SPAN_BATCH_RECEIVE (R369): another rank's lead runs the step under the number that rank 0 gave it. -/
def execSpanBatchReceive (nw : Nat) (batch : Batch) (s : State) : Res :=
  .next (match getBolt s nw with
    | none => s
    | some b =>
      match b.pat with
      | none => s
      | some pat =>
        if b.rank = 0 ∨ serving b = false ∨ (b.steps.any fun t => t.seq == batch.step) = true then s
        else
          match batchSlot s nw b pat.window with
          | none => s
          | some slot =>
            let t := { newStep nw b batch.step batch.kind [] [] with rows := batch.rows }
            let s1 := modBolt s nw fun b => { b with steps := b.steps ++ [t], nextStep := batch.step + 1 }
            sendStep s1 nw b slot t)

/-! ### The optimiser update (R201) -/

/-- The elements of an adapter part in BF16 or MXINT8, in order. -/
def setElems (mx : Bool) (bytes : List Byte) : List F32 :=
  if mx then
    (chunksOf (fmtGroup 6) bytes.length bytes).flatMap fun g =>
      (List.range 8).flatMap fun i =>
        (blockF32 6 (decodeBlock 6 (bytesNat g i 1) ((g.drop (8 + i * 32)).take 32))).1
  else (chunksOf 2 bytes.length bytes).map fun x => ofBF16 (BitVec.ofNat 16 (leNat x))

/-- Elements encoded as an adapter part: R91 for MXINT8, rounding to nearest even for BF16. -/
def setPart (mx : Bool) (xs : List F32) : List Byte :=
  if mx then
    (chunksOf 256 xs.length xs).flatMap fun g =>
      let es := (chunksOf 32 g.length g).map (encodeBlock 6)
      (es.map fun e => BitVec.ofNat 8 e.scale) ++ es.flatMap fun e => e.bytes
  else xs.flatMap fun x => natLe 2 (toBF16 x).toNat

/-- B^k by repeated multiplication. -/
def powF (b : F32) : Nat → F32
  | 0 => fOne
  | k + 1 => fMul (powF b k) b

/-- One element's AdamW update. -/
def adamStep (t : TuneJob) (k : Nat) (gn : F32) (x : F32 × F32 × F32) (g0 : F32) : F32 × F32 × F32 :=
  let g := if fGt t.clip 0 && fGt gn t.clip then fMul g0 (fDiv t.clip gn) else g0
  let mo := fAdd (fMul t.b1 x.2.1) (fMul (fSub fOne t.b1) g)
  let ve := fAdd (fMul t.b2 x.2.2) (fMul (fSub fOne t.b2) (fMul g g))
  let mh := fDiv mo (fSub fOne (powF t.b1 k))
  let vh := fDiv ve (fSub fOne (powF t.b2 k))
  (fSub x.1 (fMul t.lr (fAdd (fDiv mh (fAdd (fSqrt vh) t.eps)) (fMul t.wd x.1))), mo, ve)

/-- The bytes that a matrix of a part takes. -/
def spanBytes (mx : Bool) (n : Nat) : Nat := if mx then fmtBytes 6 ((n + 31) / 32 * 32) else 2 * n

/-- The elements of a part, matrix after matrix. -/
def partElems (bs : List Byte) : List F32 :=
  (Config.adapterSpans bs).flatMap fun x => (setElems x.1 ((bs.drop x.2.1).take (spanBytes x.1 x.2.2))).take x.2.2

/-- A part with its elements replaced; what is no element of a matrix stays. -/
def putElems (bs : List Byte) (xs : List F32) : List Byte :=
  ((Config.adapterSpans bs).foldl (fun (acc : List Byte × List F32) x =>
    let pad := List.replicate (if x.1 then (32 - x.2.2 % 32) % 32 else 0) (0 : F32)
    (splice acc.1 x.2.1 (setPart x.1 (acc.2.take x.2.2 ++ pad)), acc.2.drop x.2.2)) (bs, xs)).1

/-- Values dealt out to the parts of a set, as many to each as it has elements. -/
def dealParts {α : Type} : List (Nat × List Byte) → List α → List (Nat × List Byte × List α)
  | [], _ => []
  | (p, bs) :: r, xs =>
    let n := (partElems bs).length
    (p, bs, xs.take n) :: dealParts r (xs.drop n)

/-- The gradient samples of an optimiser step: on each panel with a part, from that panel's own gradient, before clipping (R106, R201). -/
def gradSamples (s : State) (nw : Nat) (seq : Word) (job : Nat) (parts : List (Nat × List Byte × List F32)) : State :=
  parts.foldl (fun s x =>
    match getBolt s nw with
    | some b =>
      let p := relPanel nw b x.1
      if x.2.2.isEmpty || !bit (nwCtrl s p) 0 then s
      else nwEnterFor [job] s p nw { layer := 0, grad := true, step := seq, r := normOf x.2.2 } b
    | none => s) s

/-- The target set after an optimiser step: its master copy, and its parts encoded from it; slots that hold it as it was are stale
(R201). -/
def putTuned (s : State) (nw : Nat) (j : Job) (t : TuneJob) (src : List (Nat × List Byte)) (new : List (F32 × F32 × F32)) : State :=
  let segs := (dealParts src (new.map fun x => x.1)).map fun x => (x.1, putElems x.2.1 x.2.2)
  let s1 := { s with sets := s.sets.map fun a => if a.tenant = j.tenant ∧ a.set = t.dstSet then
      { a with master := new, segs := segs, steps := t.doneSteps + 1 } else a }
  modBolt s1 nw fun b => { b with slots := b.slots.map fun x =>
    (x.1, if x.2.st == 2 && x.2.tenant == j.tenant && x.2.set == t.dstSet then { x.2 with stale := true } else x.2) }

/-- An optimiser step of a tuning job, after its step has sealed. The gradients, for whose place the spec gives no register or
address, are free values (log entry 74). A gradient sample that jumps under ABORT ends the job without an update (R107). -/
def optimise (s : State) (nw : Nat) (seq : Word) (j : Job) (t : TuneJob) : State :=
  match s.sets.find? fun a => a.tenant == j.tenant && a.set == t.dstSet with
  | none => s
  | some dst =>
    let src := match s.sets.find? fun a => a.tenant == j.tenant && a.set == t.srcSet with | some a => a.segs | none => dst.segs
    let parts := if t.doneSteps = 0 then src else dst.segs
    let master := if t.doneSteps = 0 then (src.flatMap fun g => partElems g.2).map fun w => (w, (0 : F32), (0 : F32)) else dst.master
    let grads : List F32 := (List.range master.length).map fun i => (Config.freeWord (s.freeCtr + i)).setWidth 32
    let s1 := gradSamples { s with freeCtr := s.freeCtr + master.length } nw seq j.id (dealParts parts grads)
    if s1.claims.contains (j.id, 0x13) then s1
    else
      let new := zipW (adamStep t (t.doneSteps + 1) (fSqrt (fDot grads grads))) master grads
      let s2 := modJob (putTuned s1 nw j t parts new) j.id fun x => { x with step := seq, kind := .tune { t with doneSteps := t.doneSteps + 1 } }
      if t.steps ≤ t.doneSteps + 1 then claim s2 j.id 0 else modJob s2 j.id fun x => { x with ready := some s.now }

/-! ### Sealing and release (R30, R242, R275, R370) -/

/-- Whether a step waits for its replay: it stands at or after a recall in progress. A RECOMPUTE step that the recall waits for
does not. -/
def recalled (b : Bolt) (t : Step) : Bool :=
  match b.recalling with
  | some r => decide (r.step ≤ t.seq) && !(t.kind == 3 && r.waiting.isEmpty && r.verdicts.isEmpty)
  | none => false

/-- Whether this rank's part of a step is sealed (R242): every panel has reported, every covering swatch has passed, no
norm-watch sample holds it. -/
def partReady (nw : Nat) (b : Bolt) (t : Step) : Bool :=
  (boltPanels nw b).all (fun p => t.reported.contains p) && t.swatches.isEmpty && t.norms.isEmpty && t.asked.isEmpty
    && !recalled b t

/-- RANK_SEAL_REPORT (R370): this rank's own sealed part, reported to rank 0, or another rank's report reaching rank 0. -/
def execRankSealReport (nw rank : Nat) (step : Word) (s : State) : Res :=
  .next (match getBolt s nw with
    | none => s
    | some b =>
      match findStep b step with
      | none => s
      | some t =>
        if t.sealed then s
        else if rank = b.rank then
          if t.partSealed || !partReady nw b t then s
          else
            let s1 := modStep s nw step fun t => { t with partSealed := true, ranks := t.ranks ++ [rank] }
            if b.rank = 0 then s1
            else match addrOfRank s1 0 with | some a => sendMsg s1 (halfOf nw) a 1 (natLe 1 2 ++ natLe 8 step.toNat) | none => s1
        else if b.rank = 0 ∧ rank < b.ranks ∧ t.ranks.contains rank = false then
          modStep s nw step fun t => { t with ranks := t.ranks ++ [rank] }
        else s)

/-- A drawn token is released to its job (R30, R441). -/
def releaseToken (s : State) (id : Nat) (seq : Word) (pos : Nat) (tok : BitVec 32) : State :=
  let s1 := modJob s id fun x =>
    { x with
      tokens := x.tokens + 1
      reserved := x.reserved.erase seq
      step := seq
      kind := match x.kind with | .gen g => .gen { g with drawn := g.drawn.filter fun d => d.1 != seq } | k => k }
  recordToken s1 id pos tok

/-- What the seal of a step means for one session's generation job: its log is sealed, its drawn token is released, and the job
completes or becomes ready again (R185, R202, R237, R441). -/
def sealSession (s : State) (seq : Word) (rows : List BatchRow) (session : Nat) : State :=
  match genOf s session with
  | none => s
  | some (j, g) =>
    let n := (rows.filter fun r => r.session == session).length
    let drawn := g.drawn.find? fun d => d.1 == seq
    let s1 := modSession s session fun e =>
      { e with
        sealedLen := g.nextPos + n + (match drawn with | some _ => 1 | none => 0)
        carry := match drawn with | some d => some d.2.2 | none => if g.carry.isSome && n != 0 then none else e.carry }
    let s2 := modJob s1 j.id fun x =>
      { x with
        step := seq
        kind := .gen { g with
          nextPos := g.nextPos + n
          prompt := g.prompt.drop (n - g.carry.toList.length)
          carry := match drawn with | some d => some d.2.2 | none => if n = 0 then g.carry else none } }
    match drawn with
    | none => modJob s2 j.id fun x => { x with ready := some s.now }
    | some (_, pos, tok) =>
      let s3 := releaseToken s2 j.id seq pos tok
      let last := decide (g.maxNew ≤ j.tokens + 1) || (tok == g.stopId && g.stopId != 0xFFFFFFFF)
      let s4 := if g.stream && !last then
          let t := flushRecord s3 j.id
          match getJob t j.id with | some x => queueCompletion t x.port x.ring (jobCompletion x 0 0 false) | none => t
        else s3
      if last then claim s4 j.id 0 else modJob s4 j.id fun x => { x with ready := some s.now }

/-- What a panel does when a step is sealed: ended contexts leave, and those at SEALW run their sealed tail (R239, R275). -/
def sealPanel (s : State) (p : Nat) (seq : Word) : State :=
  modPanel s p fun q =>
    { q with
      ctxs := (q.ctxs.filter fun x => !(x.step == seq && x.wait == .ended && ctxIdle x)).map fun x =>
        if x.step = seq then { x with tail := true, wait := if x.wait = .sealw then .none else x.wait } else x }

/-- A step is sealed on this rank: its swatches are done, its tacks become those of the last sealed step, its tokens are
released. The steps sealed before it stay while a sealed tail of theirs runs (R275), and beside a RECOMPUTE step the last one whose tacks a
replay takes up (R168, R274). -/
def sealStep (s : State) (nw : Nat) (b : Bolt) (t : Step) : State :=
  let s1 := modBolt s nw fun b =>
    { b with steps := (b.steps.filter fun x => stepOpen s nw b x || (t.kind == 3 && x.kind != 3)).map fun x => if x.seq = t.seq then { x with sealed := true } else x }
  let s2 := (boltPanels nw b).foldl (fun s p => sealPanel s p t.seq) s1
  if t.kind = 3 then s2
  else
    let sess := ((t.rows.map fun r => r.session).filter fun n => !t.dead.contains n).eraseDups
    sess.foldl (fun s n =>
      match (getSession s n).job with
      | none => s
      | some id =>
        match getJob s id with
        | none => s
        | some j =>
          match j.kind with
          | .tune k => optimise s nw t.seq j k
          | _ => sealSession s t.seq t.rows n) s2

/-- SEALED (R370): the step is sealed on this rank. Steps seal in their order (log entry 23). Rank 0 declares it once every
rank has reported, and tells the others. -/
def execSealed (nw : Nat) (step : Word) (s : State) : Res :=
  .next (match getBolt s nw with
    | none => s
    | some b =>
      match findStep b step with
      | none => s
      | some t =>
        let first := b.steps.all fun x => x.sealed || decide (t.seq ≤ x.seq) || x.kind == 3 || t.kind == 3
        let all := if b.rank = 0 then (List.range (max 1 b.ranks)).all fun r => t.ranks.contains r else t.partSealed
        if t.sealed || !t.partSealed || !first || !all || recalled b t then s
        else
          let s1 := if b.rank = 0 then (List.range (b.ranks - 1)).foldl (fun s r =>
              match addrOfRank s (r + 1) with | some a => sendMsg s (halfOf nw) a 1 (natLe 1 3 ++ natLe 8 step.toNat) | none => s) s
            else s
          sealStep s1 nw b t)

/-- JOB_STATUS_CLAIM (R202): the arbiter admits one of the claims that wait for the job. -/
def execJobStatusClaim (job : Nat) (s : State) : Res :=
  .next (match winner ((s.claims.filter fun c => c.1 == job).map Prod.snd) with
    | none => s
    | some st =>
      let s1 := { s with claims := s.claims.filter fun c => c.1 != job }
      pumpLoads (endJob s1 job st 0))

/-! ### Recall and replay (R274, R371 to R374) -/

/-- Whether a recall of a step has been asked for, for a cause. -/
def recallAsked (s : State) (nw : Nat) (t : Step) : RecallCause → Bool
  | .swatch id => s.ras.swatches.any fun w => w.id == id && w.bolt == nw && w.step == t.seq && w.failed
  | .normReexec layer => t.asked.contains (.normReexec layer)
  | .kvAbsent session => t.asked.contains (.kvAbsent session)
  | .patternFault => t.asked.contains .patternFault

/-- The request that a cause left with its step is taken up. -/
def clearAsked (cause : RecallCause) (t : Step) : Step :=
  match cause with
  | .swatch id => { t with swatches := t.swatches.filter fun n => n != id }
  | .normReexec layer => { t with asked := t.asked.filter fun x => x != .normReexec layer }
  | .kvAbsent session => { t with asked := t.asked.filter fun x => x != .kvAbsent session }
  | .patternFault => { t with asked := t.asked.filter fun x => x != .patternFault }

/-- What a recall notes of its cause: a verdict to wait for, a layer to run on its shadow, a session to recompute. -/
def noteCause (s : State) (nw : Nat) (cause : RecallCause) : State :=
  match cause with
  | .swatch id => modBolt s nw fun b => { b with recalling := b.recalling.map fun r => { r with verdicts := r.verdicts ++ [id] } }
  | .normReexec layer => modBolt s nw fun b => { b with recalling := b.recalling.map fun r => { r with layer := some layer } }
  | .kvAbsent n =>
    let noted := match getBolt s nw with
      | some b => (match b.recalling with | some r => r.recompute.any fun x => x.1 == n | none => false)
      | none => false
    let s0 := modSession s n fun e => { e with recomp := true }
    let s1 := if noted then s0 else bump s0 .die 0x268
    modBolt s1 nw fun b => { b with recalling := b.recalling.map fun r =>
      { r with recompute := if r.recompute.any fun x => x.1 == n then r.recompute else r.recompute ++ [(n, 0, 0)] } }
  | .patternFault => s

/-- RECALL (R372 step 2, R373): the lead stops forming steps, raises the generation and orders every panel to discard from the
step. One that names a step at or after that of a recall in progress adds only its own cause. -/
def execRecallStep (nw : Nat) (step : Word) (cause : RecallCause) (s : State) : Res :=
  .next (match getBolt s nw with
    | none => s
    | some b =>
      match findStep b step with
      | none => s
      | some t =>
        if t.sealed || !recallAsked s nw t cause then s
        else
          let s1 := modStep s nw step (clearAsked cause)
          let merged := match b.recalling with | some r => decide (r.step ≤ step) && t.kind != 3 && cause != RecallCause.patternFault | none => false
          if merged then noteCause s1 nw cause
          else
            let s2 := raiseEvent (bumpFor s1 .die 0x530 [(64, step.toNat)]) .die 57 [(64, step.toNat)]
            let s3 := noteCause (orderDiscard s2 nw step (cause == RecallCause.patternFault)) nw cause
            if b.rank ≠ 0 then s3
            else (List.range (b.ranks - 1)).foldl (fun s r =>
              match addrOfRank s (r + 1) with | some a => sendMsg s (halfOf nw) a 1 (natLe 1 4 ++ natLe 8 step.toNat) | none => s) s3)

/-- A recall that has nothing to replay is over once every panel has acknowledged (R280). -/
def endDropRecall (s : State) (nw : Nat) : State :=
  modBolt s nw fun b =>
    { b with recalling := match b.recalling with
      | some r => if r.waiting.isEmpty && !r.replay then none else some r
      | none => none }

/-- RECALL_DISCARD (R372 step 3): a panel discards the contexts and basting state of the recalled steps and acknowledges. -/
def execRecallDiscard (p : Nat) (s : State) : Res :=
  .next (match (getPanel s p).recalling with
    | none => s
    | some (nw, k, _) =>
      let s1 := discardPanel (dropSwatches (undoSteps s nw fun t => decide (k ≤ t)) nw fun t => decide (k ≤ t)) p fun t => decide (k ≤ t)
      let s2 := modPanel s1 p fun q => { q with recalling := none }
      endDropRecall (modBolt s2 nw fun b =>
        { b with recalling := b.recalling.map fun r => { r with waiting := r.waiting.filter fun x => x != p } }) nw)

/-- The tacks of the last sealed step go back to their SRAM ranges (R274 step 2). -/
def restoreTacks (s : State) (b : Bolt) : State :=
  match (b.steps.filter fun t => t.sealed && t.kind != 3).reverse with
  | [] => s
  | t :: _ => t.tacks.foldl (fun s k =>
      let cx := boltCtx s k.panel
      modPanel s k.panel fun q => sramWrite q cx k.addr
        (if k.dram then zipW Prod.mk (chunksOf 64 k.bytes.length k.bytes) k.marks else linePieces q cx k.place k.bytes.length)) s

/-- A step as a replay starts it. -/
def freshStep (gen : BitVec 32) (t : Step) : Step :=
  { t with
    gen := gen
    toSend := []
    reported := []
    swatches := []
    norms := []
    asked := []
    entered := []
    partSealed := false
    ranks := []
    tacks := []
    kvUndo := []
    countUndo := []
    grads := [] }

/-- A recalled step restarts on every panel with its original batch table (R274 step 3). -/
def restartStep (s : State) (nw : Nat) (b : Bolt) (pat : Pattern) (shadow : Option Nat) (t : Step) : State :=
  match batchSlot s nw b pat.window with
  | none => s
  | some slot =>
    let s1 := modStep s nw t.seq (freshStep b.gen)
    let drop (j : Job) : Job := match j.kind with
      | .gen g => { j with kind := .gen { g with drawn := g.drawn.filter fun d => d.1 != t.seq } }
      | _ => j
    let s2 := { s1 with jobs := s1.jobs.map drop }
    let s3 := (boltPanels nw b).foldl (fun s p =>
      match panelEntry nw b p with
      | some e => bumpFor (startCtx s p e pat.rowLimit slot { step := t.seq, kind := t.kind, rows := t.rows } shadow) (.seq p) 0x0A8
        [(4, slot), (64, t.seq.toNat)]
      | none => s) s2
    enterRows s3 nw t

/-- Whether a step has a context or a table on some panel of its bolt. -/
def stepRunning (s : State) (nw : Nat) (b : Bolt) (t : Step) : Bool :=
  (boltPanels nw b).any fun p => (getPanel s p).ctxs.any (fun x => x.step == t.seq) || (getPanel s p).batches.any fun x => x.2.1.step == t.seq

/-- REPLAY (R274, R372 step 5): once every panel has acknowledged, every verdict is in and every RECOMPUTE step has sealed. A
recalled RECOMPUTE step restarts first. The replay waits for batch table slots that sealed tails still hold; a step that waits for an
adapter set goes on waiting. -/
def execReplay (nw : Nat) (s : State) : Res :=
  .next (match getBolt s nw with
    | none => s
    | some b =>
      match b.recalling, b.pat with
      | some r, some pat =>
        if !r.waiting.isEmpty || !r.verdicts.isEmpty then s
        else
          let open_ := b.steps.filter fun t => !t.sealed && decide (r.step ≤ t.seq)
          let rec3 := open_.filter fun t => t.kind == 3
          let idle := rec3.filter fun t => !stepRunning s nw b t
          if !idle.isEmpty then idle.foldl (fun s t => restartStep s nw b pat none t) s
          else if !rec3.isEmpty || r.recompute.any fun x => (recompOpen s x).isSome then s
          else if (batchSlots s nw b pat.window).length < (open_.filter fun t => t.held.isNone).length then s
          else
            let s1 := r.recompute.foldl (fun s x => modSession s x.1 fun e => { e with recomp := false }) (restoreTacks s b)
            let s2 := (sortBy (fun (x y : Step) => decide (x.seq < y.seq)) (open_.filter fun t => t.held.isNone)).foldl (fun s t =>
              restartStep s nw b pat (if t.seq = r.step then r.layer else none) t) s1
            startHeld (modBolt s2 nw fun b => { b with recalling := none }) nw
      | _, _ => s)

end Sys2Proof.Machine
end

