-- ==== Sys2Proof/Machine/Commands.lean ====
section
/-! DEFINITION. The ring commands of tenants, bolts, sessions, jobs and the prefix tree (R174, R180 to R186, R191 to R204, R408, R409,
R440 to R442, R447 to R450), and the budget refill. -/

namespace Sys2Proof.Machine

/-! ### Tenants (R180, R181, R409) -/

/-- A tenant becomes ACTIVE with its slot key drawn (R180, R410). -/
def makeTenant (s : State) (t maxSessions : Nat) : State :=
  drawFree (modTenant s t fun _ =>
    { Tenant.start with st := .active, maxSessions := maxSessions, slotKey := some (Config.randomKey s.freeCtr) })

/-- TENANT_CREATE. -/
def execTenantCreate (id : Nat) (s : State) : Res :=
  .next (command s id 0x01 fromPf fun s d =>
    let t := d.entry.tenant
    let m := arg0 d 14 0
    if s.sec.owner.isNone then finishEntry s d 0x24 0
    else if m = 0 ∨ 16384 < m then finishEntry s d 0x21 0
    else if (getTenant s t).st ≠ .free then finishEntry s d 0x23 0
    else finishEntry (makeTenant s t m) d 0 0)

/-- Whether a tenant is the pattern tenant of a loaded bolt (R409). -/
def ownsBolt (s : State) (t : Nat) : Bool :=
  (boltList s).any fun x => x.2.tenant == t && (x.2.pat.isSome || x.2.weights.isSome || x.2.phase == 3)

/-- TENANT_REMOVE. -/
def execTenantRemove (id : Nat) (s : State) : Res :=
  .next (command s id 0x02 fromPf fun s d =>
    let t := d.entry.tenant
    if (getTenant s t).st ≠ .active then finishEntry s d 0x23 0
    else if ownsBolt s t then finishEntry s d 0x2C 0
    else finishEntry (settleTenant (modTenant s t fun e => { e with st := .removing }) t) d 0 0)

/-! ### Bolts (R28, R326, R432, R440, R448) -/

/-- A bolt as its creation leaves it: phase NONE, nothing loaded. -/
def newBolt (cols rows port : Nat) : Bolt :=
  { cols := cols, rows := rows, port := port, phase := 0, tenant := 0, weights := none, digest := 0, changes := 1, load := none,
    copy := [], dir := [], place := [], tier := [], copyFrames := 0, patFrames := 0, nonce := 0, arraysDone := 0, pat := none,
    scratch := [], scratchKey := [], nextStep := 0, gen := 0, steps := [], slots := [], checkers := [], lastRotate := 0, rotateSec := 600,
    recalling := none, rank := 0, ranks := 1, stopped := false, wanted := [], zeroWait := [], unloadJob := none, tpp := 0 }

/-- Whether a rectangle lies inside the enabled grid and meets no bolt. -/
def rectFree (s : State) (nw cols rows : Nat) : Bool :=
  decide (1 ≤ cols ∧ 1 ≤ rows ∧ nw % 8 + cols ≤ 8) && (rectPanels nw cols rows).all fun p =>
    decide (p < panelsEn s) && (boltOfPanel s p).isNone

/-- BOLT_CREATE. -/
def execBoltCreate (id : Nat) (s : State) : Res :=
  .next (command s id 0x03 fromPf fun s d =>
    let nw := arg0 d 5 0
    let cols := arg0 d 9 6
    let rows := arg0 d 13 10
    if !rectFree s nw cols rows then finishEntry s d 0x2A 0
    else
      let ps := rectPanels nw cols rows
      let s1 := setBolt s nw (some (newBolt cols rows d.port))
      finishEntry (tagRouters (ownPanels s1 ps d.port nw 0) ps nw) d 0 0)

/-- A bolt is taken apart: its panels' SRAM is zeroed and its routers take the tag of no bolt. -/
def dropBolt (s : State) (nw : Nat) (b : Bolt) : State :=
  let ps := boltPanels nw b
  let s1 := tagRouters (modPanels (dropSramPages s ps) ps sramZero) ps 0x3F
  ownPanels (eraseBoltKeys (setBolt s1 nw none) nw) ps 2 0x3F 0

/-- BOLT_REMOVE. -/
def execBoltRemove (id : Nat) (s : State) : Res :=
  .next (command s id 0x04 fromOwner fun s d =>
    match getBolt s d.entry.bolt with
    | none => s
    | some b => if b.phase ≠ 0 then finishEntry s d 0x2B 0 else finishEntry (dropBolt s d.entry.bolt b) d 0 0)

/-- The bolt that a job works on. -/
def boltOfJob (s : State) (j : Job) : Option Nat :=
  match j.kind with
  | .gen _ => some (getSession s j.session).bolt
  | .tune _ => some (getSession s j.session).bolt
  | .close => some (getSession s j.session).bolt
  | .load => some j.bolt
  | .pattern => some j.bolt
  | .selfTest => none
  | .firmware => none

/-- BOLT_TRANSFER (R448). -/
def execBoltTransfer (id : Nat) (s : State) : Res :=
  .next (command s id 0x05 fromOwner fun s d =>
    let nw := d.entry.bolt
    if s.jobs.any fun j => boltOfJob s j == some nw then finishEntry s d 0x2B 0
    else if (getPort s (1 - d.port)).pair ≠ .live then finishEntry s d 0x2D 0
    else finishEntry (passBolts s (fun n _ => n == nw) (1 - d.port)) d 0 0)

/-- BOLT_ADOPT (R450): a LIVE port takes every bolt of a LOST one. -/
def execBoltAdopt (id : Nat) (s : State) : Res :=
  .next (command s id 0x06 fromPf fun s d =>
    let lost := 1 - d.port
    if (getPort s lost).pair = .lost ∧ (getPort s d.port).pair = .live then
      let n := portBolts s lost
      finishEntry (adopt s lost) d 0 n
    else finishEntry s d 0 0)

/-! ### Sessions (R182 to R186) -/

/-- The lowest FREE session. -/
def freeSessionNum (s : State) : Option Nat := (List.range 16384).find? fun n => (getSession s n).st == .free

/-- Why an open is refused (R182, R216, R286, R406, R407, R408); none where it is not. -/
def openRefused (s : State) (d : Dispatched) (b : Bolt) : Option Nat :=
  let t := d.entry.tenant
  let e := getTenant s t
  let pattern := arg0 d 31 0
  let set := arg0 d 47 32
  let loaded := serving b && (match b.pat with | some p => p.pattern == pattern | none => false)
  let keyed := match dataKey s t d.entry.bolt with | some k => k.sessions != 0xFFFFFFFF | none => false
  let setOk := set == 0xFFFF || s.sets.any fun a => a.tenant == t && a.set == set && a.pattern == pattern
  if !loaded then some 0x38
  else if (freeSessionNum s).isNone || e.st != .active || decide (e.maxSessions ≤ e.sessions) || !setOk || !keyed
      || (t != b.tenant && !s.sec.grants.contains (d.entry.bolt, t)) then some 0x25
  else none

/-- SESSION_OPEN: the session's instance is the data key's count of opens, this one among them (R408). -/
def execSessionOpen (id : Nat) (s : State) : Res :=
  .next (command s id 0x08 fromOwnerVf fun s d =>
    match getBolt s d.entry.bolt with
    | none => s
    | some b =>
      match openRefused s d b, freeSessionNum s, dataKey s d.entry.tenant d.entry.bolt with
      | none, some n, some k =>
        let t := d.entry.tenant
        let e : Session := { Session.start with
          st := .opened
          tenant := t
          bolt := d.entry.bolt
          pattern := arg0 d 31 0
          aset := arg0 d 47 32
          pin := arg0 d 48 48 == 1
          lookup := arg0 d 49 49 == 1
          publish := arg0 d 50 50 == 1
          countPrompt := arg0 d 51 51 == 1
          port := d.port
          number := k.sessions + 1
          key := k.entry.key }
        let s1 := modTenant (modSession s n fun _ => e) t fun x => { x with sessions := x.sessions + 1 }
        let mine (x : DataKey) : Bool := x.tenant == t && x.bolt == d.entry.bolt
        let s2 := { s1 with sec := { s1.sec with
          dataKeys := modWhere mine (fun x => { x with sessions := x.sessions + 1 }) s1.sec.dataKeys } }
        finishEntry s2 d 0 n
      | r, _, _ => finishEntry (raiseEvent s .die 42 [(12, d.entry.tenant)]) d (r.getD 0x25) 0)

/-- A session is closed: its job is aborted first, and what waits for it completes (R184). -/
def closeSession (s : State) (n : Nat) (waiter : Option Nat) : State :=
  let s1 := modSession s n fun e => { e with closers := e.closers ++ waiter.toList }
  let s2 := match (getSession s1 n).job with | some j => endJobs s1 (fun x => x.id == j) 1 | none => s1
  if (getSession s2 n).st = .free then s2 else freeSession (modSession s2 n fun e => { e with st := .closing }) n

/-- SESSION_CLOSE. -/
def execSessionClose (id : Nat) (s : State) : Res :=
  .next (command s id 0x09 fromSession fun s d =>
    let n := d.entry.session
    if (getSession s n).st = .free then finishEntry s d 0x21 0
    else pumpLoads (closeSession (startJob s d (jobOf d .close)) n (some d.id)))

/-! ### Payloads (R195, R408, R418, R441, R442) -/

/-- Whether a function's jobs may carry plaintext (R418). -/
def plainAllowed (s : State) (d : Dispatched) : Bool :=
  d.fn != 0 && (getVf s d.port d.fn).tdi == .run && bit (getReg s .sec 0x088) 0
    && s.sec.ide.any fun x => x.port == d.port && x.requester == d.fn && x.stream != 0 && x.secure

/-- The job counter that an entry carries. -/
def entryCounter (d : Dispatched) : BitVec 32 := BitVec.ofNat 32 (arg1 d 31 0)

/-- Whether an entry asks for plaintext. -/
def entryPlain (d : Dispatched) : Bool := d.entry.flags.getLsbD 2

/-- The length of an entry's plaintext, as IN_LEN gives it. -/
def plainLen (d : Dispatched) : Nat := if entryPlain d then d.entry.inLen else d.entry.inLen - 16

/-- The plaintext of a job's input under its session's key; none where the tag fails. -/
def openPayload (s : State) (d : Dispatched) : Option (List Byte) :=
  let e := getSession s d.entry.session
  let nonce := jobNonce e.number (entryCounter d) 0
  match d.entry.payload with
  | .plain bs => if entryPlain d then some (bs.take d.entry.inLen) else none
  | .box x =>
    if !entryPlain d && x.key == e.key && x.nonce == nonce && x.aad == jobAad d.entry.session nonce && x.body.length == plainLen d
    then some x.body else none
  | _ => none

/-- The payload's checks of R408, in their order: the tag, then the counter, which advances; `act` takes the plaintext from there. -/
def withPayload (s : State) (d : Dispatched) (act : State → List Byte → State) : State :=
  match openPayload s d with
  | none => finishEntry (raiseEvent (bumpFor s .sec 0x0A8 [(14, d.entry.session)]) .sec 18 [(14, d.entry.session)]) d 0x29 0
  | some p =>
    if entryCounter d ≠ (getSession s d.entry.session).counter + 1 then finishEntry s d 0x28 0
    else act (modSession s d.entry.session fun e => { e with counter := entryCounter d }) p

/-- Whether a binary32 value lies in a range. -/
def inF (x lo hi : F32) : Bool := isFin x && !fGt lo x && !fGt x hi

/-- The ranges of R195 on a 32-byte sampling block. -/
def samplingOk (p : List Byte) : Bool :=
  let f (at_ : Nat) : F32 := BitVec.ofNat 32 (bytesNat p at_ 4)
  let k := bytesNat p 0x14 4
  (f 0 == 0 || inF (f 0) 0x3B800000 0x43800000)
  && (fGt (f 4) 0 && inF (f 4) 0 0x3F800000)
  && inF (f 8) 0x3D800000 0x41800000 && inF (f 0x0C) 0xC1800000 0x41800000 && inF (f 0x10) 0xC1800000 0x41800000
  && decide (1 ≤ k % 2048 ∧ k % 2048 ≤ 1024) && decide (k / 2048 % 32 = 0 ∧ k / 131072 = 0)

/-! ### GENERATE (R441) -/

/-- The prompt tokens that an entry's length holds. -/
def promptCount (d : Dispatched) : Nat := (plainLen d - 32) / 4

/-- The logged tokens that an entry asks for again. -/
def resendCount (s : State) (d : Dispatched) : Nat :=
  if d.entry.flags.getLsbD 1 then (getSession s d.entry.session).sealedLen - arg1 d 63 32 else 0

/-- The records that MAX_NEW and a resend can need: a record goes on from the resent tokens only when no prompt stands between. -/
def recordNeed (s : State) (d : Dispatched) : Nat :=
  let r := resendCount s d
  let m := arg0 d 31 0
  let stream := d.entry.flags.getLsbD 0
  if promptCount d = 0 then (if stream then r / 14 + m else (r + m + 13) / 14)
  else (r + 13) / 14 + (if stream then m else (m + 13) / 14)

/-- The bytes of the output buffer that some records reach; the last one needs no tag under PLAIN. -/
def recordRoom (d : Dispatched) (n : Nat) : Nat := if entryPlain d && n != 0 then 80 * n - 16 else 80 * n

/-- The checks on the entry itself. -/
def generateEntryOk (s : State) (d : Dispatched) : Bool :=
  let e := getSession s d.entry.session
  let m := arg0 d 31 0
  let len := plainLen d
  e.st != .free && decide (1 ≤ m ∧ m ≤ 131072) && (!entryPlain d || plainAllowed s d)
  && decide (32 ≤ len ∧ len % 4 = 0) && (entryPlain d || decide (48 ≤ d.entry.inLen))
  && !(e.log.isEmpty && promptCount d == 0)
  && (!d.entry.flags.getLsbD 1 || decide (arg1 d 63 32 ≤ e.sealedLen))
  && decide (recordRoom d (recordNeed s d) ≤ d.entry.outLen)

/-- The token that a session's next row carries before any prompt: the last drawn one, or without a prompt the last one logged. -/
def carryOf (e : Session) (prompt : List (BitVec 32)) : Option (BitVec 32) :=
  match e.carry with
  | some t => some t
  | none => if prompt.isEmpty then (e.log[e.sealedLen - 1]?).map Prod.fst else none

/-- A generation job as admission leaves it. -/
def genJob (s : State) (d : Dispatched) (p : List Byte) : GenJob :=
  let e := getSession s d.entry.session
  let prompt := words32 (p.drop 32)
  let carry := carryOf e prompt
  { stream := d.entry.flags.getLsbD 0, plain := entryPlain d, maxNew := arg0 d 31 0, stopId := BitVec.ofNat 32 (arg0 d 63 32),
    counter := entryCounter d, block := p.take 32, prompt := prompt, nextPos := if carry.isSome then e.sealedLen - 1 else e.sealedLen,
    carry := carry, record := [], records := 0, drawn := [], lastDrawn := false, truncRaised := false }

/-- The logged tokens from RESEND_POS on go to the job's records. -/
def resend (s : State) (d : Dispatched) : State :=
  let e := getSession s d.entry.session
  let from_ := arg1 d 63 32
  (((e.log.take e.sealedLen).drop from_).zipIdx).foldl (fun s (x : (BitVec 32 × Word) × Nat) => addToken s d.id (from_ + x.2) x.1.1) s

/-- A job takes its session. -/
def runSession (s : State) (n id : Nat) : State := modSession s n fun e => { e with st := .running, job := some id }

/-- GENERATE. -/
def execGenerate (id : Nat) (s : State) : Res :=
  .next (command s id 0x0A fromSession fun s d =>
    let n := d.entry.session
    if !generateEntryOk s d then finishEntry s d 0x21 0
    else withPayload s d fun s p =>
      if !samplingOk p then finishEntry s d 0x27 0
      else if (getSession s n).st ≠ .opened then finishEntry s d 0x26 0
      else
        let e := getSession s n
        let j := { jobOf d (.gen (genJob s d p)) with tenant := e.tenant, bolt := e.bolt, ready := some s.now }
        let s1 := runSession (startJob s d j) n d.id
        let s2 := if bytesNat p 0x16 1 % 2 = 1 then modSession s1 n fun e => { e with counts := [] } else s1
        if d.entry.flags.getLsbD 1 then resend s2 d else s2)

/-! ### TUNE (R199, R442) -/

/-- Sequences of a payload: a length and that many tokens each. A length of 0 is refused with the payload: the spec gives an empty sequence
no row and no loss (DESIGN CHOICE, log entry 226). -/
def parseSeqs : Nat → List (BitVec 32) → Option (List (List (BitVec 32)))
  | 0, ws => if ws.isEmpty then some [] else none
  | _ + 1, [] => some []
  | f + 1, n :: r =>
    if n = 0 ∨ r.length < n.toNat then none else (parseSeqs f (r.drop n.toNat)).map fun x => r.take n.toNat :: x

/-- The sequences that optimiser step k takes, in turn from the payload's list. -/
def stepSeqs (t : TuneJob) (k : Nat) : List (List (BitVec 32)) :=
  (List.range t.perStep).filterMap fun i => t.seqs[(k * t.perStep + i) % t.seqs.length]?

/-- A tuning job read from its plaintext; none where a limit of R199 is broken. -/
def tuneJob (d : Dispatched) (p : List Byte) : Option TuneJob :=
  let f (at_ : Nat) : F32 := BitVec.ofNat 32 (bytesNat p at_ 4)
  match parseSeqs p.length (words32 (p.drop 32)) with
  | none => none
  | some seqs =>
    let t : TuneJob :=
      { srcSet := arg0 d 15 0
        dstSet := arg0 d 31 16
        lr := f 0
        b1 := f 4
        b2 := f 8
        eps := f 12
        wd := f 16
        clip := f 20
        steps := bytesNat p 24 4
        perStep := bytesNat p 28 4
        seqs := seqs
        doneSteps := 0 }
    let fits := (List.range (min t.steps seqs.length)).all fun k => decide (sumNat ((stepSeqs t k).map fun q => q.length) ≤ 65536)
    if 32 ≤ p.length ∧ p.length % 4 = 0 ∧ 1 ≤ t.steps ∧ 1 ≤ t.perStep ∧ t.perStep ≤ 256 ∧ seqs ≠ [] ∧ fits = true then some t else none

/-- The checks on the entry itself: the session is the tenant's on the bolt, and both sets are of its tenant and pattern.
Equal sets are refused: the target's update would change the source, which R199 forbids (DEDUCED, log entry 225). -/
def tuneEntryOk (s : State) (d : Dispatched) : Bool :=
  let e := getSession s d.entry.session
  let known (x : Nat) : Bool := s.sets.any fun a => a.tenant == d.entry.tenant && a.set == x && a.pattern == e.pattern
  e.st != .free && e.tenant == d.entry.tenant && e.bolt == d.entry.bolt && (!entryPlain d || plainAllowed s d)
  && known (arg0 d 15 0) && known (arg0 d 31 16) && arg0 d 15 0 != arg0 d 31 16

/-- TUNE: the session that the entry names gives the payload's nonce and counter and runs the job (log entry 22). -/
def execTune (id : Nat) (s : State) : Res :=
  .next (command s id 0x0B fromOwnerVf fun s d =>
    let n := d.entry.session
    if !tuneEntryOk s d then finishEntry s d 0x21 0
    else withPayload s d fun s p =>
      match tuneJob d p with
      | none => finishEntry s d 0x21 0
      | some t =>
        if (getSession s n).st ≠ .opened then finishEntry s d 0x26 0
        else runSession (startJob s d { jobOf d (.tune t) with ready := some s.now }) n d.id)

/-! ### ABORT (R202 to R204) -/

/-- ABORT: of a job, or of an entry that has not run. A claim that waits already wins against it. -/
def execAbort (id : Nat) (s : State) : Res :=
  .next (command s id 0x0C (fun _ _ => true) fun s d =>
    let ring := arg0 d 11 0
    let tag := BitVec.ofNat 16 (arg0 d 27 12)
    let mine (port fn r : Nat) (t : BitVec 16) : Bool := port == d.port && fn == d.fn && r == ring && t == tag
    let other := (s.jobs.any fun j => j.port == d.port && j.fn != d.fn && j.ring == ring && j.tag == tag)
    match s.jobs.find? fun j => mine j.port j.fn j.ring j.tag with
    | some j =>
      let r := abortJob s j
      pumpLoads (finishEntry r.1 d (if r.2 then 0 else 2) 0)
    | none =>
      match s.dispatched.find? fun x => x.id != d.id && mine x.port x.fn x.ring x.entry.tag with
      | some x => finishEntry (finishEntry s x 1 0) d 0 0
      | none => finishEntry s d (if other then 0x22 else 2) 0)

/-! ### Prefix retains (R174) -/

/-- PREFIX_RETAIN. -/
def execPrefixRetain (id : Nat) (s : State) : Res :=
  .next (command s id 0x0D fromSession fun s d =>
    let e := getSession s d.entry.session
    if e.st = .free then finishEntry s d 0x21 0
    else
      let s1 := e.path.foldl incNode s
      finishEntry { s1 with kv := { s1.kv with retains := s1.kv.retains ++ [e.path] } } d 0 0)

/-- The path that a release of a session gives up: the longest retained one that its path still begins with (R174). -/
def retainedPath (s : State) (path : List Nat) : Option (List Nat) :=
  s.kv.retains.foldl (fun o r =>
    if r.isPrefixOf path && (match o with | some q => decide (q.length ≤ r.length) | none => true) then some r else o) none

/-- PREFIX_RELEASE. -/
def execPrefixRelease (id : Nat) (s : State) : Res :=
  .next (command s id 0x0E fromSession fun s d =>
    let e := getSession s d.entry.session
    if e.st = .free then finishEntry s d 0x21 0
    else
      match retainedPath s e.path with
      | some r =>
        let s1 := r.foldl decNode s
        finishEntry { s1 with kv := { s1.kv with retains := s1.kv.retains.erase r } } d 0 0
      | none => finishEntry s d 0 0)

/-! ### Refills (R191, R193, R205) -/

/-- A held session's reservation is tried again. -/
def wakeSession (s : State) (t n : Nat) : State :=
  match reserveToken s t with
  | none => budgetRefused s t
  | some s1 =>
    match (getSession s1 n).job with
    | some j => modJob (setHold s1 n false) j fun x => { x with reserved := x.reserved ++ [looseReservation] }
    | none => s1

/-- The held sessions of a tenant, in ascending number. -/
def heldSessions (s : State) (t : Nat) : List Nat := (s.sessions.filter fun kv => kv.2.tenant == t && kv.2.st == .hold).map Prod.fst

/-- TEN_REFILL. -/
def execTenRefill (w : Window) (value : Word) (s : State) : Res :=
  .next (gated s w .die 0x318 value.toNat fun s =>
    let t := field (dieReg s 0x300) 11 0
    let amount := field value 31 0
    if (getTenant s t).st ≠ .active then capture s .die 2 (winCode w) 0x318 (value.toNat % 2 ^ 32)
    else
      let s1 := budgetLow (modTenant s t fun e =>
        { e with budget := BitVec.ofNat 32 (if bit value 32 then amount else satNat 0xFFFFFFFF (e.budget.toNat + amount)) }) t
        (getTenant s t).budget
      if (getTenant s1 t).budget = 0 then s1 else (heldSessions s1 t).foldl (fun s n => wakeSession s t n) s1)

end Sys2Proof.Machine
end

