-- ==== Sys2Proof/Machine/Loads.lean ====
section
/-! DEFINITION. Loading (R207 to R235, R286, R411): staging, commit, cancel, the pattern load, the unload, and the rack
broadcast of an image. -/

namespace Sys2Proof.Machine

/-! ### The header (R207, R212) -/

/-- CHUNKS, ENTRIES and PLAIN_BYTES of a header. -/
def headerChunks (h : List Byte) : Nat := bytesNat h 0x20 4
def headerEntries (h : List Byte) : Nat := bytesNat h 0x24 2
def headerPlain (h : List Byte) : Nat := bytesNat h 0x28 8
/-- KIND of a header. -/
def headerKind (h : List Byte) : Nat := bytesNat h 6 2 % 16
/-- ADAPTER_SET of a header. -/
def headerSet (h : List Byte) : Nat := bytesNat h 0x0A 2

/-- TENANT of a header: the tenant whose weight key opens the image. -/
def headerTenant (h : List Byte) : Nat := bytesNat h 8 2 % 4096

/-- The weight key that opens an image: that of the header's tenant, while it is ACTIVE (R207, R213 step 1). -/
def headerKey (s : State) (h : List Byte) : Option (BitVec 256) :=
  let t := getTenant s (headerTenant h)
  if t.st = .active then t.weight.map fun k => k.key else none

/-- MAGIC, VERSION and shape of a header for a bolt. -/
def headerOk (h : List Byte) (b : Bolt) : Bool :=
  h.length == 256 && bytesNat h 0 4 == 0x4B57494D && bytesNat h 4 2 == 1 && bytesNat h 0x30 1 % 16 == b.cols
  && bytesNat h 0x30 1 / 16 == b.rows

/-- Whether an open session uses an adapter set, or a running tuning job targets it (R227). -/
def setTaken (s : State) (tenant set : Nat) : Bool :=
  (s.sessions.any fun kv => kv.2.st != .free && kv.2.tenant == tenant && kv.2.aset == set)
  || s.jobs.any fun j => j.tenant == tenant && (match j.kind with | .tune t => t.dstSet == set | _ => false)

/-- Why a load's header is refused at step 2 of R213. A RELOAD takes the bolt's own image alone (R224). -/
def headerRefused (s : State) (b : Bolt) (l : Load) : Option Nat :=
  let h := l.header
  if !headerOk h b || decide (1 < headerKind h) || decide (headerChunks h < (16 * headerEntries h + 65535) / 65536) then some 0x30
  else if headerKind h = 1 ∧ setTaken s l.tenant (headerSet h) = true then some 0x36
  else if l.reload && (headerKind h != 0 || some (headerPattern h) != b.weights || headerNonce h != b.nonce || l.tenant != b.tenant)
    then some 0x30
  else none

/-- Frames that a load needs: those of PLAIN_BYTES, none for a RELOAD. -/
def loadNeed (l : Load) : Nat := if l.reload then 0 else (headerPlain l.header + 65535) / 65536

/-- The load with its frames, once the weight region has them free (R213 step 2). -/
def allocLoad (s : State) (l : Load) : Option Load :=
  if l.frames = loadNeed l then some l
  else if regionUsed s + loadNeed l ≤ regionFrames s then some { l with frames := loadNeed l }
  else none

/-! ### The directory (R210, R212) -/

/-- A directory entry. -/
def dirEntry (p : List Byte) (i : Nat) : DirEntry :=
  let a := w64 p (16 * i)
  { type := nbits a 2 0, align := nbits a 3 3 == 1, panel := nbits a 9 4, number := nbits a 25 16, firstChunk := nbits a 63 32,
    bytes := w64 p (16 * i + 8) }

/-- Whether every entry's data begins where the one before ends, up to CHUNKS. -/
def chunksRun : List DirEntry → Nat → Nat → Bool
  | [], at_, total => at_ == total
  | e :: r, at_, total => e.firstChunk == at_ && chunksRun r (at_ + (e.bytes + 65535) / 65536) total

/-- The checks of R212 on a directory. -/
def dirOk (h : List Byte) (b : Bolt) (es : List DirEntry) : Bool :=
  let kind := headerKind h
  es.all (fun e =>
    decide (e.panel < b.cols * b.rows) && (if kind = 0 then decide (e.type ≤ 2) else e.type == 3)
    && (e.type != 0 || e.bytes == 262144) && (e.type != 1 || e.bytes == 65024) && (decide (2 ≤ e.type) || decide (e.number ≤ 767)))
  && !hasDup ((es.filter fun e => decide (e.type ≤ 1)).map fun e => (e.panel, e.number))
  && !hasDup ((es.filter fun e => decide (2 ≤ e.type)).map fun e => (e.type, e.number))
  && chunksRun es ((16 * es.length + 65535) / 65536) (headerChunks h)
  && headerPlain h == 16 * es.length + sumNat (es.map fun e => e.bytes)

/-! ### Placement (R218 to R220) -/

/-- The next position from one on that is not FAILED, at most 768. -/
def nextPos (failed : Nat → Bool) : Nat → Nat → Nat
  | 0, k => k
  | n + 1, k => if k < 768 ∧ failed k = true then nextPos failed n (k + 1) else k

/-- One panel's blocks in ascending NUMBER take positions; those past the last are left over. -/
def placeBlocks (failed : Nat → Bool) : List DirEntry → Nat → List Place × List (Nat × Nat)
  | [], _ => ([], [])
  | e :: r, k =>
    let k1 := nextPos failed 768 (if e.align then (k + 31) / 32 * 32 else k)
    let rest := placeBlocks failed r (k1 + 1)
    if k1 < 768 then
      ({ panel := e.panel, number := e.number, exact := e.type == 1, tile := k1 / 32, arr := k1 % 32 } :: rest.1, rest.2)
    else (rest.1, (e.panel, e.number) :: rest.2)

/-- The placement of a directory, and its DRAM-tier blocks. -/
def placement (s : State) (nw : Nat) (b : Bolt) (es : List DirEntry) : List Place × List (Nat × Nat) :=
  let parts := (List.range (b.cols * b.rows)).map fun rel =>
    let mine := sortBy (fun (x y : DirEntry) => decide (x.number < y.number)) (es.filter fun e => decide (e.type ≤ 1) && e.panel == rel)
    placeBlocks (fun k => s.arrays.failedPos.contains (relPanel nw b rel * 768 + k)) mine 0
  (parts.flatMap Prod.fst, parts.flatMap Prod.snd)

/-- Step 3: the directory is read, checked and placed, once its chunks are there; a status where it is refused. -/
def readDir (s : State) (nw : Nat) (b : Bolt) (l : Load) : Except Nat Load :=
  let cs := sortBy (fun (x y : Chunk) => decide (x.idx < y.idx)) (l.chunks.filter fun c => decide (c.idx < l.dirChunks))
  let p := cs.flatMap fun c => c.bytes
  if p.length ≠ 16 * headerEntries l.header then .error 0x30
  else
    let es := (List.range (headerEntries l.header)).map (dirEntry p)
    if !dirOk l.header b es then .error 0x30
    else
      let t := if l.kind = 0 ∧ l.reload = false then placement s nw b es else ([], [])
      if !t.2.isEmpty && !bit (dieReg s 0x388) 0 then .error 0x34
      else .ok { l with dir := es, place := t.1, tier := t.2 }

/-- Whether a load has all of its directory chunks. -/
def dirThere (l : Load) : Bool := (List.range l.dirChunks).all fun i => l.chunks.any fun c => c.idx == i

/-- The first data chunk that has not the length that the directory gives it. -/
def badLength (l : Load) : Option Nat :=
  l.dir.findSome? fun e => (List.range ((e.bytes + 65535) / 65536)).findSome? fun i =>
    match l.chunks.find? fun c => c.idx == e.firstChunk + i with
    | some c => if c.bytes.length = (if e.bytes < 65536 * (i + 1) then e.bytes - 65536 * i else 65536) then none else some (e.firstChunk + i)
    | none => some (e.firstChunk + i)

/-! ### The end of staging (R213 step 5, R224, R226, R227) -/

/-- Every slot that holds a set becomes free (R188, R412). -/
def freeSlots (s : State) (tenant set : Nat) : State :=
  (boltList s).foldl (fun s x =>
    (x.2.slots.filter fun k => k.2.st != 0 && k.2.tenant == tenant && k.2.set == set).foldl (fun s k =>
      let s1 := modBolt s x.1 fun b => { b with slots := mapDel b.slots k.1 }
      match x.2.pat with
      | none => s1
      | some t => (boltPanels x.1 x.2).foldl (fun s p =>
          match panelEntry x.1 x.2 p with
          | some e => modPanel s p fun q => sramFree q (e.adapterBase + k.1 * t.slotBytes) t.slotBytes
          | none => s) s1) s) s

/-- An upload ends: the set is at rest (R227). -/
def finishUpload (s : State) (nw : Nat) (b : Bolt) (l : Load) : State :=
  let set := headerSet l.header
  let segs := l.dir.map fun e => (e.panel, (entryBytes l.chunks e).1)
  let a : AdapterSet := { tenant := l.tenant, set := set, pattern := headerPattern l.header, segs := segs, master := [], steps := 0,
                          partSet := false }
  let s1 := freeSlots s l.tenant set
  let s2 := { s1 with sets := (s1.sets.filter fun x => !(x.tenant == l.tenant && x.set == set)) ++ [a] }
  let s3 := modBolt s2 nw fun y => setPhase { y with load := none } (restPhase b l)
  closeJobId (raiseEvent s3 .die 44 [(6, nw), (32, 0)]) l.job 0 0

/-- A RELOAD ends: lost chunks of the repair copy are written again (R224). -/
def finishReload (s : State) (nw : Nat) (l : Load) : State :=
  let fresh (c : Chunk) : Chunk :=
    if c.lost then (match l.chunks.find? fun x => x.idx == c.idx with | some x => { c with bytes := x.bytes, lost := false } | none => c) else c
  let s1 := modBolt s nw fun b => setPhase { b with copy := b.copy.map fresh, load := none } 4
  let s2 := { s1 with ras := { s1.ras with lostChunks := s1.ras.lostChunks.filter fun x => x.1 != nw } }
  closeJobId (raiseEvent s2 .die 44 [(6, nw), (32, 0)]) l.job 0 0

/-- The retained record that a staged image answers to, if any (R226): the bolt is UNBOUND since the start. -/
def matchingRecord (s : State) (nw : Nat) (b : Bolt) (l : Load) : Option BoltRecord :=
  if b.weights.isSome || l.rest != 5 then none
  else s.start.area.records.find? fun r => r.bolt == nw && r.cols == b.cols && r.rows == b.rows && r.tenant == l.tenant
    && r.pattern == headerPattern l.header && r.nonce == headerNonce l.header && r.digest == loadDigest l

/-- The load is STAGED. -/
def stagedLoad (s : State) (nw : Nat) (b : Bolt) (l : Load) : State :=
  match badLength l with
  | some i => failLoad s nw b l 0x30 i
  | none =>
    if l.kind = 1 then finishUpload s nw b l
    else if l.reload then finishReload s nw l
    else
      match matchingRecord s nw b l with
      | some r =>
        let place : List Place := r.place.map fun x => { panel := x.1, number := x.2.1, exact := x.2.2.1, tile := x.2.2.2.1, arr := x.2.2.2.2 }
        let tier := (l.dir.filter fun e => decide (e.type ≤ 1) && !(place.any fun x => x.panel == e.panel && x.number == e.number)).map
          fun e => (e.panel, e.number)
        pumpBolt (beginCommit s nw b { l with staged := true, place := place, tier := tier } true) nw
      | none =>
        let l1 := { l with staged := true, committing := l.autoCommit }
        let s1 := modBolt s nw fun b => setPhase { b with load := some l1 } 2
        if l.autoCommit then
          pumpBolt (match getJob s1 l.job with
            | some j => queueCompletion s1 j.port j.ring (jobCompletion j 0 0 false)
            | none => s1) nw
        else closeJobId s1 l.job 0 0

/-- A load goes on as far as its chunks allow: the directory, then the end of staging. -/
def advanceLoad (s : State) (nw : Nat) (b : Bolt) (l : Load) (fresh : Bool) : State :=
  let read := if dirThere l && fresh then readDir s nw b l else .ok l
  match read with
  | .error e => failLoad s nw b l e 0
  | .ok l1 =>
    let s1 := modBolt s nw fun b => { b with load := some l1 }
    if (List.range (headerChunks l1.header)).all fun i => l1.chunks.any fun c => c.idx == i then stagedLoad s1 nw b l1 else s1

/-- The header is there: it is checked, its tenant's weight key opens the image (R207), and an image without chunks is staged at
once. -/
def headerCome (s : State) (nw : Nat) (b : Bolt) (l0 : Load) : State :=
  let key := headerKey s l0.header
  let l := { l0 with tenant := headerTenant l0.header, key := key.getD l0.key }
  match (headerRefused s b l).orElse fun _ => if key.isNone then some 0x23 else none with
  | some e => failLoad s nw b l0 e 0
  | none =>
    let l1 := { l with kind := headerKind l.header, dirChunks := (16 * headerEntries l.header + 65535) / 65536 }
    let l2 := (allocLoad s l1).getD l1
    let s1 := modBolt s nw fun b => { b with load := some l2 }
    if headerChunks l2.header = 0 then advanceLoad s1 nw b l2 true else s1

/-! ### The rows -/

/-- Whether a LOAD_STAGE is admitted from its function: the owner, or a VF for an image of KIND 1. -/
def stageFrom (s : State) (d : Dispatched) : Bool :=
  fromOwner s d || (fromOwnerVf s d && (match d.entry.payload with | .image h _ => headerKind h == 1 | _ => false))

/-- The load that a LOAD_STAGE starts, on a bolt of a phase. -/
def newLoad (d : Dispatched) (key : BitVec 256) (rest : Nat) : Load :=
  { job := d.id, tenant := d.entry.tenant, key := key,
    header := if arg0 d 0 0 = 1 then [] else (match d.entry.payload with | .image h _ => h | _ => []),
    kind := 0, fabric := arg0 d 0 0 == 1, manager := arg0 d 8 3, autoCommit := arg0 d 1 1 == 1, reload := arg0 d 2 2 == 1, chunks := [],
    dirChunks := 0, dir := [], place := [], tier := [], frames := 0, staged := false, committing := false, rest := rest, waitArrays := [], done := 0,
    commitJob := none }

/-- The broadcast that a manager begins with the LOAD_STAGE that names itself as the source (R229): every admitted module is a
worker. -/
def startBcast (s : State) (nw : Nat) (d : Dispatched) : State :=
  if arg0 d 0 0 = 1 ∧ s.fab.role = 2 ∧ arg0 d 8 3 = s.fab.addr then
    let n := match d.entry.payload with | .image h _ => headerChunks h | _ => 0
    let byRank := sortBy (fun x y => decide ((peerOf s x).rank < (peerOf s y).rank)) ((admitted s).filter fun a => (peerOf s a).cls != 4)
    { s with fab := { s.fab with bcasts := (s.fab.bcasts.filter fun b => b.bolt != nw) ++
        [{ bolt := nw, chunks := n, workers := byRank, reports := [], waitEnd := none, chain := [], again := [], resend := [], sent := 0 }] } }
  else s

/-- LOAD_STAGE (R213 steps 1 and 2, R215). -/
def execLoadStage (id : Nat) (s : State) : Res :=
  .next (command s id 0x10 stageFrom fun s d =>
    let nw := d.entry.bolt
    match getBolt s nw with
    | none => s
    | some b =>
      let refuse (st : Nat) : State := finishEntry (raiseEvent s .die 45 [(6, nw), (32, 0)]) d st 0
      let t := getTenant s d.entry.tenant
      if b.phase = 3 ∨ b.unloadJob.isSome = true then refuse 0x2B
      else
        match t.weight with
        | none => refuse 0x23
        | some k =>
          if t.st ≠ .active then refuse 0x23
          else if arg0 d 2 2 = 1 ∧ b.weights.isNone = true then refuse 0x21
          else
            let s1 := match b.load with | some l => failLoad s nw b l 0x32 0 | none => s
            match getBolt s1 nw with
            | none => s1
            | some b1 =>
              let l := newLoad d k.key b1.phase
              let b2 := setPhase { b1 with load := some l } 1
              let s2 := startBcast (startJob (setBolt s1 nw (some b2)) d (jobOf d .load)) nw d
              if l.fabric then s2 else headerCome s2 nw b2 l)

/-- LOAD_COMMIT (R213 step 6): the commit begins once no session is open on the bolt. -/
def execLoadCommit (id : Nat) (s : State) : Res :=
  .next (command s id 0x11 fromOwner fun s d =>
    match getBolt s d.entry.bolt with
    | none => s
    | some b =>
      match b.load with
      | none => finishEntry s d 0x21 0
      | some l =>
        if !l.staged || l.committing then finishEntry s d 0x21 0
        else
          let s1 := startJob s d (jobOf d .load)
          pumpBolt (modBolt s1 d.entry.bolt fun b => { b with load := some { l with committing := true, commitJob := some d.id } }) d.entry.bolt)

/-- LOAD_CANCEL (R215): before step 7 the load ends with ABORTED and its frames are free; from step 7 on the answer is
ABORT_LATE. -/
def execLoadCancel (id : Nat) (s : State) : Res :=
  .next (command s id 0x12 fromOwner fun s d =>
    match getBolt s d.entry.bolt with
    | none => s
    | some b =>
      match b.load with
      | none => finishEntry s d 0x02 0
      | some l =>
        if b.phase = 3 then finishEntry s d 0x02 0
        else finishEntry (failLoad s d.entry.bolt b l 1 0) d 0 0)

/-- A chunk opened under a key with the nonce and the authenticated data of R208. -/
def openChunk (key : BitVec 256) (header : List Byte) (idx : Nat) (c : Sealed) : Option (List Byte) :=
  let nonce : BitVec 96 := BitVec.ofNat 96 (leNat (natLe 8 (headerNonce header).toNat ++ natLe 4 idx))
  if c.key = key ∧ c.nonce = nonce ∧ c.aad = header ∧ c.body.length ≤ 65536 then some c.body else none

/-- A chunk on its way to another module: its index, the workers of the chain behind the receiver, the header and the ciphertext with its
tag (R208, R229, R230). -/
def chunkMsg (idx : Nat) (rest : List Nat) (c : Sealed) : List Byte :=
  natLe 4 idx ++ natLe 1 rest.length ++ rest.map (BitVec.ofNat 8) ++ c.aad ++ Config.cipherText c.key c.nonce c.aad c.body

/-- The manager sends a chunk that it reads from its host: to every worker, in ascending index, and after the last one the wait for
reports begins (R229); in the fall-back, the next chunk to read again, to the first worker of the chain (R230). -/
def bcastChunk (s : State) (nw idx : Nat) (c : Sealed) : State :=
  match s.fab.bcasts.find? fun b => b.bolt == nw with
  | none => s
  | some b =>
    let put (s : State) (f : Bcast → Bcast) : State :=
      { s with fab := { s.fab with bcasts := modWhere (fun (x : Bcast) => x.bolt == nw) f s.fab.bcasts } }
    if b.waitEnd.isNone then
      if idx ≠ b.sent then s
      else
        put (multicast s idx (chunkMsg idx [] c)) fun x =>
          { x with
            sent := idx + 1
            waitEnd := if b.chunks ≤ idx + 1 then some (s.now + 1000 * field (dieReg s 0x388) 15 8) else none }
    else
      match b.chain, b.resend with
      | a :: rest, i :: more => if i = idx then put (sendMsg s 0 a 2 (chunkMsg idx rest c)) fun x => { x with resend := more } else s
      | _, _ => s

/-- A worker of the chain forwards every chunk that it receives whole to the next one, whatever it makes of it itself (R230, R231). -/
def forwardChunk (s : State) (nw idx : Nat) (next : List Nat) (c : Sealed) : State :=
  match next with
  | [] => s
  | a :: rest =>
    let old := match s.fab.relays.find? fun r => r.bolt == nw with | some r => r.sent | none => []
    let s1 := sendMsg s 0 a 2 (chunkMsg idx rest c)
    { s1 with fab := { s1.fab with relays := (s1.fab.relays.filter fun r => r.bolt != nw) ++
        [{ bolt := nw, next := next, sent := (old.filter fun x => x.1 != idx) ++ [(idx, c)] }] } }

/-- A chunk moves on to other modules before this one takes it. -/
def relayChunk (s : State) (nw idx : Nat) (src : Option (Nat × List Nat)) (c : Sealed) : State :=
  match src with
  | none => bcastChunk s nw idx c
  | some (a, next) => if (admitted s).contains a then forwardChunk s nw idx next c else s

/-- Whether a load takes a chunk from where it comes (R228 to R230): a load from the host, or the manager's own, takes its host's; one
armed for the fabric takes those of the manager it names, and of a worker before it in the chain's ascending rank. -/
def chunkFrom (s : State) (l : Load) : Option (Nat × List Nat) → Bool
  | none => !l.fabric || l.manager == s.fab.addr
  | some (a, _) => l.fabric && l.manager != s.fab.addr && (admitted s).contains a &&
      (a == l.manager || decide ((peerOf s a).rank < s.fab.rank))

/-- After the last chunk of a broadcast a worker reports the indices it has not received (R229). -/
def reportMissing (s : State) (l : Load) (idx : Nat) : State :=
  if !l.fabric || l.manager == s.fab.addr || decide (idx + 1 ≠ headerChunks l.header) then s
  else
    let missing := (List.range (headerChunks l.header)).filter fun i => !(l.chunks.any fun c => c.idx == i)
    sendMsg s 0 l.manager 0 (natLe 4 missing.length ++ missing.flatMap fun i => natLe 4 i)

/-- A load takes a chunk: it is opened, and the load goes on or ends (R213 steps 3 to 5, R214). A chunk of an upload whose tenant is no
longer ACTIVE ends it (R181). -/
def takeChunk (s : State) (nw idx : Nat) (b : Bolt) (l : Load) (c : Sealed) : State :=
  if l.kind = 1 ∧ (getTenant s l.tenant).st ≠ .active then failLoad s nw b l 0x23 idx
  else
    match openChunk l.key l.header idx c with
    | none => failLoad (bumpFor s .die 0x3A0 [(6, nw), (32, idx)]) nw b l 0x31 idx
    | some p =>
      let l2 := { l with chunks := l.chunks ++ [{ idx := idx, bytes := p, lost := false }] }
      reportMissing (advanceLoad s nw b l2 (decide (idx < l2.dirChunks))) l2 idx

/-- A chunk arrives for a load that may take it: the header comes with the first one of a load armed for the fabric, and the chunk waits
for the load's frames. -/
def loadChunk (s : State) (nw idx : Nat) (src : Option (Nat × List Nat)) (c : Sealed) : State :=
  match getBolt s nw with
  | none => s
  | some b0 =>
    match b0.load with
    | none => s
    | some l0 =>
      if l0.staged || !chunkFrom s l0 src then s
      else
        let s0 := if l0.header.isEmpty then headerCome s nw b0 { l0 with header := c.aad } else s
        match getBolt s0 nw with
        | none => s0
        | some b =>
          match b.load with
          | none => s0
          | some l =>
            if headerChunks l.header ≤ idx ∨ (l.chunks.any fun x => x.idx == idx) = true then s0
            else
              match allocLoad s0 l with
              | none => s0
              | some l1 => takeChunk s0 nw idx b l1 c

/-- LOAD_CHUNK (R213, R214, R228 to R231): a chunk arrives from the host, or from another module with the workers of the chain that
come after this one. -/
def execLoadChunk (bolt idx : Nat) (c : ChunkIn) (s : State) : Res :=
  .next (loadChunk (relayChunk s bolt idx c.src c.box) bolt idx c.src c.box)

/-- Plaintext of a pattern image's chunks, or the index of one whose tag fails. -/
def openAll (key : BitVec 256) (header : List Byte) : List Sealed → Nat → Except Nat (List Byte)
  | [], _ => .ok []
  | c :: r, i =>
    match openChunk key header i c with
    | none => .error i
    | some p =>
      match openAll key header r (i + 1) with
      | .ok q => .ok (p ++ q)
      | .error k => .error k

/-- Where a load puts its areas in DRAM: a free choice within the weight region (R290, R300). The TYPE 2 segments of the bolt lie in one
space, each at its offset from one base (R219). -/
def relocBase (s : State) (b : Bolt) : RelocBase :=
  let base := field (dieReg s 0x380) 22 0
  let pick (k : Nat) : Nat := (base + (Config.freeWord k).toNat % (if regionFrames s = 0 then 1 else regionFrames s)) * 65536
  { scratch := pick s.freeCtr, tack := pick (s.freeCtr + 1),
    seg := fun n => match segOffset b n with | some o => pick (s.freeCtr + 2) + o | none => pick (s.freeCtr + 3 + n) }

/-- What a LOAD_PATTERN comes to: a status where it is refused, with the chunk behind it, or the pattern with its images (R286 to R302). -/
def patternOf (s : State) (nw : Nat) (b : Bolt) (key : BitVec 256) (header : List Byte) (chunks : List Sealed) :
    Except (Nat × Nat) (PatRead × List (List Byte) × (Nat × Nat)) :=
  if !headerOk header b || headerKind header != 2 || headerEntries header != 0 || headerChunks header != chunks.length then .error (0x30, 0)
  else
    match openAll key header chunks 0 with
    | .error i => .error (0x31, i)
    | .ok p =>
      if p.length ≠ headerPlain header then .error (0x30, 0)
      else
        match readPattern p nw b with
        | .error e => .error (e, 0)
        | .ok r =>
          if regionFrames s < regionUsed s - b.patFrames + (r.head.scratch + r.head.tack) then .error (0x39, 0)
          else
            let sp := spanOf s p r.head
            let env : RelocEnv := { nw := nw, cols := b.cols, rows := b.rows, rank := sp.1, ranks := sp.2, base := relocBase s b }
            match relocAll p env r.head.relocs r.head.relocAt r.images with
            | none => .error (0x3B, 0)
            | some imgs => .ok (r, imgs, sp)

/-- LOAD_PATTERN (R286). A refused pattern leaves the one before in force. -/
def execLoadPattern (id : Nat) (s : State) : Res :=
  .next (command s id 0x13 fromOwner fun s d =>
    let nw := d.entry.bolt
    match getBolt s nw with
    | none => s
    | some b =>
      let refuse (s : State) (st chunk : Nat) : State := finishEntry (raiseEvent s .die 45 [(6, nw), (32, chunk)]) d st 0
      let t := getTenant s d.entry.tenant
      if sessionsOn s nw then refuse s 0x37 0
      else
        match t.weight with
        | none => refuse s 0x23 0
        | some _ =>
          if t.st ≠ .active then refuse s 0x23 0
          else
            match d.entry.payload with
            | .image h cs =>
              (match headerKey s h with
                | none => refuse s 0x23 0
                | some k =>
                  match patternOf s nw b k h cs with
                  | .error e => refuse (if e.1 = 0x31 then bumpFor s .die 0x3A0 [(6, d.entry.bolt), (32, e.2)] else s) e.1 e.2
                  | .ok (r, imgs, sp) =>
                    let s1 := installPattern { s with freeCtr := s.freeCtr + 3 + 65536 } nw b (headerTenant h) r sp imgs
                    finishEntry (raiseEvent s1 .die 44 [(6, nw), (32, 0)]) d 0 0)
            | _ => refuse s 0x30 0)

/-- What a panel holds for its bolt's steps goes, with its SRAM zeroed and FREE. -/
def clearPanel (q : Panel) : Panel :=
  { sramZero q with
    ctxs := []
    regs := []
    drains := []
    bobbinOut := []
    samples := []
    hems := []
    est := []
    att := []
    attb := []
    remote := []
    parts := []
    cands := []
    merges := []
    calls := []
    rings := []
    unwanted := []
    rxBufs := []
    rxWait := []
    batches := []
    recalling := none }

/-- A bolt with nothing loaded: neither weights nor pattern, no steps, no checker copies. -/
def emptyBolt (b : Bolt) : Bolt :=
  { b with
    weights := none
    digest := 0
    copy := []
    dir := []
    place := []
    tier := []
    copyFrames := 0
    pat := none
    patFrames := 0
    scratch := []
    scratchKey := []
    steps := []
    slots := []
    checkers := []
    recalling := none
    wanted := [] }

/-- A bolt's image, pattern and keys go, and the arrays that hold its levels begin their zeroisation (R411). The job answers once
the last array is ZEROISED. -/
def unloadBolt (s : State) (nw : Nat) (b : Bolt) (job : Nat) : State :=
  let ps := boltPanels nw b
  let arrs := heldArrays s nw b
  let s1 := modPanels (dropSramPages (ps.foldl (fun s p => discardPanel s p fun _ => true) (dropRequests s nw)) ps) ps clearPanel
  let s2 := modBolt s1 nw fun b => { emptyBolt b with zeroWait := arrs, unloadJob := some job }
  let s3 := modSec (eraseBoltKeys s2 nw) fun a => { a with records := a.records.filter fun r => r.bolt != nw }
  let s4 := { s3 with ras := { s3.ras with
    lostChunks := s3.ras.lostChunks.filter fun x => x.1 != nw
    swatches := s3.ras.swatches.filter fun w => w.bolt != nw } }
  pumpBolt (arrs.foldl queueZero s4) nw

/-- UNLOAD (R411). -/
def execUnload (id : Nat) (s : State) : Res :=
  .next (command s id 0x14 fromOwner fun s d =>
    let nw := d.entry.bolt
    match getBolt s nw with
    | none => s
    | some b0 =>
      if sessionsOn s nw then finishEntry s d 0x37 0
      else if b0.phase = 3 ∨ b0.unloadJob.isSome = true then finishEntry s d 0x2B 0
      else
        let s1 := match b0.load with | some l => failLoad s nw b0 l 0x32 0 | none => s
        match getBolt s1 nw with
        | none => s1
        | some b => unloadBolt (startJob s1 d (jobOf d .load)) nw b id)

/-! ### Broadcast (R229, R230) -/

/-- A changed broadcast; one whose workers have all reported nothing missing is over. -/
def modBcast (s : State) (bolt : Nat) (f : Bcast → Bcast) : State :=
  let bs := modWhere (fun x => x.bolt == bolt) f s.fab.bcasts
  let over_ (b : Bcast) : Bool := b.waitEnd.isSome && b.chain.isEmpty && b.workers.all fun a => b.reports.any fun r => r.1 == a && r.2.isEmpty
  { s with fab := { s.fab with bcasts := bs.filter fun b => !over_ b } }

/-- BCAST_REPORT (R229): a worker's latest report counts; one of the chain that misses nothing leaves it. -/
def execBcastReport (bolt addr : Nat) (missing : List Nat) (s : State) : Res :=
  .next (modBcast s bolt fun b =>
    if b.workers.contains addr then
      { b with
        reports := (b.reports.filter fun r => r.1 != addr) ++ [(addr, missing)]
        chain := if missing.isEmpty then b.chain.filter fun a => a != addr else b.chain }
    else b)

/-- BCAST_WAIT (R229, R230): the wait is over; workers that miss chunks or have not reported form the chain, in ascending rank,
and the chunks to read again from the host are the union of what they miss, or all of them when a report is lacking. -/
def execBcastWait (bolt : Nat) (s : State) : Res :=
  .next (match s.fab.bcasts.find? fun b => b.bolt == bolt with
    | none => s
    | some b =>
      match b.waitEnd with
      | none => s
      | some t =>
        if s.now < t ∨ !b.chain.isEmpty then s
        else
          let lacking (a : Nat) : Bool := !(b.reports.any fun r => r.1 == a)
          let chain := b.workers.filter fun a => lacking a || b.reports.any fun r => r.1 == a && !r.2.isEmpty
          let missed := b.reports.flatMap fun r => if chain.contains r.1 then r.2 else []
          let again := if chain.any lacking then List.range b.chunks else (List.range b.chunks).filter fun i => missed.contains i
          let s1 := modBcast s bolt fun b => { b with chain := chain, again := again, resend := again }
          if chain.isEmpty then s1 else raiseEvent (bumpFor s1 .die 0x3B8 [(6, bolt)]) .die 47 [(6, bolt)])

/-- A worker leaves the chain behind this one: the next one is sent all that it was (R230). -/
def skipNext (s : State) (bolt addr : Nat) : State :=
  match s.fab.relays.find? fun r => r.bolt == bolt && r.next.contains addr with
  | none => s
  | some r =>
    let next := r.next.filter fun a => a != addr
    let s1 := { s with fab := { s.fab with relays := modWhere (fun x => x.bolt == bolt) (fun x => { x with next := next }) s.fab.relays } }
    match r.next.head? == some addr, next with
    | true, a :: rest => r.sent.foldl (fun s x => sendMsg s 0 a 2 (chunkMsg x.1 rest x.2)) s1
    | _, _ => s1

/-- CHAIN_TIMEOUT (R230): a worker that does not answer is dropped from the chain, and its predecessor forwards to its successor: the
manager reads the chain's chunks again for a new first worker. On the dropped worker itself the load ends with SOURCE_LOST. -/
def execChainTimeout (bolt addr : Nat) (s : State) : Res :=
  .next (let s0 := modBcast s bolt fun b =>
      { b with
        chain := b.chain.filter fun a => a != addr
        resend := if b.chain.head? = some addr then b.again else b.resend
        workers := if b.chain.contains addr then b.workers.filter fun a => a != addr else b.workers }
    let s1 := skipNext s0 bolt addr
    if addr ≠ s.fab.addr then s1
    else
      match getBolt s1 bolt with
      | none => s1
      | some b =>
        match b.load with
        | none => s1
        | some l => if l.fabric && !l.staged then failLoad s1 bolt b l 0x35 0 else s1)

end Sys2Proof.Machine
end

