-- ==== Sys2Proof/Machine/Security.lean ====
section
/-! DEFINITION. Roles, keys and attestation (R391 to R423): measurements, the SPDM requests, signed commands, tenant keys, grants,
the fabric plan, debug unlock, IDE streams and device interfaces, and coarse telemetry. -/

namespace Sys2Proof.Machine

/-! ### Digests and measurements (R402, R403) -/

/-- A digest's 64 bytes. -/
def digestBytes (d : BitVec 512) : List Byte := natBe 64 d.toNat

/-- The VARIANT register (R5). -/
def variantReg (s : State) : Word :=
  packReg [(0, 8, panelsEn s), (8, 4, stacksEn s), (12, 4, stackMap s), (16, 8, 16), (24, 8, s.stepping.toNat),
    (32, 8, match s.variant with | .k32H => 0x48 | _ => 0x46)]

/-- The offsets of a page that may hold a register, in ascending order. -/
def pageOffsets : List Nat := (List.range 512).map fun i => 8 * i

/-- Every page of the module, in ascending order of address; tenant pages last. -/
def allPages (s : State) : List PageId :=
  (((List.range 7168).filterMap pageOfKey) ++ ((List.range 2).flatMap fun p => (List.range 256).map fun v => PageId.tenant p v)).filter
    fun p => pageExists s p

/-- The retained configuration as measured: every register with a K field, VARIANT without its STEPPING among them. -/
def configBytes (s : State) : List Byte :=
  (allPages s).flatMap fun p => pageOffsets.flatMap fun o =>
    if p = .die ∧ o = 0x080 then natLe 8 (variantReg s &&& ~~~(0xFF000000 : Word)).toNat
    else if isKept p o then natLe 8 (getReg s p o).toNat
    else []

/-- A plan's bytes before its signature (R345). -/
def planBody (t : Plan) : List Byte :=
  natLe 2 t.generation.toNat ++ [BitVec.ofNat 8 t.entries.length] ++ List.replicate 13 0
  ++ t.entries.flatMap fun e =>
    natBe 16 e.digest.toNat ++ natLe 4 (packFields [(0, e.rank % 256), (8, e.role % 4), (16, e.planes.toNat)]) ++ List.replicate 12 0

/-- A bolt's measurement record. -/
def boltRecord (nw : Nat) (b : Bolt) : List Byte :=
  [BitVec.ofNat 8 nw, BitVec.ofNat 8 b.cols, BitVec.ofNat 8 b.rows, BitVec.ofNat 8 b.port, BitVec.ofNat 8 b.phase, 0]
  ++ natLe 2 b.tenant ++ digestBytes (match b.pat with | some t => t.digest | none => 0) ++ digestBytes b.digest ++ natLe 4 b.changes.toNat

/-- Measurement 5: the owner's public key. -/
def ownerMeasure (s : State) : List Byte := match s.sec.owner with | some k => digestBytes (sha512 k) | none => List.replicate 64 0

/-- A measurement by its index. -/
def measurement (s : State) (i : Nat) : Option (List Byte) :=
  match i with
  | 1 => some (digestBytes Config.romDigest)
  | 2 => some (digestBytes s.start.fwDigest)
  | 3 => some (natLe 8 s.start.fwSvn.toNat)
  | 4 => some (natLe 8 (variantReg s).toNat)
  | 5 => some (ownerMeasure s)
  | 6 => some (digestBytes (sha512 (configBytes s)))
  | 7 => some (natLe 8 s.sec.debug)
  | 8 => some (match s.fab.plan with
      | some t => digestBytes (sha512 (planBody t ++ Config.signatureBytes t.signer (planBody t)))
      | none => List.replicate 64 0)
  | i => if i < 16 then none else (getBolt s (i - 16)).map fun b => boltRecord (i - 16) b

/-- The indices that have a measurement. -/
def measured (s : State) : List Nat := [1, 2, 3, 4, 5, 6, 7, 8] ++ (boltList s).map fun x => 16 + x.1

/-! ### SPDM (R401). The codes and the order of the requests are those of SPDM 1.2 (PRESUMED, log entry 25). -/

/-- How far a connection has come. -/
def spdmStage (s : State) (v : Via) : Nat := match s.sec.spdm.find? fun x => x.via == v with | some x => x.stage | none => 0

/-- A connection at a stage with its key generation. -/
def setSpdm (s : State) (v : Via) (stage keyGen : Nat) : State :=
  { s with sec := { s.sec with spdm := (s.sec.spdm.filter fun x => x.via != v) ++ [{ via := v, stage := stage, keyGen := keyGen }] } }

/-- Whether firmware answers on a path: it runs, and a port's reset is released (R481, R486, R488). -/
def spdmOn (s : State) (v : Via) : Bool :=
  (s.start.phase == 7 || s.start.phase == 8) && (match v with | .doe p => p < 2 && (getPort s p).released | .mctp => true)

/-- An SPDM error. -/
def spdmError (s : State) (v : Via) (code : Nat) : State := emit s (.spdm v 0x7F [BitVec.ofNat 8 code])

/-- A request that needs a stage is answered, or refused as unexpected. -/
def spdmAnswer (s : State) (v : Via) (ok : Bool) (act : State → State) : State :=
  if !spdmOn s v then s else if ok then act s else spdmError s v 4

/-- The certificate chain of a slot: slot 1 once this start's key-encryption key exists. -/
def chainOf (s : State) (slot : Nat) : Option (List Byte) :=
  if slot = 0 then some (Config.certChain s.sec.identity 0 0)
  else if slot = 1 ∧ s.sec.kekReady = true then some (Config.certChain s.sec.identity s.sec.kekId 1)
  else none

/-- A signature under the identity key. -/
def identitySign (s : State) (body : List Byte) : List Byte := Config.signatureBytes (digestBytes s.sec.identity) body

/-- A signed answer: the identity key is unwrapped for it, which needs the root (R398, R399); without it the request ends in an
unspecified error (DESIGN CHOICE, log entry 244). -/
def signedAnswer (s : State) (v : Via) (act : State → State) : State := if (wrappedIdentity s).isSome then act s else spdmError s v 5

/-- GET_VERSION: SPDM 1.2; the connection begins anew. -/
def execGetVersion (v : Via) (s : State) : Res :=
  .next (spdmAnswer s v true fun s => emit (setSpdm s v 1 0) (.spdm v 0x04 [0x12]))

/-- GET_CAPABILITIES. -/
def execGetCapabilities (v : Via) (s : State) : Res :=
  .next (spdmAnswer s v (spdmStage s v == 1) fun s => emit (setSpdm s v 2 0) (.spdm v 0x61 []))

/-- NEGOTIATE_ALGORITHMS: the options of R401, or a refusal where the requester offers none of them. -/
def execNegotiateAlgorithms (v : Via) (supported : Bool) (s : State) : Res :=
  .next (spdmAnswer s v (spdmStage s v == 2) fun s =>
    if supported then emit (setSpdm s v 3 0) (.spdm v 0x63 []) else spdmError s v 1)

/-- GET_DIGESTS: SHA-512 of each slot's chain. -/
def execGetDigests (v : Via) (s : State) : Res :=
  .next (spdmAnswer s v (decide (3 ≤ spdmStage s v)) fun s =>
    emit s (.spdm v 0x01 ([0, 1].flatMap fun k => match chainOf s k with | some c => digestBytes (sha512 c) | none => [])))

/-- GET_CERTIFICATE. -/
def execGetCertificate (v : Via) (slot : Nat) (s : State) : Res :=
  .next (spdmAnswer s v (decide (3 ≤ spdmStage s v)) fun s =>
    match chainOf s slot with | some c => emit s (.spdm v 0x02 c) | none => spdmError s v 1)

/-- CHALLENGE: the slot's digest and the nonce, with the identity key's signature over them. -/
def execChallenge (v : Via) (slot : Nat) (nonce : BitVec 256) (s : State) : Res :=
  .next (spdmAnswer s v (decide (3 ≤ spdmStage s v)) fun s =>
    match chainOf s slot with
    | some c =>
      let body := digestBytes (sha512 c) ++ natLe 32 nonce.toNat
      signedAnswer s v fun s => emit s (.spdm v 0x03 (body ++ identitySign s body))
    | none => spdmError s v 1)

/-- GET_MEASUREMENTS (R402, R403): the number of measurements for index 0, every record for index 0xFF, one record whole otherwise. -/
def execGetMeasurements (v : Via) (index : Nat) (s : State) : Res :=
  .next (spdmAnswer s v (decide (3 ≤ spdmStage s v)) fun s =>
    if index = 0 then emit s (.spdm v 0x60 [BitVec.ofNat 8 (measured s).length])
    else if index = 0xFF then
      emit s (.spdm v 0x60 ((measured s).flatMap fun i => BitVec.ofNat 8 i :: (measurement s i).getD []))
    else
      match measurement s index with
      | some m => emit s (.spdm v 0x60 (BitVec.ofNat 8 index :: m))
      | none => spdmError s v 1)

/-- KEY_EXCHANGE: a session handshake begins; the answer is signed under the identity key. -/
def execKeyExchange (v : Via) (exchange : Nat) (s : State) : Res :=
  .next (spdmAnswer s v (decide (3 ≤ spdmStage s v)) fun s =>
    signedAnswer s v fun s => emit (setSpdm s v 4 0) (.spdm v 0x64 (identitySign s (natLe 512 exchange))))

/-- FINISH: the handshake ends, or fails and the session is gone. -/
def execFinish (v : Via) (verified : Bool) (s : State) : Res :=
  .next (spdmAnswer s v (spdmStage s v == 4) fun s =>
    if verified then emit (setSpdm s v 5 0) (.spdm v 0x65 []) else spdmError (setSpdm s v 3 0) v 6)

/-- KEY_UPDATE. -/
def execKeyUpdate (v : Via) (s : State) : Res :=
  .next (spdmAnswer s v (spdmStage s v == 5) fun s =>
    let g := match s.sec.spdm.find? fun x => x.via == v with | some x => x.keyGen | none => 0
    emit (setSpdm s v 5 (g + 1)) (.spdm v 0x69 []))

/-- END_SESSION. -/
def execEndSession (v : Via) (s : State) : Res :=
  .next (spdmAnswer s v (spdmStage s v == 5) fun s => emit (setSpdm s v 3 0) (.spdm v 0x6C []))

/-! ### IDE and device interfaces (R417, R418) -/

/-- LOCK_INTERFACE's effect; an interface that is not unlocked stays as it is. -/
def lockIf (s : State) (port vf : Nat) : State :=
  if pageExists s (.tenant port vf) && (getVf s port vf).tdi == .unlocked then modVf s port vf fun v => { v with tdi := .locked } else s

/-- A VF's jobs that carry plaintext are aborted. -/
def abortPlain (s : State) (port vf : Nat) : State :=
  (s.jobs.filter fun j => j.port == port && j.fn == vf && (match j.kind with | .gen g => g.plain | _ => false)).foldl
    (fun s j => (abortJob s j).1) s

/-- STOP_INTERFACE's effect: the PF may change the VF again, and nothing of it goes on in plaintext. -/
def stopIf (s : State) (port vf : Nat) : State :=
  if (getVf s port vf).tdi = .unlocked then s else abortPlain (modVf s port vf fun v => { v with tdi := .unlocked }) port vf

/-- LOCK_INTERFACE (R418): the VF's tenant, BAR ranges and rings are fixed. -/
def execLockInterface (port vf : Nat) (s : State) : Res := .next (lockIf s port vf)

/-- STOP_INTERFACE (R418). -/
def execStopInterface (port vf : Nat) (s : State) : Res := .next (stopIf s port vf)

/-- TDI_ERROR (R418): a forbidden change, or a stream that has failed. -/
def execTdiError (port vf : Nat) (s : State) : Res :=
  .next (let s1 := { s with sec := { s.sec with ide := s.sec.ide.map fun x =>
      if x.port = port ∧ x.stream ≠ 0 ∧ x.requester = vf ∧ (getVf s port vf).tdi ≠ .unlocked then { x with secure := false } else x } }
    tdiFail s1 port vf)

/-- A stream of a port. -/
def findIde (s : State) (port stream : Nat) : Option IdeStream := s.sec.ide.find? fun x => x.port == port && x.stream == stream

/-- A TDISP answer: the interface's state. -/
def tdispAnswer (s : State) (v : Via) (port vf : Nat) : State :=
  emit s (.spdm v 0x7E [match (getVf s port vf).tdi with | .unlocked => 0 | .locked => 1 | .run => 2 | .error => 3])

/-- VENDOR_DEFINED_REQUEST (R417, R418): IDE_KM and TDISP inside an SPDM session. -/
def execVendorDefinedRequest (v : Via) (m : VendorMsg) (s : State) : Res :=
  .next (spdmAnswer s v (spdmStage s v == 5) fun s =>
    match m with
    | .ideKeyProg port stream requester key =>
      if 2 ≤ port ∨ 256 < stream ∨ 255 < requester then spdmError s v 1
      else
        let old := match findIde s port stream with | some x => x.secure && x.requester == requester | none => false
        let x : IdeStream := { port := port, stream := stream, requester := requester, key := key, secure := old }
        emit { s with sec := { s.sec with ide := (s.sec.ide.filter fun x => !(x.port == port && x.stream == stream)) ++ [x] } } (.spdm v 0x7E [])
    | .ideGo port stream =>
      if (findIde s port stream).isSome && (getPort s port).up && (getPort s port).flit then
        emit { s with sec := { s.sec with ide := s.sec.ide.map fun x =>
          if x.port = port ∧ x.stream = stream then { x with secure := true } else x } } (.spdm v 0x7E [])
      else spdmError s v 1
    | .ideStop port stream =>
      (match findIde s port stream with
        | none => spdmError s v 1
        | some x =>
          let s1 := { s with sec := { s.sec with ide := s.sec.ide.filter fun y => !(y.port == port && y.stream == stream) } }
          emit (if stream ≠ 0 then tdiFail s1 port x.requester else s1) (.spdm v 0x7E []))
    | .tdispStart port vf =>
      let bound := s.sec.ide.any fun x => x.port == port && x.requester == vf && x.stream != 0 && x.secure
      if (getVf s port vf).tdi = .locked ∧ bound = true then tdispAnswer (modVf s port vf fun v => { v with tdi := .run }) v port vf
      else spdmError s v 1
    | .tdispLock port vf =>
      if pageExists s (.tenant port vf) && (getVf s port vf).tdi == .unlocked then tdispAnswer (lockIf s port vf) v port vf else spdmError s v 1
    | .tdispStop port vf =>
      if pageExists s (.tenant port vf) then tdispAnswer (stopIf s port vf) v port vf else spdmError s v 1
    | .tdispState port vf =>
      if pageExists s (.tenant port vf) then tdispAnswer s v port vf else spdmError s v 1)

/-! ### Signed commands (R395, R396) -/

/-- A signed command has been verified or refused: SEC_NONCE is consumed and drawn anew. -/
def newNonce (s : State) : State := drawFree { s with sec := { s.sec with nonce := Config.random64 s.freeCtr } }

/-- A signed command is refused (R396, R423). -/
def signedRefused (s : State) (d : Dispatched) (status : Nat) : State :=
  finishEntry (raiseEvent (bumpFor (newNonce s) .sec 0x0B0 [(1, d.port), (8, d.fn)]) .sec 19 [(1, d.port), (8, d.fn)]) d status 0

/-- A command body signed under the owner key over SEC_NONCE: the reason of its refusal, or its body. -/
def ownerSigned (s : State) (d : Dispatched) : Except Nat (List Byte) :=
  match d.entry.payload with
  | .signed doc =>
    if s.sec.owner ≠ some doc.signer then .error 0x2E
    else if doc.nonce ≠ s.sec.nonce then .error 0x2F
    else .ok doc.body
  | _ => .error 0x2E

/-- The owner key changes, and the security area with it (R477). -/
def setOwnerKey (s : State) (k : Option (List Byte)) : State := markDirty { s with sec := { s.sec with owner := k } }

/-- CLAIM: the first owner key. -/
def execClaim (id : Nat) (s : State) : Res :=
  .next (command s id 0x20 fromPf fun s d =>
    match s.sec.owner, d.entry.payload with
    | none, .pubKey k => finishEntry (setOwnerKey s (some k)) d 0 0
    | _, _ => finishEntry s d 0x21 0)

/-- TRANSFER: the owner key is replaced. -/
def execTransfer (id : Nat) (s : State) : Res :=
  .next (command s id 0x21 fromPf fun s d =>
    match ownerSigned s d with
    | .error e => signedRefused s d e
    | .ok k => if k.isEmpty then finishEntry (newNonce s) d 0x21 0 else finishEntry (setOwnerKey (newNonce s) (some k)) d 0 0)

/-! ### The end of everything (R395, R420) -/

/-- Every non-terminal job ends with a status: loads and commits with their bolts' loads, self-tests with their queued targets. -/
def endEverything (s : State) (status : Nat) : State :=
  let s1 := (boltList s).foldl (fun s x =>
    match getBolt s x.1 with
    | some b => (match b.load with | some l => failLoad s x.1 b l status 0 | none => s)
    | none => s) s
  endJobs { s1 with st := { s1.st with queue := s1.st.queue.filter fun q => q.job.isNone, results := [] } } (fun _ => true) status

/-- Every session is closed. -/
def closeAll (s : State) : State :=
  (s.sessions.filter fun kv => kv.2.st != .free).foldl (fun s kv => closeSession s kv.1 none) s

/-- Every tenant is removed, its sessions closed first. -/
def removeTenants (s : State) : State :=
  let s1 := closeAll s
  (s1.tenants.filter fun kv => kv.2.st != .free).foldl (fun s kv =>
    settleTenant (modTenant s kv.1 fun e => { e with st := .removing }) kv.1) s1

/-- Whether a number of the register table is a K register's. -/
def keptKey (k : Nat) : Bool :=
  decide (k < 2 ^ 40) && k % 4096 == 0x020 || (match pageOfKey (k / 4096) with | some p => isKept p (k % 4096) | none => false)

/-- RELEASE (R395). -/
def execRelease (id : Nat) (s : State) : Res :=
  .next (command s id 0x22 fromPf fun s d =>
    match ownerSigned s d with
    | .error e => signedRefused s d e
    | .ok k =>
      if !k.isEmpty then signedRefused s d 0x2E
      else
        let s1 := removeTenants (endEverything (newNonce s) 0x1B)
        let s2 := (boltList s1).foldl (fun s x =>
          match getBolt s x.1 with
          | some b => if b.unloadJob.isSome then s else unloadBolt s x.1 b d.id
          | none => s) s1
        let s3 := setOwnerKey { s2 with
          regs := s2.regs.filter fun kv => !keptKey kv.1
          kv := { s2.kv with buckets := vendorBuckets } } none
        finishEntry s3 d 0 0)

/-- A bolt without its pattern, its steps and its repair copy: UNBOUND where its retained record stands (R226). -/
def unbindBolt (s : State) (nw : Nat) (b : Bolt) : Bolt :=
  let ph := if b.phase = 6 then 6 else if s.start.area.records.any fun r => r.bolt == nw then 5 else 0
  setPhase { emptyBolt b with load := none } ph

/-- The checks of R420 step 3 on both documents. -/
def unlockLevel (s : State) (d : Dispatched) : Except Nat Nat :=
  match d.entry.payload with
  | .unlock v o =>
    let b := v.body
    if v.signer ≠ s.sec.vendorKey ∨ s.sec.owner ≠ some o.signer ∨ o.body ≠ b ∨ b.length ≠ 32 ∨ bytesNat b 0 4 ≠ 0x4B444247
        ∨ (b.drop 5).take 3 ≠ [0, 0, 0] ∨ (b.drop 8).take 16 ≠ (digestBytes s.sec.identity).take 16
        ∨ (bytesNat b 4 1 ≠ 1 ∧ bytesNat b 4 1 ≠ 2) then .error 0x2E
    else if bytesNat b 0x18 8 ≠ s.sec.nonce.toNat then .error 0x2F
    else .ok (bytesNat b 4 1)
  | _ => .error 0x2E

/-- Steps 4 to 7 of R420. -/
def unlock (s : State) (level : Nat) : State :=
  let s1 := removeTenants (endEverything s 0x1A)
  let ps := List.range (panelsEn s)
  let s2 := modPanels (dropSramPages s1 ps) ps clearPanel
  let s3 := { s2 with
    sec := { s2.sec with dataKeys := [], grants := [], kekReady := false, kekId := 0, debug := level }
    fab := { s2.fab with
      key := none
      prevKey := none
      keyed := []
      st := if s2.fab.st = 0 then 0 else 3 }
    ras := { s2.ras with swatches := [], rewrites := [] }
    bolts := s2.bolts.map fun kv => (kv.1, kv.2.map fun b => unbindBolt s2 kv.1 b) }
  bbRecord (raiseEvent s3 .sec 20 [(2, level)]) .sec 0x122 [BitVec.ofNat 8 level]

/-- DEBUG_UNLOCK (R419, R420). -/
def execDebugUnlock (id : Nat) (s : State) : Res :=
  .next (command s id 0x23 fromPf fun s d =>
    match unlockLevel s d with
    | .error e => signedRefused s d e
    | .ok level => finishEntry (unlock (newNonce s) level) d 0 0)

/-! ### Tenant keys and grants (R404 to R407) -/

/-- The binding record that labels a key's ciphertext (R404). -/
def bindingRecord (s : State) (kind bolt tenant : Nat) : List Byte :=
  let tail : List Byte :=
    match (if kind = 2 then getBolt s bolt else none) with
    | some b =>
      digestBytes (match b.pat with | some t => t.digest | none => 0) ++ digestBytes b.digest
        ++ [BitVec.ofNat 8 b.cols, BitVec.ofNat 8 b.rows, BitVec.ofNat 8 b.port, 0, 0, 0, 0, 0]
    | none => List.replicate 136 0
  natLe 4 0x4B424E44 ++ [BitVec.ofNat 8 kind, BitVec.ofNat 8 bolt] ++ natLe 2 tenant
  ++ digestBytes s.start.fwDigest ++ ownerMeasure s ++ natLe 8 s.sec.debug ++ tail

/-- A key's decoded message opens: its generation and the key, where the ciphertext and every field agree. -/
def unwrapKey (s : State) (kind bolt tenant : Nat) (ct : Oaep) : Option KeyEntry :=
  let m := ct.message
  if ct.kek = s.sec.kekId ∧ ct.label = sha512 (bindingRecord s kind bolt tenant) ∧ m.length = 48 ∧ bytesNat m 0 4 = 0x4B4B4559
      ∧ bytesNat m 4 1 = kind ∧ bytesNat m 5 1 = bolt ∧ bytesNat m 6 2 = tenant then
    some { gen := BitVec.ofNat 64 (bytesNat m 8 8), key := BitVec.ofNat 256 (bytesNat m 16 32) }
  else none

/-- The key that a KEY_INSTALL would replace. -/
def oldKey (s : State) (kind bolt tenant : Nat) : Option KeyEntry :=
  if kind = 1 then (getTenant s tenant).weight else (dataKey s tenant bolt).map fun k => k.entry

/-- Why a key is refused (R405), in the order of that table. -/
def keyRefused (s : State) (kind bolt tenant : Nat) (k : Option KeyEntry) : Option Nat :=
  match k with
  | none => some 0x41
  | some e =>
    if (getTenant s tenant).st ≠ .active then some 0x23
    else if kind = 2 ∧ (match getBolt s bolt with | some b => b.phase == 4 | none => false) = false then some 0x42
    else if (match oldKey s kind bolt tenant with | some o => decide (e.gen ≤ o.gen) | none => false) then some 0x43
    else if kind = 2 ∧ (oldKey s kind bolt tenant).isNone = true ∧ 8192 ≤ s.sec.dataKeys.length then some 0x44
    else if s.sec.debug ≠ 0 then some 0x45
    else none

/-- A key enters its entry. -/
def installKey (s : State) (kind bolt tenant : Nat) (e : KeyEntry) : State :=
  if kind = 1 then modTenant s tenant fun t => { t with weight := some e }
  else { s with sec := { s.sec with dataKeys := (s.sec.dataKeys.filter fun k => !(k.tenant == tenant && k.bolt == bolt)) ++
      [{ tenant := tenant, bolt := bolt, entry := e, sessions := 0 }] } }

/-- Whether a function may install a key: a PF, or a VF for its own tenant. -/
def fromKey (s : State) (d : Dispatched) : Bool :=
  match d.entry.payload with
  | .keyInstall _ _ t _ => d.fn == 0 || (fromVf s d t && fromVf s d d.entry.tenant)
  | _ => fromPfVf s d

/-- KEY_INSTALL. -/
def execKeyInstall (id : Nat) (s : State) : Res :=
  .next (command s id 0x18 fromKey fun s d =>
    match d.entry.payload with
    | .keyInstall kind bolt tenant ct =>
      if !s.sec.kekReady then finishEntry s d 0x40 0
      else if (kind ≠ 1 ∧ kind ≠ 2) ∨ (kind = 1 ∧ bolt ≠ 0xFF) ∨ 4096 ≤ tenant then finishEntry s d 0x21 0
      else
        let k := unwrapKey s kind bolt tenant ct
        (match k, keyRefused s kind bolt tenant k with
          | some e, none => finishEntry (installKey s kind bolt tenant e) d 0 0
          | _, r => finishEntry (raiseEvent (bumpFor s .sec 0x0A0 [(12, tenant)]) .sec 17 [(12, tenant)]) d (r.getD 0x41) 0)
    | _ => finishEntry s d 0x21 0)

/-- Whether an entry's tag is the pattern tenant's over (bolt, tenant, SEC_NONCE) (R407). -/
def grantTagOk (s : State) (d : Dispatched) (b : Bolt) : Bool :=
  match d.entry.payload, dataKey s b.tenant d.entry.bolt with
  | .gcmTag key bolt tenant nonce, some k =>
    key == k.entry.key && bolt == d.entry.bolt && tenant == d.entry.tenant && nonce == s.sec.nonce
  | _, _ => false

/-- GRANT (R407). -/
def execGrant (id : Nat) (s : State) : Res :=
  .next (command s id 0x19 fromOwnerVf fun s d =>
    match getBolt s d.entry.bolt with
    | none => s
    | some b =>
      if !grantTagOk s d b then signedRefused s d 0x2E
      else
        let g := (d.entry.bolt, d.entry.tenant)
        let s1 := newNonce s
        finishEntry { s1 with sec := { s1.sec with grants := setMember s1.sec.grants g true } } d 0 0)

/-- REVOKE (R407): the tenant's jobs on the bolt are aborted and its sessions there closed. -/
def execRevoke (id : Nat) (s : State) : Res :=
  .next (command s id 0x1A fromOwnerVf fun s d =>
    match getBolt s d.entry.bolt with
    | none => s
    | some b =>
      if !grantTagOk s d b then signedRefused s d 0x2E
      else
        let g := (d.entry.bolt, d.entry.tenant)
        let s1 := newNonce s
        let s2 := { s1 with sec := { s1.sec with grants := setMember s1.sec.grants g false } }
        let mine := s2.sessions.filter fun kv => kv.2.st != .free && kv.2.bolt == g.1 && kv.2.tenant == g.2
        pumpLoads (finishEntry (mine.foldl (fun s kv => closeSession s kv.1 none) s2) d 0 0))

/-! ### The fabric plan (R345) -/

/-- Whether a plan keeps the form of R345: 1 to 64 entries at distinct addresses, ranks 0 to 63 in use once each. -/
def planShapeOk (t : Plan) : Bool :=
  let ranks := (t.entries.filter fun e => e.role != 3).map fun e => e.rank
  decide (1 ≤ t.entries.length ∧ t.entries.length ≤ 64) && !hasDup (t.entries.map fun e => e.addr) && !hasDup ranks
  && t.entries.all fun e => decide (e.addr < 64 ∧ e.role < 4) && (if e.role = 3 then !ranks.contains e.rank else decide (e.rank < 64))

/-- A plan comes into force on this module: it becomes the manager where the plan says so, and a manager acts on it (R347, R349). -/
def loadPlan (s : State) (t : Plan) : State :=
  let s1 := markDirty { s with fab := { s.fab with plan := some t } }
  if s1.fab.roleInForce = 0 then s1
  else
    let named := t.entries.any fun e => e.addr == s1.fab.addr && e.role == 1
    let s2 := if named && s1.fab.role != 2 then setRole s1 2 else s1
    if s2.fab.role = 2 ∧ 3 ≤ s2.fab.st then manage s2 else s2

/-- PLAN_LOAD: a plan that the owner key does not sign is refused; an older generation than the one in force is stale. -/
def execPlanLoad (id : Nat) (plan : Plan) (s : State) : Res :=
  .next (command s id 0x24 fromPf fun s d =>
    let stale := match s.fab.plan with | some p => decide (plan.generation ≤ p.generation) | none => false
    if s.sec.owner ≠ some plan.signer then finishEntry (raiseEvent s .die 54 []) d 0x2E 0
    else if !planShapeOk plan then finishEntry s d 0x3A 0
    else if stale then finishEntry s d 0x2F 0
    else finishEntry (loadPlan s plan) d 0 0)

/-! ### KEK and coarse telemetry (R400, R416) -/

/-- KEK_READY: this Jobel start's key-encryption key exists. An unlock has erased it until the next start (R420). -/
def execKekReady (s : State) : Res :=
  .next (if s.sec.kekReady = true ∨ s.sec.kekId = 0 ∨ s.start.restarting = true ∨ s.start.phase < 3 ∨ s.start.phase = 9 then s
    else { s with sec := { s.sec with kekReady := true } })

/-- POWER_COARSE_WINDOW: the mean of the last second, rounded down to 5 W and to whole degrees. A mean below 0 °C has no unsigned
field value (log entry 26). -/
def execPowerCoarseWindow (meanW : Nat) (meanDiode : Int) (s : State) : Res :=
  .next (let temp := if meanDiode < 0 then (Config.freeWord s.freeCtr).setWidth 8 else BitVec.ofInt 8 (meanDiode / 64)
    drawFree { s with sec := { s.sec with
      coarsePower := BitVec.ofNat 16 (meanW / 5 * 5)
      coarseTemp := temp } })

end Sys2Proof.Machine
end

