-- ==== Sys2Proof/Machine/Reads.lean ====
section
/-! DEFINITION. What a read of each register returns (R5, R13, R428 to R435, and the register tables of every chapter): one value,
taken from one instant, for each window, page and offset. -/

namespace Sys2Proof.Machine

/-! ### The common header (R430 to R435) -/

/-- Whether a page shows READY and the rest of BLK_STATE, or OFF because its rails are down (R491). -/
def blkStateReg (s : State) (p : PageId) : Word :=
  let h := getHdr s p
  packReg [(0, 3, blkCode (shownState s p)), (3, 1, b2n h.held), (8, 8, h.cause.toNat), (32, 32, h.gen.toNat)]

/-- BLK_ID. -/
def blkIdReg (s : State) (p : PageId) : Word :=
  packReg [(0, 8, pageType p), (8, 8, pageInst p), (16, 8, 1), (24, 8, s.stepping.toNat), (32, 4, pageSub p)]

/-- BLK_OWNER. -/
def blkOwnerReg (s : State) (p : PageId) : Word :=
  let h := getHdr s p
  packReg [(0, 2, pageClass p), (2, 2, ownerPort s p), (4, 6, h.ownBolt.toNat), (16, 12, h.ownTenant.toNat), (32, 32, h.ownGen.toNat)]

/-- One half of a CNT_RUN register. -/
def runHalf (r : Option (Nat × Nat × Nat)) : Nat :=
  match r with | some (first, n, clear) => first + 2 ^ 12 * n + 2 ^ 20 * clear | none => 0

/-- CNT_RUNm (R435). -/
def cntRunReg (p : PageId) (m : Nat) : Word :=
  BitVec.ofNat 64 (runHalf (cntRuns p)[2 * m]? + 2 ^ 32 * runHalf (cntRuns p)[2 * m + 1]?)

/-- The tile that a panel page's hem counters are read for (R76). -/
def cntTile (s : State) (p : PageId) (off : Nat) : Nat :=
  match p with
  | .panel _ => if 0x408 ≤ off ∧ off < 0x430 then field (getReg s p 0x400) 4 0 else 0
  | _ => 0

/-- A counter register (R77, R78). -/
def cntReg (s : State) (p : PageId) (off : Nat) : Word :=
  let c := getCnt s p off (cntTile s p off)
  packReg [(0, 48, c.count.toNat), (63, 1, b2n c.ovf)]

/-- The offsets of a page's counters, in run order. -/
def cntOffsets (p : PageId) : List Nat := (cntRuns p).flatMap fun r => (List.range r.2.1).map fun i => r.1 + 8 * i

/-- Bits of a list, the first at bit 0. -/
def bitsWord (bs : List Bool) : Word := BitVec.ofNat 64 (bs.foldr (fun b n => b2n b + 2 * n) 0)

/-- CNT_OVF (R435). -/
def cntOvfReg (s : State) (p : PageId) : Word := bitsWord ((cntOffsets p).map fun o => (getCnt s p o (cntTile s p o)).ovf)

/-- The header registers below 0x080. -/
def headerRead (s : State) (p : PageId) (off : Nat) : Word :=
  let h := getHdr s p
  if off = 0x000 then blkIdReg s p
  else if off = 0x008 then blkStateReg s p
  else if off = 0x018 then h.evt
  else if off = 0x020 then getReg s p 0x020
  else if off = 0x030 then blkOwnerReg s p
  else if off = 0x038 then h.capture
  else if 0x040 ≤ off ∧ off < 0x060 then cntRunReg p ((off - 0x040) / 8)
  else if off = 0x060 then cntOvfReg s p
  else if off = 0x068 then BitVec.ofNat 64 h.clears.toNat
  else 0

/-! ### Die page -/

/-- How many elements of a list meet a test. -/
def count {α : Type} (f : α → Bool) (xs : List α) : Nat := (xs.filter f).length

/-- CAL_STATUS (R134). -/
def calStatusReg (s : State) : Word :=
  let cs := s.arrays.cal.map Prod.snd
  packReg [(0, 1, b2n (cs.any fun c => c.stage != 0)), (1, 1, b2n (cs.any fun c => c.pending != 0)), (2, 1, b2n s.arrays.fallback),
    (16, 16, intBits 16 s.arrays.diode), (32, 11, count (fun kv => kv.2.stale && decide (kv.1 % 25 < 24)) s.arrays.cal)]

/-- EYE for the selected lane (R134). -/
def eyeReg (s : State) : Word :=
  let n := field (dieReg s 0x1B0) 6 0
  let l := getLane s (n / 8) (n % 8)
  packReg [(0, 16, l.eye), (16, 16, l.eyeMin), (32, 16, l.retunes.toNat), (48, 1, b2n l.up)]

/-- KV_STATUS (R178). -/
def kvStatusReg (s : State) : Word :=
  let pinned := s.kv.tables.length + count (framePinned s) s.kv.used
  packReg [(0, 23, if kvEnabled s then poolPages s - (poolTaken s).length else 0), (32, 23, pinned), (55, 1, b2n s.kv.rebuilding)]

/-- The fields of TEN_INFO for a tenant (R204). -/
def tenInfoReg (s : State) (t : Nat) : Word :=
  let e := getTenant s t
  packReg [(0, 2, match e.st with | .free => 0 | .active => 1 | .removing => 2), (2, 15, e.sessions), (17, 15, e.heldN), (32, 15, e.maxSessions)]

/-- The fields of TEN_BUDGET for a tenant. -/
def tenBudgetReg (s : State) (t : Nat) : Word :=
  let e := getTenant s t
  packReg [(0, 32, e.budget.toNat), (32, 1, b2n e.lowSent)]

/-- WT_STATUS for a bolt (R233, R234): NONE where none is named. -/
def wtStatusReg (s : State) : Word :=
  match getBolt s (field (dieReg s 0x390) 5 0) with
  | none => 0
  | some b => packReg [(0, 3, b.phase), (8, 16, b.arraysDone), (24, 16, b.tier.length), (40, 16, count (fun c => c.lost) b.copy)]

/-- FAB_STATUS (R357). -/
def fabStatusReg (s : State) : Word :=
  let f := s.fab
  packReg [(0, 3, f.st), (8, 6, f.addr), (14, 2, f.role), (16, 8, f.rank), (24, 8, f.epoch.toNat),
    (32, 16, (bitsWord ((List.range 16).map (kwPortUp s))).toNat), (48, 16, match f.plan with | some p => p.generation.toNat | none => 0)]

/-- FAB_PEER for the selected address. -/
def fabPeerReg (s : State) : Word :=
  let x := peerOf s (field (dieReg s 0x490) 5 0)
  packReg [(0, 16, x.planes.toNat), (16, 8, x.rank), (24, 3, x.cls)]

/-- SWATCH_STATUS (R389): checkers in service are those whose copies are ready. -/
def swatchStatusReg (s : State) : Word :=
  let checkers := (boltList s).foldl (fun n x => n + count (fun c => c.ready) x.2.checkers) 0
  packReg [(0, 16, checkers), (16, 16, satNat 0xFFFF s.ras.swatches.length), (32, 8, count (fun w => w.referee.isSome) s.ras.swatches)]

/-- SIG_STATUS (R389). -/
def sigStatusReg (s : State) : Word := packReg [(0, 11, s.ras.sigs.length), (11, 1, b2n s.ras.lost)]

/-- The number of a pairing state. -/
def pairCode : PairSt → Nat
  | .absent => 0 | .live => 1 | .lost => 2

/-- PAIR_STATUS (R452). -/
def pairStatusReg (s : State) : Word :=
  packReg [(0, 2, pairCode s.port0.pair), (2, 2, pairCode s.port1.pair), (4, 6, portBolts s 0), (10, 6, portBolts s 1),
    (16, 1, b2n ((s.port0.pair == .lost && portBolts s 0 != 0) || (s.port1.pair == .lost && portBolts s 1 != 0)))]

/-- START_STATUS (R492). -/
def startStatusReg (s : State) : Word :=
  let t := s.start
  packReg [(0, 4, t.phase), (8, 4, t.limp), (12, 1, b2n t.copyB), (13, 1, b2n t.defaulted), (16, 4, t.failDram.toNat),
    (20, 16, t.failKwath.toNat), (36, 2, t.failPcie.toNat)]

/-- The die page's block registers. -/
def dieRead (s : State) (w : Window) (off : Nat) : Word :=
  if off = 0x080 then variantReg s
  else if off = 0x100 then
    packReg [(0, 8, field (dieReg s 0x100) 7 0), (16, 8, progLimit s / 2), (24, 8, activeArrs s)]
  else if off = 0x190 then calStatusReg s
  else if off = 0x1B8 then eyeReg s
  else if off = 0x210 then kvStatusReg s
  else if off = 0x308 then tenInfoReg s (field (dieReg s 0x300) 11 0)
  else if off = 0x310 then tenBudgetReg s (field (dieReg s 0x300) 11 0)
  else if off = 0x398 then wtStatusReg s
  else if off = 0x488 then fabStatusReg s
  else if off = 0x498 then fabPeerReg s
  else if off = 0x508 then swatchStatusReg s
  else if off = 0x578 then sigStatusReg s
  else if off = 0x588 then pairStatusReg s
  else if off = 0x600 then startStatusReg s
  else if off = 0x608 then
    packReg [(0, 32, s.start.fwVersion.toNat), (32, 16, s.start.fwSvn.toNat), (48, 16, s.start.area.minSvn.toNat)]
  else if off = 0x610 then
    (match w with | .pf p => if p = 0 then s.start.recAddr0 else s.start.recAddr1 | _ => 0)
  else if off = 0x620 then packReg [(0, 3, s.start.recState), (8, 3, s.start.recResult), (11, 1, s.start.recPort)]
  else dieReg s off

/-! ### Security, housekeeping, host port and black-box pages -/

/-- SEC_STATUS (R421). -/
def secStatusReg (s : State) : Word :=
  packReg [(0, 1, b2n s.sec.owner.isSome), (1, 1, b2n (s.sec.debug != 0)), (2, 2, s.sec.debug), (4, 1, b2n s.sec.pufOk),
    (5, 1, b2n s.sec.kekReady), (16, 13, count (fun kv => kv.2.weight.isSome) s.tenants), (30, 14, s.sec.dataKeys.length),
    (48, 16, count (fun kv => kv.2.st == .zeroisePending) s.arrays.arrs)]

/-- POWER_COARSE (R416). -/
def coarseReg (s : State) : Word := packReg [(0, 16, s.sec.coarsePower.toNat), (16, 8, s.sec.coarseTemp.toNat)]

/-- The security page's block registers. -/
def secRead (s : State) (off : Nat) : Word :=
  if off = 0x080 then secStatusReg s else if off = 0x090 then s.sec.nonce else if off = 0x0C8 then coarseReg s else getReg s .sec off

/-- HK_READING for the selected channel (R473). -/
def hkReadingReg (s : State) : Word :=
  match mapGet none s.hk.readings (field (getReg s .hk 0x0A0) 3 0) with
  | none => 0
  | some r => packReg [(0, 32, intBits 32 r.value), (32, 1, b2n r.fast), (33, 1, b2n r.hkB), (48, 16, satNat 0xFFFF ((s.now - r.time) / 1000))]

/-- The input voltage in mV: the newest reading of channel 1, or the value last seen by the input stage. -/
def inputMv (s : State) : Nat := match mapGet none s.hk.readings 1 with | some r => r.value.toNat | none => s.power.vinMv

/-- The housekeeping page's block registers (R474). -/
def hkRead (s : State) (off : Nat) : Word :=
  if off = 0x0A8 then hkReadingReg s
  else if off = 0x0C0 then
    packReg [(0, 5, effLimit s), (8, 7, s.power.arrDuty), (16, 7, s.power.attDuty), (24, 8, s.power.arrRail), (32, 8, s.power.logRail),
      (40, 16, s.power.inputMa * inputMv s / 1000000)]
  else if off = 0x0C8 then
    packReg [(0, 16, intBits 16 (diodeNow s)), (16, 16, intBits 16 s.hk.rate), (32, 3, s.power.thermState), (35, 1, b2n s.hk.plaus),
      (36, 1, b2n s.hk.fast), (40, 5, s.power.thermalLimit)]
  else getReg s .hk off

/-- Whether a page holds an enabled event that a port's summary shows (R451). -/
def sumBit (s : State) (port : Nat) (p : PageId) : Bool :=
  pageExists s p && pagePowered s p && routed s p port && ((getHdr s p).evt &&& getReg s p 0x020) != 0

/-- The pages at the bits of EVT_SUM0's DIE field. -/
def diePages : List PageId := [.die, .jobel, .sec, .hk, .host 0, .host 1, .bb]

/-- EVT_SUM0. -/
def evtSum0Reg (s : State) (port : Nat) : Word :=
  packReg [(0, 7, (bitsWord (diePages.map (sumBit s port))).toNat), (8, 2, (bitsWord ((List.range 2).map fun h => sumBit s port (.half h))).toNat),
    (10, 4, (bitsWord ((List.range 4).map fun k => sumBit s port (.stack k))).toNat),
    (16, 16, (bitsWord ((List.range 16).map fun k => sumBit s port (.kwath k))).toNat)]

/-- EVT_SUM1. -/
def evtSum1Reg (s : State) (port : Nat) : Word :=
  bitsWord ((List.range 48).map fun i => (groupPages i).any fun p => sumBit s port p)

/-- The host port page's block registers. -/
def hostRead (s : State) (port off : Nat) : Word :=
  let q := getPort s port
  if off = 0x080 then
    packReg [(0, 4, q.rate), (4, 4, q.width), (8, 1, b2n q.flit), (9, 1, b2n q.up),
      (10, 1, b2n (s.sec.ide.any fun x => x.port == port && x.stream == 0 && x.secure)), (16, 16, q.retrains.toNat)]
  else if off = 0x090 then evtSum0Reg s port
  else if off = 0x098 then evtSum1Reg s port
  else getReg s (.host port) off

/-- The black-box page's block registers (R510, R511). -/
def bbRead (s : State) (w : Window) (off : Nat) : Word :=
  let b := s.bb
  if off = 0x080 then b.epoch
  else if off = 0x088 then
    packReg [(0, 13, b.live.length), (13, 1, b2n b.slotA.valid), (14, 1, b2n b.slotB.valid), (15, 1, b2n b.flushing.isSome),
      (16, 1, b2n b.locked), (24, 8, b.lastTrigger.toNat), (32, 16, b.slotA.gen.toNat), (48, 16, b.slotB.gen.toNat)]
  else if off = 0x090 then b.nextSeq
  else if off = 0x0A0 then packReg [(0, 2, (bbSel s w).source.toNat), (8, 12, (bbSel s w).index.toNat)]
  else if 0x0A8 ≤ off ∧ off < 0x0C8 then bbWord s (bbSel s w) ((off - 0x0A8) / 8)
  else if off = 0x0D0 then
    packReg [(0, 1, b2n s.st.running.isSome), (1, 2, s.st.lastKind.toNat), (8, 6, s.st.lastTarget.toNat), (14, 2, s.st.lastResult.toNat),
      (16, 10, s.st.queue.length)]
  else if off = 0x0D8 then s.st.lastSig
  else 0

/-! ### Half, Kwath port, panel group and tenant pages -/

/-- The logical position that a half's spare panel serves, or is being prepared for, by the retained record of darns (R22, R23). -/
def darnIndex (s : State) (h : Nat) : Option Nat := (s.start.area.darns.find? fun d => d.2 == h * 25 + 24).map Prod.fst

/-- The half page's block registers (R22, R330). -/
def halfRead (s : State) (h off : Nat) : Word :=
  if off = 0x080 then
    let failed := s.start.area.failedPanels.contains (h * 25 + 24)
    let d := darnIndex s h
    packReg [(0, 1, b2n (d.isNone && !failed)), (1, 1, b2n d.isSome), (2, 1, b2n failed), (8, 6, d.getD 0)]
  else if off = 0x088 then
    let x := if h = 0 then s.net.seam0 else s.net.seam1
    packReg [(0, 15, x.lanesUp.toNat), (16, 5, x.spares)]
  else 0

/-- KW_STATUS (R358). -/
def kwStatusReg (s : State) (p : Nat) : Word :=
  let k := getKw s p
  packReg [(0, 8, (bitsWord ((List.range 8).map fun l => (getLane s p l).up)).toNat), (8, 6, k.addrSeen), (14, 1, b2n k.mismatch),
    (15, 1, b2n (!k.fenced.isEmpty || !s.fab.fencedMods.isEmpty || k.mismatch))]

/-- The array summary of the selected tile (R79). -/
def arraySummary (s : State) (p : Nat) : Word :=
  let t := field (getReg s (.panel p) 0x400) 4 0
  let x (a : Nat) : Arr := getArr s (physArr s p t a)
  packReg [(0, 32, (bitsWord ((List.range 32).map fun a => (x a).st == .programmed)).toNat),
    (32, 32, (bitsWord ((List.range 32).map fun a => (x a).st == .programmed && (x a).exact && (x a).exactOk)).toNat)]

/-- NW_EST for the selected layer and space (R109). -/
def nwEstReg (s : State) (p : Nat) : Word :=
  let v := getReg s (.panel p) 0x488
  let e := mapGet (0, 0) (getPanel s p).est (field v 8 0)
  packReg [(0, 32, e.1.toNat), (32, 16, e.2.toNat)]

/-- The panel page's block registers. -/
def panelRead (s : State) (p off : Nat) : Word :=
  let q := getPanel s p
  let t := field (getReg s (.panel p) 0x500) 4 0
  let c := getCal s p t
  if off = 0x438 then arraySummary s p
  else if off = 0x490 then nwEstReg s p
  else if off = 0x498 then q.nwLast
  else if off = 0x4A0 then q.nwLastStep
  else if off = 0x508 then
    packReg [(0, 16, qfFwd s p t), (16, 16, qfTrn s p t), (32, 5, (tileFigure s p t false).2), (40, 16, intBits 16 c.temp), (56, 1, b2n c.stale)]
  else if off = 0x510 then packReg [(0, 32, c.gen.toNat), (32, 16, c.refreshes.toNat), (48, 8, c.retired.toNat)]
  else getReg s (.panel p) off

/-- The sequencer page's block registers (R281). -/
def seqRead (s : State) (p off : Nat) : Word :=
  let q := getPanel s p
  if off = 0x080 then
    let window := match boltOfPanel s p with | some (_, b) => (match b.pat with | some t => t.window | none => 0) | none => 0
    packReg [(0, 5, q.ctxs.length), (8, 5, window), (13, 1, b2n (isLead s p))]
  else if off = 0x088 then q.seqFault
  else if off = 0x090 then q.seqFaultStep
  else 0

/-- The tenant page's block registers (R453): zero where the VF has no tenant. -/
def tenantRead (s : State) (port vf off : Nat) : Word :=
  let v := getVf s port vf
  if off = 0x080 then (match v.tenant with | some t => tenInfoReg s t | none => 0)
  else if off = 0x088 then (match v.tenant with | some t => tenBudgetReg s t | none => 0)
  else if off = 0x090 then coarseReg s
  else if off = 0x098 then
    bitsWord ((List.range 16).map fun n => (portRings s port).any fun k => let r := getRing s port k; r.st != .free && r.fn == vf && r.slot == n)
  else if off = 0x0A0 then packReg [(0, 4, v.tVector.toNat), (4, 1, b2n v.tEn)]
  else 0

/-! ### Every register -/

/-- The block registers of a page, counters apart. -/
def blockRead (s : State) (w : Window) (p : PageId) (off : Nat) : Word :=
  match p with
  | .die => dieRead s w off
  | .sec => secRead s off
  | .hk => hkRead s off
  | .host n => hostRead s n off
  | .bb => bbRead s w off
  | .half h => halfRead s h off
  | .kwath n => if off = 0x080 then kwStatusReg s n else 0
  | .panel i => panelRead s i off
  | .seq i => seqRead s i off
  | .tenant port vf => tenantRead s port vf off
  | .jobel => 0
  | .stack _ => 0
  | .core _ => 0
  | .att _ => 0
  | .smp _ => 0
  | .slice _ _ => 0
  | .router _ => 0

/-- What a window reads at a page and a register offset: zero for a page that is absent (R4) or closed to the window (R392), and of an
unpowered block only what Jobel answers (R491). -/
def readReg (s : State) (w : Window) (p : PageId) (off : Nat) : Word :=
  if !mayRead s w p then 0
  else if !pagePowered s p ∧ off ≠ 0x000 ∧ off ≠ 0x008 ∧ off ≠ 0x030 then 0
  else if off < 0x080 then headerRead s p off
  else if (cntOffsets p).contains off then cntReg s p off
  else blockRead s w p off

/-- What a window reads of a ring page (R436, R437). -/
def readRing (s : State) (w : Window) (n off : Nat) : Word :=
  match pageRing s w n with
  | none => 0
  | some (p, k) =>
    let r := getRing s p k
    if off = 0x010 then r.cfg
    else if off = 0x018 then r.sqBase
    else if off = 0x020 then r.cqBase
    else if off = 0x028 then r.pasid
    else if off = 0x030 then
      packReg [(0, 2, match r.st with | .free => 0 | .assigned => 1 | .enabled => 2 | .error => 3), (8, 8, r.err), (16, 16, r.sqHead),
        (32, 16, r.cqTail), (48, 1, b2n r.phase)]
    else 0

/-! ### Output pins (R520) -/

/-- ALERT# is driven low while an event enabled for the management window is set: every page that the window reads counts. -/
def alertLow (s : State) : Bool :=
  (allPages s).any fun p => pagePowered s p && ((getHdr s p).evt &&& getReg s p 0x020) != 0

/-- THERMTRIP# is low while the hardware trip is latched (R470, R520). -/
def thermtripLow (s : State) : Bool := s.power.tripLatch

/-- The static I3C address of the sideband target (R521). -/
def sidebandAddress : Nat := 0x60 + Config.addrStraps.toNat

end Sys2Proof.Machine
end

