-- ==== Sys2Proof/Machine/Pages.lean ====
section
/-! DEFINITION. Block control and the registers that act on an access of their own (R14, R430 to R435, R446, R531, R532): BLK_CTRL's
commands, event and capture registers, reads that end a hold, and clear registers. -/

namespace Sys2Proof.Machine

/-! ### BLK_CTRL (R431, R531, R532) -/

/-- Whether a page accepts BLK_CTRL commands. -/
def blkAccepts : PageId → Bool
  | .panel _ => true
  | .kwath _ => true
  | .stack _ => true
  | _ => false

/-- A command is refused: dropped, recorded with the current GEN as DETAIL, CMD_REFUSED. -/
def blkRefuse (s : State) (w : Window) (p : PageId) : State :=
  let s1 := capture s p 5 (winCode w) 0x010 (getHdr s p).gen.toNat
  setEvt (bbRecord s1 p 2 (natLe 12 (getHdr s p).gen.toNat)) p 2 false

/-- A BLK_CTRL command: it acts on a page that accepts commands, is in the state asked for and not under test, and when EXPECT_GEN is
0 or the page's generation. -/
def blkCommand (s : State) (w : Window) (p : PageId) (cmd : Nat) (expectGen : BitVec 32) (ok : Hdr → Bool) (act : State → State) : State :=
  gated s w p 0x010 cmd fun s =>
    let h := getHdr s p
    if blkAccepts p && h.st != .test && (expectGen == 0 || expectGen == h.gen) && ok h then act s else blkRefuse s w p

/-- BLK_CTRL_DRAIN. -/
def execBlkCtrlDrain (w : Window) (page : PageId) (expectGen : BitVec 32) (s : State) : Res :=
  .next (blkCommand s w page 1 expectGen (fun h => h.st == .ready || h.st == .active) fun s => setBlk s page .draining false 1)

/-- Whether a bolt's panels have ended every step that its lead formed, each sealed and its tail run, with no recall in progress. -/
def boltIdle (s : State) (nw : Nat) (b : Bolt) : Bool :=
  b.steps.all (fun t => t.sealed) && b.recalling.isNone
  && (boltPanels nw b).all fun p => (getPanel s p).ctxs.isEmpty && (getPanel s p).batches.isEmpty

/-- The DRAM channels of a stack within its half (R318). -/
def stackChannels (s : State) (k : Nat) : List Nat :=
  let first := if k % 2 = 1 ∧ stackOn s (k - 1) = true then 32 else 0
  (List.range 32).map fun c => first + c

/-- Whether a draining block's work in hand has ended (R532). -/
def workEnded (s : State) (p : PageId) : Bool :=
  match p with
  | .panel i => (match boltOfPanel s i with | some (nw, b) => boltIdle s nw b | none => (getPanel s i).ctxs.isEmpty)
  | .kwath n => (s.fab.unacked.all fun m => m.plane != n) && (getKw s n).rxHeld.isEmpty
  | .stack k => (stackChannels s k).all fun c => let a := getArb s (.dram (k / 2) c); a.waiting.isEmpty && a.holder.isNone
  | _ => true

/-- DRAIN_DONE (R532): READY with HELD 1. -/
def execDrainDone (page : PageId) (s : State) : Res :=
  .next (if pageExists s page && pagePowered s page && (getHdr s page).st == .draining && workEnded s page then setBlk s page .ready true 1 else s)

/-- RESUME: HELD is cleared; messages that waited for a plane may take a resumed port. -/
def execResume (w : Window) (page : PageId) (expectGen : BitVec 32) (s : State) : Res :=
  .next (blkCommand s w page 2 expectGen (fun h => h.st == .ready && h.held) fun s =>
    let s1 := setBlk s page .ready false 1
    match page with
    | .kwath _ => resendMsgs s1 fun m => m.plane == 16
    | _ => s1)

/-- What a block loses when its rails go. -/
def powerOff (s : State) (p : PageId) : State :=
  match p with
  | .panel i => modPanel s i clearPanel
  | .kwath n => (List.range 8).foldl (fun s l => modLane s n l fun x => { x with up := false }) s
  | _ => s

/-- OFFLINE: OFF, for a held block of no bolt. -/
def execOffline (w : Window) (page : PageId) (expectGen : BitVec 32) (s : State) : Res :=
  .next (blkCommand s w page 3 expectGen (fun h => h.st == .ready && h.held && h.ownBolt == 0x3F) fun s =>
    powerOff (setBlk s page .off false 1) page)

/-- ONLINE (R531): TEST, while the block's start checks run. -/
def execOnline (w : Window) (page : PageId) (expectGen : BitVec 32) (s : State) : Res :=
  .next (blkCommand s w page 4 expectGen (fun h => h.st == .off) fun s => setBlk s page .test false 1)

/-- The pages of a block: a panel's group, or the page itself. -/
def blockPages : PageId → List PageId
  | .panel i => groupPages i
  | p => [p]

/-- The start values of some pages (R16): events, records, counters and registers that are not kept become zero. -/
def startPages (s : State) (ps : List PageId) : State :=
  let keys := ps.map pageKey
  let s1 := { s with
    counters := s.counters.filter fun kv => !keys.contains (kv.1 / 32 / 4096)
    regs := s.regs.filter fun kv => !(keys.contains (kv.1 / 4096) && !keptKey kv.1) }
  ps.foldl (fun s p => modHdr s p fun h => { h with evt := 0, forced := 0, capture := 0, captureHeld := false, clears := 0 }) s1

/-- The self-tests among a block's start checks (R531): kinds and targets. -/
def startTests (s : State) : PageId → List (Nat × Nat)
  | .panel i => [(0, i), (1, i), (2, i)]
  | .stack k => if halfInUse s (k / 2) then [] else [(3, 52 + k)]
  | _ => []

/-- A start check's self-test with its record (R498, R504). -/
def checkRecord (s : State) (x : Nat × Nat) (sig : Word) (result : Nat) : State :=
  bbRecord (testedContents s x.1 x.2) .bb 0x130 (natLe 8 sig.toNat ++ [BitVec.ofNat 8 x.1, BitVec.ofNat 8 x.2, BitVec.ofNat 8 result])

/-- Self-tests that pass. -/
def checksPass (s : State) (ts : List (Nat × Nat)) : State := ts.foldl (fun s x => checkRecord s x (Config.golden x.1 s.stepping) 0) s

/-- The calibration fields of a panel's tiles that start at zero (R16, R136). -/
def startTileCals (s : State) (i : Nat) : State :=
  (List.range 25).foldl (fun s t => modCal s i t fun c => { c with gen := 0, refreshes := 0, retired := 0 }) s

/-- A block whose start checks pass: its registers start, a panel is empty, and a port's lanes have trained (R16, R333, R531). -/
def blockStarts (s : State) (page : PageId) : State :=
  let s1 := startPages (checksPass s (startTests s page)) (blockPages page)
  let s2 := match page with
    | .panel i => startTileCals (modPanel s1 i fun q => { Panel.start with swatchGen := q.swatchGen }) i
    | .kwath n =>
      if s1.fab.roleInForce = 0 then s1
      else portJoined ((List.range 8).foldl (fun s l => modLane s n l fun x => { x with up := true, errors := [] }) s1) n
    | _ => s1
  setBlk s2 page .ready false 1

/-- A block whose start checks fail: FAILED with CAUSE 4. Which check failed is free; a failed self-test leaves its records. -/
def blockFails (s : State) (page : PageId) : State :=
  let ts := startTests s page
  let n := (Config.freeWord s.freeCtr).toNat % (ts.length + (match page with | .panel _ => 0 | _ => 1))
  let s1 := drawFree (drawFree (checksPass s (ts.take n)))
  match ts[n]? with
  | some x => targetFailed (checkRecord s1 x (Config.freeWord (s.freeCtr + 1)) 1) x.1 x.2
  | none => setBlk s1 page .failed false 4

/-- ONLINE_CHECK_DONE (R531). -/
def execOnlineCheckDone (page : PageId) (passed : Bool) (s : State) : Res :=
  .next (let tested := match s.st.running with | some q => targetPage q.kind q.target == some page | none => false
    if !(pageExists s page && pagePowered s page && blkAccepts page && (getHdr s page).st == .test) || tested then s
    else if passed then blockStarts s page else blockFails s page)

/-! ### Events and records (R14, R432, R434, R446) -/

/-- Ones written to EVT_STATUS clear their bits (R14, R432). -/
def clearEvts (s : State) (p : PageId) (m : Word) : State :=
  modHdr s p fun h => { h with evt := h.evt &&& ~~~m, forced := h.forced &&& ~~~m }

/-- EVT_STATUS_CLEAR (R14): ones clear; a bit that the hardware sets at that moment ends set, whether or not it was set before and
whatever becomes of the write. The event's record, counter and capture are those of the command that raises it (log entry 210). -/
def execEvtStatusClear (w : Window) (page : PageId) (value raisedNow : Word) (s : State) : Res :=
  let r := if pageExists s page then raisedNow &&& definedEvents page else 0
  .next (setEvts (gated s w page 0x018 value.toNat fun s => clearEvts s page (value &&& ~~~r)) page false (List.range 64) r)

/-- EVT_FORCE (R432): undefined bits are ignored; a bit that it sets leaves no trace but its own. -/
def execEvtForce (w : Window) (page : PageId) (value : Word) (s : State) : Res :=
  .next (gated s w page 0x028 value.toNat fun s => setEvts s page true (List.range 64) (value &&& definedEvents page))

/-- A read that leaves something behind: a register that the window cannot reach reads as zero and nothing follows. -/
def readActs (s : State) (w : Window) (p : PageId) (off : Nat) (act : State → State) : State :=
  if !mayRead s w p || !pagePowered s p then { s with lastRead := 0 } else act { s with lastRead := readReg s w p off }

/-- EVT_SUM0_READ (R446): a read by the port's own driver re-arms its event interrupt. -/
def execEvtSum0Read (w : Window) (port : Nat) (s : State) : Res :=
  .next (readActs s w (.host port) 0x090 fun s => if w = .pf port then modPort s port fun q => { q with armed := true } else s)

/-- TENANT_EVT_READ (R446). -/
def execTenantEvtRead (w : Window) (port vf : Nat) (s : State) : Res :=
  .next (readActs s w (.tenant port vf) 0x018 fun s => modVf s port vf fun v => { v with armed := true })

/-- ERR_CAPTURE_READ (R434): the hold ends. -/
def execErrCaptureRead (w : Window) (page : PageId) (s : State) : Res :=
  .next (readActs s w page 0x038 fun s => modHdr s page fun h => { h with captureHeld := false })

/-- NW_LAST_STEP_READ (R111). -/
def execNwLastStepRead (w : Window) (p : Nat) (s : State) : Res :=
  .next (readActs s w (.panel p) 0x4A0 fun s => modPanel s p fun q => { q with nwHeld := false })

/-- SEQ_FAULT_STEP_READ (R282). -/
def execSeqFaultStepRead (w : Window) (p : Nat) (s : State) : Res :=
  .next (readActs s w (.seq p) 0x090 fun s => modPanel s p fun q => { q with seqHeld := false })

/-- SIG_STATUS_READ (R389): the read that returns LOST as 1 clears it. -/
def execSigStatusRead (w : Window) (s : State) : Res :=
  .next (readActs s w .die 0x578 fun s => { s with ras := { s.ras with lost := false } })

/-- EYE_READ (R134): MIN_WIDTH of the selected lane starts again from WIDTH. -/
def execEyeRead (w : Window) (s : State) : Res :=
  .next (readActs s w .die 0x1B8 fun s =>
    let n := field (dieReg s 0x1B0) 6 0
    modLane s (n / 8) (n % 8) fun x => { x with eyeMin := x.eye })

/-! ### Clear registers (R78, R79, R109, R435) -/

/-- The counters that a page's clear register at an offset clears, each at zero. -/
def cntClear (s : State) (w : Window) (p : PageId) (clear : Nat) : State :=
  gated s w p clear 1 fun s =>
    countClear (((cntRuns p).filter fun r => r.2.2 == clear).foldl (fun s r => clearRun s p r.1 r.2.1 [0]) s) p

/-- CLEAR_TILE (R78). -/
def execClearTile (w : Window) (p : Nat) (s : State) : Res :=
  .next (gated s w (.panel p) 0x430 1 fun s => countClear (clearRun s (.panel p) 0x408 5 [field (getReg s (.panel p) 0x400) 4 0]) (.panel p))

/-- CLEAR_ALL (R78). -/
def execClearAll (w : Window) (p : Nat) (s : State) : Res :=
  .next (gated s w (.panel p) 0x430 2 fun s => countClear (clearRun s (.panel p) 0x408 5 (List.range 24)) (.panel p))

/-- FMT_CNT_CLEAR (R111). -/
def execFmtCntClear (w : Window) (p : Nat) (s : State) : Res := .next (cntClear s w (.panel p) 0x4C0)

/-- CAL_CNT_CLEAR (R134). -/
def execCalCntClear (w : Window) (s : State) : Res := .next (cntClear s w .die 0x1A8)

/-- KV_CNT_CLEAR (R178). -/
def execKvCntClear (w : Window) (s : State) : Res := .next (cntClear s w .die 0x280)

/-- ATT_CNT_CLEAR (R178). -/
def execAttCntClear (w : Window) (p : Nat) (s : State) : Res := .next (cntClear s w (.att p) 0x098)

/-- SMP_CNT_CLEAR (R205). -/
def execSmpCntClear (w : Window) (p : Nat) (s : State) : Res := .next (cntClear s w (.smp p) 0x098)

/-- WT_CNT_CLEAR (R234). -/
def execWtCntClear (w : Window) (s : State) : Res := .next (cntClear s w .die 0x3C0)

/-- SEQ_CNT_CLEAR (R282). -/
def execSeqCntClear (w : Window) (p : Nat) (s : State) : Res := .next (cntClear s w (.seq p) 0x0B0)

/-- Where a slice, router or half page keeps its clear register (R331). -/
def netClearOff : PageId → Option Nat
  | .slice _ _ => some 0x098
  | .router _ => some 0x0A8
  | .half _ => some 0x0A8
  | _ => none

/-- NET_CNT_CLEAR (R331). -/
def execNetCntClear (w : Window) (page : PageId) (s : State) : Res :=
  .next (match netClearOff page with | some o => cntClear s w page o | none => s)

/-- FAB_CNT_CLEAR (R358). -/
def execFabCntClear (w : Window) (s : State) : Res := .next (cntClear s w .die 0x4B8)

/-- KW_CNT_CLEAR (R358). -/
def execKwCntClear (w : Window) (port : Nat) (s : State) : Res := .next (cntClear s w (.kwath port) 0x0B8)

/-- RAS_CNT_CLEAR (R389). -/
def execRasCntClear (w : Window) (s : State) : Res := .next (cntClear s w .die 0x570)

/-- SEC_CNT_CLEAR (R422). -/
def execSecCntClear (w : Window) (s : State) : Res := .next (cntClear s w .sec 0x0C0)

/-- HOST_CNT_CLEAR (R452). -/
def execHostCntClear (w : Window) (port : Nat) (s : State) : Res := .next (cntClear s w (.host port) 0x0E0)

/-- HK_CNT_CLEAR (R475). -/
def execHkCntClear (w : Window) (s : State) : Res := .next (cntClear s w .hk 0x100)

/-- JOBEL_RESTARTS_CLEAR (R493). -/
def execJobelRestartsClear (w : Window) (s : State) : Res := .next (cntClear s w .die 0x630)

/-! ### NW_CTRL (R108, R109) -/

/-- Whether an NW_CTRL value keeps R109. -/
def nwCtrlOk (v : Word) : Bool :=
  decide (field v 2 1 ≠ 3 ∧ field v 4 3 ≠ 1 ∧ field v 4 3 ≠ 3 ∧ 5 ≤ field v 15 8 ∧ 1 ≤ field v 19 16 ∧ field v 19 16 ≤ 10 ∧ 1 ≤ field v 31 24)

/-- A write of NW_CTRL: whole, or dropped and recorded; a 1 in RESET_EST clears every estimate of the panel. -/
def writeNwCtrl (s : State) (w : Window) (p off : Nat) (raw : Nat) (v : Word) : State :=
  gated s w (.panel p) off raw fun s =>
    if !nwCtrlOk v then capture s (.panel p) 2 (winCode w) off (raw % 2 ^ 32)
    else
      let s1 := markDirty (setReg s (.panel p) 0x480 (v &&& 0xFF0FFF1F))
      if bit v 32 then modPanel s1 p fun q => { q with est := [] } else s1

/-- RESET_EST: a write of NW_CTRL with RESET_EST set. -/
def execResetEst (w : Window) (p : Nat) (value : Word) (s : State) : Res :=
  .next (writeNwCtrl s w p 0x480 value.toNat (value ||| bitOf 32))

end Sys2Proof.Machine
end

