-- ==== Sys2Proof/Machine/Power.lean ====
section
/-! DEFINITION. Power, temperature and limp mode (R455 to R476, R489 to R492): the input stage, the governor, the housekeeping
converters, the thermal loop, protections and what each leaves, and the retained bank's commits (R477, R478). -/

namespace Sys2Proof.Machine

/-! ### The retained bank (R477, R478) -/

/-- An array state's code in the security area (R75, R477). -/
def arrCode : ArrSt → Nat
  | .zeroised => 0 | .programming => 1 | .programmed => 2 | .unusable => 3 | .retired => 4 | .zeroisePending => 5

/-- The array state of a code: an array caught while programming comes back unusable (R75). -/
def codeArr : Nat → ArrSt
  | 0 => .zeroised | 2 => .programmed | 4 => .retired | 5 => .zeroisePending | _ => .unusable

/-- The security area as it stands now. -/
def areaNow (s : State) : SecArea :=
  { s.start.area with
    owner := s.sec.owner
    plan := s.fab.plan
    arrays := (s.arrays.arrs.map fun kv => (kv.1, (arrCode kv.2.st, kv.2.exact, kv.2.exactOk))).filter fun kv => kv.2 != (0, false, false) }

/-- The kept registers as the configuration area takes them: KV_BUCKET0 to KV_BUCKET7 hold the table in force (R156). -/
def keptNow (s : State) : Map Word :=
  (List.range 8).foldl (fun m n =>
      mapSet (vendorDefault .die (0x220 + 8 * n)) m (regKey .die (0x220 + 8 * n)) (bucketReg s.kv.buckets n))
    (s.regs.filter fun kv => keptKey kv.1)

/-- A commit: each changed area is written to its older copy with the next generation and its tag. Without the root there is no seal key,
and nothing is written (DEDUCED, log entry 244). -/
def commitNow (s : State) : State :=
  let t := s.start
  let cfgB := decide (t.cfgB.gen < t.cfgA.gen)
  let cfgOld := if cfgB then t.cfgA else t.cfgB
  let t1 := if cfgOld.regs = keptNow s then t
    else if cfgB then { t with cfgB := sealCfg s (t.cfgA.gen + 1) (keptNow s), copyB := true }
    else { t with cfgA := sealCfg s (t.cfgB.gen + 1) (keptNow s), copyB := false }
  let secB := decide (t.secB.gen < t.secA.gen)
  let secOld := if secB then t.secA else t.secB
  let t2 := if secOld.area = areaNow s then t1
    else if secB then { t1 with secB := sealSec s (t.secA.gen + 1) (areaNow s) }
    else { t1 with secA := sealSec s (t.secB.gen + 1) (areaNow s) }
  if (retainedSealKey s).isNone then s else { s with start := { t2 with dirty := none } }

/-- RETAINED_COMMIT (R478): a change that waits is committed. -/
def execRetainedCommit (s : State) : Res :=
  .next (if s.start.dirty.isSome && !s.start.restarting then commitNow s else s)

/-! ### Losing the compute rails (R491, R492) -/

/-- An array whose row rails fall: what was being programmed comes back unusable, what was being zeroised comes back pending (R75,
R415). -/
def arrPowerCut (a : Arr) : Arr :=
  if a.st = .programming then
    { a with
      st := match a.req with | some r => (if r.kind = .zeroise then .zeroisePending else .unusable) | none => .unusable
      req := none
      cells := [] }
  else { a with req := none, cells := [] }

/-- Repairs that have begun keep their spares when the rails go: the places are changed, and the blocks are programmed by the next load
(R22, R75; log entry 91). -/
def settleRepairs (s : State) : State := s.ras.repairs.foldl (fun s x => swapUnit s x.1 x.2) s

/-- Everything that the compute rails hold is lost: SRAM, contexts, DRAM, what travels, what is being programmed or compared. -/
def computeLost (s0 : State) : State :=
  let s := settleRepairs s0
  { s with
    power := { s.power with compute := false }
    panels := []
    kv := { Kv.start with buckets := s.kv.buckets }
    sets := []
    dramPoison := []
    sessions := s.sessions.map fun kv => (kv.1, { kv.2 with path := [] })
    bolts := s.bolts.map fun kv => (kv.1, kv.2.map fun b => unbindBolt s kv.1 b)
    arrays := { s.arrays with
      waiting := []
      arrs := s.arrays.arrs.map fun kv => (kv.1, arrPowerCut kv.2)
      cal := s.arrays.cal.foldl (fun m kv => mapMod TileCal.start m kv.1 fun c =>
        { c with
          stage := 0
          pending := 0
          measured := []
          shadow := []
          shadowT := [] }) s.arrays.cal }
    ras := { s.ras with swatches := [], repairs := [], rewrites := [], lostChunks := [], unanswered := [], progress := [] }
    net := { s.net with usedCredits := [], waits := [], stalls := [], arbs := [] }
    fab := { Fabric.start with plan := s.fab.plan, packets := s.fab.packets }
    st := { s.st with running := none, queue := [], results := [] }
    hk := { s.hk with stopping := none } }

/-- Every job, entry and ring is gone, and nothing is posted. -/
def dropHost (s : State) : State := { s with jobs := [], claims := [], dispatched := [], rings := [] }

/-- Every ring becomes FREE once its completions are posted (R492). -/
def freeRings (s : State) : State :=
  (s.rings.map fun kv => kv.1).foldl (fun s k =>
    settleRing (modRing s (k / 4096) (k % 4096) fun r => { r with freeing := true, cfg := r.cfg &&& ~~~bitOf 48 }) (k / 4096) (k % 4096)) s

/-- Whether the module is in limp mode, recovery included. -/
def inLimp (s : State) : Bool := s.start.limp != 0

/-- Limp mode is entered, or a second cause arrives (R492). After a hardware trip nothing is posted. -/
def enterLimp (s : State) (cause : Nat) (post : Bool) : State :=
  if inLimp s && decide (s.start.limp ≤ cause) then computeLost s
  else
    let s1 := if inLimp s then computeLost s
      else if post then freeRings (computeLost (endEverything s 0x17))
      else computeLost (dropHost s)
    let phase := if s.start.phase = 9 then 9 else 8
    raiseEvent { s1 with start := { s1.start with phase := phase, limp := cause, islands := [] } } .die 25 [(4, cause)]

/-- A failure signature of class 9 with the housekeeping detector; the spec names no codes (log entry 27). -/
def powerSig (s : State) (code : Nat) : State := writeSig s (SigInfo.plain 9 9 code)

/-! ### Protections (R455, R457, R460, R469 to R471) -/

/-- A stop or a trip is noted; the third within an hour leaves the module LOCKED (R471). -/
def noteStop (s : State) : State :=
  { s with hk := { s.hk with stops := s.now :: s.hk.stops.filter fun t => decide (s.now < t + 3600000000) } }

/-- The limp cause of a stop or trip. -/
def stopCause (s : State) (cause : Nat) : Nat := if 3 ≤ s.hk.stops.length then 7 else cause

/-- The thermal state of a module that is down or locked. -/
def downState (s : State) : State := { s with power := { s.power with thermState := if s.start.limp = 7 then 5 else 4 } }

/-- Jobel's part of a rail trip: a signature, RAIL_TRIP, the flush and limp mode. -/
def railTripped (s : State) (id : Nat) : State :=
  enterLimp (startFlush (raiseEvent (powerSig s 1) .hk 21 [(16, id)]) 2) 4 true

/-- Jobel's part of a hardware trip: THERMAL_TRIP, a signature, the flush and limp mode; no completion is posted. -/
def thermalTripped (s : State) : State :=
  let s1 := noteStop (powerSig (raiseEvent (bumpFor s .hk 0x0F0 [(16, 110)]) .hk 19 [(16, 110)]) 3)
  downState (enterLimp (startFlush s1 3) (stopCause s1 6) false)

/-- A protection acts: the rails go at once, and while Jobel restarts its own part waits (R488). -/
def protect (s : State) (cause id : Nat) : State :=
  if s.start.restarting then
    let s1 := if cause = 6 then dropHost s else s
    let s2 := startFlush (computeLost s1) (if cause = 6 then 3 else 2)
    { s2 with power := { s2.power with protection := s2.power.protection ++ [(cause, id)] } }
  else if cause = 6 then thermalTripped s
  else railTripped s id

/-- RAIL_TRIP (R460). -/
def execRailTrip (rail : Nat) (s : State) : Res := .next (if s.power.compute then protect s 4 rail else s)

/-- INPUT_OVERVOLTAGE (R455, R457): the hot-swap switch opens, a rail trip. -/
def execInputOvervoltage (mv : Nat) (s : State) : Res :=
  .next (if mv ≤ 62000 ∨ !s.power.aux ∨ s.power.hotswap = .opened then s
    else
      let s1 := { s with power := { s.power with
        vinMv := mv
        hotswap := .opened
        ovOpen := true
        below60 := none
        powerGood := false } }
      protect s1 4 1)

/-- HARD_OVERCURRENT (R455, R457): the hot-swap switch opens, a rail trip. -/
def execHardOvercurrent (ma : Nat) (s : State) : Res :=
  .next (if ma ≤ 32000 ∨ !s.power.aux ∨ s.power.hotswap = .opened then s
    else protect { s with power := { s.power with inputMa := ma, hotswap := .opened, powerGood := false } } 4 2)

/-- THERMAL_TRIP (R470): the diode comparator at 110 °C. -/
def execThermalTrip (s : State) : Res :=
  .next (if s.power.tripLatch || !s.power.aux then s else protect { s with power := { s.power with tripLatch := true } } 6 110)

/-- An orderly stop begins (R469 step 1). -/
def orderlyStop (s : State) (rate : Nat) : State :=
  let s1 := { s with
    power := { s.power with thermalLimit := 8, thermState := 3 }
    hk := { s.hk with stopping := some s.now } }
  raiseEvent (bumpFor s1 .hk 0x0F0 [(8, rate)]) .hk 18 [(8, rate)]

/-- Whether a step is still to seal. -/
def stepsOpen (s : State) : Bool := (boltList s).any fun x => x.2.steps.any fun t => !t.sealed

/-- STOP_SEAL_TIMEOUT (R469 steps 2 to 4): the steps in hand have sealed, or 10 ms have passed and the others are discarded. -/
def execStopSealTimeout (s : State) : Res :=
  .next (match s.hk.stopping with
    | none => s
    | some t =>
      if s.start.restarting ∨ (s.now < t + 10000 ∧ stepsOpen s = true) then s
      else
        let s1 := noteStop (powerSig (endEverything s 0x17) 2)
        downState (enterLimp (startFlush s1 4) (stopCause s1 5) true))

/-- The module begins its start sequence again (R471, R480): the trip latch clears. -/
def beginRestart (s : State) : State :=
  { s with
    start := { s.start with phase := 0, limp := 0, islands := [], findings := none }
    power := { s.power with tripLatch := false, thermState := 0, thermalLimit := 27 } }

/-- AUTO_RESTART (R471). -/
def execAutoRestart (s : State) : Res :=
  .next (let cool := match s.power.cmp70 with | some t => decide (t + 30000000 ≤ s.now) | none => false
    if (s.start.limp = 5 ∨ s.start.limp = 6) ∧ bit (getReg s .hk 0x080) 40 = true ∧ cool = true ∧ s.start.restarting = false ∧ s.power.aux = true
    then beginRestart s else s)

/-- RESTART (R471, R474): HK_CMD.RESTART brings back a LOCKED module or one after a rail trip, below 70 °C. -/
def execRestart (w : Window) (s : State) : Res :=
  .next (gated s w .hk 0x0D0 1 fun s =>
    if (s.start.limp = 4 ∨ s.start.limp = 7) ∧ s.power.cmp70.isSome = true ∧ s.start.restarting = false then beginRestart s
    else capture s .hk 5 (winCode w) 0x0D0 1)

/-! ### The input stage (R455 to R457, R489, R517) -/

/-- INPUT_RISE (R456, R480): AUX comes up above 40 V and the start begins; 43 V starts the insertion timer. -/
def execInputRise (mv : Nat) (s : State) : Res :=
  .next (if mv ≤ s.power.vinMv then s
    else
      let s1 := { s with power := { s.power with
        vinMv := mv
        above43 := if 43000 < mv then some (s.power.above43.getD s.now) else s.power.above43 } }
      if 40000 < s.power.vinMv ∨ mv ≤ 40000 then s1
      else
        { s1 with
          start := { s1.start with phase := 0, limp := 0, islands := [], findings := none, restarting := false }
          power := { s1.power with aux := true } })

/-- HOTSWAP_CLOSE (R456): 100 ms above 43 V. -/
def execHotswapClose (s : State) : Res :=
  .next (match s.power.above43 with
    | none => s
    | some t =>
      if s.power.hotswap = .opened ∧ s.power.ovOpen = false ∧ t + 100000 ≤ s.now then { s with power := { s.power with hotswap := .charging } }
      else s)

/-- HOTSWAP_RECLOSE (R455): the input has been below 60 V for 1 s after an overvoltage; a first sight of it starts the second. -/
def execHotswapReclose (mv : Nat) (s : State) : Res :=
  .next (if !s.power.ovOpen then s
    else if 60000 ≤ mv then { s with power := { s.power with vinMv := mv, below60 := none } }
    else
      match s.power.below60 with
      | none => { s with power := { s.power with vinMv := mv, below60 := some s.now } }
      | some t =>
        if t + 1000000 ≤ s.now then
          { s with power := { s.power with vinMv := mv, below60 := none, ovOpen := false, hotswap := .charging } }
        else { s with power := { s.power with vinMv := mv } })

/-- INPUT_FALL (R457, R478): below 40 V the compute rails go, a pending commit completes, and the black box is flushed. The spec posts
nothing for the jobs in flight. -/
def execInputFall (mv : Nat) (s : State) : Res :=
  .next (if 40000 ≤ mv ∨ s.power.vinMv ≤ 40000 then s
    else
      let s1 := if s.start.dirty.isSome then commitNow s else s
      let s2 := computeLost (dropHost (startFlush s1 1))
      { s2 with
        start := { s2.start with phase := 0, limp := 0, islands := [], findings := none, restarting := false }
        power := { s2.power with
          vinMv := mv
          above43 := none
          ovOpen := false
          below60 := none
          hotswap := .opened
          powerGood := false } })

/-- A port without power (R489). -/
def portDark (q : Port) : Port := { Port.start with up := false, released := false, msixOn := [], busMaster := [], retrains := q.retrains }

/-- POWER_LOSS (R457, R478, R484, R507): the hold-up is exhausted; what was being written is lost. -/
def execPowerLoss (s : State) : Res :=
  .next (if 40000 < s.power.vinMv ∨ !s.power.aux then s
    else { s with
      power := { Power.start with
        vinMv := s.power.vinMv
        aux := false
        above43 := none
        hotswap := .opened
        powerGood := false
        compute := false
        cmp70 := none }
      hk := Housekeeping.start
      bb := { s.bb with live := [], flushing := none }
      start := { s.start with
        dirty := none
        fw := if s.start.fwWriting.isSome then none else s.start.fw
        fwWriting := none
        fwWaiting := []
        recState := 0
        restarting := false }
      port0 := portDark s.port0
      port1 := portDark s.port1
      regs := s.regs.filter fun kv => decide (kv.1 < 2 ^ 40)
      sec := { s.sec with dataKeys := [], grants := [], spdm := [], ide := [], kekReady := false, debug := 0 } })

/-! ### Clamps and overrides (R472) -/

/-- A clamp episode opens: counted, POWER_CLAMP, and a CONTROL record with the rail's code. -/
def openClamp (s : State) (rail code : Nat) : State :=
  if s.power.clampOpen then s
  else
    let s1 := bbRecord { s with power := { s.power with clampOpen := true } } .hk 0x120 ([2, 0, 0, 0] ++ natLe 4 code)
    raiseEvent (bumpFor s1 .hk 0x0E0 [(16, rail)]) .hk 22 [(16, rail)]

/-- An override episode opens: counted, POWER_CLAMP, and a CONTROL record with the value. -/
def openOverride (s : State) (value : Nat) : State :=
  if s.power.overrideOpen then s
  else
    let s1 := bbRecord { s with power := { s.power with overrideOpen := true } } .hk 0x120 ([3, 0, 0, 0] ++ natLe 4 value)
    raiseEvent (bumpFor s1 .hk 0x0E8 [(8, value)]) .hk 22 [(8, value)]

/-! ### The governor (R461 to R463, R472, R473) -/

/-- RAIL_BOUNDS and POWER_CTRL. -/
def railBounds (s : State) : Word := getReg s .hk 0x0B8

/-- The duties' floors. -/
def arrFloor (s : State) : Nat := field (getReg s .hk 0x0B0) 14 8

/-- The attention duty's floor. -/
def attFloor (s : State) : Nat := field (getReg s .hk 0x0B0) 22 16

/-- A value moved by one towards the inside of its bounds. -/
def towards (lo hi v : Nat) : Nat := if hi < v then v - 1 else if v < lo then v + 1 else v

/-- A rail outside new bounds moves towards them by 5 mV (R473). -/
def intoBounds (s : State) : State :=
  let b := railBounds s
  { s with power := { s.power with
    arrRail := towards (field b 7 0) (field b 15 8) s.power.arrRail
    logRail := towards (field b 23 16) (field b 31 24) s.power.logRail } }

/-- One move while the current exceeds the limit (R462), with the clamp and the override of R472. -/
def overMove (s : State) : State :=
  let p := s.power
  let aMin := field (railBounds s) 7 0
  let lMin := field (railBounds s) 23 16
  let s1 := if p.arrRail ≤ aMin then openClamp s 3 aMin else if p.logRail ≤ lMin then openClamp s 2 lMin else s
  if aMin < p.arrRail ∨ lMin < p.logRail then
    { s1 with power := { s1.power with
      arrRail := if aMin < p.arrRail then p.arrRail - 1 else p.arrRail
      logRail := if lMin < p.logRail then p.logRail - 1 else p.logRail } }
  else if arrFloor s < p.arrDuty then { s1 with power := { s1.power with arrDuty := p.arrDuty - 1 } }
  else if attFloor s < p.attDuty then { s1 with power := { s1.power with attDuty := p.attDuty - 1 } }
  else if p.arrDuty ≤ 1 ∧ p.attDuty ≤ 1 then s1
  else if (p.arrTurn = true ∧ 1 < p.arrDuty) ∨ p.attDuty ≤ 1 then
    openOverride { s1 with power := { s1.power with arrDuty := p.arrDuty - 1, arrTurn := false } } (p.arrDuty - 1)
  else openOverride { s1 with power := { s1.power with attDuty := p.attDuty - 1, arrTurn := true } } (p.attDuty - 1)

/-- The same moves in reverse, one per interval. -/
def backMove (s : State) : State :=
  let p := s.power
  let aMax := field (railBounds s) 15 8
  let lMax := field (railBounds s) 31 24
  if p.arrDuty < arrFloor s ∧ (p.arrTurn = false ∨ attFloor s ≤ p.attDuty) then
    { s with power := { p with arrDuty := p.arrDuty + 1, arrTurn := true } }
  else if p.attDuty < attFloor s then { s with power := { p with attDuty := p.attDuty + 1, arrTurn := false } }
  else if p.attDuty < 64 then { s with power := { p with attDuty := p.attDuty + 1 } }
  else if p.arrDuty < 64 then { s with power := { p with arrDuty := p.arrDuty + 1 } }
  else { s with power := { p with
    arrRail := if p.arrRail < aMax then p.arrRail + 1 else p.arrRail
    logRail := if p.logRail < lMax then p.logRail + 1 else p.logRail } }

/-- Whether the comparator limit is in force (R467, R472). -/
def compActs (s : State) : Bool := s.hk.plaus && s.power.cmp100

/-- An interval with the current at or below the limit: episodes end after 1 ms under it, and moves are undone after 1 ms half an
ampere below it, unless the interval has moved a rail into its bounds already. -/
def underLimit (s : State) (ma limit : Nat) (moved : Bool) : State :=
  let since := if ma < limit then some (s.power.underSince.getD s.now) else none
  let slack := if ma + 500 ≤ limit then some (s.power.slackSince.getD s.now) else none
  let calm := match since with | some t => decide (t + 1000 ≤ s.now) | none => false
  let s1 := { s with power := { s.power with
    underSince := since
    slackSince := slack
    clampOpen := s.power.clampOpen && !calm
    overrideOpen := s.power.overrideOpen && !(calm && s.hk.lastStep.isNone && !compActs s) } }
  if !moved && (match slack with | some t => decide (t + 1000 ≤ s.now) | none => false) then backMove s1 else s1

/-- GOVERNOR_INTERVAL (R462): every 10 µs the input current is compared with the effective limit. An interval that moves a rail into new
bounds makes no other move (R473; DESIGN CHOICE, log entry 245). -/
def execGovernorInterval (ma : Nat) (s : State) : Res :=
  .next (if !s.power.compute || s.start.restarting || s.start.phase != 7 then s
    else
      let s1 := intoBounds { s with power := { s.power with inputMa := ma } }
      let moved := s1.power.arrRail != s.power.arrRail || s1.power.logRail != s.power.logRail
      let limit := effLimit s1 * 1000
      let s2 := if compActs s1 then openOverride s1 8 else s1
      if limit < ma then
        let s3 := { s2 with power := { s2.power with underSince := none, slackSince := none } }
        if moved then s3 else overMove s3
      else underLimit s2 ma limit moved)

/-! ### Housekeeping converters and the thermal loop (R464 to R468) -/

/-- A field of HK_CTRL that holds a rate, in 1/64 °C/s. -/
def hkRate (s : State) (hi lo : Nat) : Int := Int.ofNat (field (getReg s .hk 0x080) hi lo * 16)

/-- WARN_RATE. -/
def warnRate (s : State) : Int := hkRate s 15 8

/-- THROTTLE_RATE. -/
def throttleRate (s : State) : Int := hkRate s 23 16

/-- STOP_RATE. -/
def stopRate (s : State) : Int := hkRate s 31 24

/-- A channel's newest reading. -/
def noteReading (s : State) (ch : Nat) (hkB fast : Bool) (value : Int) : State :=
  { s with hk := { s.hk with readings := mapSet none s.hk.readings ch (some { value := value, fast := fast, hkB := hkB, time := s.now }) } }

/-- The diode comparators follow the diode (R466 to R471; log entry 28). -/
def compSense (s : State) (value : Int) : State :=
  { s with power := { s.power with
    cmp100 := decide (6400 ≤ value)
    cmp70 := if value < 4480 then some (s.power.cmp70.getD s.now) else none } }

/-- Fast mode of HK-A (R465). -/
def fastMode (s : State) (value : Int) : State :=
  if !s.hk.fast then { s with hk := { s.hk with fast := decide (6400 ≤ value ∨ warnRate s < s.hk.rate), calmSince := none } }
  else
    let calm := if value < 6208 ∧ s.hk.rate ≤ warnRate s then some (s.hk.calmSince.getD s.now) else none
    { s with hk := { s.hk with
      calmSince := calm
      fast := match calm with | some t => decide (s.now < t + 1000000) | none => true } }

/-- The rate of rise, the newest reading against the newest one at least 0.25 s older (R468). -/
def riseOf (now : Nat) (value : Int) (past : List (Nat × Int)) (old : Int) : Int :=
  match past.find? fun x => decide (x.1 + 250000 ≤ now) with
  | some (t, v) => (value - v) * 1000000 / ((now : Int) - t)
  | none => old

/-- The state that THERMAL_STATUS shows while the module runs. -/
def thermCode (s : State) : Nat :=
  if s.hk.stopping.isSome then 3 else if throttleRate s < s.hk.rate then 2 else if warnRate s < s.hk.rate then 1 else 0

/-- The rate-of-rise actions that a reading starts (R468): the warning, the orderly stop, and the times of steps and recovery. -/
def riseActions (s : State) (value : Int) : State :=
  let r := s.hk.rate
  let since := if warnRate s < r then some (s.hk.warnSince.getD s.now) else none
  let due := match since with | some t => decide (t + 100000 * field (getReg s .hk 0x080) 37 32 ≤ s.now) | none => false
  let run := if stopRate s < r then s.hk.stopRun + 1 else 0
  let h := { s.hk with
    warnSince := since
    warned := if since.isNone then false else s.hk.warned || due
    stopRun := run
    lastStep := if throttleRate s < r then s.hk.lastStep else none
    lastRecover := if r ≤ warnRate s ∧ value < 6400 then some (s.hk.lastRecover.getD s.now) else none }
  let s1 := { s with hk := h }
  let s2 := { s1 with power := { s1.power with thermState := thermCode s1 } }
  let s3 := if due && !s.hk.warned then raiseEvent s2 .hk 16 [(8, field (getReg s .hk 0x080) 15 8)] else s2
  if 2 ≤ run ∧ s3.hk.stopping.isNone = true then orderlyStop s3 (field (getReg s .hk 0x080) 31 24) else s3

/-- An HK-A diode reading. -/
def diodeA (s : State) (value : Int) : State :=
  let s1 := { s with hk := { s.hk with
    rate := riseOf s.now value s.hk.diodes s.hk.rate
    diodes := ((s.now, value) :: s.hk.diodes).take 1024 } }
  let s2 := fastMode (compSense s1 value) value
  let s3 := if s2.start.phase = 7 ∧ s2.power.compute = true then calDiode s2 value else s2
  if s3.hk.plaus || s3.start.restarting || s3.start.phase != 7 then s3 else riseActions s3 value

/-- A plausibility fault begins (R467, R121). -/
def plausStart (s : State) : State :=
  let s1 := { s with
    hk := { s.hk with plaus := true, agree := 0 }
    arrays := { s.arrays with fallback := true, lastFallback := none } }
  raiseEvent (powerSig (raiseEvent (bumpFor s1 .hk 0x0F8 [(16, 0)]) .hk 20 [(16, 0)]) 4) .die 35 []

/-- An HK-B diode reading, compared with the HK-A reading nearest in time (R467). -/
def diodeB (s : State) (value : Int) : State :=
  let s1 := compSense s value
  match s1.hk.diodes with
  | [] => s1
  | (_, v) :: _ =>
    let apart := decide (128 < (value - v).natAbs)
    if !s1.hk.plaus then (if apart then plausStart s1 else s1)
    else
      let n := if apart then 0 else s1.hk.agree + 1
      if n < 10 then { s1 with hk := { s1.hk with agree := n } }
      else { s1 with
        hk := { s1.hk with plaus := false, agree := 0 }
        arrays := { s1.arrays with fallback := false, lastFallback := none } }

/-- The sequence and the number of entries of a converter's present pass: a pass that begins takes the registers as they stand (R474). -/
def hkPass (s : State) (hkB : Bool) : Word × Nat :=
  let len := getReg s .hk 0x098
  if hkB then (if s.hk.posB = 0 then (getReg s .hk 0x090, field len 7 4 + 1) else s.hk.passB)
  else (if s.hk.posA = 0 then (getReg s .hk 0x088, field len 3 0 + 1) else s.hk.passA)

/-- HK_CONVERSION (R465): a converter ends the conversion of its pass's present entry and goes on to the next. -/
def execHkConversion (hkB : Bool) (value : Int) (s : State) : Res :=
  .next (if !s.power.aux then s
    else
      let x := hkPass s hkB
      if hkB then
        let i := s.hk.posB
        let ch := field x.1 (4 * i + 3) (4 * i)
        let s1 := noteReading { s with hk := { s.hk with posB := (i + 1) % x.2, passB := x } } ch true false value
        if ch = 0 then diodeB s1 value else s1
      else
        let i := s.hk.posA
        let ch := field x.1 (4 * i + 3) (4 * i)
        let s1 := noteReading { s with hk := { s.hk with posA := (i + 1) % x.2, passA := x } } ch false s.hk.fast value
        if ch = 0 then diodeA s1 value else s1)

/-- The channels of the injected sequence. -/
def injected (s : State) : List Nat :=
  let len := getReg s .hk 0x098
  (List.range (field len 9 8 + 1)).map fun i => field len (4 * i + 19) (4 * i + 16)

/-- HK_INJECTED (R466): an urgent trigger. With its readings, the pass runs and HK-B resumes at the discarded channel; a trigger without
them finds a pass running and leaves one pending. -/
def execHkInjected (trigger : Nat) (values : List Int) (s : State) : Res :=
  .next (if !s.power.aux ∨ 3 ≤ trigger then s
    else if values.length < (injected s).length then { s with hk := { s.hk with injPending := true } }
    else
      ((injected s).zip values).foldl (fun s x =>
        let s1 := noteReading s x.1 true true x.2
        if x.1 = 0 then diodeB s1 x.2 else s1) { s with hk := { s.hk with injPending := false } })

/-- THROTTLE (R468): a thermal step, at once and then every 100 ms while the rate stays above THROTTLE_RATE. -/
def execThrottle (s : State) : Res :=
  .next (let due := match s.hk.lastStep with | some t => decide (t + 100000 ≤ s.now) | none => true
    if s.hk.plaus || s.start.restarting || s.start.phase != 7 || decide (s.hk.rate ≤ throttleRate s) || !due then s
    else
      let s1 := { s with
        power := { s.power with thermalLimit := max 8 (s.power.thermalLimit - 1) }
        hk := { s.hk with lastStep := some s.now } }
      openOverride (raiseEvent (bumpFor s1 .hk 0x0D8 [(8, field (getReg s .hk 0x080) 23 16)]) .hk 17 [(8, field (getReg s .hk 0x080) 23 16)]) s1.power.thermalLimit)

/-- THERMAL_RECOVER (R468): the limit rises by 1 A each RECOVER interval, up to 27 A. -/
def execThermalRecover (s : State) : Res :=
  .next (match s.hk.lastRecover with
    | none => s
    | some t =>
      if s.hk.plaus || s.start.restarting || s.start.phase != 7 || s.hk.stopping.isSome || decide (27 ≤ s.power.thermalLimit)
          || decide (s.now < t + 1000000 * field (getReg s .hk 0x080) 47 44) then s
      else { s with
        power := { s.power with thermalLimit := s.power.thermalLimit + 1 }
        hk := { s.hk with lastRecover := some s.now } })

end Sys2Proof.Machine
end

