-- ==== Sys2Proof/Machine/ProgEnd.lean ====
section
/-! DEFINITION. The end of programming (R69, R73, R115, R128, R129) and of zeroisation (R72, R415): acceptance, what each kind of
request does with its array, and what a failure leads to. -/

namespace Sys2Proof.Machine

/-! ### Acceptance (R69) -/

/-- Whether the hem accepts an array (R69): the margin tests of its quarters and the cell counts of its mode. -/
def acceptable (x : Arr) (r : ProgReq) : Bool :=
  !x.marginBad && (if r.exact then x.near + x.far == 0 else decide (x.near ≤ 4) && x.far == 0)

/-- The gauge baseline of an accepted array (R67 step 7): the window of each gauge that the hem has just taken. -/
def baselineOf (gauges : List GaugeSum) : Gauge := { Gauge.start with baseline := some gauges }

/-- Programming runs become due ten minutes and an hour after the last acceptance in a tile (R115). -/
def dueRuns (s : State) (a : ArrId) : State :=
  match calTileOf s a with
  | some (p, t) => modCal s p t fun c => { c with due := [s.now + 600000000, s.now + 3600000000] }
  | none => s

/-- The logical position of a request's block. -/
def reqPos (s : State) (r : ProgReq) : Option (Nat × Nat × Nat) :=
  match getBolt s r.bolt with
  | none => none
  | some b => (placeOf b r.panel r.number).map fun x => (relPanel r.bolt b r.panel, x.tile, x.arr)

/-- The position that an event of an array names: its own, its block's for a repair, or its panel with the physical tile. -/
def eventPos (s : State) (a : ArrId) (r : ProgReq) : Option (Nat × Nat × Nat) :=
  match logOf s a with
  | some x => some x
  | none =>
    match (if r.kind == .repair then reqPos s r else none) with
    | some x => some x
    | none => (logPanel s a.pp).map fun p => (p, a.tile, a.arr)

/-! ### An accepted array -/

/-- A refresh ends: a relay's gusset takes the position, and the old array is zeroised (R128, R129). -/
def refreshDone (s : State) (a : ArrId) (r : ProgReq) : State :=
  match reqPos s r with
  | none => s
  | some (p, t, i) =>
    let old := physArr s p t i
    let s1 := if old = a then s else queueZero (placeArr s p t i a) old
    let s2 := modCal s1 p t fun c => { c with refreshes := if c.refreshes = 0xFFFF then c.refreshes else c.refreshes + 1 }
    bump (raiseEvent s2 (.panel p) 26 [(5, t), (5, i)]) .die 0x3A8

/-- A refresh in place of an array in no position ends: a checker copy is ready again (R127). -/
def recheckDone (s : State) (a : ArrId) (r : ProgReq) : State :=
  let s1 := modBolt s r.bolt fun b =>
    { b with checkers := b.checkers.map fun c => if c.arr = a ∧ c.panel = r.panel ∧ c.number = r.number then { c with ready := true } else c }
  let s2 := match calTileOf s1 a with
    | some (p, t) =>
      raiseEvent (modCal s1 p t fun c => { c with refreshes := if c.refreshes = 0xFFFF then c.refreshes else c.refreshes + 1 }) (.panel p) 26
        [(5, t), (5, a.arr)]
    | none => s1
  bump s2 .die 0x3A8

/-- What follows the acceptance of an array, by what asked for it. -/
def acceptedFor (s : State) (a : ArrId) (r : ProgReq) : State :=
  match r.kind with
  | .load => pumpLoads (arrayDone s a true)
  | .refresh => refreshDone s a r
  | .recheck => recheckDone s a r
  | .repair => bump s .die 0x3A8
  | .checker =>
    modBolt s r.bolt fun b =>
      { b with checkers := b.checkers.map fun c => if c.arr = a ∧ c.panel = r.panel ∧ c.number = r.number then { c with ready := true } else c }
  | .referee => s
  | .selfTest => s
  | .zeroise => s

/-- The figures of a newly accepted array (R116): F is its margin test's, and its first corrections are those of its baseline, so that G
is 0 (R122; DEDUCED, log entry 213). The row converters have no margin test of their own: their figure begins with the same F (DESIGN
CHOICE, log entry 219). -/
def acceptFigures (s : State) (a : ArrId) : State :=
  let f := (getArr s a).fAcc
  let s1 := setQuality s a f 0
  modCalAt s1 a.pp a.tile fun c => { c with qualityT := (c.qualityT.filter fun x => x.1 != a.arr) ++ [(a.arr, f, 0)] }

/-- The array is accepted (R67 step 7). -/
def acceptArr (s : State) (a : ArrId) (r : ProgReq) (gauges : List GaugeSum) : State :=
  let img := match getBolt s r.bolt with | some b => (blockLevels b r.panel r.number).getD [] | none => []
  let s1 := modArr s a fun x =>
    { x with
      st := .programmed
      exact := r.exact
      exactOk := r.exact
      image := img
      holder := reqTenant s r
      req := none
      cells := []
      gauge := baselineOf gauges
      fAcc := sqrtUp (x.marginSq / x.marginN)
      corrTemp := s.arrays.diode
      src := if (getBolt s r.bolt).isSome then some (r.bolt, r.panel, r.number) else none
      refreshed := r.kind == .refresh || r.kind == .recheck }
  let s2 := acceptedFor (dueRuns (acceptFigures s1 a) a) a r
  pumpLoads (match calTileOf s2 a with | some (p, t) => calResidual s2 p t | none => s2)

/-! ### A failed array -/

/-- A repair's array fails: a gusset of the same tile takes its block in the spare's place; without one, an array or tile repair
goes up one level, and a panel's positions fail (R26, R27). -/
def repairFailed (s : State) (a : ArrId) (r : ProgReq) : State :=
  match reqPos s r with
  | none => s
  | some (p, t, i) =>
    let s1 := retireSpare s a
    match s1.ras.repairs.find? fun x => match x.1 with
      | .array p' t' i' => p' == p && t' == t && i' == i
      | .tile p' t' => p' == p && t' == t
      | .panel p' => p' == p with
    | none => s1
    | some (u, n) =>
      let without := { s1 with ras := { s1.ras with repairs := s1.ras.repairs.filter fun x => x != (u, n) } }
      let gusset := (List.range 34).find? fun k =>
        let st := (getArr s1 { a with arr := k }).st
        !(usedArrs s1 a.pp a.tile).contains k && st != .retired && st != .unusable && st != .programming
          && !(s1.arrays.waiting.any fun q => q.target == { a with arr := k })
      match u, gusset with
      | .array _ _ _, _ => unitFault without p t i
      | .tile _ _, some k =>
        requestProg { s1 with arrays := { s1.arrays with arrOf := mapSet none s1.arrays.arrOf ((a.pp * 25 + a.tile) * 32 + i) (some k) } }
          { r with target := { a with arr := k } }
      | .panel _, some k =>
        requestProg { s1 with arrays := { s1.arrays with arrOf := mapSet none s1.arrays.arrOf ((a.pp * 25 + a.tile) * 32 + i) (some k) } }
          { r with target := { a with arr := k } }
      | .tile _ _, none => repairPanel without p
      | .panel _, none => failPosition s1 p t i

/-- A refresh that fails retires the array that it programmed, and the position goes to repair (R129). -/
def refreshFailed (s : State) (a : ArrId) (r : ProgReq) : State :=
  match reqPos s r with
  | none => s
  | some (p, t, i) => if physArr s p t i = a then queueZero (retireArr s a) a else unitFault (retireSpare s a) p t i

/-- What follows the failure of an array, by what asked for it. -/
def failedFor (s : State) (a : ArrId) (r : ProgReq) : State :=
  match r.kind with
  | .load => (match reqPos s r with | some (p, t, i) => unitFault s p t i | none => s)
  | .refresh => refreshFailed s a r
  | .recheck => retireSpare s a
  | .repair => repairFailed s a r
  | .checker => modBolt s r.bolt fun b => { b with checkers := b.checkers.filter fun c => c.arr != a }
  | .referee => s
  | .selfTest => s
  | .zeroise => s

/-- Programming has failed behind the steps that wait for an array's position: the one that waits is released (R46). -/
def releaseWaiting (s : State) (a : ArrId) : State :=
  match logOf s a with
  | some (p, t, i) => if (getHem s p t i).jobs.isEmpty then s else modHem s p t i fun m => { m with released := true }
  | none => s

/-- The code of a programming failure's signature: 4 for a refresh, 2 for the margin test, 3 for the cells (R388). -/
def rejectCode (x : Arr) (r : ProgReq) : Nat :=
  if r.kind == .refresh || r.kind == .recheck then 4 else if acceptable { x with marginBad := false } r then 2 else 3

/-- Programming fails (R69): the panel raises PROG_FAIL and the array stays unusable. -/
def rejectArr (s : State) (a : ArrId) (x : Arr) (r : ProgReq) : State :=
  let img := match getBolt s r.bolt with | some b => (blockLevels b r.panel r.number).getD [] | none => []
  let s1 := modArr s a fun x =>
    { x with
      st := .unusable
      exact := r.exact
      image := img
      holder := reqTenant s r
      req := none
      cells := []
      src := none }
  let pos := eventPos s1 a r
  let s2 := match pos with | some (p, t, i) => raiseEvent s1 (.panel p) 19 [(5, t), (5, i)] | none => s1
  let s3 := writeSig s2 { SigInfo.plain 8 (rejectCode x r) 0 with
    logical := pos, physical := some (physSig a), action := some (if rejectCode x r = 4 then 4 else 0), mode := some (b2n r.exact) }
  pumpLoads (failedFor (releaseWaiting s3 a) a r)

/-! ### The rows -/

/-- Whether a request's end may take effect now: a relay swaps its arrays at a pleat boundary of the tile (R125, R128). -/
def swapReady (s : State) (a : ArrId) (r : ProgReq) : Bool :=
  if r.kind == .refresh then
    (match reqPos s r with
      | some (p, t, i) => physArr s p t i == a || tileAtBoundary s p t
      | none => true)
  else true

/-- PROG_COMPLETE (R67 steps 5 to 7, R69): every row is written and every quarter has had its margin test; with it comes the fresh gauge
window that is an accepted array's baseline. -/
def execProgComplete (a : ArrId) (gauges : List GaugeSum) (s : State) : Res :=
  .next (let x := getArr s a
    match x.req with
    | none => s
    | some r =>
      if x.st ≠ .programming ∨ r.kind = .zeroise ∨ x.row ≠ 1024 then s
      else if !acceptable x r then rejectArr s a x r
      else if swapReady s a r then acceptArr s a r gauges
      else s)

/-- ZEROISATION (R72, R411, R415): every row is at level 0; one that has failed raises PROG_FAIL (R80) and is done again. -/
def execZeroisation (a : ArrId) (ok : Bool) (s : State) : Res :=
  .next (let x := getArr s a
    match x.req with
    | none => s
    | some r =>
      if x.st ≠ .programming ∨ r.kind ≠ .zeroise ∨ x.row ≠ 1024 then s
      else if ok && x.near + x.far == 0 then
        let s1 := modArr s a fun x =>
          { x with
            st := if x.spent then .retired else .zeroised
            exact := false
            exactOk := false
            image := []
            holder := none
            req := none
            cells := []
            src := none }
        pumpLoads (arrayDone (bump s1 .sec 0x0B8) a false)
      else
        let s1 := queueZero (modArr s a fun x => { x with st := .zeroisePending, req := none, cells := [], src := none }) a
        match eventPos s1 a r with
        | some (p, t, i) => raiseEvent s1 (.panel p) 19 [(5, t), (5, i)]
        | none => s1)

end Sys2Proof.Machine
end

