-- ==== Sys2Proof/Machine/Ras.lean ====
section
/-! DEFINITION. Silent errors and containment (R360 to R390): swatch comparisons, checker rotation, referee runs and verdicts,
the end of a repair, management reads that are not answered, and memory errors. -/

namespace Sys2Proof.Machine

/-! ### Evaluation of forwarded inputs (R221, R364, R376) -/

/-- One forwarded step evaluated on a weight block: by an array's converters with their free errors and its own drift, or exactly, as the
wide lane does it. -/
def reStep (img : List Byte) (wide : Bool) (dt : Nat) (r : HemRes) (ctr : Nat) : HemRes × Nat :=
  let j := r.job
  let sp := pleatSpan j.mode j.p j.k
  if j.mode = 1 then
    let rows := (List.range sp.2).map fun i => weightRow img true (sp.1 + i)
    let ph := (List.range 4).foldl (fun (acc : List Bool × List Int × Nat) k =>
      let e := exactPhase rows (r.inputs.map fun a => digitOf 1 j.s2 k a) acc.2.2
      (zipW (fun a b => a || b) acc.1 (blockMarks (missesOf e.2.2)), zipW (· + ·) acc.2.1 (phaseTerms k e.2.2), acc.2.2 + e.1))
      (List.replicate 4 false, List.replicate 128 0, ctr)
    ({ r with xs := if wide then columnSums rows r.inputs 128 else exactResult ph.2.1 r.inputs
              flags := List.replicate 128 false
              poison := if wide then List.replicate 4 false else ph.1 }, if wide then ctr else ph.2.2)
  else if r.zero then ({ r with poison := r.poison.map fun _ => false }, ctr)
  else
    let ds := r.inputs.map fun a => digitOf j.mode j.s2 j.phase a
    let wt := digitWeight j.mode j.s2 j.phase
    let win := j.k / (512 / j.p)
    let rows := if j.mode = 0 then (List.range sp.2).map fun i => weightRow img false (sp.1 + i)
      else (List.range 256).map fun i => weightRow img false (256 * win + i)
    let put {α : Type} (z : α) (xs : List α) (k : Nat) : List α :=
      if j.mode = 0 then xs else List.replicate (k * win) z ++ xs ++ List.replicate (k * (3 - win)) z
    if wide then
      let sums := if j.mode = 0 then columnSums rows ds 512 else rows.map fun w => sumInt (zipW (· * ·) ((w.drop sp.1).take sp.2) ds)
      ({ r with xs := put 0 (sums.map fun d => wt * d) 256, flags := r.flags.map fun _ => false, poison := r.poison.map fun _ => false }, ctr)
    else
      let run : Nat → Nat → Nat → StepOut := fun lo m c =>
        if j.mode = 0 then denseStep ((rows.drop lo).take m) ((ds.drop lo).take m) j.rs dt c
        else transStep rows (sp.1 + lo) m ((ds.drop lo).take m) j.rs dt c
      let o := policyStep run j sp.2 ctr
      ({ r with xs := put 0 (o.xs.map fun d => wt * d) 256, flags := put false o.flags 256, poison := put false o.poison 8 },
        ctr + o.drawn)

/-- A contribution evaluated anew from its forwarded steps: the lanes after promotion, their exponent, and the draws so far. -/
def reEval (img : List Byte) (wide : Bool) (dt : Nat) (inputs : List HemRes) (ctr : Nat) : List Lane × Int × Nat :=
  let r := inputs.foldl (fun (acc : HemArr × Nat) x => let y := reStep img wide dt x acc.2; (acc.1.take y.1, y.2)) (HemArr.start, ctr)
  let h := r.1.promote
  (h.lanes, h.ew, r.2)

/-! ### Comparison (R365, R366) -/

/-- The exact value of a lane. -/
def laneDy (l : Lane) (ew : Int) : Dy := { m := l.w, e := ew }

/-- The exact magnitude of the difference of two lanes. -/
def laneDiff (a : Lane) (ea : Int) (b : Lane) (eb : Int) : Dy :=
  let d := (laneDy a ea).add (laneDy b eb).neg
  { d with m := (d.m.natAbs : Int) }

/-- W of R366: the sum of squared weights of the conversions, as an integer at a power of four. -/
def sumW (inputs : List HemRes) : Nat × Int :=
  let ws := inputs.filter fun r => r.weight != 0
  let e0 := ws.foldl (fun m r => if r.ep < m then r.ep else m) (match ws with | r :: _ => r.ep | [] => 0)
  (sumNat (ws.map fun r => r.weight * 4 ^ (r.ep - e0).toNat), e0)

/-- The least binary32 value at or above the square root of n / d × 4^e. -/
def rootUp32 (n d : Nat) (e : Int) : Dy :=
  if n = 0 then Dy.zero
  else
    let low : Int := ((bitLen n : Int) - (bitLen d : Int) - 1 + 2 * e) / 2 - 26
    let e1 : Int := if low < -149 then -149 else low
    let mant (k : Int) : Nat :=
      let sh := e - k
      let num := if 0 ≤ sh then n * 4 ^ sh.toNat else n
      let den := if 0 ≤ sh then d else d * 4 ^ (-sh).toNat
      sqrtUp ((num + den - 1) / den)
    match ((List.range 8).map fun (i : Nat) => e1 + (i : Int)).find? fun k => decide (mant k ≤ 16777216) with
    | some k => { m := (mant k : Int), e := k }
    | none => { m := (mant (e1 + 8) : Int), e := e1 + 8 }

/-- The tolerance of R366 in two tiles' figures. -/
def swatchTol (w : Swatch) (qa qb : Nat) : Dy :=
  let x := sumW w.inputs
  rootUp32 (w.tol ^ 2 * 4 ^ w.rs * x.1 * (6 * (qa ^ 2 + qb ^ 2) + 1000000)) 96000000 x.2

/-- What a comparison says. -/
inductive Cmp where
  | pass
  | fail (lane : Nat) (excess : Int)
  | void
  deriving DecidableEq, Repr

/-- floor(log2(d / tol)) of two exact values; 0 for a tolerance of zero. -/
def ratioLog (d tol : Dy) : Int :=
  if tol.m ≤ 0 then 0
  else
    let k : Int := ((bitLen d.m.natAbs : Int) + d.e) - ((bitLen tol.m.natAbs : Int) + tol.e)
    if d.lt { tol with e := tol.e + k } then k - 1 else k

/-- Two results of one contribution compared: exact lanes for equality, the others within a tolerance (R365, R366). -/
def compareLanes (mode : Nat) (la : List Lane) (ea : Int) (lb : List Lane) (eb : Int) (tol : Dy) : Cmp :=
  if (la ++ lb).any fun l => l.poison then .void
  else
    let ls := (la.zip lb).zipIdx
    if mode = 1 then
      match ls.find? fun x => (laneDiff x.1.1 ea x.1.2 eb).m != 0 with
      | some x =>
        let d := laneDiff x.1.1 ea x.1.2 eb
        .fail x.2 ((bitLen d.m.natAbs : Int) - 1 + d.e)
      | none => .pass
    else
      match ls.find? fun x => !x.1.1.flag && !x.1.2.flag && tol.lt (laneDiff x.1.1 ea x.1.2 eb) with
      | some x => .fail x.2 (ratioLog (laneDiff x.1.1 ea x.1.2 eb) tol)
      | none => .pass

/-- The figure that a swatch's mode takes of a tile (R366). -/
def modeFigure (s : State) (mode p t : Nat) : Nat := if mode = 2 then qfTrn s p t else qfFwd s p t

/-- The figure of the tile that a physical array stands in. -/
def arrFigure (s : State) (mode : Nat) (a : ArrId) : Nat := match calTileOf s a with | some (p, t) => modeFigure s mode p t | none => 0

/-! ### SWATCH_COMPARE (R365 to R367, R372 step 1) -/

/-- A swatch is over. -/
def dropSwatch (s : State) (w : Swatch) : State :=
  let s1 := modStep s w.bolt w.step fun t => { t with swatches := t.swatches.filter fun n => n != w.id }
  { s1 with ras := { s1.ras with swatches := s1.ras.swatches.filter fun x => x.id != w.id } }

/-- A changed swatch. -/
def modSwatch (s : State) (id : Nat) (f : Swatch → Swatch) : State :=
  { s with ras := { s.ras with swatches := modWhere (fun w => w.id == id) f s.ras.swatches } }

/-- The order of logical positions in which a referee is taken: panel, tile, array; arrays in no position after the others of
their tile. -/
def refereeOrder (s : State) (a : ArrId) : Nat :=
  match calTileOf s a with
  | some (p, t) => (p * 32 + t) * 64 + (match logOf s a with | some x => x.2.2 | none => a.arr)
  | none => 1000000 + arrKey a

/-- The checker array that a referee run takes (R375). -/
def chooseReferee (s : State) (w : Swatch) : Option ArrId :=
  match getBolt s w.bolt with
  | none => none
  | some b =>
    let ca := physArr s w.panel w.tile w.arr
    let free := b.checkers.filter fun c => c.ready && c.arr != w.checker &&
      (if b.cols * b.rows ≤ 2 then
        !((c.arr.pp == ca.pp && c.arr.tile == ca.tile) || (c.arr.pp == w.checker.pp && c.arr.tile == w.checker.tile))
      else c.arr.pp != ca.pp && c.arr.pp != w.checker.pp)
    ((sortBy (fun (x y : Checker) => decide (refereeOrder s x.arr < refereeOrder s y.arr)) free).map fun c => c.arr).head?

/-- A referee run starts: its array leaves checker use and takes the block from the repair copy (R372 step 4, R375). -/
def startReferee (s : State) (w : Swatch) : State :=
  let a := chooseReferee s w
  let gone (c : Checker) : Bool := c.arr == w.checker || some c.arr == a
  let s1 := modBolt (modSwatch s w.id fun x => { x with referee := a }) w.bolt fun b => { b with checkers := b.checkers.filter fun c => !gone c }
  match a, getBolt s1 w.bolt with
  | some r, some b => requestProg s1 { target := r, kind := .referee, exact := w.mode == 1, bolt := w.bolt, panel := panelRel w.bolt b w.panel,
                                       number := w.number }
  | _, _ => s1

/-- What identifies a swatch in an event: its step and logical position (R390). -/
def Swatch.ids (w : Swatch) : List (Nat × Nat) := [(64, w.step.toNat), (6, w.panel), (5, w.tile), (5, w.arr)]

/-- A swatch fails (R372 step 1). -/
def failSwatch (s : State) (w : Swatch) (lanes : List Lane) (ew : Int) : State :=
  let s1 := raiseEvent (bumpFor s .die 0x518 w.ids) .die 56 w.ids
  let w1 := { w with failed := true, checkLanes := lanes, checkEw := ew }
  startReferee (modSwatch s1 w.id fun _ => w1) w1

/-- SWATCH_COMPARE: the checker array has evaluated the forwarded inputs and compares. -/
def execSwatchCompare (id : Nat) (s : State) : Res :=
  .next (match s.ras.swatches.find? fun w => w.id == id && !w.failed with
    | none => s
    | some w =>
      match getBolt s w.bolt with
      | none => s
      | some b =>
        let rel := panelRel w.bolt b w.panel
        if !(b.checkers.any fun c => c.ready && c.arr == w.checker && c.panel == rel && c.number == w.number) then
          dropSwatch (bumpFor s .die 0x520 w.ids) w
        else
          let r := reEval (getArr s w.checker).image false (driftOf s (getArr s w.checker)) w.inputs s.freeCtr
          let s1 := { s with freeCtr := r.2.2 }
          let tol := swatchTol w (modeFigure s w.mode w.panel w.tile) (arrFigure s w.mode w.checker)
          (match compareLanes w.mode w.lanes w.ew r.1 r.2.1 tol with
            | .pass => dropSwatch s1 w
            | .void => dropSwatch (bumpFor s1 .die 0x520 w.ids) w
            | .fail _ _ => failSwatch s1 w r.1 r.2.1))

/-! ### CHECKER_ROTATE (R361) -/

/-- CHECKER_ROTATE: the ROTATE that the last assignment began with has passed (R361, R389). -/
def execCheckerRotate (nw : Nat) (s : State) : Res :=
  .next (match getBolt s nw with
    | none => s
    | some b =>
      if s.start.restarting = false ∧ b.phase = 4 ∧ b.lastRotate + 1000000 * b.rotateSec ≤ s.now then feedCheckers (rotateCheckers s nw) nw else s)

/-! ### REFEREE_RUN (R375, R376) -/

/-- The repair that a fault has led to, as the action of its signature: 1 gusset, 2 spare tile, 3 spare panel, 5 none left. -/
def repairAction (s : State) (p t a : Nat) : Nat :=
  if s.ras.repairs.any fun x => x.1 == .array p t a then 1
  else if s.ras.repairs.any fun x => x.1 == .tile p t then 2
  else if s.ras.repairs.any fun x => x.1 == .panel p then 3
  else 5

/-- A verdict is in: the recall no longer waits for it. -/
def clearVerdict (s : State) (w : Swatch) : State :=
  modBolt { s with ras := { s.ras with swatches := s.ras.swatches.filter fun x => x.id != w.id } } w.bolt fun b =>
    { b with recalling := b.recalling.map fun r => { r with verdicts := r.verdicts.filter fun n => n != w.id } }

/-- The signature of a verdict (R387): code 1 for a faulty checked array, 2 for a faulty checker array, 3 for both, 0 for
undecided. -/
def verdictSig (s : State) (w : Swatch) (code action : Nat) (phys : ArrId) : State :=
  let tol := swatchTol w (modeFigure s w.mode w.panel w.tile) (arrFigure s w.mode w.checker)
  let f := compareLanes w.mode w.lanes w.ew w.checkLanes w.checkEw tol
  writeSig s { SigInfo.plain 0 1 code with
    logical := some (w.panel, w.tile, w.arr), physical := some (physSig phys), action := some action, mode := some w.mode,
    lane := (match f with | .fail l _ => some l | _ => none), excess := (match f with | .fail _ e => some e | _ => none) }

/-- What a verdict does (R376). While the checked position is being repaired the recall goes on waiting, and the swatch stays
without its lanes. -/
def applyVerdict (s : State) (w : Swatch) (checkedBad checkerBad : Bool) : State :=
  let ca := physArr s w.panel w.tile w.arr
  let s1 := if checkerBad then retireSpare s w.checker else s
  let s2 := if checkedBad then unitFault s1 w.panel w.tile w.arr else s1
  let s3 := if checkedBad || checkerBad then s2 else bumpFor s2 .die 0x528 w.ids
  let code := b2n checkedBad + 2 * b2n checkerBad
  let action := if checkedBad then repairAction s3 w.panel w.tile w.arr else if checkerBad then 4 else 7
  let s4 := verdictSig s3 w code action (if checkerBad && !checkedBad then w.checker else ca)
  if checkedBad && underRepair s4 w.panel w.tile w.arr then modSwatch s4 w.id fun x => { x with lanes := [] } else clearVerdict s4 w

/-- Whether one side agrees with a result judged beside it, at both figures. -/
def agrees (w : Swatch) (la : List Lane) (ea : Int) (lb : List Lane) (eb : Int) (qa qb : Nat) : Bool :=
  compareLanes w.mode la ea lb eb (swatchTol w qa qb) == .pass

/-- The wide lane decides from the repair copy (R376): each side that fails against it, at that side's figure alone, is faulty. -/
def wideVerdict (s : State) (w : Swatch) (b : Bolt) : State :=
  let img := (blockBytes b (panelRel w.bolt b w.panel) w.number).1
  let r := reEval img true 0 w.inputs s.freeCtr
  let qa := modeFigure s w.mode w.panel w.tile
  let qb := arrFigure s w.mode w.checker
  applyVerdict s w (!agrees w w.lanes w.ew r.1 r.2.1 qa 0) (!agrees w w.checkLanes w.checkEw r.1 r.2.1 qb 0)

/-- REFEREE_RUN: once the recall has taken the failed swatch up and the referee is programmed, the verdict falls. A referee that
cannot be programmed is replaced; with none to take, the wide lane decides. -/
def execRefereeRun (id : Nat) (s : State) : Res :=
  .next (match (if s.start.restarting then [] else s.ras.swatches).find? fun w => w.id == id && w.failed && !w.lanes.isEmpty with
    | none => s
    | some w =>
      match getBolt s w.bolt with
      | none => s
      | some b =>
        if b.steps.any fun t => t.swatches.contains id then s
        else
          match w.referee with
          | none => wideVerdict s w b
          | some a =>
            let x := getArr s a
            let waits := s.arrays.waiting.any fun r => r.target == a
            if waits || x.st == .programming then s
            else if x.st ≠ .programmed then startReferee s w
            else
              let r := reEval x.image false (driftOf s x) w.inputs s.freeCtr
              let s1 := { s with freeCtr := r.2.2 }
              let qa := modeFigure s w.mode w.panel w.tile
              let qb := arrFigure s w.mode w.checker
              let qr := arrFigure s w.mode a
              let withChecked := agrees w w.lanes w.ew r.1 r.2.1 qa qr
              let withChecker := agrees w w.checkLanes w.checkEw r.1 r.2.1 qb qr
              if withChecked && !withChecker then applyVerdict s1 w false true
              else if withChecker && !withChecked then applyVerdict s1 w true false
              else wideVerdict s1 w b)

/-! ### REPAIR_COMPLETE (R26, R377, R378) -/

/-- Whether an array waits at a pleat boundary. -/
def arrAtBoundary (s : State) (p t a : Nat) : Bool := match (getHem s p t a).jobs with | [] => true | j :: _ => j.phase == 0

/-- The arrays that a repair has had programmed, each with its placed block's bolt, panel and number (R377). A position that has failed
itself gets none. -/
def repairPairs (s : State) (u : RepairUnit) (spare : Nat) : List (ArrId × Nat × Nat × Nat) :=
  (unitBlocks s u).filterMap fun x =>
    let p := relPanel x.1 x.2.1 x.2.2.panel
    if s.arrays.failedPos.contains (posKey p x.2.2.tile x.2.2.arr) then none
    else some (spareArr s u spare p x.2.2.tile x.2.2.arr, x.1, x.2.2.panel, x.2.2.number)

/-- Whether a repair's programming is done: each array is PROGRAMMED with the block placed behind it. -/
def repairReady (s : State) (u : RepairUnit) (spare : Nat) : Bool :=
  (repairPairs s u spare).all fun x => (getArr s x.1).st == .programmed && (getArr s x.1).src == some x.2

/-- The physical arrays of a unit. -/
def unitArrays (s : State) (u : RepairUnit) : List ArrId :=
  match u with
  | .array p t a => [physArr s p t a]
  | .tile p t => (List.range 34).map fun i => { pp := physPanel s p, tile := physTile s (physPanel s p) t, arr := i }
  | .panel p => (List.range 850).map fun i => { pp := physPanel s p, tile := i / 34, arr := i % 34 }

/-- A unit leaves service: its arrays that hold levels are retired and zeroised, and no checker copy stays in them (R72, R73, R360). -/
def retireUnit (s : State) (u : RepairUnit) : State :=
  let gone := (unitArrays s u).filter fun a =>
    let st := (getArr s a).st
    st == .programmed || st == .unusable || st == .zeroisePending || repairLevel u == 0
  let s1 := gone.foldl (fun s a => queueZero (modArr s a fun x => { x with st := .retired, spent := true, src := none }) a) s
  { s1 with bolts := s1.bolts.foldl (fun m kv => mapMod none m kv.1 fun o => o.map fun b =>
    { b with checkers := b.checkers.filter fun c => !gone.contains c.arr }) s1.bolts }

/-- Whether the unit stands at a pleat boundary. -/
def unitAtBoundary (s : State) : RepairUnit → Bool
  | .array p t a => arrAtBoundary s p t a
  | .tile p t => tileAtBoundary s p t
  | .panel p => (List.range 24).all fun t => tileAtBoundary s p t

/-- Whether a panel's SRAM still answers: none of its slice pages is FAILED. -/
def sramAnswers (s : State) (p : Nat) : Bool := (List.range 8).all fun k => (getHdr s (.slice p k)).st != .failed

/-- The jobs whose replay needs a tack that only a panel's SRAM held. -/
def sramTackJobs (s : State) (p : Nat) (b : Bolt) : List Nat :=
  jobsOfSteps s (b.steps.filter fun t => !t.sealed && t.tacks.any fun k => k.panel == p && !k.dram)

/-- The SRAM of a panel is rebuilt from the pattern copy (R378). -/
def rebuildSram (s : State) (nw : Nat) (b : Bolt) (p : Nat) : State :=
  match b.pat with
  | none => modPanel s p sramZero
  | some t =>
    let rel := panelRel nw b p
    match t.panels[rel]? with
    | none => modPanel s p sramZero
    | some e =>
      let lost := sramTackJobs s p b
      let held := b.slots.filter fun x => x.2.st != 0
      let s1 := dropSramPages s [p]
      let s2 := modPanel s1 p fun q => { installPanel (sramZero q) b.tenant none t e p (nth [] t.images rel) with est := q.est }
      let s3 := modBolt s2 nw fun b =>
        { b with
          slots := b.slots.map fun x => (x.1, if x.2.st = 2 then { x.2 with st := 1 } else x.2)
          wanted := b.wanted ++ (held.map fun x => (x.2.tenant, x.2.set)).filter fun k => !b.wanted.contains k }
      claimAll s3 lost 0x17

/-- The pages of a panel's group leave FAILED (R313, R430: cause 3). -/
def groupReady (s : State) (p : Nat) : State :=
  (groupPages p).foldl (fun s g => if (getHdr s g).st = .failed then setBlk s g .ready false 3 else s) s

/-- Arrays of a commit that a repair has brought into place count as done (R213, R217). -/
def repairedLoads (s : State) (as : List ArrId) : State := as.foldl (fun s a => arrayDone s a true) s

/-- The tiles of a unit. -/
def unitTiles : RepairUnit → List (Nat × Nat)
  | .array p t _ => [(p, t)]
  | .tile p t => [(p, t)]
  | .panel p => (List.range 24).map fun t => (p, t)

/-- Swatches whose checked position is no longer under repair: the recall need not wait for them any more. -/
def settleVerdicts (s : State) : State :=
  (s.ras.swatches.filter fun w => w.failed && w.lanes.isEmpty && !underRepair s w.panel w.tile w.arr).foldl clearVerdict s

/-- REPAIR_COMPLETE: every array of the repair is accepted and the unit stands at a pleat boundary. The spare takes the unit's place,
the bolt's routers are tagged anew (R326), and the figures of its tiles are judged (R119). -/
def execRepairComplete (u : RepairUnit) (s : State) : Res :=
  .next (match (if s.start.restarting then [] else s.ras.repairs).find? fun x => x.1 == u with
    | none => s
    | some (_, spare) =>
      if !repairReady s u spare || !unitAtBoundary s u then s
      else
        let pos := match u with | .array p t a => (p, t, a) | .tile p t => (p, t, 0) | .panel p => (p, 0, 0)
        let old := unitArrays s u
        let new := (repairPairs s u spare).map Prod.fst
        let phys := physArr s pos.1 pos.2.1 pos.2.2
        let s1 := retireUnit s u
        let s2 := swapUnit { s1 with ras := { s1.ras with repairs := s1.ras.repairs.filter fun x => x.1 != u } } u spare
        let s3 := match u, boltOfPanel s2 pos.1 with
          | .panel p, some (nw, b) =>
            let s3 := tagRouters s2 (boltPanels nw b) nw
            groupReady (if sramAnswers s3 p then s3 else rebuildSram s3 nw b p) p
          | .panel p, none => groupReady (if sramAnswers s2 p then s2 else modPanel s2 p sramZero) p
          | _, _ => s2
        let ids := [(6, pos.1), (5, pos.2.1), (5, pos.2.2)]
        let s4 := bumpFor (raiseEvent s3 .die 58 ids) .die (0x538 + 8 * repairLevel u) ids
        let s5 := writeSig s4 { SigInfo.plain (repairLevel u) 1 0x10 with
          logical := some pos, physical := some (physSig phys), action := some (repairLevel u + 1) }
        let s6 := pumpLoads (settleVerdicts (repairedLoads s5 (old ++ new)))
        calEvaluate s6 (unitTiles u))

/-! ### MGMT_READ_TIMEOUT (R385) -/

/-- Data-path commands that a page's unit has completed. -/
def unitProgress (s : State) (page : PageId) : Nat :=
  match pagePanel page with
  | some p => let q := getPanel s p; q.nextCmd - sumNat (q.ctxs.map fun c => c.cmds.length)
  | none => 0

/-- MGMT_READ_TIMEOUT: a management read of a page has gone unanswered for 1 ms; after a second one with no command completed in
between, the unit is FAILED. -/
def execMgmtReadTimeout (page : PageId) (s : State) : Res :=
  .next (if s.start.restarting || !pageExists s page || !pagePowered s page then s
    else
      let k := pageKey page
      let now := unitProgress s page
      if mapGet 0 s.ras.unanswered k = 0 ∨ mapGet 0 s.ras.progress k ≠ now then
        { s with ras := { s.ras with unanswered := mapSet 0 s.ras.unanswered k 1, progress := mapSet 0 s.ras.progress k now } }
      else
        let s1 := { s with ras := { s.ras with unanswered := mapDel s.ras.unanswered k, progress := mapDel s.ras.progress k } }
        match page with
        | .kwath p => downPlane (failUnit s1 page 6 7 none) s1.fab.addr p
        | _ => failUnit s1 page 2 7 ((pagePanel page).map fun p => .panel p))

/-! ### Memory errors (R169, R224, R379, R381, R382) -/

/-- What every uncorrectable error leaves. -/
def memRecord (s : State) (cls : Nat) (logical : Option (Nat × Nat × Nat)) (id : Nat) : State :=
  writeSig (raiseEvent (bumpFor s .die 0x560 [(64, id)]) .die 61 [(64, id)]) { SigInfo.plain cls 5 0 with logical := logical }

/-- An uncorrectable error strikes a place in memory: the place carries poison from then on. -/
def memStrike (s : State) (loc : MemLoc) : State :=
  match loc with
  | .sram p addr =>
    if panelsEn s ≤ p ∨ sramSize ≤ addr then s
    else
      let s1 := modPanel s p fun q => { q with marks := mapMod LineMark.clean q.marks (addr / 64) fun m => { m with poison := true } }
      memRecord s1 3 (some (p, 0, 0)) addr
  | .kvPage frame block =>
    let mark (g : KvPage) : KvPage := if g.poison.contains (block + 65536) then g else { g with poison := g.poison ++ [block + 65536] }
    memRecord { s with kv := { s.kv with pages := mapMod KvPage.start s.kv.pages frame mark } } 4 none frame
  | .copyChunk nw idx =>
    match getBolt s nw with
    | none => s
    | some b =>
      if !(b.copy.any fun c => c.idx == idx && !c.lost) then s
      else
        let s1 := modBolt s nw fun b => { b with copy := modWhere (fun c => c.idx == idx) (fun c => { c with lost := true }) b.copy }
        let s2 := { s1 with ras := { s1.ras with lostChunks := s1.ras.lostChunks ++ [(nw, idx)] } }
        memRecord (raiseEvent (bumpFor s2 .die 0x3B0 [(6, nw), (32, idx)]) .die 46 [(6, nw), (32, idx)]) 4 none idx
  | .dramLine addr =>
    let s1 := { s with dramPoison := if s.dramPoison.contains (addr / 64) then s.dramPoison else s.dramPoison ++ [addr / 64] }
    memRecord s1 4 none addr

/-- MEM_UNCORRECTABLE (R382). -/
def execMemUncorrectable (loc : MemLoc) (s : State) : Res := .next (memStrike s loc)

/-- DRAM_SCRUB (R382): a scrub of the enabled DRAM ends, with the errors that it corrected and those that it could not. -/
def execDramScrub (corrected : Nat) (bad : List MemLoc) (s : State) : Res :=
  .next (bad.foldl memStrike (bumpTile s .die 0x558 0 corrected))

/-- POISON_REPAIRED (R381): Jobel has rewritten a poisoned line from the pattern copy. -/
def execPoisonRepaired (p addr : Nat) (s : State) : Res :=
  .next (let line := addr / 64
    match boltOfPanel s p with
    | none => s
    | some (nw, b) =>
      match b.pat with
      | none => s
      | some t =>
        let img := nth [] t.images (panelRel nw b p)
        if !(mapGet LineMark.clean (getPanel s p).marks line).poison || decide (img.length < 64 * line + 64) then s
        else
          let s1 := modPanel s p fun q =>
            { q with
              sram := memWrite q.sram (64 * line) ((img.drop (64 * line)).take 64)
              marks := mapSet LineMark.clean q.marks line LineMark.clean }
          bbRecord { s1 with ras := { s1.ras with rewrites := s1.ras.rewrites.filter fun x => x != (p, line) } } .jobel 0x121
            (natLe 4 (64 * line)))

end Sys2Proof.Machine
end

