-- ==== Sys2Proof/Machine/Tree.lean ====
section
/-! DEFINITION. The prefix tree (R170 to R176) and the bucket table (R157). The walker's operations run one at a time, each as
one command (log entry 24). -/

namespace Sys2Proof.Machine

/-- DEPTH of a root. -/
def rootDepth : BitVec 32 := 0xFFFFFFFF

/-- The layer and KV head pairs of a pattern, in layer-major order (R171, R530). -/
def layerHeads (t : Pattern) : List (Nat × Nat) :=
  (t.homes.zipIdx).flatMap fun l => ((l.1.zipIdx).filter fun h => h.1 != 0xFF).map fun h => (l.2, h.2)

/-- Whether a node belongs to a session's scope (R170). -/
def sameScope (e : Session) (d : Node) : Bool := d.live && d.tenant == e.tenant && d.pattern == e.pattern && d.aset == e.aset

/-- The root of a session's scope. -/
def rootOf (s : State) (e : Session) : Option Nat := (s.kv.nodes.find? fun kv => sameScope e kv.2 && kv.2.depth == rootDepth).map Prod.fst

/-- The bytes of token IDs, each a little-endian word. -/
def tokenBytes (ts : List (BitVec 32)) : List Byte := ts.flatMap fun t => natLe 4 t.toNat

/-- The child of a node whose hash and token block match a range's tokens. -/
def matchChild (s : State) (n : Nat) (ts : List (BitVec 32)) : Option Nat :=
  (getNode s n).children.find? fun c => (getNode s c).hash == crc64 (tokenBytes ts) && (getNode s c).tokens == ts

/-- Whether the walker may look up and publish (R176, R178). -/
def treeOn (s : State) : Bool := bit (dieReg s 0x208) 1 && !s.kv.rebuilding

/-! ### Lookup (R172) -/

/-- The tables that the entries of some layers and KV heads need; none when the pool has none (R167). -/
def ensureTables (session : Nat) (hs : List (Nat × Nat)) (s : State) : Option State :=
  hs.foldl (fun o x => o.bind fun s => (ensureTable s (dirOwner session x.1 x.2)).bind fun u => ensureTable u (leafOwner session x.1 x.2)) (some s)

/-- The entries of a range of a session point at a node's pages; none when the pool has no frame for their tables. -/
def mapNode (s : State) (t : Pattern) (session range : Nat) (d : Node) : Option State :=
  (ensureTables session (layerHeads t) s).map fun s1 =>
    ((layerHeads t).zip d.pages).foldl (fun s (x : (Nat × Nat) × Nat) =>
      setPte s (pteKey session x.1.1 x.1.2 range)
        { present := true, dropped := false, tree := true, inSram := false, frame := x.2, tpp := 32 * d.tpp32 }) s1

/-- The walk from a node down the ranges that a prompt fills, never the one that holds its last token: the state after it and
the number of ranges shared. An allocation that finds nothing ends the session's job, and the walk (R167). -/
def walkTree (t : Pattern) (session tpp : Nat) (prompt : List (BitVec 32)) : Nat → State → Nat → Nat → State × Nat
  | 0, s, _, i => (s, i)
  | fuel + 1, s, n, i =>
    let ts := (prompt.drop (i * tpp)).take tpp
    if prompt.length ≤ (i + 1) * tpp then (s, i)
    else
      match matchChild s n ts with
      | none => (s, i)
      | some c =>
        match mapNode s t session i (getNode s c) with
        | none => (kvExhausted s session, i)
        | some s0 =>
          let s1 := bumpFor (incNode s0 c) .die 0x270 [(64, nodeAddr s c)]
          walkTree t session tpp prompt fuel (modSession s1 session fun e => { e with path := e.path ++ [c] }) c (i + 1)

/-- The shared positions of a job's prompt need no row: their tokens stand in the log, and the prefill starts after them. -/
def sharePrompt (s : State) (session : Nat) (j : Job) (g : GenJob) (n : Nat) : State :=
  let ts := g.prompt.take n
  let s1 := (List.range ((ts.length + 16383) / 16384)).foldl (fun s i =>
    match ensureLog s session (i * 16384) with | some u => u | none => kvExhausted s session) s
  let s2 := modSession s1 session fun e => { e with log := ts.map fun t => (t, (0 : Word)), sealedLen := n }
  let s3 := if (getSession s2 session).countPrompt then ts.foldl (fun s t => enterCount s (getSession s session).bolt session t) s2 else s2
  modJob s3 j.id fun x => { x with kind := .gen { g with prompt := g.prompt.drop n, nextPos := n } }

/-- A session's TPP: that of the bolt's KV writers, and a free value of its pattern until one has run (log entry 234). -/
def sessionTpp (b : Bolt) (t : Pattern) : Nat := if b.tpp = 0 then Config.patternTpp t.pattern else b.tpp

/-- TREE_LOOKUP (R172): a session with LOOKUP, before its first row. -/
def execTreeLookup (session : Nat) (s : State) : Res :=
  .next (let e := getSession s session
    match genOf s session, getBolt s e.bolt with
    | some (j, g), some b =>
      match b.pat, rootOf s e with
      | some t, some r =>
        let tpp := 32 * (getNode s r).tpp32
        if !e.lookup || !treeOn s || !e.log.isEmpty || !e.path.isEmpty || g.carry.isSome || j.ready.isNone then s
        else if sessionTpp b t ≠ tpp then s
        else
          let w := walkTree t session tpp g.prompt 1024 s r 0
          if w.2 = 0 then s else sharePrompt w.1 session j g (w.2 * tpp)
      | _, _ => s
    | _, _ => s)

/-! ### Publication (R173) -/

/-- An allocation of the walker's own, for no job, finds nothing: KV_EXHAUSTED is raised and the range stays private (R167; log entry 233). -/
def noFrame (s : State) : State := raiseEvent s .die 36 []

/-- A node enters the tree, in a pinned frame of its own; none when the pool has none. -/
def addNode (s : State) (d : Node) : Option (State × Nat) :=
  let n := s.kv.nextNode
  match ensureTable s (8 * n + 3) with
  | none => none
  | some s1 =>
    let s2 := modNode { s1 with kv := { s1.kv with nextNode := n + 1 } } n fun _ => d
    some (if d.parent = 0 then s2 else modNode s2 d.parent fun p => { p with children := p.children ++ [n] }, n)

/-- The root of a session's scope, made when there is none. -/
def ensureRoot (s : State) (e : Session) (tpp : Nat) : Option (State × Nat) :=
  match rootOf s e with
  | some r => some (s, r)
  | none => addNode s { Node.start with tpp32 := tpp / 32, depth := rootDepth, tenant := e.tenant, pattern := e.pattern, aset := e.aset, live := true }

/-- A page of a session that goes to the tree, moved to DRAM when it is in panel SRAM (R163): its frame there. The SRAM frame changes hands
only once its translation is gone from every unit (R164). -/
def pageToDram (s : State) (k : Nat) : Option (State × Nat) :=
  let e := getPte s k
  if !e.inSram then some (s, e.frame)
  else
    match takePool s with
    | none => none
    | some (f, s1) =>
      let q := getPanel s1 ((e.frame - 8388608) / 256)
      let base := (e.frame - 8388608) % 256 * 65536
      let bytes := (q.sram.filter fun c => decide (base + 256 ≤ c.1 ∧ c.1 < base + 65536)).map fun c => (c.1 - base, c.2)
      let g := getPage s1 e.frame
      let s2 := freeFrame (modPage { s1 with kv := { s1.kv with used := s1.kv.used ++ [f] } } f fun _ => { g with mem := bytes }) e.frame
      some (setPte s2 k { e with inSram := false, frame := f }, f)

/-- The pages of a range go to DRAM, in order: their frames. -/
def pagesToDram (s : State) : List Nat → Option (State × List Nat)
  | [] => some (s, [])
  | k :: ks =>
    match pageToDram s k with
    | none => none
    | some (s1, f) => (pagesToDram s1 ks).map fun r => (r.1, f :: r.2)

/-- A session's range becomes a new node under its parent: its pages pass to the tree (R173). -/
def insertRange (s : State) (session range parent tpp : Nat) (keys : List Nat) (ts : List (BitVec 32)) : State :=
  let e := getSession s session
  match pagesToDram s keys with
  | none => noFrame s
  | some (s1, fs) =>
    let d : Node :=
      { hash := crc64 (tokenBytes ts), parent := parent, children := [], tokens := ts, pages := fs, count := 1, sat := false,
        tpp32 := tpp / 32, depth := BitVec.ofNat 32 range, tenant := e.tenant, pattern := e.pattern, aset := e.aset, live := true }
    match addNode s1 d with
    | none => noFrame s1
    | some (s2, n) =>
      let s3 := fs.foldl (fun s f => touchFrame (modHeader s f fun g => { g with tree := true, session := 0 }) f) s2
      let s4 := keys.foldl (fun s k => setPte s k { getPte s k with tree := true }) s3
      modSession s4 session fun e => { e with path := e.path ++ [n] }

/-- A session's range switches to a node that holds the same tokens: its own pages are freed (R173). -/
def switchRange (s : State) (t : Pattern) (session range n : Nat) (keys : List Nat) : State :=
  let s1 := keys.foldl (fun s k => let e := getPte s k; if e.present && !e.tree then freeFrame (invalidate s [k]) e.frame else s) s
  match mapNode s1 t session range (getNode s1 n) with
  | none => noFrame s1
  | some s2 => modSession (incNode s2 n) session fun e => { e with path := e.path ++ [n] }

/-- Whether a session is at a step boundary: no unsealed or still running step of its bolt holds a row of it (R173). -/
def atBoundary (s : State) (nw : Nat) (b : Bolt) (session : Nat) : Bool :=
  !b.steps.any fun t => stepOpen s nw b t && t.rows.any fun r => r.session == session && !t.dead.contains session

/-- TREE_PUBLISH (R173): a full range whose steps have sealed, under the session's deepest node or the root. A switch to a node that is
there already waits for a step boundary of the session. -/
def execTreePublish (session range : Nat) (s : State) : Res :=
  .next (let e := getSession s session
    match getBolt s e.bolt with
    | none => s
    | some b =>
      match b.pat with
      | none => s
      | some t =>
        let tpp := b.tpp
        let keys := (layerHeads t).map fun x => pteKey session x.1 x.2 range
        let full := keys.all fun k => let p := getPte s k; p.present && !p.tree && (getPage s p.frame).valid == tpp
        let written := e.sealedLen - (match e.carry with | some _ => 1 | none => 0)
        if e.st = .free ∨ e.publish = false ∨ treeOn s = false ∨ tpp = 0 ∨ e.path.length ≠ range ∨ written < (range + 1) * tpp ∨ full = false
        then s
        else
          let ts := ((e.log.drop (range * tpp)).take tpp).map Prod.fst
          match ensureRoot s e tpp with
          | none => noFrame s
          | some (s1, r) =>
            let parent := lastOr r e.path
            if (getNode s1 r).tpp32 ≠ tpp / 32 then s1
            else
              match matchChild s1 parent ts with
              | some c => if atBoundary s1 e.bolt b session then switchRange s1 t session range c keys else s1
              | none => insertRange s1 session range parent tpp keys ts)

/-! ### Drop, rebuild, buckets -/

/-- TREE_DROP (R166, R176): a node leaves the tree with its descendants, unless a path holds one of them. -/
def execTreeDrop (node : Nat) (s : State) : Res :=
  .next (let d := getNode s node
    if s.kv.rebuilding || !d.live || (subtree s 1024 node).any (fun n => (getNode s n).count != 0 || (getNode s n).sat) then s
    else dropNodes s node)

/-- How many live sessions' paths hold a node. -/
def pathCount (s : State) (n : Nat) : Nat := (s.sessions.filter fun kv => kv.2.path.contains n).length

/-- TREE_REBUILD (R175): every node is recounted from the paths of the live sessions, SAT is cleared, retains are gone. -/
def execTreeRebuild (w : Window) (s : State) : Res :=
  .next (gated s w .die 0x218 1 fun s =>
    if s.kv.rebuilding then s
    else
      let s1 := { s with kv := { s.kv with
        nodes := s.kv.nodes.map fun kv => (kv.1, { kv.2 with count := BitVec.ofNat 16 (satNat 0xFFFF (pathCount s kv.1)), sat := false })
        retains := [] } }
      raiseEvent s1 .die 38 [])

/-- The table that KV_BUCKET0 to KV_BUCKET7 hold: sixteen (UPPER, SPLITS). -/
def bucketRegs (s : State) : List (Nat × Nat) :=
  (List.range 8).flatMap fun n =>
    let w := dieReg s (0x220 + 8 * n)
    [(field w 17 0, field w 22 18), (field w 49 32, field w 54 50)]

/-- Whether numbers rise strictly. -/
def rising : List Nat → Bool
  | a :: b :: r => decide (a < b) && rising (b :: r)
  | _ => true

/-- Whether a bucket table keeps R157. -/
def bucketsOk (t : List (Nat × Nat)) : Bool :=
  let used := t.takeWhile fun x => x.1 != 0
  (t.drop used.length).all (fun x => x.1 == 0) && rising (used.map Prod.fst)
    && (match used.reverse with | x :: _ => x.1 == 131072 | [] => false) && used.all fun x => decide (1 ≤ x.2 ∧ x.2 ≤ 16)

/-- BUCKET_LOAD (R157). -/
def execBucketLoad (w : Window) (s : State) : Res :=
  .next (gated s w .die 0x218 2 fun s =>
    let t := bucketRegs s
    if bucketsOk t then markDirty { s with kv := { s.kv with buckets := t.takeWhile fun x => x.1 != 0 } }
    else capture s .die 2 (winCode w) 0x218 2)

end Sys2Proof.Machine
end

