-- ==== Sys2Proof/Machine/Start.lean ====
section
/-! DEFINITION. Start, firmware, recovery and management-only restart (R477 to R494): the start sequence from ROM to READY, the islands'
alignment, firmware images, Jobel's own restart, and the ports' resets. -/

namespace Sys2Proof.Machine

/-! ### Firmware images (R485, R487) -/

/-- Why an image fails R485: 1 format or length, 2 signature, 3 an SVN below MIN_SVN; 0 for one that verifies. -/
def fwFault (s : State) (m : FwImage) : Nat :=
  if !m.headerOk || !m.lengthOk then 1
  else if !m.signedByVendor then 2
  else if m.svn < s.start.area.minSvn then 3
  else 0

/-- Jobel starts: a new key-encryption key pair begins (R400), and no SPDM connection stands. -/
def jobelStarts (s : State) : State :=
  drawFree { s with sec := { s.sec with kekReady := false, kekId := s.freeCtr + 2, spdm := [] } }

/-- The firmware in force is the firmware area's image. -/
def runFirmware (s : State) (m : FwImage) : State :=
  { s with start := { s.start with fwVersion := m.version, fwSvn := m.svn, fwDigest := m.digest } }

/-! ### Steps 5 and 6: rails and islands (R458, R480, R482, R483) -/

/-- The crossings to align. -/
def allIslands (s : State) : List (Island × Nat) :=
  ([Island.pcie 0, Island.pcie 1] ++ ((List.range 4).filter (stackOn s)).map Island.dram ++ (List.range 16).map Island.kwath).map fun i => (i, 0)

/-- Step 5 once the hot-swap output is good: the rails come up at their set points, and the islands align. -/
def startAdvance (s : State) : State :=
  if s.start.phase = 3 ∧ s.power.powerGood = true then
    { s with
      start := { s.start with phase := 4, islands := allIslands s }
      power := { s.power with compute := true, arrRail := 50, logRail := 40, arrDuty := 64, attDuty := 64 } }
  else s

/-- POWER_GOOD (R456). -/
def execPowerGood (s : State) : Res :=
  .next (if s.power.hotswap = .charging then startAdvance { s with power := { s.power with hotswap := .closed, powerGood := true } } else s)

/-- The page of an island's block. -/
def islandPage : Island → PageId
  | .pcie p => .host p
  | .dram k => .stack k
  | .kwath p => .kwath p

/-- A crossing that has failed three times (R483). -/
def islandFails (s : State) (i : Island) : State :=
  let s1 := { s with start :=
    match i with
    | .pcie p => { s.start with failPcie := s.start.failPcie ||| BitVec.ofNat 2 (2 ^ p) }
    | .dram k => { s.start with failDram := s.start.failDram ||| BitVec.ofNat 4 (2 ^ k) }
    | .kwath p => { s.start with failKwath := s.start.failKwath ||| BitVec.ofNat 16 (2 ^ p) } }
  raiseEvent (setBlk s1 (islandPage i) .failed false 4) .die 27
    [match i with | .pcie p => (1, p) | .dram k => (2, k) | .kwath p => (4, p)]

/-! ### Steps 7 to 9 (R23, R75, R123, R226, R324, R348, R415, R480) -/

/-- An array's state after a start. -/
def restoreArr (area : SecArea) (k : Nat) (a : Arr) : Arr :=
  let c := mapGet (0, false, false) area.arrays k
  let st := match a.st with
    | .unusable => ArrSt.unusable
    | .programming => ArrSt.unusable
    | .zeroisePending => ArrSt.zeroisePending
    | _ => codeArr c.1
  { a with
    st := st
    exact := c.2.1
    exactOk := c.2.2
    spent := st == .retired
    src := none }

/-- Array states and the half spares in use are restored from retained state, and pending zeroisations are queued. -/
def restoreArrays (s : State) : State :=
  let darns := s.start.area.darns.foldl (fun m d => mapSet none m d.1 (some d.2)) []
  let m := s.arrays.arrs.foldl (fun m kv => mapSet Arr.start m kv.1 (restoreArr s.start.area kv.1 kv.2)) []
  (m.filter fun kv => kv.2.st == .zeroisePending).foldl (fun s kv => queueZero s (arrOfKey kv.1))
    { s with arrays := { s.arrays with arrs := m, waiting := [], panelOf := darns } }

/-- A spare panel that serves no position is tested (R23). -/
def testSpare (s : State) (h : Nat) (ok : Bool) : State :=
  if ok || (darnIndex s h).isSome || s.start.area.failedPanels.contains (h * 25 + 24) then s
  else
    writeSig (modSec s fun a => { a with failedPanels := a.failedPanels ++ [h * 25 + 24] })
      { SigInfo.plain 2 10 0 with physical := some (h, h * 25 + 24, 0, 0) }

/-- Whether a bolt holds a FAILED position (R27). -/
def holdsFailed (s : State) (nw : Nat) (b : Bolt) : Bool := s.arrays.failedPos.any fun k => inBolt nw b (k / 768)

/-- A bolt comes back from its retained record (R226): UNBOUND, its arrays with their levels. -/
def restoreBolt (s : State) (r : BoltRecord) : State :=
  let b0 := { newBolt r.cols r.rows r.port with
    phase := 5
    tenant := r.tenant
    digest := r.digest
    nonce := r.nonce
    place := r.place.map fun (x : Nat × Nat × Bool × Nat × Nat) => { panel := x.1, number := x.2.1, exact := x.2.2.1, tile := x.2.2.2.1, arr := x.2.2.2.2 } }
  let b := { b0 with stopped := holdsFailed s r.bolt b0 }
  let ps := rectPanels r.bolt r.cols r.rows
  tagRouters (ownPanels (setBolt s r.bolt (some b)) ps r.port r.bolt r.tenant) ps r.bolt

/-- Seam spare groups stand in for the failed ones (R324). -/
def steerSeam (s : State) : State :=
  let spares (h : Nat) : Nat := 17 - count (fun x => x.1 == h) s.start.area.seamFailed
  { s with net := { s.net with seam0 := { SeamHalf.start with spares := spares 0 }, seam1 := { SeamHalf.start with spares := spares 1 } } }

/-- One die-wide calibration at a diode temperature (R123): every tile's figures keep their F, with no gain error yet (log entry 10). A
plausibility fault that is on keeps the fallback on (R121). -/
def startCal (s : State) (diode : Int) : State :=
  let fresh (c : TileCal) : TileCal :=
    { TileCal.start with
      temp := diode
      quality := c.quality.map fun x => (x.1, x.2.1, 0)
      qualityT := c.qualityT.map fun x => (x.1, x.2.1, 0) }
  let s1 := { s with arrays := { s.arrays with
    diode := diode
    fallback := s.hk.plaus
    lastFallback := none
    cal := [] } }
  (allTiles s).foldl (fun u x => modCal u x.1 x.2 fun _ => fresh (getCal s x.1 x.2)) s1

/-- ROLE takes effect (R334, R357): with a role, the lasers come on and the lanes train. -/
def startFabric (s : State) : State :=
  let role := field (fabCtrl s) 1 0
  if role = 0 then s
  else { s with fab := { s.fab with
    roleInForce := role
    role := role
    st := 1
    lasers := true } }

/-- Steps 7 to 9: READY, with MIN_SVN raised to the running image's SVN. -/
def startReady (s : State) (f : StartFindings) : State :=
  let s1 := restoreArrays (steerSeam s)
  let s2 := testSpare (testSpare s1 0 f.spareOk0) 1 f.spareOk1
  let s3 := s2.start.area.records.foldl restoreBolt s2
  let s4 := startCal s3 f.diode
  let s5 := modSec s4 fun a => { a with minSvn := if a.minSvn < s4.start.fwSvn then s4.start.fwSvn else a.minSvn }
  startFabric { s5 with start := { s5.start with phase := 7, findings := none } }

/-- ISLAND_ALIGN (R482, R483): a crossing's checks pass, or fail; the third failure ends the attempt. With none left, the start goes
on to READY. -/
def execIslandAlign (i : Island) (checksOk : Bool) (s : State) : Res :=
  .next (match s.start.islands.find? fun x => x.1 == i, s.start.findings with
    | some (_, n), some f =>
      if s.start.phase ≠ 4 then s
      else
        let rest := s.start.islands.filter fun x => x.1 != i
        if !checksOk && decide (n < 2) then
          { s with start := { s.start with islands := s.start.islands.map fun x => if x.1 = i then (i, n + 1) else x } }
        else
          let s1 := { s with start := { s.start with islands := rest } }
          let s2 := if checksOk then s1 else islandFails s1 i
          if rest.isEmpty then startReady s2 f else s2
    | _, _ => s)

/-! ### Steps 2 to 4 (R397, R479, R480, R486, R502) -/

/-- The copy to take: the one whose tag verifies, the higher generation when both do; true for copy B. -/
def pickCopy (okA okB : Bool) (genA genB : Word) : Option Bool :=
  if okA && okB then some (decide (genA < genB)) else if okA then some false else if okB then some true else none

/-- The next sequence number of the black box: one above the highest in a valid slot (R502). -/
def resumeSeq (b : BlackBox) : Word :=
  let tops := [b.slotA, b.slotB].filterMap fun x => if x.valid then x.recs.getLast?.map fun r => r.seq else none
  match tops with
  | [] => 0
  | [a] => a + 1
  | a :: c :: _ => if (a - c).toNat < 2 ^ 63 then a + 1 else c + 1

/-- Every block begins a full start: volatile state is gone, registers take their start values (R16), and the START record is the first
of its series. AUX, the ports' links and configuration, and the retained areas stand. -/
def freshStart (s : State) : State :=
  let s1 := { computeLost (dropHost s) with
    regs := s.regs.filter fun kv => decide (2 ^ 40 ≤ kv.1)
    counters := []
    hdrs := []
    vfs := []
    tenants := []
    sessions := []
    kv := Kv.start
    bolts := []
    ras := Ras.start
    net := Net.start
    st := SelfTest.start
    port0 := { s.port0 with pair := .absent, lastHb := none, retrains := 0, armed := true }
    port1 := { s.port1 with pair := .absent, lastHb := none, retrains := 0, armed := true } }
  let s2 := { s1 with
    sec := { s1.sec with
      debug := 0
      pufOk := true
      dataKeys := []
      grants := []
      spdm := []
      ide := []
      nonce := Config.random64 s.freeCtr
      coarsePower := 0
      coarseTemp := 0 }
    bb := { s1.bb with
      live := []
      nextSeq := resumeSeq s.bb
      epoch := 0
      locked := false
      selMgmt := BbSel.start
      selPf0 := BbSel.start
      selPf1 := BbSel.start }
    hk := { s1.hk with readings := [], warnSince := none, warned := false, stopRun := 0, lastStep := none, lastRecover := none }
    power := { s1.power with clampOpen := false, overrideOpen := false, underSince := none, slackSince := none, protection := [] }
    start := { s1.start with
      phase := 1
      limp := 0
      defaulted := false
      failDram := 0
      failKwath := 0
      failPcie := 0
      islands := []
      findings := none
      fwWaiting := []
      recAddr0 := 0
      recAddr1 := 0
      recState := 0
      recResult := 0
      recPort := 0
      recLen := 0
      restarting := false
      dirty := none } }
  bbRecord (drawFree s2) .die 0x100 [1, 0]

/-- The module stops in limp mode during its start. -/
def startStops (s : State) (cause : Nat) : State := enterLimp (startFlush s 5) cause true

/-- The security area comes into force. -/
def restoreSec (s : State) (b : Bool) : State :=
  let a := if b then s.start.secB.area else s.start.secA.area
  { s with
    start := { s.start with area := a }
    sec := { s.sec with owner := a.owner }
    fab := { s.fab with plan := a.plan } }

/-- The configuration area comes into force, or every K field takes its vendor default (R479). -/
def restoreCfg (s : State) (c : Option Bool) : State :=
  let regs := match c with | some b => (if b then s.start.cfgB.regs else s.start.cfgA.regs) | none => []
  let s1 := { s with
    regs := regs ++ s.regs
    start := { s.start with copyB := c == some true, defaulted := c.isNone } }
  let s2 := { s1 with kv := { s1.kv with buckets := (bucketRegs s1).takeWhile fun x => x.1 != 0 } }
  if c.isNone then markDirty (raiseEvent s2 .die 24 [(16, 2)]) else s2

/-- Step 3: the firmware image is verified and started, or the ROM enters recovery (R486). -/
def startFirmware (s : State) : State :=
  match (match s.start.fw with | some m => if fwFault s m = 0 then some m else none | none => none) with
  | some m =>
    let s1 := jobelStarts (runFirmware s m)
    startAdvance { s1 with start := { s1.start with phase := 3, limp := 0, recState := 0 } }
  | none =>
    let s1 := startStops s 1
    { s1 with start := { s1.start with phase := 9, recState := 1, fwVersion := 0, fwSvn := 0, fwDigest := 0 } }

/-- The root cannot be reconstructed (R397, R508). -/
def pufFails (s : State) : State :=
  let s1 := { s with
    sec := { s.sec with pufOk := false }
    bb := { s.bb with locked := true } }
  startStops (writeSig (raiseEvent s1 .sec 22 []) (SigInfo.plain 10 10 1)) 2

/-- FULL_START (R480): steps 2 to 4, with what the ROM finds; the rails follow as soon as the hot-swap output is good. -/
def execFullStart (f : StartFindings) (s : State) : Res :=
  .next (if s.start.phase ≠ 0 ∨ s.power.aux = false ∨ s.start.fwWriting.isSome = true then s
    else
      let s1 := freshStart s
      if !f.pufOk then pufFails s1
      else
        match pickCopy (secVerifies s1 f.secAOk s1.start.secA) (secVerifies s1 f.secBOk s1.start.secB) s1.start.secA.gen s1.start.secB.gen with
        | none => startStops s1 3
        | some b =>
          let s2 := { s1 with start := { s1.start with vendorOk := f.vendorOk, findings := some f } }
          if !f.vendorOk then startStops s2 3
          else startFirmware (restoreCfg (restoreSec s2 b)
            (pickCopy (cfgVerifies s2 f.cfgAOk s2.start.cfgA) (cfgVerifies s2 f.cfgBOk s2.start.cfgB) s2.start.cfgA.gen s2.start.cfgB.gen)))

/-! ### Recovery (R486, R493) -/

/-- A write of REC_CMD (R486): a PF's GO starts the recovery load while the ROM waits; during RECOVERY every other GO is dropped and
recorded. -/
def writeRecCmd (s : State) (w : Window) (off raw : Nat) (v : Word) : State :=
  gated s w .die off raw fun s =>
    if !bit v 32 || s.start.phase != 9 then s
    else
      match w, s.start.recState with
      | .pf p, 1 => { s with start := { s.start with recState := 2, recPort := p, recLen := field v 22 0 } }
      | _, _ => capture s .die 5 (winCode w) off (raw % 2 ^ 32)

/-- GO (R486). -/
def execGo (w : Window) (value : Word) (s : State) : Res := .next (writeRecCmd s w 0x618 value.toNat value)

/-- RECOVERY_LOAD_DONE (R486): the image is written and the start resumes at step 3, or the ROM keeps waiting with the reason. -/
def execRecoveryLoadDone (dma : Dma FwImage) (s : State) : Res :=
  .next (if s.start.phase ≠ 9 ∨ s.start.recState ≠ 2 then s
    else
      let wait (r : Nat) : State := { s with start := { s.start with recState := 1, recResult := r } }
      match dma with
      | .dmaError => wait 4
      | .atsFault => wait 4
      | .ok m =>
        if fwFault s m ≠ 0 then wait (fwFault s m)
        else startFirmware { s with start := { s.start with fw := some m, recState := 0, recResult := 0, limp := 0, phase := 2 } })

/-! ### Firmware load (R487) -/

/-- FW_LOAD: an image that verifies is written, after any load before it. -/
def execFwLoad (id : Nat) (image : FwImage) (s : State) : Res :=
  .next (command s id 0x30 fromPf fun s d =>
    match fwFault s image with
    | 1 => finishEntry s d 0x30 0
    | 2 => finishEntry s d 0x2E 0
    | 3 => finishEntry s d 0x2F 0
    | _ =>
      let x : FwWrite := { image := image, activate := bit d.entry.arg0 0, job := d.id }
      let s1 := startJob s d (jobOf d .firmware)
      if s1.start.fwWriting.isSome then { s1 with start := { s1.start with fwWaiting := s1.start.fwWaiting ++ [x] } }
      else { s1 with start := { s1.start with fwWriting := some x } })

/-- A management-only restart begins (R488). -/
def jobelRestart (s : State) : State :=
  let s1 := jobelStarts s
  { s1 with start := { s1.start with restarting := true, phase := 10 } }

/-- Whether Jobel's firmware runs and is not restarting. -/
def jobelRuns (s : State) : Bool := !s.start.restarting && (s.start.phase == 7 || s.start.phase == 8)

/-- FIRMWARE_WRITE_DONE: the area holds the image, FW_LOAD completes SUCCESS, a waiting load's write begins, and ACTIVATE restarts
Jobel. -/
def execFirmwareWriteDone (s : State) : Res :=
  .next (match s.start.fwWriting with
    | none => s
    | some x =>
      if s.start.restarting then s
      else
        let s1 := closeJobId { s with start := { s.start with
          fw := some x.image
          fwWriting := s.start.fwWaiting.head?
          fwWaiting := s.start.fwWaiting.drop 1 } } x.job 0 0
        if x.activate && jobelRuns s1 then jobelRestart s1 else s1)

/-! ### Management-only restart (R384, R488, R493) -/

/-- JOBEL_CMD_RESTART. -/
def execJobelCmdRestart (w : Window) (s : State) : Res :=
  .next (gated s w .jobel 0x080 1 fun s => if jobelRuns s then jobelRestart s else s)

/-- JOBEL_WATCHDOG: a second without a firmware kick flushes the black box and restarts Jobel. -/
def execJobelWatchdog (s : State) : Res := .next (if jobelRuns s then jobelRestart (startFlush s 6) else s)

/-- Jobel re-reads every unit whose generation differs from its mirror (R384). -/
def rereadMirror (s : State) : State :=
  let stale := s.hdrs.filter fun kv => mapGet 0 s.ras.mirror kv.1 != kv.2.gen
  bumpTile { s with ras := { s.ras with mirror := stale.foldl (fun m kv => mapSet 0 m kv.1 kv.2.gen) s.ras.mirror } } .die 0x568 0 stale.length

/-- A protection that acted meanwhile proceeds as its own rule states. -/
def proceed (s : State) (x : Nat × Nat) : State := if x.1 = 6 then thermalTripped s else railTripped s x.2

/-- JOBEL_RESTARTED: the firmware area's image runs, the mirror is re-read and protections that acted proceed. -/
def execJobelRestarted (s : State) : Res :=
  .next (if !s.start.restarting then s
    else
      let s1 := { s with start := { s.start with restarting := false, phase := if inLimp s then 8 else 7 } }
      let s2 := match s1.start.fw with | some m => runFirmware s1 m | none => s1
      let s3 := rereadMirror s2
      let s4 := raiseEvent (bump s3 .die 0x628) .die 26 []
      let ps := s4.power.protection
      pumpLoads (ps.foldl proceed { s4 with power := { s4.power with protection := [] } }))

/-! ### The ports' resets (R481, R489, R490) -/

/-- PERST_ASSERT (R490): the port alone is reset; its rings become FREE once their jobs have ended. -/
def execPerstAssert (port : Nat) (s : State) : Res :=
  .next (if 2 ≤ port ∨ !(getPort s port).released then s
    else
      let s1 := (lockedVfs s port).foldl (fun s v => tdiFail s port v) s
      let s2 := (portRings s1 port).foldl (fun s k => modRing s port k fun r => { r with freeing := true, waiting := [] }) s1
      let s3 := resetFn s2 port fun _ => true
      let s4 := { s3 with
        sec := { s3.sec with ide := s3.sec.ide.filter fun x => x.port != port }
        rings := s3.rings.map fun kv => if kv.1 / 4096 = port then (kv.1, { kv.2 with waiting := [] }) else kv }
      let s5 := (portRings s4 port).foldl (fun s k => settleRing s port k) s4
      modPort s5 port fun q =>
        { q with
          released := false
          up := false
          downSince := some (q.downSince.getD s.now)
          numVfs := 0
          ats := []
          cfgSpace := [] })

/-- PERST_RELEASE (R481): the port trains its link from here on. -/
def execPerstRelease (port : Nat) (s : State) : Res :=
  .next (if 2 ≤ port ∨ !s.power.aux then s else modPort s port fun q => { q with released := true })

end Sys2Proof.Machine
end

