-- ==== Sys2Proof/Machine/Registers.lean ====
section
/-! DEFINITION. A write of a register by its address (R4, R10 to R14, R427 to R437): the page and register that an address names, the
fields that a write may set and the ranges that they keep, and the write of each register that acts. -/

namespace Sys2Proof.Machine

/-! ### Addresses (R427, R428) -/

/-- What an address of a window names. Addresses below 2^32 lie in BAR0, those above in BAR2. -/
inductive Target where
  | page (p : PageId) (off : Nat)
  | ring (n off : Nat)
  | msix (port fn off : Nat)
  | nothing
  deriving DecidableEq, Repr

/-- A BAR0 address of a PF or of the management window. -/
def mapTarget (a : Nat) : Target :=
  match pageOfKey (a / 4096) with
  | some p => .page p (a % 4096)
  | none => .nothing

/-- The target of an address in a window. -/
def targetOf (w : Window) (a : Nat) : Target :=
  match w with
  | .mgmt => if a < 0x2000000 then mapTarget a else .nothing
  | .pf p =>
    if 2 ^ 32 ≤ a then (if a - 2 ^ 32 < 0x1000000 then .ring ((a - 2 ^ 32) / 4096) (a % 4096) else .nothing)
    else if 0x700000 ≤ a ∧ a < 0x710000 then .msix p 0 (a - 0x700000)
    else if a < 0x2000000 then mapTarget a else .nothing
  | .vf p v =>
    if 2 ^ 32 ≤ a then (if a - 2 ^ 32 < 0x10000 then .ring ((a - 2 ^ 32) / 4096) (a % 4096) else .nothing)
    else if a < 0x1000 then .page (.tenant p v) a
    else if 0x1000 ≤ a ∧ a < 0x1100 then .msix p v (a - 0x1000) else .nothing

/-! ### Sizes (R11) -/

/-- An aligned 64-bit or 32-bit access. -/
def sizeOk (addr size : Nat) : Bool := (size == 8 && addr % 8 == 0) || (size == 4 && addr % 4 == 0)

/-- The bits that an access addresses. -/
def accessMask (addr size : Nat) : Word := if size = 8 then BitVec.allOnes 64 else if addr % 8 = 4 then 0xFFFFFFFF00000000 else 0xFFFFFFFF

/-- The data written, at the bits that it addresses. -/
def accessValue (addr size : Nat) (value : Word) : Word :=
  if size = 8 then value else if addr % 8 = 4 then value <<< 32 else value &&& 0xFFFFFFFF

/-- What an aligned access of some size returns of a register: the whole, or the addressed half in the low bits. -/
def accessPart (addr size : Nat) (x : Word) : Word := if size = 8 then x else if addr % 8 = 4 then x >>> 32 else x &&& 0xFFFFFFFF

/-- What a read by address returns (R4, R11): the register or the half of it that an aligned access addresses, and all ones for any other
size or alignment. -/
def readAt (s : State) (w : Window) (addr size : Nat) : Word :=
  if !sizeOk addr size then BitVec.allOnes 64
  else accessPart addr size (match targetOf w addr with
    | .page p off => readReg s w p (off / 8 * 8)
    | .ring n off => readRing s w n (off / 8 * 8)
    | .msix port fn off => if windowOn s w then mapGet 0 s.regs (msixKey port fn (off / 8 * 8)) else 0
    | .nothing => 0)

/-- An access of a wrong size or alignment is recorded by its page; the host port page stands for a ring page, and for the page of an
unpowered block. -/
def sizeRecord (s : State) (w : Window) (addr raw : Nat) : State :=
  if !windowOn s w then s
  else
    match targetOf w addr with
    | .page p off =>
      if !pageExists s p then s
      else capture s (if pagePowered s p then p else .host (winPort w)) 1 (winCode w) off (raw % 2 ^ 32)
    | .ring n off => (match pageRing s w n with | some (p, k) => ringDrop s w p k off 1 | none => s)
    | _ => s

/-- The access of R11 that is neither aligned form: a write is dropped, a read returns all ones. -/
def badAccess (s : State) (w : Window) (addr : Nat) (write : Bool) (value : Word) : State :=
  let s1 := sizeRecord s w addr (if write then value.toNat else 0)
  if write then s1 else { s1 with lastRead := readAt s w addr 0 }

/-- ACCESS_SIZE_ERROR (R11). -/
def execAccessSizeError (w : Window) (addr size : Nat) (write : Bool) (value : Word) (s : State) : Res :=
  .next (if sizeOk addr size then s else badAccess s w addr write value)

/-! ### RW registers (R13) -/

/-- The bits of a die-page RW register that a write sets. -/
def dieMask (off : Nat) : Word :=
  if off = 0x088 then 0x3FF
  else if off = 0x100 then 0xFF
  else if off = 0x180 then 0x0FFFFFFF0FFFFF01
  else if off = 0x1B0 then 0x7F
  else if off = 0x200 ∨ off = 0x380 then 0x007FFFFF007FFFFF
  else if off = 0x208 then 0x7
  else if 0x220 ≤ off ∧ off ≤ 0x258 then 0x007FFFFF007FFFFF
  else if off = 0x300 then 0xFFF
  else if off = 0x320 ∨ off = 0x400 then 0xFFFFFFFF
  else if off = 0x388 then 0xFF01
  else if off = 0x390 ∨ off = 0x490 then 0x3F
  else if off = 0x480 then 0x3FFFFF03
  else if off = 0x500 then 0x0FFFFFF1
  else if off = 0x580 then 0x000FFF03
  else 0

/-- The bits of a housekeeping-page RW register that a write sets. -/
def hkMask (off : Nat) : Word :=
  if off = 0x080 then 0x0000F13FFFFFFF01
  else if off = 0x088 ∨ off = 0x090 then BitVec.allOnes 64
  else if off = 0x098 then 0xFFFF03FF
  else if off = 0x0A0 then 0xF
  else if off = 0x0B0 then 0x7F7F1F
  else if off = 0x0B8 then 0xFFFFFFFF
  else 0

/-- The bits of a stored RW register that a write sets; zero for an offset that stores nothing. -/
def rwMask (p : PageId) (off : Nat) : Word :=
  if off = 0x020 then definedEvents p else
  match p with
  | .die => dieMask off
  | .sec => if off = 0x088 then 0x3 else 0
  | .hk => hkMask off
  | .host _ => if off = 0x088 then 0x1FFF else 0
  | .panel _ => if off = 0x400 ∨ off = 0x500 then 0x1F else if off = 0x488 then 0x1FF else if off = 0x540 then 0x3FF else 0
  | _ => 0

/-- Whether a number lies between two bounds. -/
def within (lo n hi : Nat) : Bool := decide (lo ≤ n ∧ n ≤ hi)

/-- Whether some frames reach into the DRAM range of a half with a failed stack (R483). -/
def reachesFailed (s : State) (base pages : Nat) : Bool :=
  decide (0 < pages) && (List.range 2).any fun h =>
    (List.range 4).any (fun k => k / 2 == h && s.start.failDram.getLsbD k)
    && (frameHalf s base == h || frameHalf s (base + pages - 1) == h)

/-- Whether two runs of frames share a frame. -/
def runsMeet (a n b m : Nat) : Bool := decide (a < b + m ∧ b < a + n ∧ 0 < n ∧ 0 < m)

/-- KV_POOL (R177, R483). -/
def kvPoolOk (s : State) (v : Word) : Bool :=
  let base := field v 22 0
  let pages := field v 54 32
  !bit (dieReg s 0x208) 0 && decide (1024 ≤ pages ∧ base + pages ≤ dramFrames s) && !reachesFailed s base pages

/-- WT_REGION (R232, R483). -/
def wtRegionOk (s : State) (v : Word) : Bool :=
  let base := field v 22 0
  let pages := field v 54 32
  regionUsed s == 0 && decide (base + pages ≤ dramFrames s) && !runsMeet base pages (poolBase s) (poolPages s) && !reachesFailed s base pages

/-- Whether a session holds pages (R178). -/
def pagesHeld (s : State) : Bool := s.kv.ptes.any fun kv => kv.2.present

/-- The ranges of the die page's RW registers (R37, R71, R133, R177, R178, R232, R233, R330, R357, R389, R453). -/
def dieOk (s : State) (off : Nat) (v : Word) : Bool :=
  if off = 0x088 then within 1 (field v 9 0) 1000
  else if off = 0x100 then within 40 (field v 7 0) 160
  else if off = 0x180 then
    within 4 (field v 15 8) 64 && within 0 (field v 27 16) 1000 && within 100 (field v 41 32) 1000 && within 100 (field v 51 42) 1000
      && within 25 (field v 59 52) 200
  else if off = 0x200 then kvPoolOk s v
  else if off = 0x208 then bit v 0 || !bit (dieReg s 0x208) 0 || !pagesHeld s
  else if off = 0x380 then wtRegionOk s v
  else if off = 0x388 then within 1 (field v 15 8) 100
  else if off = 0x400 then (List.range 4).all fun k => field v (8 * k + 7) (8 * k) != 0
  else if off = 0x480 then
    within 0 (field v 1 0) 2 && within 5 (field v 15 8) 100 && within 1 (field v 23 16) 100 && within 24 (field v 29 24) 40
  else if off = 0x500 then within 4 (field v 7 4) 12 && within 8 (field v 15 8) 255 && within 60 (field v 27 16) 3600
  else if off = 0x580 then within 5 (field v 15 8) 100 && within 2 (field v 19 16) 8
  else true

/-- The ranges of the housekeeping page's RW registers (R474). -/
def hkOk (off : Nat) (v : Word) : Bool :=
  if off = 0x080 then
    within 4 (field v 15 8) 200 && within 4 (field v 23 16) 200 && within 4 (field v 31 24) 200
      && decide (field v 15 8 < field v 23 16 ∧ field v 23 16 < field v 31 24) && within 1 (field v 37 32) 50 && within 1 (field v 47 44) 15
  else if off = 0x088 ∨ off = 0x090 then field v 3 0 == 0
  else if off = 0x0B0 then within 8 (field v 4 0) 27 && within 1 (field v 14 8) 64 && within 1 (field v 22 16) 64
  else if off = 0x0B8 then
    within 32 (field v 7 0) 60 && within 32 (field v 15 8) 60 && within 24 (field v 23 16) 50 && within 24 (field v 31 24) 50
      && decide (field v 7 0 ≤ field v 15 8 ∧ field v 23 16 ≤ field v 31 24)
  else true

/-- Whether a page takes a value for a stored RW register. -/
def rwOk (s : State) (p : PageId) (off : Nat) (v : Word) : Bool :=
  if off = 0x020 then true else
  match p with
  | .die => dieOk s off v
  | .hk => hkOk off v
  | .panel _ =>
    if off = 0x400 ∨ off = 0x500 then within 0 (field v 4 0) 23 else if off = 0x540 then within 1 (field v 9 0) 1000 else true
  | _ => true

/-- A stored RW register is written at the addressed bits: whole, or dropped and recorded. -/
def writeStored (s : State) (w : Window) (p : PageId) (off acc : Nat) (m v : Word) (raw : Nat) : State :=
  let x := ((getReg s p off &&& ~~~m) ||| v) &&& rwMask p off
  if !rwOk s p off x then capture s p 2 (winCode w) acc (raw % 2 ^ 32)
  else
    let s1 := setReg s p off x
    if isKept p off then markDirty s1 else s1

/-! ### Registers that act -/

/-- The state that a row answers. -/
def nextOr (s : State) : Res → State
  | .next t => t
  | _ => s

/-- BLK_CTRL by its CMD (R431). -/
def writeBlkCtrl (s : State) (w : Window) (p : PageId) (v : Word) : State :=
  let g := BitVec.ofNat 32 (field v 63 32)
  match field v 2 0 with
  | 0 => s
  | 1 => nextOr s (execBlkCtrlDrain w p g s)
  | 2 => nextOr s (execResume w p g s)
  | 3 => nextOr s (execOffline w p g s)
  | 4 => nextOr s (execOnline w p g s)
  | _ => blkRefuse s w p

/-- The bits of a write that a read-modify register takes: the addressed ones new, the others as they were. -/
def merged (old m v : Word) : Word := (old &&& ~~~m) ||| v

/-- REC_ADDR (R492): each PF writes its own. -/
def writeRecAddr (s : State) (w : Window) (m v : Word) : State :=
  match w with
  | .pf p =>
    let x := merged (if p = 0 then s.start.recAddr0 else s.start.recAddr1) m v &&& ~~~(0xFFF : Word)
    { s with start := if p = 0 then { s.start with recAddr0 := x } else { s.start with recAddr1 := x } }
  | _ => s

/-- A counter clear register at an offset of a page, when bit 0 is written as 1. -/
def isClear (p : PageId) (off : Nat) : Bool := (cntRuns p).any fun r => r.2.2 == off

/-- The write-only registers of the die page. -/
def writeDie (s : State) (w : Window) (off acc : Nat) (m v : Word) (raw : Nat) : State :=
  if off = 0x188 then
    (if bit v 0 then nextOr s (execRunAll w s) else if bit v 1 then nextOr s (execRunPanel w (field v 13 8) s) else s)
  else if off = 0x218 then
    let s1 := if bit v 0 then nextOr s (execTreeRebuild w s) else s
    if bit v 1 then nextOr s1 (execBucketLoad w s1) else s1
  else if off = 0x318 then nextOr s (execTenRefill w v s)
  else if off = 0x610 then writeRecAddr s w m v
  else if off = 0x618 then writeRecCmd s w acc raw v
  else writeStored s w .die off acc m v raw

/-- The black-box page's registers. -/
def writeBb (s : State) (w : Window) (off acc : Nat) (m v : Word) (raw : Nat) : State :=
  if off = 0x020 then writeStored s w .bb off acc m v raw
  else if off = 0x080 then nextOr s (execBbEpoch w (merged s.bb.epoch m v) s)
  else if off = 0x098 then
    let s1 := if bit v 0 then nextOr s (execFlush w s) else s
    if bit v 1 then nextOr s1 (execClearStore w s1) else s1
  else if off = 0x0A0 then
    let x := merged (packReg [(0, 2, (bbSel s w).source.toNat), (8, 12, (bbSel s w).index.toNat)]) m v
    setBbSel s w { source := BitVec.ofNat 2 (field x 1 0), index := BitVec.ofNat 12 (field x 19 8) }
  else if off = 0x0C8 ∧ bit m 0 = true then nextOr s (execStCmd w v s)
  else s

/-- The host port page's registers. -/
def writeHost (s : State) (w : Window) (port off acc : Nat) (m v : Word) (raw : Nat) : State :=
  if off = 0x0A0 then (if bit m 0 then nextOr s (execRingAssign w port v s) else s)
  else if off = 0x0A8 then (if bit m 0 then nextOr s (execVfAssign w port v s) else s)
  else if off = 0x0B0 then nextOr s (execHeartbeat w port s)
  else writeStored s w (.host port) off acc m v raw

/-- The panel page's registers. -/
def writePanel (s : State) (w : Window) (p off acc : Nat) (m v : Word) (raw : Nat) : State :=
  if off = 0x430 then (if bit v 1 then nextOr s (execClearAll w p s) else if bit v 0 then nextOr s (execClearTile w p s) else s)
  else if off = 0x480 then writeNwCtrl s w p acc raw (merged (getReg s (.panel p) 0x480) m v)
  else writeStored s w (.panel p) off acc m v raw

/-- The tenant page's T_EVT_CTRL (R453). -/
def writeTenant (s : State) (w : Window) (port vf off acc : Nat) (m v : Word) (raw : Nat) : State :=
  if off = 0x0A0 then
    let old := getVf s port vf
    let x := merged (packReg [(0, 4, old.tVector.toNat), (4, 1, b2n old.tEn)]) m v
    modVf s port vf fun y => { y with tVector := BitVec.ofNat 4 (field x 3 0), tEn := bit x 4 }
  else writeStored s w (.tenant port vf) off acc m v raw

/-- A register of a page, past the gate: the common header, a clear register, or the page's own. -/
def writeReg (s : State) (w : Window) (p : PageId) (off acc : Nat) (m v : Word) (raw : Nat) : State :=
  if off = 0x010 then writeBlkCtrl s w p v
  else if off = 0x018 then nextOr s (execEvtStatusClear w p v 0 s)
  else if off = 0x028 then nextOr s (execEvtForce w p v s)
  else if off ≠ 0x430 ∧ isClear p off = true then (if bit v 0 then cntClear s w p off else s)
  else
    match p with
    | .die => writeDie s w off acc m v raw
    | .bb => writeBb s w off acc m v raw
    | .host n => if off = 0x020 then writeStored s w p off acc m v raw else writeHost s w n off acc m v raw
    | .panel i => writePanel s w i off acc m v raw
    | .tenant n k => writeTenant s w n k off acc m v raw
    | .hk => if off = 0x0D0 then (if bit v 0 then nextOr s (execRestart w s) else s) else writeStored s w p off acc m v raw
    | .jobel => if off = 0x080 then (if bit v 0 then nextOr s (execJobelCmdRestart w s) else s) else writeStored s w p off acc m v raw
    | _ => writeStored s w p off acc m v raw

/-- A write of a ring page (R436, R437). -/
def writeRing (s : State) (w : Window) (n off : Nat) (m v : Word) : State :=
  match pageRing s w n with
  | none => s
  | some (p, k) =>
    let r := getRing s p k
    if off = 0x000 then (if bit m 0 then nextOr s (execSqTail w n (field v 15 0) s) else s)
    else if off = 0x008 then (if bit m 0 then nextOr s (execCqHead w n (field v 15 0) s) else s)
    else if off = 0x010 then writeRingCfg s w n (merged r.cfg m v)
    else if off = 0x018 then writeRingBase s w n off (merged r.sqBase m v)
    else if off = 0x020 then writeRingBase s w n off (merged r.cqBase m v)
    else if off = 0x028 then writeRingBase s w n off (merged r.pasid m v)
    else s

/-- A write of a function's MSI-X table (R424, R427): the entry's words, and its mask bit. -/
def writeMsix (s : State) (port fn off : Nat) (m v : Word) : State :=
  let k := msixKey port fn (off / 8 * 8)
  let x := merged (mapGet 0 s.regs k) m v
  let s1 := { s with regs := mapSet 0 s.regs k x }
  if off / 8 % 2 = 1 ∧ bit m 32 = true then
    flushMsix (modPort s1 port fun q => { q with msixMasked := setMember q.msixMasked (fn, off / 16) (bit x 32) }) port fn (off / 16)
  else s1

/-- REGISTER_WRITE (R4, R11, R13): an aligned write acts on the half or the whole of the register that its address names, and every
other write is dropped. -/
def execRegisterWrite (w : Window) (addr size : Nat) (value : Word) (s : State) : Res :=
  .next (if !sizeOk addr size then badAccess s w addr true value
    else if !windowOn s w then s
    else
      let m := accessMask addr size
      let v := accessValue addr size value
      match targetOf w addr with
      | .page p off => gated s w p off value.toNat fun s => writeReg s w p (off / 8 * 8) off m v value.toNat
      | .ring n off => writeRing s w n (off / 8 * 8) m v
      | .msix port fn off => writeMsix s port fn off m v
      | .nothing => s)

end Sys2Proof.Machine
end

