-- ==== Sys2Proof/Machine/Dispatch.lean ====
section
/-! DEFINITION. The meaning of every command, one arm for each constructor of Instr. -/

namespace Sys2Proof.Machine

/-- The effect of a command on everything but the queue. -/
def exec (i : Instr) (s : State) : Host.Outcome State Fault Refusal :=
  match i with
  | .nop p c => Sys2Proof.Machine.execNop p c s
  | .ldi p c => Sys2Proof.Machine.execLdi p c s
  | .ldih p c => Sys2Proof.Machine.execLdih p c s
  | .addi p c => Sys2Proof.Machine.execAddi p c s
  | .add p c => Sys2Proof.Machine.execAdd p c s
  | .sub p c => Sys2Proof.Machine.execSub p c s
  | .muli p c => Sys2Proof.Machine.execMuli p c s
  | .shli p c => Sys2Proof.Machine.execShli p c s
  | .andi p c => Sys2Proof.Machine.execAndi p c s
  | .ld p c => Sys2Proof.Machine.execLd p c s
  | .ldResult p c => Sys2Proof.Machine.execLdResult p c s
  | .st p c => Sys2Proof.Machine.execSt p c s
  | .bz p c => Sys2Proof.Machine.execBz p c s
  | .bnz p c => Sys2Proof.Machine.execBnz p c s
  | .loop p c => Sys2Proof.Machine.execLoop p c s
  | .endProg p c => Sys2Proof.Machine.execEndProg p c s
  | .move p c => Sys2Proof.Machine.execMove p c s
  | .unitCommandComplete p id => Sys2Proof.Machine.execUnitCommandComplete p id s
  | .evald p c => Sys2Proof.Machine.execEvald p c s
  | .evalx p c => Sys2Proof.Machine.execEvalx p c s
  | .evalt p c => Sys2Proof.Machine.execEvalt p c s
  | .pleatStep p tile arr => Sys2Proof.Machine.execPleatStep p tile arr s
  | .bobbinAdd p tile arr => Sys2Proof.Machine.execBobbinAdd p tile arr s
  | .reductionContribution p src => Sys2Proof.Machine.execReductionContribution p src s
  | .normSample p k => Sys2Proof.Machine.execNormSample p k s
  | .bprom p c => Sys2Proof.Machine.execBprom p c s
  | .bdrain p c => Sys2Proof.Machine.execBdrain p c s
  | .redopen p c => Sys2Proof.Machine.execRedopen p c s
  | .act p c => Sys2Proof.Machine.execAct p c s
  | .cvt p c => Sys2Proof.Machine.execCvt p c s
  | .wmv p c => Sys2Proof.Machine.execWmv p c s
  | .wew p c => Sys2Proof.Machine.execWew p c s
  | .wnorm p c => Sys2Proof.Machine.execWnorm p c s
  | .wlook p c => Sys2Proof.Machine.execWlook p c s
  | .wad p c => Sys2Proof.Machine.execWad p c s
  | .attn p c => Sys2Proof.Machine.execAttn p c s
  | .remoteRun p k => Sys2Proof.Machine.execRemoteRun p k s
  | .partialFold p k => Sys2Proof.Machine.execPartialFold p k s
  | .kvw p c => Sys2Proof.Machine.execKvw p c s
  | .attb p c => Sys2Proof.Machine.execAttb p c s
  | .send p c => Sys2Proof.Machine.execSend p c s
  | .recv p c => Sys2Proof.Machine.execRecv p c s
  | .flowFlitArrive p flow => Sys2Proof.Machine.execFlowFlitArrive p flow s
  | .tack p c => Sys2Proof.Machine.execTack p c s
  | .sealw p c => Sys2Proof.Machine.execSealw p c s
  | .sample p c => Sys2Proof.Machine.execSample p c s
  | .smerge p c => Sys2Proof.Machine.execSmerge p c s
  | .fence p c => Sys2Proof.Machine.execFence p c s
  | .call p c => Sys2Proof.Machine.execCall p c s
  | .callReply p reply => Sys2Proof.Machine.execCallReply p reply s
  | .stepForm b => Sys2Proof.Machine.execStepForm b s
  | .batchTableReceive p => Sys2Proof.Machine.execBatchTableReceive p s
  | .spanBatchReceive b batch => Sys2Proof.Machine.execSpanBatchReceive b batch s
  | .rankSealReport b rank step => Sys2Proof.Machine.execRankSealReport b rank step s
  | .sealed b step => Sys2Proof.Machine.execSealed b step s
  | .recallStep b step cause => Sys2Proof.Machine.execRecallStep b step cause s
  | .recallDiscard p => Sys2Proof.Machine.execRecallDiscard p s
  | .replay b => Sys2Proof.Machine.execReplay b s
  | .jobStatusClaim job => Sys2Proof.Machine.execJobStatusClaim job s
  | .adapterSlotLoad b tenant set => Sys2Proof.Machine.execAdapterSlotLoad b tenant set s
  | .adapterSlotResident b slot => Sys2Proof.Machine.execAdapterSlotResident b slot s
  | .treeLookup session => Sys2Proof.Machine.execTreeLookup session s
  | .treePublish session range => Sys2Proof.Machine.execTreePublish session range s
  | .treeDrop node => Sys2Proof.Machine.execTreeDrop node s
  | .treeRebuild w => Sys2Proof.Machine.execTreeRebuild w s
  | .bucketLoad w => Sys2Proof.Machine.execBucketLoad w s
  | .memUncorrectable loc => Sys2Proof.Machine.execMemUncorrectable loc s
  | .dramScrub corrected bad => Sys2Proof.Machine.execDramScrub corrected bad s
  | .poisonRepaired p addr => Sys2Proof.Machine.execPoisonRepaired p addr s
  | .progRequest r => Sys2Proof.Machine.execProgRequest r s
  | .progAdmit => Sys2Proof.Machine.execProgAdmit s
  | .progQuarterStage a => Sys2Proof.Machine.execProgQuarterStage a s
  | .progRound a => Sys2Proof.Machine.execProgRound a s
  | .progComplete a gauges => Sys2Proof.Machine.execProgComplete a gauges s
  | .zeroisation a ok => Sys2Proof.Machine.execZeroisation a ok s
  | .calTileRun p tile => Sys2Proof.Machine.execCalTileRun p tile s
  | .calMeasureDone p tile => Sys2Proof.Machine.execCalMeasureDone p tile s
  | .calFitDone p tile fits => Sys2Proof.Machine.execCalFitDone p tile fits s
  | .calSwap p tile => Sys2Proof.Machine.execCalSwap p tile s
  | .calProgTimer p tile => Sys2Proof.Machine.execCalProgTimer p tile s
  | .calFallbackTick => Sys2Proof.Machine.execCalFallbackTick s
  | .runAll w => Sys2Proof.Machine.execRunAll w s
  | .runPanel w panel => Sys2Proof.Machine.execRunPanel w panel s
  | .eyeSample lane width retuned => Sys2Proof.Machine.execEyeSample lane width retuned s
  | .swatchCompare id => Sys2Proof.Machine.execSwatchCompare id s
  | .checkerRotate b => Sys2Proof.Machine.execCheckerRotate b s
  | .refereeRun id => Sys2Proof.Machine.execRefereeRun id s
  | .repairComplete u => Sys2Proof.Machine.execRepairComplete u s
  | .mgmtReadTimeout page => Sys2Proof.Machine.execMgmtReadTimeout page s
  | .creditReturn q => Sys2Proof.Machine.execCreditReturn q s
  | .creditStall q => Sys2Proof.Machine.execCreditStall q s
  | .contextWaitStall p c => Sys2Proof.Machine.execContextWaitStall p c s
  | .flitSend p dir => Sys2Proof.Machine.execFlitSend p dir s
  | .seamParity half lane => Sys2Proof.Machine.execSeamParity half lane s
  | .arbRequest r requester items class0 => Sys2Proof.Machine.execArbRequest r requester items class0 s
  | .arbItemDone r nextCredit => Sys2Proof.Machine.execArbItemDone r nextCredit s
  | .arbWatchdog r => Sys2Proof.Machine.execArbWatchdog r s
  | .kwLaneDown port lane lostLock => Sys2Proof.Machine.execKwLaneDown port lane lostLock s
  | .kwLaneRetrain port lane ok => Sys2Proof.Machine.execKwLaneRetrain port lane ok s
  | .kwFlitReceive port f => Sys2Proof.Machine.execKwFlitReceive port f s
  | .kwReplayRequest port lseq => Sys2Proof.Machine.execKwReplayRequest port lseq s
  | .fabricSend p dstRank dstPanel flow addr len => Sys2Proof.Machine.execFabricSend p dstRank dstPanel flow addr len s
  | .fabricMessageReceive m => Sys2Proof.Machine.execFabricMessageReceive m s
  | .messageAck dst vc seq => Sys2Proof.Machine.execMessageAck dst vc seq s
  | .planeDown addr plane => Sys2Proof.Machine.execPlaneDown addr plane s
  | .heartbeatSend => Sys2Proof.Machine.execHeartbeatSend s
  | .managerLost => Sys2Proof.Machine.execManagerLost s
  | .moduleLost addr => Sys2Proof.Machine.execModuleLost addr s
  | .hello m => Sys2Proof.Machine.execHello m s
  | .discWait => Sys2Proof.Machine.execDiscWait s
  | .fabricKeyReceive epoch ct => Sys2Proof.Machine.execFabricKeyReceive epoch ct s
  | .epochRequest sender => Sys2Proof.Machine.execEpochRequest sender s
  | .bcastReport bolt addr missing => Sys2Proof.Machine.execBcastReport bolt addr missing s
  | .bcastWait bolt => Sys2Proof.Machine.execBcastWait bolt s
  | .chainTimeout bolt addr => Sys2Proof.Machine.execChainTimeout bolt addr s
  | .loadChunk bolt idx c => Sys2Proof.Machine.execLoadChunk bolt idx c s
  | .sqTail w ring value => Sys2Proof.Machine.execSqTail w ring value s
  | .entryFetch port ring dma => Sys2Proof.Machine.execEntryFetch port ring dma s
  | .cqHead w ring value => Sys2Proof.Machine.execCqHead w ring value s
  | .completionPost port ring dma => Sys2Proof.Machine.execCompletionPost port ring dma s
  | .cqStall port ring => Sys2Proof.Machine.execCqStall port ring s
  | .coalTimer port ring => Sys2Proof.Machine.execCoalTimer port ring s
  | .ringEnable w ring cfg => Sys2Proof.Machine.execRingEnable w ring cfg s
  | .ringDisable w ring cfg => Sys2Proof.Machine.execRingDisable w ring cfg s
  | .ringAssign w port value => Sys2Proof.Machine.execRingAssign w port value s
  | .vfAssign w port value => Sys2Proof.Machine.execVfAssign w port value s
  | .tenantCreate id => Sys2Proof.Machine.execTenantCreate id s
  | .tenantRemove id => Sys2Proof.Machine.execTenantRemove id s
  | .boltCreate id => Sys2Proof.Machine.execBoltCreate id s
  | .boltRemove id => Sys2Proof.Machine.execBoltRemove id s
  | .boltTransfer id => Sys2Proof.Machine.execBoltTransfer id s
  | .boltAdopt id => Sys2Proof.Machine.execBoltAdopt id s
  | .sessionOpen id => Sys2Proof.Machine.execSessionOpen id s
  | .sessionClose id => Sys2Proof.Machine.execSessionClose id s
  | .generate id => Sys2Proof.Machine.execGenerate id s
  | .tune id => Sys2Proof.Machine.execTune id s
  | .abort id => Sys2Proof.Machine.execAbort id s
  | .prefixRetain id => Sys2Proof.Machine.execPrefixRetain id s
  | .prefixRelease id => Sys2Proof.Machine.execPrefixRelease id s
  | .loadStage id => Sys2Proof.Machine.execLoadStage id s
  | .loadCommit id => Sys2Proof.Machine.execLoadCommit id s
  | .loadCancel id => Sys2Proof.Machine.execLoadCancel id s
  | .loadPattern id => Sys2Proof.Machine.execLoadPattern id s
  | .unload id => Sys2Proof.Machine.execUnload id s
  | .keyInstall id => Sys2Proof.Machine.execKeyInstall id s
  | .grant id => Sys2Proof.Machine.execGrant id s
  | .revoke id => Sys2Proof.Machine.execRevoke id s
  | .claim id => Sys2Proof.Machine.execClaim id s
  | .transfer id => Sys2Proof.Machine.execTransfer id s
  | .release id => Sys2Proof.Machine.execRelease id s
  | .debugUnlock id => Sys2Proof.Machine.execDebugUnlock id s
  | .planLoad id plan => Sys2Proof.Machine.execPlanLoad id plan s
  | .sigRead id => Sys2Proof.Machine.execSigRead id s
  | .fwLoad id image => Sys2Proof.Machine.execFwLoad id image s
  | .selfTest id => Sys2Proof.Machine.execSelfTest id s
  | .bbRead id => Sys2Proof.Machine.execBbRead id s
  | .tenRefill w value => Sys2Proof.Machine.execTenRefill w value s
  | .heartbeat w port => Sys2Proof.Machine.execHeartbeat w port s
  | .heartbeatLoss port => Sys2Proof.Machine.execHeartbeatLoss port s
  | .linkChange port rate width flit up => Sys2Proof.Machine.execLinkChange port rate width flit up s
  | .flr port fn => Sys2Proof.Machine.execFlr port fn s
  | .perstAssert port => Sys2Proof.Machine.execPerstAssert port s
  | .perstRelease port => Sys2Proof.Machine.execPerstRelease port s
  | .getVersion v => Sys2Proof.Machine.execGetVersion v s
  | .getCapabilities v => Sys2Proof.Machine.execGetCapabilities v s
  | .negotiateAlgorithms v supported => Sys2Proof.Machine.execNegotiateAlgorithms v supported s
  | .getDigests v => Sys2Proof.Machine.execGetDigests v s
  | .getCertificate v slot => Sys2Proof.Machine.execGetCertificate v slot s
  | .challenge v slot nonce => Sys2Proof.Machine.execChallenge v slot nonce s
  | .getMeasurements v index => Sys2Proof.Machine.execGetMeasurements v index s
  | .keyExchange v exchange => Sys2Proof.Machine.execKeyExchange v exchange s
  | .finish v verified => Sys2Proof.Machine.execFinish v verified s
  | .keyUpdate v => Sys2Proof.Machine.execKeyUpdate v s
  | .endSession v => Sys2Proof.Machine.execEndSession v s
  | .vendorDefinedRequest v m => Sys2Proof.Machine.execVendorDefinedRequest v m s
  | .lockInterface port vf => Sys2Proof.Machine.execLockInterface port vf s
  | .stopInterface port vf => Sys2Proof.Machine.execStopInterface port vf s
  | .tdiError port vf => Sys2Proof.Machine.execTdiError port vf s
  | .kekReady => Sys2Proof.Machine.execKekReady s
  | .blkCtrlDrain w page expectGen => Sys2Proof.Machine.execBlkCtrlDrain w page expectGen s
  | .drainDone page => Sys2Proof.Machine.execDrainDone page s
  | .resume w page expectGen => Sys2Proof.Machine.execResume w page expectGen s
  | .offline w page expectGen => Sys2Proof.Machine.execOffline w page expectGen s
  | .online w page expectGen => Sys2Proof.Machine.execOnline w page expectGen s
  | .onlineCheckDone page passed => Sys2Proof.Machine.execOnlineCheckDone page passed s
  | .evtStatusClear w page value raisedNow => Sys2Proof.Machine.execEvtStatusClear w page value raisedNow s
  | .evtForce w page value => Sys2Proof.Machine.execEvtForce w page value s
  | .evtSum0Read w port => Sys2Proof.Machine.execEvtSum0Read w port s
  | .tenantEvtRead w port vf => Sys2Proof.Machine.execTenantEvtRead w port vf s
  | .errCaptureRead w page => Sys2Proof.Machine.execErrCaptureRead w page s
  | .nwLastStepRead w p => Sys2Proof.Machine.execNwLastStepRead w p s
  | .seqFaultStepRead w p => Sys2Proof.Machine.execSeqFaultStepRead w p s
  | .sigStatusRead w => Sys2Proof.Machine.execSigStatusRead w s
  | .eyeRead w => Sys2Proof.Machine.execEyeRead w s
  | .bbRdData3Read w => Sys2Proof.Machine.execBbRdData3Read w s
  | .resetEst w p value => Sys2Proof.Machine.execResetEst w p value s
  | .clearTile w p => Sys2Proof.Machine.execClearTile w p s
  | .clearAll w p => Sys2Proof.Machine.execClearAll w p s
  | .fmtCntClear w p => Sys2Proof.Machine.execFmtCntClear w p s
  | .calCntClear w => Sys2Proof.Machine.execCalCntClear w s
  | .kvCntClear w => Sys2Proof.Machine.execKvCntClear w s
  | .attCntClear w p => Sys2Proof.Machine.execAttCntClear w p s
  | .smpCntClear w p => Sys2Proof.Machine.execSmpCntClear w p s
  | .wtCntClear w => Sys2Proof.Machine.execWtCntClear w s
  | .seqCntClear w p => Sys2Proof.Machine.execSeqCntClear w p s
  | .netCntClear w page => Sys2Proof.Machine.execNetCntClear w page s
  | .fabCntClear w => Sys2Proof.Machine.execFabCntClear w s
  | .kwCntClear w port => Sys2Proof.Machine.execKwCntClear w port s
  | .rasCntClear w => Sys2Proof.Machine.execRasCntClear w s
  | .secCntClear w => Sys2Proof.Machine.execSecCntClear w s
  | .hostCntClear w port => Sys2Proof.Machine.execHostCntClear w port s
  | .hkCntClear w => Sys2Proof.Machine.execHkCntClear w s
  | .jobelRestartsClear w => Sys2Proof.Machine.execJobelRestartsClear w s
  | .registerWrite w addr size value => Sys2Proof.Machine.execRegisterWrite w addr size value s
  | .accessSizeError w addr size write value => Sys2Proof.Machine.execAccessSizeError w addr size write value s
  | .retainedCommit => Sys2Proof.Machine.execRetainedCommit s
  | .inputRise mv => Sys2Proof.Machine.execInputRise mv s
  | .hotswapClose => Sys2Proof.Machine.execHotswapClose s
  | .powerGood => Sys2Proof.Machine.execPowerGood s
  | .inputFall mv => Sys2Proof.Machine.execInputFall mv s
  | .inputOvervoltage mv => Sys2Proof.Machine.execInputOvervoltage mv s
  | .hardOvercurrent ma => Sys2Proof.Machine.execHardOvercurrent ma s
  | .railTrip rail => Sys2Proof.Machine.execRailTrip rail s
  | .governorInterval ma => Sys2Proof.Machine.execGovernorInterval ma s
  | .hkConversion hkB value => Sys2Proof.Machine.execHkConversion hkB value s
  | .hkInjected trigger values => Sys2Proof.Machine.execHkInjected trigger values s
  | .throttle => Sys2Proof.Machine.execThrottle s
  | .thermalRecover => Sys2Proof.Machine.execThermalRecover s
  | .stopSealTimeout => Sys2Proof.Machine.execStopSealTimeout s
  | .thermalTrip => Sys2Proof.Machine.execThermalTrip s
  | .autoRestart => Sys2Proof.Machine.execAutoRestart s
  | .restart w => Sys2Proof.Machine.execRestart w s
  | .fullStart f => Sys2Proof.Machine.execFullStart f s
  | .islandAlign k checksOk => Sys2Proof.Machine.execIslandAlign k checksOk s
  | .go w value => Sys2Proof.Machine.execGo w value s
  | .recoveryLoadDone dma => Sys2Proof.Machine.execRecoveryLoadDone dma s
  | .jobelCmdRestart w => Sys2Proof.Machine.execJobelCmdRestart w s
  | .jobelWatchdog => Sys2Proof.Machine.execJobelWatchdog s
  | .jobelRestarted => Sys2Proof.Machine.execJobelRestarted s
  | .bbFlush trigger => Sys2Proof.Machine.execBbFlush trigger s
  | .bbFlushed ok => Sys2Proof.Machine.execBbFlushed ok s
  | .flush w => Sys2Proof.Machine.execFlush w s
  | .clearStore w => Sys2Proof.Machine.execClearStore w s
  | .bbEpoch w value => Sys2Proof.Machine.execBbEpoch w value s
  | .stCmd w value => Sys2Proof.Machine.execStCmd w value s
  | .selfTestTargetDone signature failed => Sys2Proof.Machine.execSelfTestTargetDone signature failed s
  | .hotswapReclose mv => Sys2Proof.Machine.execHotswapReclose mv s
  | .powerLoss => Sys2Proof.Machine.execPowerLoss s
  | .uncorrectableCodeword port lane => Sys2Proof.Machine.execUncorrectableCodeword port lane s
  | .receiveBufferPost p flow addr len => Sys2Proof.Machine.execReceiveBufferPost p flow addr len s
  | .planStateReceive m => Sys2Proof.Machine.execPlanStateReceive m s
  | .firmwareWriteDone => Sys2Proof.Machine.execFirmwareWriteDone s
  | .powerCoarseWindow meanW meanDiode => Sys2Proof.Machine.execPowerCoarseWindow meanW meanDiode s
  | .configurationRequest port c => Sys2Proof.Machine.execConfigurationRequest port c s
  | .atsInvalidation port page size => Sys2Proof.Machine.execAtsInvalidation port page size s

end Sys2Proof.Machine
end

