-- ==== Sys2Proof/Machine/Step.lean ====
section
/-! DEFINITION. One step of the block: the command at the front of the queue runs; with no command waiting, a microsecond
of the R36 oscillator passes (log entry 2). -/

namespace Sys2Proof.Machine

/-- The module with its queue's front taken off. -/
def State.withPending (s : State) (q : List Instr) : State := { s with pending := q }

/-- One tick of the oscillator. -/
def tick (s : State) : State := { s with now := s.now + 1 }

/-- One step. -/
def step (s : State) : Host.Outcome State Fault Refusal :=
  match s.pending with
  | [] => .next (tick s)
  | c :: q => exec c (s.withPending q)

/-- The state with the command that a word spells in front of the queue; unchanged where the word spells none. -/
def State.withFetchWord (s : State) (nbits w : Nat) : State :=
  match decodeTableWord nbits w with
  | none => s
  | some c => s.withPending (c :: s.pending)

end Sys2Proof.Machine
end

