-- ==== Sys2Proof/Safety.lean ====
section
/-! DEFINITION. What the claims call a safe state and a safe step, in the terms of the spec: limits that the registers show, stores that
keep the last records only, and commands that always end in a next state. -/

namespace Sys2Proof.Machine

/-- The thermal limit lies where R467 and R468 move it: 8 A to 27 A. -/
def ThermalLimitOk (s : State) : Prop := 8 ≤ s.power.thermalLimit ∧ s.power.thermalLimit ≤ 27

/-- The live ring keeps the last 4,096 records (R502). -/
def LiveRingOk (s : State) : Prop := s.bb.live.length ≤ 4096

/-- Jobel keeps the last 1,024 failure signatures (R387). -/
def SignaturesOk (s : State) : Prop := s.ras.sigs.length ≤ 1024

/-- A command runs: its meaning answers a next state. -/
def Runs (c : Instr) (s : State) : Prop := ∃ t, exec c s = .next t

/-! ### Accesses of registers -/

/-- A write from a window to an offset of a page passes the gate: the page is there, the window is up, the block has its rails, and
R392 and R433 let the window write (R4, R392, R433, R491). -/
abbrev Passes (s : State) (w : Window) (p : PageId) (off : Nat) : Prop :=
  pageExists s p = true ∧ windowOn s w = true ∧ pagePowered s p = true ∧ mayWrite s w p off = true

/-- A read from a window of a page passes R392, R433 and R491. -/
abbrev Readable (s : State) (w : Window) (p : PageId) : Prop := mayRead s w p = true ∧ pagePowered s p = true

/-- What raising events may change: headers, the black box, the ports' and functions' interrupt state, and the messages sent. -/
def OnlyEvents (s t : State) : Prop :=
  t = { s with hdrs := t.hdrs, bb := t.bb, port0 := t.port0, port1 := t.port1, vfs := t.vfs, out := t.out }

/-- An event bit of a page is set. -/
abbrev Raised (s : State) (p : PageId) (n : Nat) : Prop := bit (getHdr s p).evt n = true

/-! ### Instructions of a context -/

/-- A context's next instruction is word w of opcode op and issues: the context waits for nothing and is first to issue, the fetch
lies in clean code, the format and the reserved bits are right, its registers are written and its unit has a credit (R236, R240,
R243, R244). -/
def Ready (s : State) (p c op : Nat) (h : Site) (w : Word) : Prop :=
  siteOf s p c = some h ∧ h.x.wait = .none ∧ firstToIssue s p h.e h.x = true ∧ inCode h.e h.x.pc.toNat = true
    ∧ linePoison (getPanel s p) h.x.pc.toNat = false ∧ fetchWord (getPanel s p) h.x = w ∧ opOf w = op ∧ opFormat op = some (fmtOf w)
    ∧ reservedSet op (fmtOf w) w = false ∧ regsReady h.x w = true ∧ unitFree s p op = true ∧ unitReady s p w = true

/-- A context's program counter past the instruction in hand. -/
def Ctx.advanced (x : Ctx) : Ctx := { x with pc := x.pc + 8 }

/-- The state that an issuing instruction works on: the unit's credit taken, the program counter past the instruction. -/
def issued (s : State) (p c op : Nat) : State :=
  modCtx (match opQueue p op with | some k => takeCredit s k | none => s) p c Ctx.advanced

/-- A format-2 instruction finds its descriptor: aligned, inside panel SRAM, unpoisoned, with no reserved bit set (R244, R257). -/
def DescribedBy (s : State) (p : Nat) (h : Site) (w : Word) (reserved : List Word → Bool) (d : List Word) (n : Nat) : Prop :=
  let a := (gReg h.x (g51 w) + offOf w).toNat
  a % 64 = 0 ∧ a < sramSize ∧ linePoison (getPanel s p) a = false ∧ d = descWords (getPanel s p) a ∧ reserved d = false
    ∧ n = if g47 w = 0 then 1 else (gReg h.x (g47 w)).toNat

/-- The row of a context's instruction with an opcode (R245); none for a reserved opcode. -/
def rowOfOpcode (p c op : Nat) : Option Instr :=
  match op with
  | 0x00 => some (.nop p c) | 0x01 => some (.ldi p c) | 0x02 => some (.ldih p c) | 0x03 => some (.addi p c)
  | 0x04 => some (.add p c) | 0x05 => some (.sub p c) | 0x06 => some (.muli p c) | 0x07 => some (.shli p c)
  | 0x08 => some (.andi p c) | 0x09 => some (.ld p c) | 0x0A => some (.st p c) | 0x0B => some (.bz p c)
  | 0x0C => some (.bnz p c) | 0x0D => some (.loop p c) | 0x0F => some (.endProg p c) | 0x10 => some (.move p c)
  | 0x20 => some (.evald p c) | 0x21 => some (.evalx p c) | 0x22 => some (.evalt p c) | 0x28 => some (.bprom p c)
  | 0x29 => some (.bdrain p c) | 0x2C => some (.redopen p c) | 0x30 => some (.act p c) | 0x31 => some (.cvt p c)
  | 0x38 => some (.wmv p c) | 0x39 => some (.wew p c) | 0x3A => some (.wnorm p c) | 0x3B => some (.wlook p c)
  | 0x3C => some (.wad p c) | 0x40 => some (.attn p c) | 0x41 => some (.kvw p c) | 0x42 => some (.attb p c)
  | 0x48 => some (.send p c) | 0x49 => some (.recv p c) | 0x50 => some (.tack p c) | 0x51 => some (.sealw p c)
  | 0x58 => some (.sample p c) | 0x59 => some (.smerge p c) | 0x60 => some (.fence p c) | 0x61 => some (.call p c)
  | _ => none

/-- The lead of rank 0 tells the lead of every other rank something about a step (R369, R370, R372). -/
def tellRanks (s : State) (nw : Nat) (b : Bolt) (kind : Nat) (step : Word) : State :=
  (List.range (b.ranks - 1)).foldl (fun s r =>
    match addrOfRank s (r + 1) with | some a => sendMsg s (halfOf nw) a 1 (natLe 1 kind ++ natLe 8 step.toNat) | none => s) s

/-! ### Commands of rings -/

/-- A dispatched entry is a command that runs now: it carries the command's opcode, no management-only restart or limp mode holds it, and
its function may submit it (R440, R447, R488, R492). -/
def Admitted (s : State) (id op : Nat) (may : State → Dispatched → Bool) (d : Dispatched) : Prop :=
  s.dispatched.find? (fun x => x.id == id) = some d ∧ d.entry.opcode = op ∧ ¬(s.start.restarting = true ∧ jobelOpcode op = true)
    ∧ ¬(s.start.limp ≠ 0 ∧ limpOpcode op = false) ∧ may s d = true

/-- The commands of R440 with their opcodes and the functions that may submit them (R440, R447). -/
def commandRows (id : Nat) (plan : Plan) (image : FwImage) : List (Instr × Nat × (State → Dispatched → Bool)) :=
  [(.tenantCreate id, 0x01, fromPf), (.tenantRemove id, 0x02, fromPf), (.boltCreate id, 0x03, fromPf), (.boltRemove id, 0x04, fromOwner),
   (.boltTransfer id, 0x05, fromOwner), (.boltAdopt id, 0x06, fromPf), (.sessionOpen id, 0x08, fromOwnerVf),
   (.sessionClose id, 0x09, fromSession), (.generate id, 0x0A, fromSession), (.tune id, 0x0B, fromOwnerVf),
   (.prefixRetain id, 0x0D, fromSession), (.prefixRelease id, 0x0E, fromSession), (.loadStage id, 0x10, stageFrom),
   (.loadCommit id, 0x11, fromOwner), (.loadCancel id, 0x12, fromOwner), (.loadPattern id, 0x13, fromOwner), (.unload id, 0x14, fromOwner)]
  ++ [(.keyInstall id, 0x18, fromKey), (.grant id, 0x19, fromOwnerVf), (.revoke id, 0x1A, fromOwnerVf), (.claim id, 0x20, fromPf),
   (.transfer id, 0x21, fromPf), (.release id, 0x22, fromPf), (.debugUnlock id, 0x23, fromPf), (.planLoad id plan, 0x24, fromPf),
   (.sigRead id, 0x28, fromPf), (.fwLoad id image, 0x30, fromPf), (.selfTest id, 0x31, fromPf), (.bbRead id, 0x32, fromPf)]

end Sys2Proof.Machine
end

