-- ==== Sys2Proof/Certificates/Slice0/Obligations.lean ====
section
/-! DEFINITION. What is claimed of the model: statements for the provers, family by family, from the numbered rules of the spec. -/

open Sys2Proof Sys2Proof.Machine

/-! ### The block and its queue -/

/-- A step runs the command at the front of the queue with the queue's rest (the block's own step rule). With no command waiting, one
microsecond of the R36 oscillator passes and nothing else changes (DESIGN CHOICE, log entry 2). -/
def Obligations.StepsRunTheQueue : Prop :=
  (∀ (s : State) (c : Instr) (q : List Instr), s.pending = c :: q → step s = exec c (s.withPending q))
  ∧ (∀ s : State, s.pending = [] → step s = .next { s with now := s.now + 1 })

/-- No command stops the module: every one answers a next state. No command touches the queue of commands that wait behind it. -/
def Obligations.EveryCommandAnswersAndLeavesTheQueue : Prop := ∀ (c : Instr) (s : State), ∃ t, exec c s = .next t ∧ t.pending = s.pending

/-! ### The sequencer's own instructions -/

/-- R246: what NOP, LDI, LDIH, ADDI, ADD, SUB, MULI, SHLI and ANDI write to g[GD] of their context, with the program counter past the
instruction, and nothing else; a write of g0 is ignored (R239). R239, R246: a context's registers after a scalar write: the written one
holds the value, g0 reads as zero whatever is written to it, every other register is as before. -/
def Obligations.ScalarInstructionsWriteTheirRegister : Prop :=
  (∀ (s : State) (p c : Nat) (h : Site) (w : Word),
    (Ready s p c 0x00 h w → exec (.nop p c) s = .next (modCtx s p c Ctx.advanced))
    ∧ (Ready s p c 0x01 h w → exec (.ldi p c) s = .next (modCtx s p c fun x => gSet x.advanced (g51 w) ((w.setWidth 32).signExtend 64)))
    ∧ (Ready s p c 0x02 h w → exec (.ldih p c) s = .next (modCtx s p c fun x =>
        gSet x.advanced (g51 w) ((w <<< 32) ||| (gReg h.x (g51 w) &&& 0xFFFFFFFF))))
    ∧ (Ready s p c 0x03 h w → exec (.addi p c) s = .next (modCtx s p c fun x =>
        gSet x.advanced (g51 w) (gReg h.x (g47 w) + (w.setWidth 32).signExtend 64)))
    ∧ (Ready s p c 0x04 h w → exec (.add p c) s = .next (modCtx s p c fun x =>
        gSet x.advanced (g51 w) (gReg h.x (g47 w) + gReg h.x (g43 w))))
    ∧ (Ready s p c 0x05 h w → exec (.sub p c) s = .next (modCtx s p c fun x =>
        gSet x.advanced (g51 w) (gReg h.x (g47 w) - gReg h.x (g43 w))))
    ∧ (Ready s p c 0x06 h w → exec (.muli p c) s = .next (modCtx s p c fun x =>
        gSet x.advanced (g51 w) (gReg h.x (g47 w) * (w.setWidth 32).signExtend 64)))
    ∧ (Ready s p c 0x07 h w → exec (.shli p c) s = .next (modCtx s p c fun x =>
        gSet x.advanced (g51 w) (gReg h.x (g47 w) <<< (field w 5 0))))
    ∧ (Ready s p c 0x08 h w → exec (.andi p c) s = .next (modCtx s p c fun x =>
        gSet x.advanced (g51 w) (gReg h.x (g47 w) &&& (w.setWidth 32).signExtend 64))))
  ∧ (∀ (x : Ctx) (n m : Nat) (v : Word),
    gReg (gSet x n v) m = if m = 0 then 0 else if m = n then v else gReg x m)

/-- R246: BZ, BNZ and LOOP: the program counter takes the target when the branch is taken and the target is code, else the next
instruction; LOOP decrements its register. A taken branch out of the code region is the RANGE fault 0x04 at the branch. -/
def Obligations.BranchesMoveTheProgramCounter : Prop :=
  ∀ (s : State) (p c : Nat) (h : Site) (w : Word),
    let a := gReg h.x (g47 w)
    let target := ((h.x.pc.setWidth 64) + 8 * (w.setWidth 32).signExtend 64).toNat
    let jump := fun (x : Ctx) => { x with pc := BitVec.ofNat 24 target }
    let v := if g47 w = 0 then 0 else a - 1
    (Ready s p c 0x0B h w → exec (.bz p c) s = .next
        (if a ≠ 0 then modCtx s p c Ctx.advanced
         else if inCode h.e target then modCtx s p c jump else patternFault s p c 0x04 h.x.pc.toNat 0x0B))
    ∧ (Ready s p c 0x0C h w → exec (.bnz p c) s = .next
        (if a = 0 then modCtx s p c Ctx.advanced
         else if inCode h.e target then modCtx s p c jump else patternFault s p c 0x04 h.x.pc.toNat 0x0C))
    ∧ (Ready s p c 0x0D h w → exec (.loop p c) s = .next
        (if v = 0 then modCtx s p c (fun x => gSet x.advanced (g47 w) v)
         else if inCode h.e target then modCtx s p c (fun x => { gSet x.advanced (g47 w) v with pc := BitVec.ofNat 24 target })
         else patternFault s p c 0x04 h.x.pc.toNat 0x0D))

/-- R246, R240: LD reads eight bytes at issue and its result waits for LD_RESULT, which writes the register; ST writes eight bytes. An
address that is no multiple of 8 is fault 0x03 and one past panel SRAM fault 0x04. R10, R239, R246, R413: ST stores its eight bytes,
little-endian, at g[GA] + IMM and no other byte of any panel, where the line's tag lets it; the instructions that write a register alone
store nothing. -/
def Obligations.LoadsAndStoresOfAContext : Prop :=
  (∀ (s : State) (p c : Nat) (h : Site) (w : Word),
    let a := (gReg h.x (g47 w) + (w.setWidth 32).signExtend 64).toNat
    (Ready s p c 0x09 h w → exec (.ld p c) s = .next
        (if a % 8 ≠ 0 then patternFault s p c 0x03 h.x.pc.toNat 0x09
         else if 0x1000000 ≤ a then patternFault s p c 0x04 h.x.pc.toNat 0x09
         else
           let r := readSram (issued s p c 0x09) h none a 8
           modCtx r.1 p c fun x => { x with loads := x.loads ++ [(g51 w, BitVec.ofNat 64 (leNat r.2.bytes), r.2.mark.poison && !r.2.violation)] }))
    ∧ (Ready s p c 0x0A h w → exec (.st p c) s = .next
        (if a % 8 ≠ 0 then patternFault s p c 0x03 h.x.pc.toNat 0x0A
         else if 0x1000000 ≤ a then patternFault s p c 0x04 h.x.pc.toNat 0x0A
         else writeSram (issued s p c 0x0A) h none a [(natLe 8 (gReg h.x (g43 w)).toNat, LineMark.clean)]))
    ∧ (∀ r v bad rest, siteOf s p c = some h → h.x.loads = (r, v, bad) :: rest → exec (.ldResult p c) s = .next
        (let t := modCtx s p c fun x => gSet { x with loads := rest } r v
         settleCtx (if bad then claimAll t (jobsOfSteps t (h.b.steps.filter fun k => k.seq == h.x.step)) 0x14 else t) p c)))
  ∧ (∀ (s : State) (p c : Nat) (h : Site) (w : Word),
    (let a := (gReg h.x (g47 w) + (w.setWidth 32).signExtend 64).toNat
     Ready s p c 0x0A h w → a % 8 = 0 → a < 0x1000000 → sramViolates (getPanel s p) h.ctx a 8 = false →
     ∃ t, exec (.st p c) s = .next t
       ∧ memBytes (getPanel t p).sram a 8 = natLe 8 (gReg h.x (g43 w)).toNat
       ∧ (∀ x, x < a ∨ a + 8 ≤ x → memByte (getPanel t p).sram x = memByte (getPanel s p).sram x)
       ∧ (∀ q, q ≠ p → getPanel t q = getPanel s q)
       ∧ t.hdrs = s.hdrs ∧ t.regs = s.regs ∧ t.bolts = s.bolts ∧ t.jobs = s.jobs)
    ∧ (∀ op i t, op ≤ 0x08 → rowOfOpcode p c op = some i → Ready s p c op h w → exec i s = .next t →
      (∀ q x, memByte (getPanel t q).sram x = memByte (getPanel s q).sram x) ∧ t.hdrs = s.hdrs ∧ t.regs = s.regs ∧ t.bolts = s.bolts ∧ t.jobs = s.jobs))

/-- R242, R245, R275, R278, R279: END, SEALW and FENCE make their context wait, CALL puts a call to the panel's core and the reply is
written to g[GD]; a command whose work is done leaves its context's tracker. -/
def Obligations.ControlInstructionsSetTheWait : Prop :=
  ∀ (s : State) (p c : Nat) (h : Site) (w : Word),
    (Ready s p c 0x0F h w → exec (.endProg p c) s = .next
        (settleCtx (modCtx s p c fun x => { x.advanced with wait := .ended }) p c))
    ∧ (Ready s p c 0x60 h w → exec (.fence p c) s = .next
        (settleCtx (modCtx s p c fun x =>
          { x.advanced with wait := .fence (field w 31 0), since := s.now + creditLimit s (some p), stalled := false }) p c))
    ∧ (Ready s p c 0x51 h w → h.x.tail = true → exec (.sealw p c) s = .next (modCtx s p c Ctx.advanced))
    ∧ (Ready s p c 0x51 h w → h.x.tail = false → exec (.sealw p c) s = .next
        (let t := modCtx s p c fun x =>
          { x.advanced with wait := .sealw, since := s.now + creditLimit s (some p), stalled := false, reported := true }
         if h.x.reported then t else reportPart t h.nw p h.x.step))
    ∧ (Ready s p c 0x61 h w → ∃ t, exec (.call p c) s = .next t
        ∧ (getPanel t p).calls = (getPanel s p).calls ++
            [{ ctx := c, step := h.x.step, fn := field w 15 0, arg := gReg h.x (g47 w), gd := g51 w, cmd := (getPanel s p).nextCmd }]
        ∧ usedCredits t (.coreCall p) = usedCredits s (.coreCall p) + 1 ∧ t.hdrs = s.hdrs ∧ t.regs = s.regs ∧ t.bolts = s.bolts)
    ∧ (∀ k rest reply, (getPanel s p).calls = k :: rest → exec (.callReply p reply) s = .next
        (settleCtx (modCtx (modPanel s p fun q => { q with calls := rest }) p k.ctx fun x =>
          gSet { x with calls := x.calls.erase k.gd, cmds := x.cmds.filter fun y => y.id != k.cmd } k.gd reply) p k.ctx))
    ∧ (∀ id x, (getPanel s p).ctxs.find? (fun x => x.cmds.any fun k => k.id == id && k.left == 0) = some x →
        exec (.unitCommandComplete p id) s = .next
          (settleCtx (modCtx s p x.slot fun x => { x with cmds := x.cmds.filter fun k => k.id != id }) p x.slot))

/-- R236, R243 to R246, R280, R381: whichever row the sequencer runs for a context that is first to issue, a fetch outside the code region
is fault 0x04 at the address fetched, a poisoned line stops the context's step, a reserved opcode is fault 0x01, and the row's own opcode
with a wrong format field or a reserved bit set is fault 0x02. R31, R32, R240: an instruction that is right and has its registers but
finds a queue that it sends through without a credit issues nothing: only the sender's wait on the first such queue begins; one that still
waits for a register, or whose unit has a foreign run before it (log entry 239), changes nothing. -/
def Obligations.BadFetchesAndMissingCreditsDoNotIssue : Prop :=
  (∀ (s : State) (p c op : Nat) (i : Instr) (h : Site), rowOfOpcode p c op = some i →
    siteOf s p c = some h → h.x.wait = .none → firstToIssue s p h.e h.x = true →
    let w := fetchWord (getPanel s p) h.x
    let pc := h.x.pc.toNat
    (inCode h.e pc = false → exec i s = .next (patternFault s p c 0x04 pc 0))
    ∧ (inCode h.e pc = true → linePoison (getPanel s p) pc = true → exec i s = .next (poisonStop s p c (pc / 64)))
    ∧ (inCode h.e pc = true → linePoison (getPanel s p) pc = false →
        (opFormat (opOf w) = none → exec i s = .next (patternFault s p c 0x01 pc (opOf w)))
        ∧ (∀ f, opOf w = op → opFormat op = some f → (fmtOf w ≠ f ∨ reservedSet op f w = true) →
            exec i s = .next (patternFault s p c 0x02 pc op))))
  ∧ (∀ (s : State) (p c op : Nat) (i : Instr) (h : Site), rowOfOpcode p c op = some i →
    siteOf s p c = some h → h.x.wait = .none → firstToIssue s p h.e h.x = true →
    inCode h.e h.x.pc.toNat = true → linePoison (getPanel s p) h.x.pc.toNat = false →
    let w := fetchWord (getPanel s p) h.x
    opOf w = op → opFormat op = some (fmtOf w) → reservedSet op (fmtOf w) w = false →
    ((regsReady h.x w = false ∨ unitFree s p op = false) → exec i s = .next s)
    ∧ (∀ k, regsReady h.x w = true → unitFree s p op = true → (opQueues s p op).find? (fun q => !creditFree s q) = some k →
        exec i s = .next (beginWait s k)))

/-! ### Instructions for the units -/

/-- R248 to R251: a ready evaluation with a sound descriptor sends one command to the hem of each of its blocks; a replay that reaches the
layer under re-execution goes to the layer's exact-mode shadow instead (R107); an unsound descriptor is the pattern fault that R251 and
R280 name. One with a block in the DRAM tier needs a credit of the wide lane too, and waits for it (R32, R221, R278). -/
def Obligations.EvaluationsStart : Prop :=
  ∀ (s : State) (p c : Nat) (h : Site) (w : Word) (d : List Word) (n : Nat),
    DescribedBy s p h w evalReserved d n →
    let answer := fun (op mode : Nat) =>
      match evalFault (issued s p c op) h mode n d with
      | some e => patternFault s p c e h.x.pc.toNat op
      | none =>
        if evalTier h d = true ∧ creditFree (issued s p c op) (.unitCmd p .wide) = false then beginWait s (.unitCmd p .wide)
        else match shadowAt h mode d with
        | some a => modCtx (giveCredit (issued s p c op) (.unitCmd p .hem) 1) p c fun x => { x with pc := BitVec.ofNat 24 a }
        | none => evalStart (issued s p c op) h mode n d
    (Ready s p c 0x20 h w → exec (.evald p c) s = .next (answer 0x20 0))
    ∧ (Ready s p c 0x21 h w → exec (.evalx p c) s = .next (answer 0x21 1))
    ∧ (Ready s p c 0x22 h w → exec (.evalt p c) s = .next (answer 0x22 2))

/-- R258 to R265: ACT, CVT, WMV, WEW, WNORM, WLOOK and WAD on sound operands enter their unit's queue and work on their vectors one after
the other, each with the instruction's own function; unsound operands are the pattern fault that the rules name first. -/
def Obligations.VectorInstructionsRunVectorByVector : Prop :=
  ∀ (s : State) (p c : Nat) (h : Site) (w : Word) (d : List Word) (n : Nat),
    DescribedBy s p h w vecReserved d n →
    let answer := fun (op : Nat) (faults : Site → VecDesc → Nat → List (Option Nat)) (one : State → Site → VecDesc → Nat → State) =>
      match firstFault (faults h (vecDesc d) n) with
      | some e => patternFault s p c e h.x.pc.toNat op
      | none => (List.range n).foldl (fun t i => one t h (vecDesc d) i) (enterCmd (issued s p c op) p c op 0)
    (Ready s p c 0x30 h w → exec (.act p c) s = .next (answer 0x30 actFaults actOne))
    ∧ (Ready s p c 0x31 h w → exec (.cvt p c) s = .next (answer 0x31 cvtFaults cvtOne))
    ∧ (Ready s p c 0x38 h w → exec (.wmv p c) s = .next (answer 0x38 wmvFaults wmvOne))
    ∧ (Ready s p c 0x39 h w → exec (.wew p c) s = .next (answer 0x39 wewFaults wewOne))
    ∧ (Ready s p c 0x3A h w → exec (.wnorm p c) s = .next (answer 0x3A wnormFaults wnormOne))
    ∧ (Ready s p c 0x3B h w → exec (.wlook p c) s = .next (answer 0x3B wlookFaults wlookOne))
    ∧ (Ready s p c 0x3C h w → exec (.wad p c) s = .next (answer 0x3C wadFaults wadOne))

/-- R138, R155, R268, R270, R276, R277: ATTN, KVW, ATTB, SAMPLE and SMERGE on sound operands do their rows' work; a range of the KV store
that was never written is fault 0x0C (R162), and unsound operands the fault that the rules name first. -/
def Obligations.RowInstructionsRunRowByRow : Prop :=
  ∀ (s : State) (p c : Nat) (h : Site) (w : Word) (d : List Word) (n : Nat),
    let attend := fun (op : Nat) (faults : Site → AttDesc → Nat → List (Option Nat)) (run : State → Site → AttDesc → Nat → State × Bool) =>
      match firstFault (faults h (attDesc d) n) with
      | some e => patternFault s p c e h.x.pc.toNat op
      | none =>
        if (run (issued s p c op) h (attDesc d) n).2 then patternFault s p c 0x0C h.x.pc.toNat op
        else (run (issued s p c op) h (attDesc d) n).1
    (DescribedBy s p h w attReserved d n →
      (Ready s p c 0x40 h w → exec (.attn p c) s = .next (attend 0x40 attnFaults attnRun))
      ∧ (Ready s p c 0x41 h w → exec (.kvw p c) s = .next (attend 0x41 kvwFaults kvwRun))
      ∧ (Ready s p c 0x42 h w → exec (.attb p c) s = .next (attend 0x42 attbFaults attbRun)))
    ∧ (DescribedBy s p h w vecReserved d n →
      (Ready s p c 0x58 h w → firstFault (sampleFaults h (vecDesc d) n) = none → exec (.sample p c) s = .next
        (settleMerges ((List.range n).foldl (fun t i => sampleRow t h (vecDesc d) i) (enterCmd (issued s p c 0x58) p c 0x58 0)) h.nw))
      ∧ (Ready s p c 0x59 h w → firstFault (smergeFaults h (vecDesc d) n) = none → exec (.smerge p c) s = .next
        (smergeRun (issued s p c 0x59) h (vecDesc d) n)))

/-- R247, R253 to R255, R271 to R273: MOVE, TACK, BPROM, BDRAIN, REDOPEN, SEND and RECV on sound operands. -/
def Obligations.MovesMessagesAndReductionsStart : Prop :=
  ∀ (s : State) (p c : Nat) (h : Site) (w : Word),
    (Ready s p c 0x10 h w → moveFault h w = none → exec (.move p c) s = .next
      (moveRun (enterCmd (issued s p c 0x10) p c 0x10 0) h w))
    ∧ (Ready s p c 0x50 h w → tackFault h w = none → exec (.tack p c) s = .next
      (tackRun (enterCmd (issued s p c 0x50) p c 0x50 0) h w))
    ∧ (Ready s p c 0x28 h w → (∀ x ∈ rangeSites h w, x ≠ none) → exec (.bprom p c) s = .next
      ((rangeSites h w).foldl (fun t x => promoteBlock (getPanel s p).nextCmd h.x.step h.b.gen t p x)
        (enterCmd (issued s p c 0x28) p c 0x28 (promoteCount s p (rangeSites h w)))))
    ∧ (Ready s p c 0x29 h w → (∀ x ∈ rangeSites h w, willHoldAt s p x ≠ none) → exec (.bdrain p c) s = .next
      ((rangeSites h w).foldl (fun t x => drainBlock (getPanel s p).nextCmd t p x)
        (enterCmd (issued s p c 0x29) p c 0x29 (drainCount s p (rangeSites h w)))))
    ∧ (∀ d n, Ready s p c 0x2C h w → DescribedBy s p h w redReserved d n → redFault s p w d = none →
        exec (.redopen p c) s = .next (redOpen (issued s p c 0x2C) h d))
    ∧ (∀ f, Ready s p c 0x48 h w → instrFlow h w = some f → sendFault h w f = none →
        exec (.send p c) s = .next (sendRun (issued s p c 0x48) h w f))
    ∧ (∀ f, Ready s p c 0x49 h w → instrFlow h w = some f → recvFault h w = none →
        exec (.recv p c) s = .next (recvRun (issued s p c 0x49) h w f))

/-- R246, R247, R271 to R273, R280: the pattern faults of MOVE, TACK, BPROM, BDRAIN, REDOPEN, SEND, RECV, SAMPLE and SMERGE: the first
rule that an operand breaks, and the instruction reaches no unit. -/
def Obligations.UnsoundOperandsAreFaults : Prop :=
  ∀ (s : State) (p c : Nat) (h : Site) (w : Word) (e : Nat),
    let fault := fun (code op : Nat) => (.next (patternFault s p c code h.x.pc.toNat op) : Res)
    (Ready s p c 0x10 h w → moveFault h w = some e → exec (.move p c) s = fault e 0x10)
    ∧ (Ready s p c 0x50 h w → tackFault h w = some e → exec (.tack p c) s = fault e 0x50)
    ∧ (Ready s p c 0x28 h w → none ∈ rangeSites h w → exec (.bprom p c) s = fault 0x08 0x28)
    ∧ (Ready s p c 0x29 h w → none ∈ rangeSites h w → exec (.bdrain p c) s = fault 0x08 0x29)
    ∧ (Ready s p c 0x29 h w → none ∉ rangeSites h w → (∃ x ∈ rangeSites h w, willHoldAt s p x = none) → exec (.bdrain p c) s = fault 0x06 0x29)
    ∧ (∀ d n, Ready s p c 0x2C h w → DescribedBy s p h w redReserved d n → redFault s p w d = some e → exec (.redopen p c) s = fault e 0x2C)
    ∧ (Ready s p c 0x48 h w → instrFlow h w = none → exec (.send p c) s = fault 0x0D 0x48)
    ∧ (∀ f, Ready s p c 0x48 h w → instrFlow h w = some f → sendFault h w f = some e → exec (.send p c) s = fault e 0x48)
    ∧ (Ready s p c 0x49 h w → instrFlow h w = none → exec (.recv p c) s = fault 0x0D 0x49)
    ∧ (∀ f, Ready s p c 0x49 h w → instrFlow h w = some f → recvFault h w = some e → exec (.recv p c) s = fault e 0x49)
    ∧ (∀ d n, DescribedBy s p h w vecReserved d n →
        (Ready s p c 0x58 h w → firstFault (sampleFaults h (vecDesc d) n) = some e → exec (.sample p c) s = fault e 0x58)
        ∧ (Ready s p c 0x59 h w → firstFault (smergeFaults h (vecDesc d) n) = some e → exec (.smerge p c) s = fault e 0x59))
    ∧ (e = (if (gReg h.x (g51 w) + offOf w).toNat % 64 ≠ 0 then 0x03 else 0x04) →
        ((gReg h.x (g51 w) + offOf w).toNat % 64 ≠ 0 ∨ 0x1000000 ≤ (gReg h.x (g51 w) + offOf w).toNat) →
        ∀ op i, opFormat op = some 2 → rowOfOpcode p c op = some i → Ready s p c op h w → exec i s = fault e op)

/-! ### Hems, bobbins, reduction, norm watch, attention and messages at work -/

/-- R44, R46, R94, R96, R253, R254: a step whose digits are in the tile input buffer runs on its programmed array; a pleat whose digits are
not there yet loads them first, with its lines' credits, and waits while the buffer has none. A position that has failed, or whose
programming has, releases its step poisoned. BOBBIN_ADD takes the oldest result: its lanes add it, and at the end of the block's last pleat
they drain as contributions; a promotion or a drain that waited behind the evaluations runs in its turn. R31, R44, R46, R122, R297: a step
changes nothing while two results wait at its bobbin, while its tile is measured at a pleat boundary, and, with its digits in the buffer,
while its array is not programmed; a bobbin whose last drain has no credit yet adds nothing. -/
def Obligations.PleatsStepWaitAndBobbinsAdd : Prop :=
  (∀ (s : State) (p tile arr : Nat),
    let m := getHem s p tile arr
    let x := getArr s (physArr s p tile arr)
    let failed := s.arrays.failedPos.contains (posKey p tile arr) = true ∨ m.released = true
    (∀ j rest, m.jobs = j :: rest → m.results.length < 2 → j.mode ≤ 2 → (j.phase ≠ 0 ∨ calHolds s p tile = false) →
      (failed → exec (.pleatStep p tile arr) s = .next (releaseStep s p tile arr j))
      ∧ (∀ pin lines, ¬ failed → m.buf = some (pin, lines) → x.st = .programmed →
          exec (.pleatStep p tile arr) s = .next (runPleat s p tile arr j pin))
      ∧ (¬ failed → m.buf = none → creditsFree s (.tileIn p tile) (linesOfPleat j) = true → x.st = .programmed →
          exec (.pleatStep p tile arr) s = .next (runPleat (loadPleat s p tile arr j) p tile arr j (pleatOf s p j)))
      ∧ (¬ failed → m.buf = none → creditsFree s (.tileIn p tile) (linesOfPleat j) = true → x.st ≠ .programmed →
          exec (.pleatStep p tile arr) s = .next (loadPleat s p tile arr j))
      ∧ (¬ failed → m.buf = none → creditsFree s (.tileIn p tile) (linesOfPleat j) = false →
          exec (.pleatStep p tile arr) s = .next (beginWait s (.tileIn p tile))))
    ∧ (∀ r rest, drainsWait s p tile arr = false → m.results = r :: rest → exec (.bobbinAdd p tile arr) s = .next
        (let t := modHem s p tile arr fun m => { (if m.holding.isSome then { m with holding := none } else m).take r with results := rest }
         let u := if r.endSel = false then t
           else if r.job.lastPleat = r.job.finalPleat then drainArr t p tile arr r.job
           else modHem t p tile arr fun m => { m with holding := some r.job }
         if r.last then decCmd u p r.job.cmd 1 else u))
    ∧ (∀ j rest, drainsWait s p tile arr = false → m.results = [] → m.jobs = j :: rest →
        (j.mode = 4 → exec (.bobbinAdd p tile arr) s = .next
          (decCmd (modHem s p tile arr fun m => { m.promote with jobs := rest }) p j.cmd 1))
        ∧ (∀ k, j.mode = 3 → m.holding = some k → exec (.bobbinAdd p tile arr) s = .next
          (drainArr (modHem s p tile arr fun m => { m with jobs := rest, holding := none }) p tile arr { k with cmd := j.cmd }))))
  ∧ (∀ (s : State) (p tile arr : Nat), drainsWait s p tile arr = true → exec (.bobbinAdd p tile arr) s = .next s)
  ∧ (∀ (s : State) (p tile arr : Nat) (j : EvalJob) (rest : List EvalJob), (getHem s p tile arr).jobs = j :: rest →
    (2 ≤ (getHem s p tile arr).results.length ∨ (j.phase = 0 ∧ calHolds s p tile = true)
      ∨ (s.arrays.failedPos.contains (posKey p tile arr) = false ∧ (getHem s p tile arr).released = false
          ∧ (getHem s p tile arr).buf.isSome = true ∧ (getArr s (physArr s p tile arr)).st ≠ .programmed)) →
    exec (.pleatStep p tile arr) s = .next s)

/-- R94: the runs of a bobbin stay within 20 bits: with every run between -524,288 and 524,287, and no run where none is open, a result
whose values lie in that range leaves every run in it. R88, R94: a result marked zero starts no run, promotes nothing and changes no
lane's numbers: only its marks enter. -/
def Obligations.RunsStayWithinTwentyBits : Prop :=
  (∀ (h : HemArr) (r : HemRes),
    (∀ l ∈ h.lanes, -524288 ≤ l.n ∧ l.n ≤ 524287) → (h.run = false → ∀ l ∈ h.lanes, l.n = 0) →
    (∀ x ∈ r.xs, -524288 ≤ x ∧ x ≤ 524287) →
    ∀ l ∈ (h.take r).lanes, -524288 ≤ l.n ∧ l.n ≤ 524287)
  ∧ (∀ (h : HemArr) (r : HemRes), r.zero = true → h.lanes.length = r.xs.length →
    (h.take r).run = h.run ∧ (h.take r).er = h.er ∧ (h.take r).np = h.np ∧ (h.take r).ew = h.ew ∧ (h.take r).wempty = h.wempty
    ∧ (h.take r).lanes.map (fun l => (l.n, l.w, l.wsat, l.flag)) = h.lanes.map (fun l => (l.n, l.w, l.wsat, l.flag)))

/-- R98: the values and marks of a finished register do not depend on the order in which its contributions arrived. -/
def Obligations.ReductionIgnoresArrivalOrder : Prop :=
  ∀ (r : RedReg) (held : List Contrib) (scales : List BF16) (poison : Bool),
    held.Perm r.held → r.held.Pairwise (fun a b => contribLt a b = true ∨ contribLt b a = true) →
    finishReg { r with held := held } scales poison = finishReg r scales poison

/-- R97, R98, R99, R100, R106, R256: a contribution that reaches an open register is held there, the last one finishes the register, and one
that reaches a closed register is the pattern fault of R256; one of the panel's own bobbins gives its reduction credit back, and one of
another panel or module counts only for a step that the bolt holds. A norm sample that no earlier step holds back is tested and entered; one
that an earlier step holds back waits. R106, R107: a sample that does not jump moves its layer's estimate; a jumping one leaves the estimate
and is latched, counted, recorded and raised, and the action of its space follows. -/
def Obligations.ContributionsAndSamplesArrive : Prop :=
  (∀ (s : State) (p i : Nat),
    let arrive := fun (s0 : State) (d : Contrib) =>
      let r := mapGet RedReg.start (getPanel s0 p).regs d.reg
      let held := { r with held := r.held ++ [d] }
      if r.isOpen = false then decCmd (closedFault s0 p d.step d.cmd) p d.cmd 1
      else if r.held.length + 1 < r.contrib then modPanel (decCmd s0 p d.cmd 1) p fun q => { q with regs := mapSet RedReg.start q.regs d.reg held }
      else regFinish (decCmd s0 p d.cmd 1) p d.reg held
    (∀ d, (getPanel s p).drains[i]? = some d → exec (.reductionContribution p (.drain i)) s = .next
      (pumpDrains (arrive (giveCredit (modPanel s p fun q => { q with drains := q.drains.eraseIdx i }) (.drains p d.tile) 1) d) p))
    ∧ (∀ c, exec (.reductionContribution p (.mesh c)) s = .next
        (if currentStep s p c.step c.gen then arrive s (meshContrib s p c) else s))
    ∧ (∀ n nw b, (getPanel s p).samples[i]? = some n → boltOfPanel s p = some (nw, b) →
      let clear := (∀ t ∈ b.steps, t.sealed = false → t.seq < n.step → p ∈ t.reported ∨ (p, n.layer + 256 * b2n n.grad) ∈ t.entered)
        ∧ (∀ m ∈ (getPanel s p).samples, m.layer = n.layer → m.grad = n.grad → ¬ m.step < n.step)
      (clear → exec (.normSample p i) s = .next (nwEnter (modPanel s p fun q => { q with samples := q.samples.eraseIdx i }) p nw b n))
      ∧ (¬ clear → exec (.normSample p i) s = .next s)))
  ∧ (∀ (s : State) (p nw : Nat) (b : Bolt) (n : NormSample),
    let ctl := getReg s (.panel p) 0x480
    let k := n.layer + 256 * b2n n.grad
    let e := mapGet ((0 : F32), (0 : BitVec 16)) (getPanel s p).est k
    (nwJump ctl e.1 e.2 n.r = false → nwUpdate ctl e.1 e.2 n.r ≠ (0, 0) →
      mapGet ((0 : F32), (0 : BitVec 16)) (getPanel (nwEnter s p nw b n) p).est k = nwUpdate ctl e.1 e.2 n.r)
    ∧ (nwJump ctl e.1 e.2 n.r = true → p < panelsEn s → Raised (nwEnter s p nw b n) (.panel p) 23))

/-- R148, R149, R155, R269: the runs that reached a unit first are served, and their partials leave for the home panel in the activation
channel; a range never written is the home context's fault 0x0C. The runs that came later wait. A partial that has come home is folded, or
held until its turn. R293, R298, R316: a link sends the flit that its order picks, and a flit that has come to its receiver's router enters
the ring when it is ready. R31, R36: where a flit lacks a credit its sender's wait on that queue begins. -/
def Obligations.RemoteRunsPartialsAndFlitsMove : Prop :=
  (∀ (s : State) (p : Nat),
    (∀ r more rest, (getPanel s p).remote = (r :: more) :: rest →
      let s1 := modPanel s p fun q => { q with remote := rest }
      let a := runSegs s1 p { tenant := (getSession s r.session).tenant, pat := patTenant s r.home, row := true } (r :: more)
      exec (.remoteRun p 0) s = .next
        (if a.stat = .unwritten then
          (match (getPanel a.s r.home).ctxs.find? fun x => x.step == r.step with
           | some x => patternFault a.s r.home x.slot 0x0C x.pc.toNat (if r.back.isSome then 0x42 else 0x40)
           | none => a.s)
         else a.parts.foldl (fun t x => sendLoad t p r.home 1 (x.bytes r.d) r.step r.gen (.part x)) a.s))
    ∧ (∀ i, i ≠ 0 → exec (.remoteRun p i) s = .next s)
    ∧ (∀ i x, (getPanel s p).parts[i]? = some x →
      exec (.partialFold p i) s = .next (takePart (modPanel s p fun q => { q with parts := q.parts.eraseIdx i }) p x)))
  ∧ (∀ (s : State) (p : Nat),
    (∀ dir f fromOpenStitch, dir < 4 → linkPick s p dir = some (f, fromOpenStitch) → exec (.flitSend p dir) s = .next
      (moveFlit (modPanel s p fun q =>
        { q with rr := if fromOpenStitch then mapSet 0 (mapSet 4 q.rr (8 * dir + f.flit.vc) f.inp) (8 * dir + 4) f.flit.vc
                       else mapSet 4 q.rr (8 * dir + f.flit.vc) f.inp }) p f))
    ∧ (∀ dir, dir < 4 → linkPick s p dir = none → exec (.flitSend p dir) s = .next ((linkWaits s p dir).foldl beginWait s))
    ∧ (∀ flow f, (routerHeads (getPanel s p)).find? (fun f => f.flit.flow == flow && ((branches s p f.flit).all fun b => b.1 == 4)) = some f →
      (flitReady s p f = true → exec (.flowFlitArrive p flow) s = .next (moveFlit s p f))
      ∧ (flitReady s p f = false → exec (.flowFlitArrive p flow) s = .next
          (((flitQueues s p f).filter fun k => !creditFree s k).foldl beginWait s))))

/-! ### Steps, recalls, job endings and adapter slots -/

/-- R34, R237: the lead of rank 0 of a serving bolt, whose panels all take work and for which no recall waits, forms a step of its ready
jobs in a batch table slot that is free; with a recall in progress that waits for recomputation alone, it forms a RECOMPUTE step. R34,
R237, R286, R372: no step is formed on a bolt of another rank, one that does not serve, one whose panels do not take work, one with no
free slot in the window, nor while an orderly stop runs. -/
def Obligations.LeadsFormStepsWhereTheyMay : Prop :=
  (∀ (s : State) (nw slot : Nat) (b : Bolt) (pat : Pattern),
    getBolt s nw = some b → b.pat = some pat → b.rank = 0 → b.stopped = false → serving b = true → panelsServe s nw b = true →
    s.hk.stopping = none → batchSlot s nw b pat.window = some slot →
    (b.recalling = none → exec (.stepForm nw) s = .next (formReady s nw b slot (min 1024 pat.rowLimit)))
    ∧ (∀ r, b.recalling = some r → r.waiting = [] → r.verdicts = [] →
        exec (.stepForm nw) s = .next (formRecompute s nw b slot (min 1024 pat.rowLimit) r)))
  ∧ (∀ (s : State) (nw : Nat) (b : Bolt) (pat : Pattern), getBolt s nw = some b → b.pat = some pat →
    (b.rank ≠ 0 ∨ b.stopped = true ∨ serving b = false ∨ panelsServe s nw b = false ∨ s.hk.stopping.isSome = true
      ∨ batchSlot s nw b pat.window = none) →
    exec (.stepForm nw) s = .next s)

/-- R239, R369, R371: a batch table that reaches a panel starts its step's context while the window has room, and is discarded when it is
stale; another rank's lead takes the step under the number that rank 0 gave it. -/
def Obligations.BatchTablesStartContexts : Prop :=
  ∀ (s : State) (nw : Nat) (b : Bolt) (pat : Pattern),
    (∀ p c t gen rest e, (getPanel s p).batches = (c, t, gen) :: rest → boltOfPanel s p = some (nw, b) → b.pat = some pat →
      panelEntry nw b p = some e →
      let s1 := modPanel s p fun q => { q with batches := rest }
      (staleAt s p t.step gen = true → exec (.batchTableReceive p) s = .next s1)
      ∧ (staleAt s p t.step gen = false → (getPanel s p).ctxs.length < pat.window → exec (.batchTableReceive p) s = .next
          (startCtx (modStep s1 nw t.step fun k => { k with toSend := k.toSend.filter fun x => x != p }) p e pat.rowLimit c t none)))
    ∧ (∀ batch slot, getBolt s nw = some b → b.pat = some pat → b.rank ≠ 0 → serving b = true →
      (∀ t ∈ b.steps, t.seq ≠ batch.step) → batchSlot s nw b pat.window = some slot →
      let t := { newStep nw b batch.step batch.kind [] [] with rows := batch.rows }
      exec (.spanBatchReceive nw batch) s = .next
        (sendStep (modBolt s nw fun b => { b with steps := b.steps ++ [t], nextStep := batch.step + 1 }) nw b slot t))

/-- R242, R370: a rank reports its own part of an unsealed step once every panel has reported it and no swatch, norm-watch sample or
request holds it, and rank 0 notes the other ranks' reports; until then the report changes nothing. R30, R242, R370, R372: a step whose
part is sealed, in its order and outside every recall, seals once every rank has reported (rank 0) or SEALED reaches the rank; a step
whose part is not sealed, or one that a recall covers, does not. -/
def Obligations.StepsSealInOrder : Prop :=
  (∀ (s : State) (nw rank : Nat) (step : Word) (b : Bolt) (t : Step), getBolt s nw = some b → findStep b step = some t → t.sealed = false →
    (rank = b.rank → b.rank = 0 → t.partSealed = false → partReady nw b t = true → exec (.rankSealReport nw rank step) s = .next
        (modStep s nw step fun t => { t with partSealed := true, ranks := t.ranks ++ [rank] }))
    ∧ (rank = b.rank → b.rank ≠ 0 → t.partSealed = false → partReady nw b t = true →
        let s1 := modStep s nw step fun t => { t with partSealed := true, ranks := t.ranks ++ [rank] }
        exec (.rankSealReport nw rank step) s = .next
          (match addrOfRank s1 0 with | some a => sendMsg s1 (halfOf nw) a 1 (natLe 1 2 ++ natLe 8 step.toNat) | none => s1))
    ∧ (rank = b.rank → partReady nw b t = false → exec (.rankSealReport nw rank step) s = .next s)
    ∧ (rank ≠ b.rank → b.rank = 0 → rank < b.ranks → rank ∉ t.ranks → exec (.rankSealReport nw rank step) s = .next
        (modStep s nw step fun t => { t with ranks := t.ranks ++ [rank] })))
  ∧ (∀ (s : State) (nw : Nat) (step : Word) (b : Bolt) (t : Step), getBolt s nw = some b → findStep b step = some t → t.sealed = false →
    (t.partSealed = true → recalled b t = false →
      (∀ x ∈ b.steps, x.sealed = true ∨ t.seq ≤ x.seq ∨ x.kind = 3 ∨ t.kind = 3) →
      (b.rank = 0 → (∀ r, r < max 1 b.ranks → r ∈ t.ranks) → exec (.sealed nw step) s = .next (sealStep (tellRanks s nw b 3 step) nw b t))
      ∧ (b.rank ≠ 0 → exec (.sealed nw step) s = .next (sealStep s nw b t)))
    ∧ ((t.partSealed = false ∨ recalled b t = true) → exec (.sealed nw step) s = .next s))

/-- R202: which of the claims that wait for a job its arbiter admits: COMPLETED before every other, a device-ended status before ABORTED.
R202, R203: the job's arbiter admits one claim: the job ends with that status and its other claims are gone. -/
def Obligations.ClaimsEndTheirJob : Prop :=
  (∀ cs : List Nat, (0 ∈ cs → winner cs = some 0)
    ∧ (0 ∉ cs → (∃ c ∈ cs, 0x10 ≤ c) → ∃ c ∈ cs, winner cs = some c ∧ 0x10 ≤ c)
    ∧ (cs ≠ [] → 0 ∉ cs → (∀ c ∈ cs, c < 0x10) → ∃ c ∈ cs, winner cs = some c)
    ∧ (winner cs = none ↔ cs = []))
  ∧ (∀ (s : State) (job st : Nat), winner ((s.claims.filter fun c => c.1 == job).map Prod.snd) = some st →
    exec (.jobStatusClaim job) s = .next (pumpLoads (endJob { s with claims := s.claims.filter fun c => c.1 != job } job st 0)))

/-- R372 to R374: a recall that is asked for and not merged counts in RECALLS, raises RECALL_START, raises the generation and orders every
panel of the bolt to discard from the step; one that names a step at or after that of a recall in progress adds only its cause. R373: a
recall cannot name a sealed step, and none starts without its request. -/
def Obligations.RecallsStartOnUnsealedSteps : Prop :=
  (∀ (s : State) (nw : Nat) (step : Word) (cause : RecallCause) (b : Bolt) (t : Step), getBolt s nw = some b → findStep b step = some t →
    t.sealed = false → recallAsked s nw t cause = true →
    ((∀ r, b.recalling = some r → step < r.step ∨ t.kind = 3 ∨ cause = RecallCause.patternFault) →
      let u := noteCause (orderDiscard (raiseEvent (bumpFor (modStep s nw step (clearAsked cause)) .die 0x530 [(64, step.toNat)]) .die 57 [(64, step.toNat)]) nw step
        (cause == RecallCause.patternFault)) nw cause
      exec (.recallStep nw step cause) s = .next (if b.rank = 0 then tellRanks u nw b 4 step else u))
    ∧ (∀ r, b.recalling = some r → r.step ≤ step → t.kind ≠ 3 → cause ≠ RecallCause.patternFault → exec (.recallStep nw step cause) s = .next
      (noteCause (modStep s nw step (clearAsked cause)) nw cause)))
  ∧ (∀ (s : State) (nw : Nat) (step : Word) (cause : RecallCause) (b : Bolt) (t : Step), getBolt s nw = some b → findStep b step = some t →
    (t.sealed = true ∨ recallAsked s nw t cause = false) → exec (.recallStep nw step cause) s = .next s)

/-- R274, R372: a panel that has been ordered to discard drops the recalled steps' work and acknowledges; once nothing is awaited, every
RECOMPUTE step is done and the window has a batch table slot for each, the open steps restart from the last sealed step's tacks, and the
recall is over. One that waits for an adapter set goes on waiting, or starts if the set has come (R189). -/
def Obligations.DiscardThenReplay : Prop :=
  ∀ (s : State) (nw : Nat),
    (∀ p k gen, (getPanel s p).recalling = some (nw, k, gen) →
      let late := fun (t : Word) => decide (k ≤ t)
      exec (.recallDiscard p) s = .next
        (endDropRecall (modBolt (modPanel (discardPanel (dropSwatches (undoSteps s nw late) nw late) p late) p fun q => { q with recalling := none })
          nw fun b => { b with recalling := b.recalling.map fun r => { r with waiting := r.waiting.filter fun x => x != p } }) nw))
    ∧ (∀ b r pat, getBolt s nw = some b → b.recalling = some r → b.pat = some pat → r.waiting = [] → r.verdicts = [] →
      (∀ t ∈ b.steps, t.sealed = false → r.step ≤ t.seq → t.kind ≠ 3) → (∀ x ∈ r.recompute, recompOpen s x = none) →
      let again := b.steps.filter fun t => !t.sealed && decide (r.step ≤ t.seq) && t.held.isNone
      again.length ≤ (batchSlots s nw b pat.window).length →
      let s1 := r.recompute.foldl (fun s x => modSession s x.1 fun e => { e with recomp := false }) (restoreTacks s b)
      exec (.replay nw) s = .next
        (startHeld (modBolt ((sortBy (fun (x y : Step) => decide (x.seq < y.seq)) again).foldl
          (fun s t => restartStep s nw b pat (if t.seq = r.step then r.layer else none) t) s1) nw fun b => { b with recalling := none }) nw))

/-- R189, R190: a wanted adapter set that the tenant has stored starts to load into a slot that is free or can be, each panel's part of
the slot being cleared; once it has arrived, the slot is resident, the set is wanted no more, and the steps that waited for it start: with
no such step nothing else changes. -/
def Obligations.AdapterSlotsLoad : Prop :=
  ∀ (s : State) (nw : Nat) (b : Bolt) (pat : Pattern), getBolt s nw = some b → b.pat = some pat →
    (∀ tenant set k, (tenant, set) ∈ b.wanted → (∃ a ∈ s.sets, a.tenant = tenant ∧ a.set = set) →
      (∀ x ∈ b.slots, x.2.st ≠ 0 → x.2.stale = false → x.2.tenant = tenant → x.2.set ≠ set) → chooseSlot s nw b pat.slots = some k →
      ∃ t, exec (.adapterSlotLoad nw tenant set) s = .next t
        ∧ (∃ b', getBolt t nw = some b' ∧ mapGet AdSlot.start b'.slots k = { st := 1, tenant := tenant, set := set, lastUse := b.nextStep.toNat }
            ∧ b'.wanted = b.wanted ∧ b'.steps = b.steps)
        ∧ t.hdrs = s.hdrs ∧ t.regs = s.regs ∧ t.jobs = s.jobs ∧ t.sessions = s.sessions)
    ∧ (∀ slot set, (mapGet AdSlot.start b.slots slot).st = 1 →
      s.sets.find? (fun x => x.tenant == (mapGet AdSlot.start b.slots slot).tenant && x.set == (mapGet AdSlot.start b.slots slot).set) = some set →
      ∃ t, exec (.adapterSlotResident nw slot) s = .next (startHeld t nw)
        ∧ ((∀ x ∈ b.steps, x.held = none) → startHeld t nw = t)
        ∧ (∃ b', getBolt t nw = some b' ∧ mapGet AdSlot.start b'.slots slot = { mapGet AdSlot.start b.slots slot with st := 2 }
            ∧ ((mapGet AdSlot.start b.slots slot).tenant, (mapGet AdSlot.start b.slots slot).set) ∉ b'.wanted)
        ∧ t.hdrs = s.hdrs ∧ t.regs = s.regs ∧ t.jobs = s.jobs ∧ t.sessions = s.sessions)

/-! ### The prefix tree and the memories -/

/-- R172, R173, R176: a lookup of a session that asks for one shares the whole ranges that the walk finds; a publication of the next full
and sealed range goes under the session's deepest node: to the matching child at a step boundary of the session, or as a new node; a walker
that finds no frame raises KV_EXHAUSTED (R167, log entry 233). R166, R175, R176: a node stays while it or a descendant has a count or a
saturated one, and any node does during a rebuild; a node whose subtree no path holds leaves with its descendants. A rebuild counts every
node from the paths of the live sessions, clears SAT, discards the retains and raises TREE_REBUILT. -/
def Obligations.TreeSharesPublishesDropsAndRebuilds : Prop :=
  (∀ (s : State) (n : Nat) (b : Bolt) (pat : Pattern), getBolt s (getSession s n).bolt = some b → b.pat = some pat →
    (∀ j g r, genOf s n = some (j, g) → rootOf s (getSession s n) = some r → (getSession s n).lookup = true → treeOn s = true →
      (getSession s n).log = [] → (getSession s n).path = [] → g.carry = none → j.ready ≠ none →
      sessionTpp b pat = 32 * (getNode s r).tpp32 →
      let w := walkTree pat n (32 * (getNode s r).tpp32) g.prompt 1024 s r 0
      exec (.treeLookup n) s = .next (if w.2 = 0 then s else sharePrompt w.1 n j g (w.2 * (32 * (getNode s r).tpp32))))
    ∧ (∀ range s1 r, (getSession s n).st ≠ .free → (getSession s n).publish = true → treeOn s = true → b.tpp ≠ 0 →
      (getSession s n).path.length = range → 
      (range + 1) * b.tpp ≤ (getSession s n).sealedLen - (getSession s n).carry.toList.length →
      let keys := (layerHeads pat).map fun x => pteKey n x.1 x.2 range
      (∀ k ∈ keys, (getPte s k).present = true ∧ (getPte s k).tree = false ∧ (getPage s (getPte s k).frame).valid = b.tpp) →
      ensureRoot s (getSession s n) b.tpp = some (s1, r) → (getNode s1 r).tpp32 = b.tpp / 32 →
      let ts := (((getSession s n).log.drop (range * b.tpp)).take b.tpp).map Prod.fst
      let parent := lastOr r (getSession s n).path
      exec (.treePublish n range) s = .next
        (match matchChild s1 parent ts with
         | some c => if atBoundary s1 (getSession s n).bolt b n then switchRange s1 pat n range c keys else s1
         | none => insertRange s1 n range parent b.tpp keys ts))
    ∧ (∀ range, (getSession s n).st ≠ .free → (getSession s n).publish = true → treeOn s = true → b.tpp ≠ 0 →
      (getSession s n).path.length = range →
      (range + 1) * b.tpp ≤ (getSession s n).sealedLen - (getSession s n).carry.toList.length →
      (∀ k ∈ (layerHeads pat).map fun x => pteKey n x.1 x.2 range,
        (getPte s k).present = true ∧ (getPte s k).tree = false ∧ (getPage s (getPte s k).frame).valid = b.tpp) →
      ensureRoot s (getSession s n) b.tpp = none → exec (.treePublish n range) s = .next (raiseEvent s .die 36 [])))
  ∧ (∀ (s : State) (node : Nat) (w : Window),
    (((getNode s node).live = false ∨ (∃ n ∈ subtree s 1024 node, (getNode s n).count ≠ 0 ∨ (getNode s n).sat = true) ∨ s.kv.rebuilding = true) →
      exec (.treeDrop node) s = .next s)
    ∧ ((getNode s node).live = true → (∀ n ∈ subtree s 1024 node, (getNode s n).count = 0 ∧ (getNode s n).sat = false) → s.kv.rebuilding = false →
        exec (.treeDrop node) s = .next (dropNodes s node))
    ∧ (Passes s w .die 0x218 → s.kv.rebuilding = false → ∃ t, exec (.treeRebuild w) s = .next t
        ∧ t.kv.retains = [] ∧ Raised t .die 38
        ∧ (∀ kv ∈ t.kv.nodes, kv.2.sat = false
            ∧ kv.2.count = BitVec.ofNat 16 (min 0xFFFF (s.sessions.filter fun e => e.2.path.contains kv.1).length))
        ∧ t.kv.ptes = s.kv.ptes ∧ t.kv.pages = s.kv.pages ∧ t.sessions = s.sessions ∧ t.jobs = s.jobs ∧ t.regs = s.regs))

/-- R169, R379, R382: an uncorrectable error in panel SRAM leaves its line poisoned, is counted and raised on the die page, and changes no
byte; a scrub counts the errors that it corrected. A poisoned line of the pattern image is rewritten from the pattern copy and loses its
poison (R381). R157: a bucket table that keeps the rule comes into force and is kept; one that breaks it is dropped and recorded with code
2. -/
def Obligations.MemoryErrorsPoisonAndBucketsLoad : Prop :=
  (∀ (s : State) (p addr : Nat),
    (p < panelsEn s → addr < sramSize → ∃ t, exec (.memUncorrectable (.sram p addr)) s = .next t
      ∧ linePoison (getPanel t p) addr = true ∧ Raised t .die 61 ∧ (∀ q, (getPanel t q).sram = (getPanel s q).sram)
      ∧ t.sessions = s.sessions ∧ t.regs = s.regs ∧ t.jobs = s.jobs)
    ∧ (∀ corrected, exec (.dramScrub corrected []) s = .next (bumpTile s .die 0x558 0 corrected))
    ∧ (∀ nw b pat, boltOfPanel s p = some (nw, b) → b.pat = some pat → linePoison (getPanel s p) addr = true →
      64 * (addr / 64) + 64 ≤ (nth [] pat.images (panelRel nw b p)).length →
      exec (.poisonRepaired p addr) s = .next
        (let t := modPanel s p fun q =>
          { q with
            sram := memWrite q.sram (64 * (addr / 64)) (((nth [] pat.images (panelRel nw b p)).drop (64 * (addr / 64))).take 64)
            marks := mapSet LineMark.clean q.marks (addr / 64) LineMark.clean }
         bbRecord { t with ras := { t.ras with rewrites := t.ras.rewrites.filter fun x => x != (p, addr / 64) } } .jobel 0x121
          (natLe 4 (64 * (addr / 64))))))
  ∧ (∀ (s : State) (w : Window), Passes s w .die 0x218 →
    exec (.bucketLoad w) s = .next
      (if bucketsOk (bucketRegs s) = true then markDirty { s with kv := { s.kv with buckets := (bucketRegs s).takeWhile fun x => x.1 != 0 } }
       else capture s .die 2 (winCode w) 0x218 2))

/-! ### Programming arrays and calibration -/

/-- R463: an effective limit of 20 A or above leaves the programming rail 16.0 A, one from 12 A to 19 A leaves it 8.0 A, and one below 12
A 4.0 A; PROG_CURRENT.LIMIT bounds it too (R70). -/
def Obligations.ProgrammingRailFollowsTheEffectiveLimit : Prop :=
  ∀ s : State, progLimit s = min (field (getReg s .die 0x100) 7 0) (if effLimit s ≥ 20 then 160 else if effLimit s ≥ 12 then 80 else 40)

/-- R70: the first request in the order of admission whose array may start is admitted exactly while one array more keeps the programming
rail within its limit: its array is then programming from row 0; otherwise every request waits, as all do during a restart and without the
compute rails. R67, R126, R224, R415: an array may start while it is not programming, no step is addressed to it, no shadowed fit of its
tile takes effect first, its source is at hand and no zeroisation of it is to come first. -/
def Obligations.AdmissionKeepsTheRailLimit : Prop :=
  ∀ (s : State),
    ((s.start.restarting = true ∨ s.power.compute = false) → exec .progAdmit s = .next s)
    ∧ (s.start.restarting = false → s.power.compute = true → exec .progAdmit s = .next (pumpLoads (admitNext s)))
    ∧ (∀ r, (s.arrays.waiting.filter firstClass ++ s.arrays.waiting.filter (fun r => !firstClass r)).find? (admissible s) = some r →
        (progLimit s < (activeArrs s + 1) * 2 → admitNext s = s)
        ∧ ((activeArrs s + 1) * 2 ≤ progLimit s →
            let t := admitNext s
            (getArr t r.target).st = .programming ∧ (getArr t r.target).req = some r ∧ (getArr t r.target).row = 0
            ∧ (getArr t r.target).round = 0 ∧ t.arrays.waiting = s.arrays.waiting.erase r
            ∧ t.hdrs = s.hdrs ∧ t.regs = s.regs ∧ t.jobs = s.jobs ∧ t.panels = s.panels))
    ∧ (∀ r, r.kind ≠ .zeroise → admissible s r = true →
        (getArr s r.target).st ≠ .programming ∧ (getArr s r.target).st ≠ .zeroisePending ∧ arrFree s r.target = true ∧ sourceReady s r = true
        ∧ (∀ q ∈ s.arrays.waiting, q.target = r.target → q.kind ≠ .zeroise)
        ∧ (∀ p t, calTileOf s r.target = some (p, t) → (getCal s p t).stage ≠ 3))

/-- R67, R68: a request for an array that may take one waits for admission; the source's quarters are staged one after the other, each when
the rows before it are written and its tile's input buffer has a credit. R68, R69: a round reads its row's cells back (free values); a cell
below its window gets a set pulse and one above it a reset pulse, 50 mV further each round; with every cell inside its window, or at the
sixteenth round, the row ends and the cells left outside are counted; the last row of a quarter is followed by its margin test. R67, R69,
R72, R80: when every row is written, an array within the limits whose swap may happen is accepted, one beyond them is rejected; a
zeroisation that has every cell at level 0 is counted and leaves the array ZEROISED, or RETIRED when it is spent; one that has failed is
done again, and raises PROG_FAIL. -/
def Obligations.ProgrammingRequestsRoundsAndEnds : Prop :=
  (∀ (s : State) (r : ProgReq) (a : ArrId),
    (arrFree s r.target = true → (getArr s r.target).st ≠ .programming → ((getArr s r.target).st ≠ .retired ∨ r.kind = .zeroise) →
      exec (.progRequest r) s = .next (requestProg s r))
    ∧ ((getArr s a).req = some r → (getArr s a).st = .programming → r.kind ≠ .zeroise → (getArr s a).quarter < 4 →
        (getArr s a).row = 256 * (getArr s a).quarter → sourceReady s r = true →
        ((∀ q, tileBuffer s a = some q → creditFree s q = true) →
          ∃ t, exec (.progQuarterStage a) s = .next t ∧ (getArr t a).quarter = (getArr s a).quarter + 1 ∧ (getArr t a).row = (getArr s a).row
            ∧ (getArr t a).st = .programming ∧ t.hdrs = s.hdrs ∧ t.regs = s.regs ∧ t.panels = s.panels ∧ t.freeCtr = s.freeCtr)
        ∧ (∀ q, tileBuffer s a = some q → creditFree s q = false → exec (.progQuarterStage a) s = .next (beginWait s q))))
  ∧ (∀ (s : State) (a : ArrId) (r : ProgReq), (getArr s a).req = some r → (getArr s a).st = .programming →
    (getArr s a).row < (if r.kind = .zeroise then 1024 else 256 * (getArr s a).quarter) →
    let x := getArr s a
    let img := match getBolt s r.bolt with | some b => (blockLevels b r.panel r.number).getD [] | none => []
    let tgt := rowTargets img r x.row
    let reads := fun c => (List.range tgt.length).map fun i => Config.verifyRead (c + i)
    let before := if x.cells = [] then reads s.freeCtr else x.cells
    let ctr := if x.cells = [] then s.freeCtr + tgt.length else s.freeCtr
    let win : Int := if r.exact && r.kind != .zeroise then 100 else 200
    let out := outside tgt (reads ctr) win
    ((outside tgt before win).1 = 0 → exec (.progRound a) s = .next (endRow { s with freeCtr := ctr } a r (0, 0)))
    ∧ ((outside tgt before win).1 ≠ 0 → (out.1 = 0 ∨ 15 ≤ x.round) →
        exec (.progRound a) s = .next (endRow { s with freeCtr := ctr + tgt.length } a r out))
    ∧ ((outside tgt before win).1 ≠ 0 → out.1 ≠ 0 → x.round < 15 → exec (.progRound a) s = .next
        (modArr { s with freeCtr := ctr + tgt.length } a fun x =>
          { x with
            round := x.round + 1
            cells := reads ctr
            pulses := roundPulses tgt before win x.setMv x.rstMv
            setMv := min (x.setMv + 50) 1850
            rstMv := min (x.rstMv + 50) 1950 })))
  ∧ (∀ (s : State) (a : ArrId) (r : ProgReq) (out : Nat × Nat),
    let x := getArr s a
    let t := endRow s a r out
    (getArr t a).row = x.row + 1 ∧ (getArr t a).round = 0 ∧ (getArr t a).near = x.near + (out.1 - out.2) ∧ (getArr t a).far = x.far + out.2
    ∧ (r.kind ≠ .zeroise → (x.row + 1) % 256 = 0 → (getArr t a).marginBad = (x.marginBad || !(marginTest r.exact s.freeCtr).1))
    ∧ ((r.kind = .zeroise ∨ (x.row + 1) % 256 ≠ 0) → (getArr t a).marginBad = x.marginBad ∧ t.freeCtr = s.freeCtr)
    ∧ t.hdrs = s.hdrs ∧ t.regs = s.regs ∧ t.panels = s.panels ∧ t.jobs = s.jobs)
  ∧ (∀ (s : State) (a : ArrId) (r : ProgReq) (gs : List GaugeSum) (ok : Bool), (getArr s a).req = some r → (getArr s a).st = .programming → (getArr s a).row = 1024 →
    (r.kind ≠ .zeroise → acceptable (getArr s a) r = false → exec (.progComplete a gs) s = .next (rejectArr s a (getArr s a) r))
    ∧ (r.kind ≠ .zeroise → acceptable (getArr s a) r = true → swapReady s a r = true → exec (.progComplete a gs) s = .next (acceptArr s a r gs))
    ∧ (r.kind ≠ .zeroise → acceptable (getArr s a) r = true → swapReady s a r = false → exec (.progComplete a gs) s = .next s)
    ∧ (r.kind = .zeroise → ok = true → (getArr s a).near = 0 → (getArr s a).far = 0 → exec (.zeroisation a ok) s = .next
        (pumpLoads (arrayDone (bump (modArr s a fun x =>
          { x with
            st := if x.spent then .retired else .zeroised
            exact := false
            exactOk := false
            image := []
            holder := none
            req := none
            cells := []
            src := none }) .sec 0x0B8) a false)))
    ∧ (r.kind = .zeroise → (ok = false ∨ (getArr s a).near ≠ 0 ∨ (getArr s a).far ≠ 0) →
        let u := queueZero (modArr s a fun x => { x with st := .zeroisePending, req := none, cells := [], src := none }) a
        exec (.zeroisation a ok) s = .next
          (match eventPos u a r with | some (p, t, i) => raiseEvent u (.panel p) 19 [(5, t), (5, i)] | none => u)))

/-- R122 to R125: a tile's run: the lowest eligible tile of a panel that has no other in steps 2 to 4 stops its pleats, measuring starts at
the next pleat boundary with CAL_TEMP latched, the pleats resume, the fits are shadowed, and at a pleat boundary the corrections come into
force under a new generation. R115, R121, R130, R134: a tile's due automatic run is triggered once its time has come; the fallback runs
every tile once a second or once per MIN_GAP; RUN_ALL and RUN_PANEL ask for a run of every tile, or of a panel's; a panel that is not
enabled is dropped and recorded with code 2. R132: a sampled eye is shown with the least width seen; a width below EYE_WARN raises EYE_LOW
once until it has risen 50 mUI above it. -/
def Obligations.CalibrationRunsAndTriggers : Prop :=
  (∀ (s : State) (p tile : Nat),
    (s.start.restarting = false → s.power.compute = true → (p, tile) ∈ allTiles s →
      ((getCal s p tile).stage = 5 → exec (.calTileRun p tile) s = .next (if tileAtBoundary s p tile then calLatch s p tile else s))
      ∧ ((∀ t, t < 25 → calHolds s p t = false) → (∀ t, t < tile → calEligible s p t = false) → calEligible s p tile = true → tile < 25 →
          let u := modCal s p tile fun c =>
            { c with
              stage := 5
              pending := 0
              lastAuto := if c.pending = 4 then c.lastAuto else some s.now
              due := c.due.filter fun d => decide (s.now < d) }
          exec (.calTileRun p tile) s = .next (if tileAtBoundary s p tile then calLatch u p tile else u)))
    ∧ ((getCal (calLatch s p tile) p tile).stage = 1 ∧ (getCal (calLatch s p tile) p tile).temp = s.arrays.diode
        ∧ ∀ n ∈ (getCal (calLatch s p tile) p tile).measured,
            let id := calTile s p tile
            (getArr s { pp := id.1, tile := id.2, arr := n }).st ≠ .programming ∧ (getArr s { pp := id.1, tile := id.2, arr := n }).st ≠ .retired)
    ∧ ((getCal s p tile).stage = 1 → exec (.calMeasureDone p tile) s = .next (modCal s p tile fun c => { c with stage := 2 }))
    ∧ (∀ fits, (getCal s p tile).stage = 2 → exec (.calFitDone p tile fits) s = .next (calShadow s p tile fits)
        ∧ (getCal (calShadow s p tile fits) p tile).stage = 3
        ∧ (∀ x ∈ (getCal (calShadow s p tile fits) p tile).shadow, x.1 ∈ (getCal s p tile).measured))
    ∧ ((getCal s p tile).stage = 3 → tileAtBoundary s p tile = false → exec (.calSwap p tile) s = .next s)
    ∧ ((getCal s p tile).stage = 3 → tileAtBoundary s p tile = true →
        ((getCal (swapIn s p tile) p tile).gen = (getCal s p tile).gen + 1 ∧ (getCal (swapIn s p tile) p tile).temp = (getCal s p tile).temp
          ∧ (getCal (swapIn s p tile) p tile).stage = 0)
        ∧ exec (.calSwap p tile) s = .next
            (let id := calTile s p tile
             (swapFits s p tile).foldl (fun s x => judgeArray s { pp := id.1, tile := id.2, arr := x.1 } x) (swapJudge (swapIn s p tile) p tile))))
  ∧ (∀ (s : State) (w : Window) (p tile panel : Nat),
    ((∃ t ∈ (getCal s p tile).due, t ≤ s.now) → exec (.calProgTimer p tile) s = .next
      (autoTrigger s [(p, tile)] 3 0))
    ∧ ((∀ t ∈ (getCal s p tile).due, s.now < t) → exec (.calProgTimer p tile) s = .next s)
    ∧ (s.arrays.fallback = true → (∀ t, s.arrays.lastFallback = some t → t + max 1000000 (minGap s) ≤ s.now) → exec .calFallbackTick s = .next
        ((allTiles s).foldl (fun s x => calPend s x.1 x.2 5) { s with arrays := { s.arrays with lastFallback := some s.now } }))
    ∧ (Passes s w .die 0x188 → exec (.runAll w) s = .next ((allTiles s).foldl (fun s x => calPend s x.1 x.2 4) s))
    ∧ (Passes s w .die 0x188 → exec (.runPanel w panel) s = .next
        (if panelsEn s ≤ panel then capture s .die 2 (winCode w) 0x188 (2 + 256 * panel)
         else ((allTiles s).filter fun x => x.1 == panel).foldl (fun s x => calPend s x.1 x.2 4) s)))
  ∧ (∀ (s : State) (lane width : Nat) (retuned : Bool),
    let l := getLane s (lane / 8) (lane % 8)
    width < 0xFFFF →
    ∃ t, exec (.eyeSample lane width retuned) s = .next t
      ∧ (getLane t (lane / 8) (lane % 8)).eye = width
      ∧ (getLane t (lane / 8) (lane % 8)).eyeMin = (if l.sampled = false ∨ width < l.eyeMin then width else l.eyeMin)
      ∧ (getLane t (lane / 8) (lane % 8)).up = l.up
      ∧ (retuned = false → (getLane t (lane / 8) (lane % 8)).retunes = l.retunes)
      ∧ (width < eyeWarn s → l.eyeLow = false → Raised t .die 34)
      ∧ ((eyeWarn s ≤ width ∨ l.eyeLow = true) → t.hdrs = s.hdrs ∧ t.bb = s.bb)
      ∧ t.regs = s.regs ∧ t.fab.ports = s.fab.ports)

/-! ### Credits, arbiters, links and the fabric -/

/-- R35: a credit that comes back to a full count is a hardware fault: the queue is in ERR_CAPTURE, the credit-overflow event is set and
the receiving block goes to FAILED; nothing is clipped silently. The block and the form in which the event names the queue are the model's
choice (log entries 215, 216). -/
def Obligations.CreditOverflowFailsTheBlock : Prop :=
  ∀ (s : State) (q : QueueId), usedCredits s q = 0 → pageExists s (receiverPage s q) = true →
    ∃ t, exec (.creditReturn q) s = .next t
      ∧ (getHdr t (receiverPage s q)).st = .failed ∧ Raised t (receiverPage s q) 3
      ∧ ((getHdr s (receiverPage s q)).captureHeld = false → field (getHdr t (receiverPage s q)).capture 55 24 = packIds (queueIds q))
      ∧ usedCredits t q = 0

/-- R31, R32: a credit that comes back otherwise lowers the count of items under way by one and ends the sender's wait; every other
queue's count stays. R36, R299: a wait longer than its limit raises the credit-stall event of the sender's block once, and releases,
revokes and discards nothing. -/
def Obligations.CreditsComeBackAndStallsAreReported : Prop :=
  (∀ (s : State) (q : QueueId), usedCredits s q ≠ 0 →
    ∃ t, exec (.creditReturn q) s = .next t ∧ usedCredits t q = usedCredits s q - 1
      ∧ (∀ r, queueKey r ≠ queueKey q → usedCredits t r = usedCredits s r)
      ∧ t = { s with net := { s.net with usedCredits := t.net.usedCredits, waits := t.net.waits, stalls := t.net.stalls } })
  ∧ (∀ (s : State) (p c : Nat) (q : QueueId) (deadline : Nat),
    (mapGet none s.net.waits (queueKey q) = some deadline → deadline < s.now → mapGet false s.net.stalls (queueKey q) = false →
      ∃ t, exec (.creditStall q) s = .next t ∧ mapGet false t.net.stalls (queueKey q) = true ∧ t.net.usedCredits = s.net.usedCredits
        ∧ t.net.waits = s.net.waits ∧ t.panels = s.panels ∧ t.bolts = s.bolts ∧ t.jobs = s.jobs ∧ t.regs = s.regs
        ∧ (pageExists s (senderPage s q) = true → Raised t (senderPage s q) 4))
    ∧ (mapGet false s.net.stalls (queueKey q) = true → exec (.creditStall q) s = .next s)
    ∧ (∀ x, getCtx s p c = some x → x.stalled = false → x.since < s.now →
      (x.wait = .sealw ∨ (∃ m, x.wait = .fence m) ∨ ∃ f a n g, x.wait = .recv f a n g) → p < panelsEn s →
      ∃ t, exec (.contextWaitStall p c) s = .next t ∧ getCtx t p c = some { x with stalled := true } ∧ Raised t (.seq p) 4
        ∧ t.net = s.net ∧ t.bolts = s.bolts ∧ t.jobs = s.jobs ∧ t.regs = s.regs))

/-- R306, R307, R309 to R313: a request joins its resource and is granted when nobody holds it; an item that ends the request, or the
tenure, lets the next one in, and one that gives its tenure up for want of a credit stays posted behind it; a holder that moves
nothing for longer than the limit is fenced, its trip is counted and raised, and its unit is declared FAILED. -/
def Obligations.ArbitersServe : Prop :=
  ∀ (s : State) (r : ResId),
    let a := getArb s r
    (∀ r0 who items c0, resSteer s r0 = r → resExists s r = true → items ≠ 0 → (∀ p k, r = .slice p k → who < 31) →
      let b := { a with
        waiting := a.waiting ++ [{ who := who, class0 := resClass0 r who c0, items := items, progress := 0, arrived := a.arrivals, hint := 0 }]
        arrivals := a.arrivals + 1 }
      exec (.arbRequest r0 who items c0) s = .next (if a.holder.isSome then setArb s r (arbHints b) else arbGrant s r b))
    ∧ (∀ q moved last next, a.holder = some (q, moved, last) →
      let q1 := { q with progress := q.progress + 1 }
      let back := { a with holder := none, waiting := a.waiting ++ [{ q1 with arrived := a.arrivals }], arrivals := a.arrivals + 1 }
      exec (.arbItemDone r next) s = .next
        (if q.items ≤ q.progress + 1 then arbGrant s r { a with holder := none }
         else if arbRevoke r a q (moved + 1) then
           arbGrant (match r with | .slice p k => bumpFor s (.slice p k) 0x088 [(16, q.who), (16, q.progress + 1)] | _ => s) r back
         else if next = false then arbPost (arbGrant s r { a with holder := none }) r q1
         else setArb s r { a with holder := some (q1, moved + 1, s.now) }))
    ∧ (∀ next, a.holder = none → exec (.arbItemDone r next) s = .next (if a.waiting = [] then s else arbGrant s r a))
    ∧ (∀ q moved last, a.holder = some (q, moved, last) → last + resLimit s r < s.now →
      let b := { a with holder := none, fenced := if a.fenced.contains q.who then a.fenced else a.fenced ++ [q.who] }
      let t := raiseEvent (bumpFor (arbGrant s r b) (arbTrip r).1 (arbTrip r).2.1 [(16, q.who), (16, q.progress)]) (arbTrip r).1 (arbTrip r).2.2 [(16, q.who), (16, q.progress)]
      exec (.arbWatchdog r) s = .next (match arbUnit r q.who with | some u => failUnit t u.1 7 7 u.2 | none => t))
    ∧ (∀ q moved last, a.holder = some (q, moved, last) → s.now ≤ last + resLimit s r → exec (.arbWatchdog r) s = .next s)

/-- R324: a beat that fails its parity is counted on the receiving half; the sixteenth within a millisecond takes the lane out of service,
with its event and signature. R334, R351: a lane that loses lock or fails too often goes down with its event; a lane that retrains comes
up, and a port that was down with it joins again; an uncorrectable codeword is counted and noted against its lane. -/
def Obligations.LanesGoDownAndRetrain : Prop :=
  (∀ (s : State) (half lane : Nat), half < 2 → lane < 15 →
    let h := if half = 0 then s.net.seam0 else s.net.seam1
    h.lanesUp.getLsbD lane = true →
    let times := (mapGet [] h.errors lane).filter (fun t => decide (s.now ≤ t + 1000)) ++ [s.now]
    (times.length < 16 → exec (.seamParity half lane) s = .next
      (modSeam (bumpFor s (.half (1 - half)) 0x090 [(16, lane)]) half fun x => { x with errors := mapSet [] x.errors lane times }))
    ∧ (16 ≤ times.length → ∃ t, exec (.seamParity half lane) s = .next t
        ∧ ((if half = 0 then t.net.seam0 else t.net.seam1).lanesUp.getLsbD lane = false) ∧ Raised t (.half half) 16
        ∧ (if half = 0 then t.net.seam1 = s.net.seam1 else t.net.seam0 = s.net.seam0)
        ∧ t.panels = s.panels ∧ t.bolts = s.bolts ∧ t.jobs = s.jobs ∧ t.regs = s.regs))
  ∧ (∀ (s : State) (port lane : Nat),
    (∀ lost, (getLane s port lane).up = true → (lost = true ∨ laneBad s (getLane s port lane) = true) → exec (.kwLaneDown port lane lost) s = .next
      (let t := reshape (writeSig (raiseEvent (modLane s port lane fun x => { x with up := false, errors := [], lastTry := some s.now })
        (.kwath port) 16 [(4, port), (3, lane)]) { SigInfo.plain 6 6 0 with lane := some lane }) (0, port, lane)
       if kwPortUp t port then t else downPlane t t.fab.addr port))
    ∧ (∀ lost, (getLane s port lane).up = false → exec (.kwLaneDown port lane lost) s = .next s)
    ∧ ((getLane s port lane).up = false → s.fab.lasers = true → (∀ t, (getLane s port lane).lastTry = some t → t + 10000000 ≤ s.now) →
      exec (.kwLaneRetrain port lane false) s = .next (modLane s port lane fun x => { x with lastTry := some s.now, up := false, errors := [] })
      ∧ exec (.kwLaneRetrain port lane true) s = .next
        (let t := unshape (modLane s port lane fun x => { x with lastTry := some s.now, up := true, errors := [] }) (0, port, lane)
         if kwPortUp s port then t else portJoined t port))
    ∧ ((getLane s port lane).up = true → exec (.uncorrectableCodeword port lane) s = .next
      (bumpFor (modLane s port lane fun x => { x with errors := (x.errors.filter fun t => decide (s.now < t + 1000000)) ++ [s.now] }) (.kwath port) 0x088
        [(3, lane)])))

/-- R336 to R338: a flit of a port that is up is held; the next one in sequence lets what is complete through, and one beyond a gap asks
once for a replay from the flit awaited; a replay request sends every flit from the one it names, counted, and one beyond the 2,048 held
takes the plane down. R340 to R342, R346: a sound send leaves for its rank's module in fabric VC 1 with its header; a message in sequence
is acknowledged and passed on; a posted buffer takes the next message of its flow; an acknowledged message is held no longer. -/
def Obligations.FabricFlitsAndMessages : Prop :=
  (∀ (s : State) (port : Nat), kwPortUp s port = true → s.sec.debug = 0 →
    let k := getKw s port
    (∀ f, (f.lseq - k.rxSeq).toNat < 32768 →
      let t := modKw s port fun k => { k with rxHeld := (k.rxHeld.filter fun x => x.lseq != f.lseq) ++ [f] }
      exec (.kwFlitReceive port f) s = .next
        (if f.lseq = k.rxSeq then drainFlits t port (k.rxHeld.length + 1)
         else if k.asking then t
         else emit (modKw t port fun k => { k with asking := true }) (.kwReplayAsk port k.rxSeq)))
    ∧ (∀ lseq, lseq ≠ k.txSeq →
      let back := (k.txSeq - lseq).toNat
      (back ≤ 2048 → back ≤ k.txCount → exec (.kwReplayRequest port lseq) s = .next
        (emit (bumpFor s (.kwath port) 0x090 [(4, port)]) (.kwFlits port lseq (k.txSeq - 1))))
      ∧ ((2048 < back ∨ k.txCount < back) → exec (.kwReplayRequest port lseq) s = .next (downPlane s s.fab.addr port))))
  ∧ (∀ (s : State),
    (∀ p dstRank dstPanel flow addr len nw b a, boltOfPanel s p = some (nw, b) → 0 < len → len % 64 = 0 → len ≤ 0x100000 → flow ≤ 255 →
      addr + len ≤ sramSize → s.fab.key ≠ none → addrOfRank s dstRank = some a → a ∉ s.fab.lostMods →
      let r := sramRead (getPanel s p) (boltCtx s p) addr len
      r.violation = false → exec (.fabricSend p dstRank dstPanel flow addr len) s = .next
        (sendMsg s (halfOf p) a 1 ((natLe 2 dstPanel ++ natLe 2 flow ++ natLe 2 b.tenant
          ++ natLe 4 (match b.pat with | some t => t.pattern | none => 0) ++ [BitVec.ofNat 8 (b2n r.mark.poison)]) ++ r.bytes)))
    ∧ (∀ p dstRank dstPanel flow addr len nw b a, boltOfPanel s p = some (nw, b) → 0 < len → len % 64 = 0 → len ≤ 0x100000 → flow ≤ 255 →
      addr + len ≤ sramSize → s.fab.key ≠ none → addrOfRank s dstRank = some a → a ∈ s.fab.lostMods →
      exec (.fabricSend p dstRank dstPanel flow addr len) s = .next (peerLost s nw))
    ∧ (∀ m : FabMsg, m.src ∉ s.fab.fencedMods → s.sec.debug = 0 →
      let k := m.src * 4 + m.vc
      let t := sendControl s m.src (natLe 1 m.vc ++ natLe 4 m.seq.toNat)
      ((m.seq - mapGet (0 : BitVec 32) s.fab.rxSeq k).toNat < 2147483648 → m ∉ t.fab.early → exec (.fabricMessageReceive m) s = .next
        (drainEarly { t with fab := { t.fab with early := t.fab.early ++ [m] } } k (t.fab.early.length + 1)))
      ∧ (2147483648 ≤ (m.seq - mapGet (0 : BitVec 32) s.fab.rxSeq k).toNat → exec (.fabricMessageReceive m) s = .next t))
    ∧ (∀ p flow addr len, boltOfPanel s p ≠ none → flow ≤ 255 → addr + len ≤ sramSize → exec (.receiveBufferPost p flow addr len) s = .next
      (serveBuffer (modPanel s p fun q => { q with rxBufs := q.rxBufs ++ [{ flow := flow, addr := addr, len := len }] }) p flow))
    ∧ (∀ dst vc seq, exec (.messageAck dst vc seq) s = .next
      { s with fab := { s.fab with unacked := s.fab.unacked.filter fun m => !(m.dst == dst && m.vc == vc && m.seq == seq) } }))

/-- R344 to R347, R351: a manager in service sends heartbeats when one is due; a worker that misses three declares the manager lost, and
the standby becomes the manager; a plane goes down, and a module that is lost is neither sent to nor waited for, and the manager darns its
rank. -/
def Obligations.FabricMembersComeAndGo : Prop :=
  ∀ (s : State),
    (s.fab.role = 2 → 4 ≤ s.fab.st → s.sec.debug = 0 → (∀ t, s.fab.lastHb = some t → t + hbUs s ≤ s.now) → exec .heartbeatSend s = .next
      ((admitted s).foldl (fun s a => sendControl s a [1]) { s with fab := { s.fab with lastHb := some s.now } }))
    ∧ (∀ t, s.fab.lastHb = some t → t + 3 * hbUs s ≤ s.now → (s.fab.role = 1 ∨ s.fab.role = 3) → 4 ≤ s.fab.st →
      let mgr := match s.fab.plan with | some p => (match p.entries.find? fun e => e.role == 1 with | some e => e.addr | none => 0) | none => 0
      exec .managerLost s = .next
        (let u := reshape { s with fab := { s.fab with lastHb := none, hellos := s.fab.hellos.filter fun m => m.addr != mgr } } (4, mgr, 0)
         if s.fab.role = 3 then manage (setRole u 2) else setRole u 1))
    ∧ (∀ addr plane, s.fab.roleInForce ≠ 0 → exec (.planeDown addr plane) s = .next (downPlane s addr plane))
    ∧ (∀ addr, s.fab.roleInForce ≠ 0 → addr ≠ s.fab.addr → addr ∉ s.fab.lostMods → exec (.moduleLost addr) s = .next
      (let t := reshape { s with fab := { s.fab with
          lostMods := s.fab.lostMods ++ [addr]
          hellos := s.fab.hellos.filter fun m => m.addr != addr
          unacked := s.fab.unacked.filter fun m => m.dst != addr
          peers := s.fab.peers.map fun x => if x.addr = addr then { x with planes := 0 } else x } } (3, addr, 0)
       let u := (boltList t).foldl (fun v x => if 1 < x.2.ranks ∧ (peerOf s addr).rank < x.2.ranks then peerLost v x.1 else v) t
       if u.fab.role = 2 then manage u else u))
    ∧ (∀ c : Instr, c ∈ [Instr.heartbeatSend, .managerLost] → s.fab.st < 4 → exec c s = .next s)

/-- R344 to R350, R354, R355: HELLOs are collected, a second manager's makes the one of lower plan generation a worker; after the wait the
manager compares, and a manager in service that hears of a module it has not admitted so waits again (R351); a fabric key that opens under
this module's key takes force under its epoch; a plan signed by the owner takes force and another's is refused and counted; a spent key
brings a new epoch. -/
def Obligations.FabricPlanKeysAndEpochs : Prop :=
  ∀ (s : State),
    (∀ m : HelloMsg, s.fab.roleInForce ≠ 0 → m.digest ≠ ownDigest s → (s.fab.role ≠ 2 ∨ m.role ≠ 2 ∨ m.sigOk = false) → exec (.hello m) s = .next
      { s with fab := { s.fab with
        hellos := (s.fab.hellos.filter fun x => x.addr != m.addr) ++ [m]
        lostMods := s.fab.lostMods.filter fun a => a != m.addr
        discSince := if s.fab.role = 2 ∧ 4 ≤ s.fab.st ∧ newcomer s m = true then some s.now else s.fab.discSince } })
    ∧ (∀ m : HelloMsg, s.fab.roleInForce ≠ 0 → m.digest ≠ ownDigest s → s.fab.role = 2 → m.role = 2 → m.sigOk = true →
      let t := { s with fab := { s.fab with
        hellos := (s.fab.hellos.filter fun x => x.addr != m.addr) ++ [m]
        lostMods := s.fab.lostMods.filter fun a => a != m.addr
        discSince := if 4 ≤ s.fab.st ∧ newcomer s m = true then some s.now else s.fab.discSince } }
      let mine := match s.fab.plan with | some p => p.generation | none => 0
      exec (.hello m) s = .next
        (if mine < m.planGen ∨ (mine = m.planGen ∧ m.addr < s.fab.addr) then setRole t 1 else raiseEvent t .die 53 [(2, 2)]))
    ∧ (∀ m : HelloMsg, s.fab.roleInForce ≠ 0 → m.digest = ownDigest s → exec (.hello m) s = .next
      (m.seen.foldl (fun v x => modKw v x.1 fun k => { k with addrSeen := x.2, mismatch := x.2 != majority m.seen m.addr })
        { s with fab := { s.fab with addr := majority m.seen m.addr } }))
    ∧ (∀ t, s.fab.discSince = some t → s.fab.role = 2 → t + discWaitUs s ≤ s.now → exec .discWait s = .next (manage s))
    ∧ (∀ epoch (ct : Oaep), s.fab.roleInForce ≠ 0 → s.sec.debug = 0 → s.sec.kekReady = true → ct.kek = s.sec.kekId → ct.message.length = 32 →
      let t := { s with fab := { s.fab with
        prevKey := s.fab.key
        key := some (BitVec.ofNat 256 (leNat ct.message))
        epoch := epoch
        packets := 0
        keyed := admitted s ++ [s.fab.addr] } }
      exec (.fabricKeyReceive epoch ct) s = .next
        (resendMsgs { t with fab := { t.fab with st := if t.fab.faults.isEmpty && !planDegraded t then 4 else 5 } } fun m => m.plane == 16))
    ∧ (∀ sender, 4 ≤ s.fab.st → s.fab.role = 2 → (sender ≠ s.fab.addr ∨ keyLife s ≤ s.fab.packets) → exec (.epochRequest sender) s = .next (newEpoch s))
    ∧ (∀ p e, 4 ≤ s.fab.st → s.fab.role ≠ 2 → keyLife s ≤ s.fab.packets → s.fab.plan = some p → p.entries.find? (fun e => e.role == 1) = some e →
      exec (.epochRequest s.fab.addr) s = .next (sendControl s e.addr [2]))
    ∧ (∀ m : PlanMsg, s.fab.roleInForce ≠ 0 → s.sec.owner ≠ some m.plan.signer → exec (.planStateReceive m) s = .next
      (raiseEvent (bumpFor s (.kwath m.port) 0x0B0 [(4, m.port)]) .die 54 [(4, m.port)]))
    ∧ (∀ m : PlanMsg, s.fab.roleInForce ≠ 0 → s.sec.owner = some m.plan.signer → (∀ p, s.fab.plan = some p → p.generation ≤ m.plan.generation) →
      let t := healFaults (adoptPeers { s with fab := { s.fab with plan := some m.plan, role := plannedRole s m.plan } } m.peers false)
      exec (.planStateReceive m) s = .next
        (settleFab { t with fab := { t.fab with st := if t.fab.st = 2 ∨ t.fab.st = 1 then 3 else t.fab.st, lastHb := some t.now } }))

/-! ### Rings and their commands -/

/-- R436 to R438, R440, R443, R445: a doorbell of an enabled ring moves its tail or head, and a tail at or above the queue's size puts the
ring in ERROR; an entry is fetched from the head in order, and an unknown opcode is answered at once; a completion is written while the
queue has room, and the interrupt follows its coalescing; a queue that is full for longer than the limit is reported once. -/
def Obligations.RingsFetchAndComplete : Prop :=
  ∀ (s : State) (w : Window) (n port ring value : Nat),
    let r := getRing s port ring
    (pageRing s w n = some (port, ring) → doorbellsOn s port = true → r.st = .enabled → value < 65536 →
      (value < 2 ^ field r.cfg 3 0 → exec (.sqTail w n value) s = .next (modRing s port ring fun r => { r with sqTail := value }))
      ∧ (2 ^ field r.cfg 3 0 ≤ value → exec (.sqTail w n value) s = .next (ringError s port ring 1))
      ∧ exec (.cqHead w n value) s = .next (modRing s port ring fun r => { r with cqHead := value }))
    ∧ (r.st = .enabled → bit r.cfg 48 = true → r.sqHead ≠ r.sqTail → mayMaster s port r.fn = true → s.start.phase ≠ 9 →
      (∀ e : Entry,
        let d : Dispatched := { id := s.nextId, port := port, ring := ring, fn := r.fn, entry := e }
        let t := modRing { s with nextId := s.nextId + 1, dispatched := s.dispatched ++ [d] } port ring fun r =>
          { r with sqHead := (r.sqHead + 1) % 2 ^ field r.cfg 3 0 }
        exec (.entryFetch port ring (.ok e)) s = .next (if e.opcode ∈ opcodes then t else finishEntry t d 0x20 0))
      ∧ exec (.entryFetch port ring .dmaError) s = .next (ringError s port ring 2)
      ∧ exec (.entryFetch port ring .atsFault) s = .next (ringError s port ring 3))
    ∧ (∀ t0 c rest, r.waiting = (t0, c) :: rest → r.st = .enabled → mayMaster s port r.fn = true →
      let tail := (r.cqTail + 1) % 2 ^ field r.cfg 7 4
      (tail ≠ r.cqHead → exec (.completionPost port ring (.ok ())) s = .next
        (settleRing (countSignal (modRing (emit s (.completion port ring r.cqTail r.sqHead r.phase c)) port ring fun r =>
          { r with waiting := rest, stalled := false, cqTail := tail, phase := if tail = 0 then !r.phase else r.phase }) port ring) port ring))
      ∧ (tail = r.cqHead → exec (.completionPost port ring (.ok ())) s = .next s)
      ∧ (tail = r.cqHead → r.stalled = false → t0 + creditLimit s none < s.now → exec (.cqStall port ring) s = .next
        (raiseEvent (bumpFor (modRing s port ring fun r => { r with stalled := true }) (.host port) 0x0C0 [(12, ring)]) (.host port) 19 [(12, ring)])))
    ∧ (∀ t0, r.unsigSince = some t0 → r.st = .enabled → 0 < field r.cfg 43 28 →
      exec (.coalTimer port ring) s = .next (if t0 + field r.cfg 43 28 ≤ s.now then ringSignal s port ring else s))

/-- R437, R452: a ring's configuration is written while EN is 0; the write that sets EN starts the ring with every position at zero and
the phase at 1; the one that clears EN ends the ring's entries and jobs and closes it. RING_ASSIGN gives a free ring to a function or
frees it, and VF_ASSIGN gives a VF its tenant; both are dropped and recorded with code 2 where the rule forbids them. -/
def Obligations.RingsAndFunctionsAreAssigned : Prop :=
  ∀ (s : State) (w : Window) (n port ring : Nat) (v : Word),
    (pageRing s w n = some (port, ring) → bit (getRing s port ring).cfg 48 = false → (getRing s port ring).st = .assigned →
      ringCfgOk (getRing s port ring).fn (v ||| bitOf 48) = true →
      ∃ t, exec (.ringEnable w n v) s = .next t
        ∧ getRing t port ring = { getRing s port ring with
            st := .enabled, cfg := ringCfgBits (v ||| bitOf 48), sqTail := 0, sqHead := 0, cqTail := 0, cqHead := 0, phase := true, err := 0,
            waiting := [], stalled := false, unsig := 0, unsigSince := none, closing := false }
        ∧ t = { s with rings := t.rings }
        ∧ ∀ k, k ≠ port * 4096 + ring → mapGet Ring.start t.rings k = mapGet Ring.start s.rings k)
    ∧ (pageRing s w n = some (port, ring) → bit (getRing s port ring).cfg 48 = false → ringCfgOk (getRing s port ring).fn (v ||| bitOf 48) = false →
      exec (.ringEnable w n v) s = .next (capture s (.host port) 2 (winCode w) 0x010 ring))
    ∧ (pageRing s w n = some (port, ring) → bit (getRing s port ring).cfg 48 = true → exec (.ringDisable w n v) s = .next
      (let s1 := dropEntries (modRing s port ring fun r => { r with closing := true }) (fun d => d.port == port && d.ring == ring) 1
       pumpLoads (closeRing ((s1.jobs.filter fun j => j.port == port && j.ring == ring).foldl (fun s j => (abortJob s j).1) s1) port ring)))
    ∧ (Passes s w (.host port) 0x0A0 →
      let k := field v 11 0
      let fn := field v 19 12
      let slot := field v 23 20
      (ringOpen s port k = true → vfLocked s port (getRing s port k).fn = false → bit v 24 = true →
        exec (.ringAssign w port v) s = .next (modRing s port k fun _ => Ring.start))
      ∧ (ringOpen s port k = true → vfLocked s port (getRing s port k).fn = false → vfLocked s port fn = false → bit v 24 = false →
        (fn = 0 ∨ ∀ x ∈ portRings s port, x = k ∨ (getRing s port x).st = .free ∨ (getRing s port x).fn ≠ fn ∨ (getRing s port x).slot ≠ slot) →
        exec (.ringAssign w port v) s = .next
          (modRing s port k fun _ => { Ring.start with st := .assigned, fn := fn, slot := if fn = 0 then 0 else slot }))
      ∧ (ringOpen s port k = false → exec (.ringAssign w port v) s = .next (capture s (.host port) 2 (winCode w) 0x0A0 (v.toNat % 2 ^ 32))))
    ∧ (Passes s w (.host port) 0x0A8 →
      let vf := field v 7 0
      let tenant := if bit v 20 = true then none else some (field v 19 8)
      exec (.vfAssign w port v) s = .next
        (if vf = 0 ∨ fnBusy s port vf = true ∨ vfLocked s port vf = true then capture s (.host port) 2 (winCode w) 0x0A8 (v.toNat % 2 ^ 32)
         else setOwner (modVf s port vf fun x => { x with tenant := tenant }) (.tenant port vf) 2 0x3F (tenant.getD 0)))

/-- R440, R443, R447, R488, R492: a dispatched entry whose function may not submit its command is answered NOT_OWNER, limp mode answers
ENTRY_INVALID to all but the commands it accepts, each raising SESSION_REFUSED where the entry is an open (R182), and a command that needs
Jobel waits while Jobel restarts; a number that names no entry of the row's opcode does nothing. An answer takes the entry away and puts its
completion last among those that wait at its ring. -/
def Obligations.EntriesAreAdmittedAndAnswered : Prop :=
  ∀ (s : State) (id : Nat) (plan : Plan) (image : FwImage) (d : Dispatched),
    (∀ x ∈ commandRows id plan image, s.dispatched.find? (fun e => e.id == id) = some d →
      (d.entry.opcode ≠ x.2.1 → exec x.1 s = .next s)
      ∧ (d.entry.opcode = x.2.1 → s.start.restarting = true → jobelOpcode x.2.1 = true → exec x.1 s = .next s)
      ∧ (d.entry.opcode = x.2.1 → s.start.restarting = false → s.start.limp ≠ 0 → limpOpcode x.2.1 = false →
        exec x.1 s = .next (finishEntry (refusedOpen s d) d 0x21 0))
      ∧ (d.entry.opcode = x.2.1 → s.start.restarting = false → s.start.limp = 0 → x.2.2 s d = false →
        exec x.1 s = .next (finishEntry (refusedOpen s d) d 0x22 0))
      ∧ (x.2.1 ≠ 0x08 → d.entry.opcode = x.2.1 → refusedOpen s d = s)
      ∧ (d.entry.opcode = 0x08 → refusedOpen s d = raiseEvent s .die 42 [(12, d.entry.tenant)]))
    ∧ (∀ status detail,
      let t := finishEntry s d status detail
      let r := getRing s d.port d.ring
      t.dispatched = s.dispatched.filter (fun e => e.id != d.id)
      ∧ t = { s with dispatched := t.dispatched, rings := t.rings }
      ∧ (∀ k, k ≠ d.port * 4096 + d.ring → mapGet Ring.start t.rings k = mapGet Ring.start s.rings k)
      ∧ (r.st = .enabled → r.closing = false → r.freeing = false → getRing t d.port d.ring = { r with
          waiting := r.waiting ++ [(s.now, Completion.simple status d.entry.tag (BitVec.ofNat 32 detail))] }))

/-! ### Tenants, bolts, sessions, jobs, loads and owners -/

/-- R180, R181, R409, R448, R450: TENANT_CREATE, TENANT_REMOVE, BOLT_CREATE, BOLT_REMOVE, BOLT_TRANSFER and BOLT_ADOPT: the first check of
the rule that fails gives the answer, and an entry that passes them all has the command's effect. R182 to R186, R216, R408: a session
opens FREE to OPENED with the tenant, bolt, pattern and set of its entry, and the next instance number of the data key; an open that a
rule refuses is answered with its status and raises SESSION_REFUSED. SESSION_CLOSE aborts the session's job and frees it. R174: a retain
counts the session's path once more, and a release counts the longest retained path that the session's still begins with once less. -/
def Obligations.TenantsBoltsAndSessionsComeAndGo : Prop :=
  (∀ (s : State) (id : Nat) (d : Dispatched),
    (Admitted s id 0x01 fromPf d → exec (.tenantCreate id) s = .next
      (if s.sec.owner = none then finishEntry s d 0x24 0
       else if arg0 d 14 0 = 0 ∨ 16384 < arg0 d 14 0 then finishEntry s d 0x21 0
       else if (getTenant s d.entry.tenant).st ≠ .free then finishEntry s d 0x23 0
       else finishEntry (drawFree (modTenant s d.entry.tenant fun _ =>
         { Tenant.start with st := .active, maxSessions := arg0 d 14 0, slotKey := some (Config.randomKey s.freeCtr) })) d 0 0))
    ∧ (Admitted s id 0x02 fromPf d → exec (.tenantRemove id) s = .next
      (if (getTenant s d.entry.tenant).st ≠ .active then finishEntry s d 0x23 0
       else if ownsBolt s d.entry.tenant = true then finishEntry s d 0x2C 0
       else finishEntry (settleTenant (modTenant s d.entry.tenant fun e => { e with st := .removing }) d.entry.tenant) d 0 0))
    ∧ (Admitted s id 0x03 fromPf d →
      let nw := arg0 d 5 0
      let cols := arg0 d 9 6
      let rows := arg0 d 13 10
      let ps := rectPanels nw cols rows
      exec (.boltCreate id) s = .next
        (if rectFree s nw cols rows = false then finishEntry s d 0x2A 0
         else finishEntry (tagRouters (ownPanels (setBolt s nw (some (newBolt cols rows d.port))) ps d.port nw 0) ps nw) d 0 0))
    ∧ (∀ b, Admitted s id 0x04 fromOwner d → getBolt s d.entry.bolt = some b → exec (.boltRemove id) s = .next
      (if b.phase ≠ 0 then finishEntry s d 0x2B 0 else finishEntry (dropBolt s d.entry.bolt b) d 0 0))
    ∧ (Admitted s id 0x05 fromOwner d → exec (.boltTransfer id) s = .next
      (if (∃ j ∈ s.jobs, boltOfJob s j = some d.entry.bolt) then finishEntry s d 0x2B 0
       else if (getPort s (1 - d.port)).pair ≠ .live then finishEntry s d 0x2D 0
       else finishEntry (passBolts s (fun n _ => n == d.entry.bolt) (1 - d.port)) d 0 0))
    ∧ (Admitted s id 0x06 fromPf d → exec (.boltAdopt id) s = .next
      (if (getPort s (1 - d.port)).pair = .lost ∧ (getPort s d.port).pair = .live then finishEntry (adopt s (1 - d.port)) d 0 (portBolts s (1 - d.port))
       else finishEntry s d 0 0)))
  ∧ (∀ (s : State) (id : Nat) (d : Dispatched),
    (∀ b n k, Admitted s id 0x08 fromOwnerVf d → getBolt s d.entry.bolt = some b → openRefused s d b = none → freeSessionNum s = some n →
      dataKey s d.entry.tenant d.entry.bolt = some k →
      ∃ t, exec (.sessionOpen id) s = .next t
        ∧ getSession t n = { Session.start with
            st := .opened, tenant := d.entry.tenant, bolt := d.entry.bolt, pattern := arg0 d 31 0, aset := arg0 d 47 32,
            pin := arg0 d 48 48 == 1, lookup := arg0 d 49 49 == 1, publish := arg0 d 50 50 == 1, countPrompt := arg0 d 51 51 == 1,
            port := d.port, number := k.sessions + 1, key := k.entry.key }
        ∧ (getTenant t d.entry.tenant).sessions = (getTenant s d.entry.tenant).sessions + 1
        ∧ (∀ m, m ≠ n → getSession t m = getSession s m)
        ∧ (∀ m, m ≠ d.entry.tenant → getTenant t m = getTenant s m)
        ∧ t.jobs = s.jobs ∧ t.hdrs = s.hdrs ∧ t.regs = s.regs ∧ t.bolts = s.bolts ∧ t.panels = s.panels ∧ t.kv = s.kv)
    ∧ (∀ b st, Admitted s id 0x08 fromOwnerVf d → getBolt s d.entry.bolt = some b → openRefused s d b = some st →
      exec (.sessionOpen id) s = .next (finishEntry (raiseEvent s .die 42 [(12, d.entry.tenant)]) d st 0))
    ∧ (Admitted s id 0x09 fromSession d → exec (.sessionClose id) s = .next
      (if (getSession s d.entry.session).st = .free then finishEntry s d 0x21 0
       else pumpLoads (closeSession (startJob s d (jobOf d .close)) d.entry.session (some d.id))))
    ∧ (Admitted s id 0x0D fromSession d → (getSession s d.entry.session).st ≠ .free → exec (.prefixRetain id) s = .next
      (let t := (getSession s d.entry.session).path.foldl incNode s
       finishEntry { t with kv := { t.kv with retains := t.kv.retains ++ [(getSession s d.entry.session).path] } } d 0 0))
    ∧ (Admitted s id 0x0E fromSession d → (getSession s d.entry.session).st ≠ .free → exec (.prefixRelease id) s = .next
      (match retainedPath s (getSession s d.entry.session).path with
       | some r =>
         let t := r.foldl decNode s
         finishEntry { t with kv := { t.kv with retains := t.kv.retains.erase r } } d 0 0
       | none => finishEntry s d 0 0)))
  ∧ (∀ (s : State) (path r : List Nat), retainedPath s path = some r →
    r ∈ s.kv.retains ∧ r <+: path ∧ ∀ q ∈ s.kv.retains, q <+: path → q.length ≤ r.length)

/-- R195, R202, R408, R441, R442: GENERATE and TUNE on an OPENED session whose entry, payload tag, counter and parameters are right take
the session; the counter advances before the parameters are read; a tag or counter that is wrong is answered 0x29 or 0x28. ABORT ends a
job that nothing has claimed with ABORTED and answers SUCCESS, or ABORT_LATE; an entry that has not run is answered ABORTED. R191 to R194,
R205: TEN_REFILL adds to an ACTIVE tenant's budget, saturating, or sets it, and tries the held sessions' reservations in ascending number;
for any other tenant it is dropped and recorded with code 2. A reservation takes one token from a budget above 0 and never takes it below. -/
def Obligations.JobsStartAbortAndSpend : Prop :=
  (∀ (s : State) (id : Nat) (d : Dispatched),
    let n := d.entry.session
    let e := getSession s n
    let s1 := modSession s n fun e => { e with counter := entryCounter d }
    (Admitted s id 0x0A fromSession d →
      (generateEntryOk s d = false → exec (.generate id) s = .next (finishEntry s d 0x21 0))
      ∧ (generateEntryOk s d = true → openPayload s d = none →
        exec (.generate id) s = .next (finishEntry (raiseEvent (bumpFor s .sec 0x0A8 [(14, n)]) .sec 18 [(14, n)]) d 0x29 0))
      ∧ (∀ p, generateEntryOk s d = true → openPayload s d = some p →
        (entryCounter d ≠ e.counter + 1 → exec (.generate id) s = .next (finishEntry s d 0x28 0))
        ∧ (entryCounter d = e.counter + 1 → samplingOk p = false → exec (.generate id) s = .next (finishEntry s1 d 0x27 0))
        ∧ (entryCounter d = e.counter + 1 → samplingOk p = true → e.st ≠ .opened → exec (.generate id) s = .next (finishEntry s1 d 0x26 0))
        ∧ (entryCounter d = e.counter + 1 → samplingOk p = true → e.st = .opened → exec (.generate id) s = .next
          (let j := { jobOf d (.gen (genJob s1 d p)) with tenant := e.tenant, bolt := e.bolt, ready := some s.now }
           let s2 := runSession (startJob s1 d j) n d.id
           let s3 := if bytesNat p 0x16 1 % 2 = 1 then modSession s2 n fun e => { e with counts := [] } else s2
           if d.entry.flags.getLsbD 1 then resend s3 d else s3))))
    ∧ (Admitted s id 0x0B fromOwnerVf d →
      (tuneEntryOk s d = false → exec (.tune id) s = .next (finishEntry s d 0x21 0))
      ∧ (∀ p t, tuneEntryOk s d = true → openPayload s d = some p → entryCounter d = e.counter + 1 → tuneJob d p = some t → e.st = .opened →
        exec (.tune id) s = .next (runSession (startJob s1 d { jobOf d (.tune t) with ready := some s.now }) n d.id)))
    ∧ (Admitted s id 0x0C (fun _ _ => true) d →
      let mine := fun (port fn r : Nat) (t : BitVec 16) => port == d.port && fn == d.fn && r == arg0 d 11 0 && t == BitVec.ofNat 16 (arg0 d 27 12)
      (∀ j, s.jobs.find? (fun j => mine j.port j.fn j.ring j.tag) = some j → exec (.abort id) s = .next
        (pumpLoads (finishEntry (abortJob s j).1 d (if (abortJob s j).2 = true then 0 else 2) 0)))
      ∧ (∀ x, s.jobs.find? (fun j => mine j.port j.fn j.ring j.tag) = none →
        s.dispatched.find? (fun x => x.id != d.id && mine x.port x.fn x.ring x.entry.tag) = some x →
        exec (.abort id) s = .next (finishEntry (finishEntry s x 1 0) d 0 0))))
  ∧ (∀ (s : State) (w : Window) (v : Word) (t : Nat),
    (Passes s w .die 0x318 →
      let t := field (getReg s .die 0x300) 11 0
      let amount := field v 31 0
      let b := (getTenant s t).budget
      ((getTenant s t).st ≠ .active → exec (.tenRefill w v) s = .next (capture s .die 2 (winCode w) 0x318 (v.toNat % 2 ^ 32)))
      ∧ ((getTenant s t).st = .active →
        let s1 := budgetLow (modTenant s t fun e =>
          { e with budget := BitVec.ofNat 32 (if bit v 32 = true then amount else min 0xFFFFFFFF (b.toNat + amount)) }) t b
        exec (.tenRefill w v) s = .next
          (if (getTenant s1 t).budget = 0 then s1 else (heldSessions s1 t).foldl (fun s n => wakeSession s t n) s1)))
    ∧ ((getTenant s t).budget = 0 → reserveToken s t = none)
    ∧ ((getTenant s t).budget ≠ 0 → ∃ u, reserveToken s t = some u ∧ (getTenant u t).budget = (getTenant s t).budget - 1
        ∧ (∀ m, m ≠ t → getTenant u m = getTenant s m) ∧ u.sessions = s.sessions ∧ u.jobs = s.jobs ∧ u.regs = s.regs ∧ u.bolts = s.bolts))

/-- R213 to R215, R229: LOAD_STAGE for an ACTIVE tenant with a weight key on a bolt in neither a commit nor an unload starts a load,
superseding the one before; a chunk that the load awaits, from where the load expects it, is opened under the weight key of the header's
tenant and carries the load on, and one that does not open ends it with 0x31 and its index; a module passes a chunk on before it takes it.
R229 to R231: the manager multicasts the chunks in their order, and reads those of the fall-back again for the first of the chain.
LOAD_COMMIT starts the commit of a staged load; LOAD_CANCEL ends a load that no commit has taken up with ABORTED. R286, R235, R411:
LOAD_PATTERN puts a pattern in force on a bolt with no session open, whose image checks and relocates, and raises LOAD_DONE; a refused one
leaves the pattern before in force and raises LOAD_FAIL. UNLOAD waits for the zeroisation of every array that holds the bolt's levels. R229,
R230: a worker's latest report counts; when the wait is over the workers that miss chunks or have not reported form the chain in their rank
order, counted and raised, and the chunks to read again are the union of what they miss; a worker that does not answer leaves the chain and
the broadcast, and on that worker itself its load ends with 0x35. -/
def Obligations.LoadsPatternsAndBroadcasts : Prop :=
  (∀ (s : State) (id : Nat) (d : Dispatched) (b : Bolt), getBolt s d.entry.bolt = some b →
    let nw := d.entry.bolt
    let refuse := fun (st : Nat) => finishEntry (raiseEvent s .die 45 [(6, nw), (32, 0)]) d st 0
    (Admitted s id 0x10 stageFrom d →
      ((b.phase = 3 ∨ b.unloadJob ≠ none) → exec (.loadStage id) s = .next (refuse 0x2B))
      ∧ (b.phase ≠ 3 → b.unloadJob = none → ((getTenant s d.entry.tenant).weight = none ∨ (getTenant s d.entry.tenant).st ≠ .active) →
        exec (.loadStage id) s = .next (refuse 0x23))
      ∧ (∀ k b1, b.phase ≠ 3 → b.unloadJob = none → (getTenant s d.entry.tenant).weight = some k → (getTenant s d.entry.tenant).st = .active →
        (arg0 d 2 2 = 1 → b.weights ≠ none) →
        let s1 := match b.load with | some l => failLoad s nw b l 0x32 0 | none => s
        getBolt s1 nw = some b1 →
        let l := newLoad d k.key b1.phase
        let b2 := setPhase { b1 with load := some l } 1
        let t := startBcast (startJob (setBolt s1 nw (some b2)) d (jobOf d .load)) nw d
        exec (.loadStage id) s = .next (if arg0 d 0 0 = 1 then t else headerCome t nw b2 l)))
    ∧ (Admitted s id 0x11 fromOwner d → exec (.loadCommit id) s = .next
      (match b.load with
       | none => finishEntry s d 0x21 0
       | some l =>
         if l.staged = true ∧ l.committing = false then
           pumpBolt (modBolt (startJob s d (jobOf d .load)) nw fun b => { b with load := some { l with committing := true, commitJob := some d.id } }) nw
         else finishEntry s d 0x21 0))
    ∧ (Admitted s id 0x12 fromOwner d → exec (.loadCancel id) s = .next
      (match b.load with
       | none => finishEntry s d 0x02 0
       | some l => if b.phase = 3 then finishEntry s d 0x02 0 else finishEntry (failLoad s nw b l 1 0) d 0 0))
    ∧ (∀ l idx src (c : Sealed), b.load = some l → l.staged = false →
      let t := relayChunk s nw idx src c
      (chunkFrom s l src = false → exec (.loadChunk nw idx { src := src, box := c }) s = .next t)
      ∧ (∀ l1, chunkFrom s l src = true → l.header ≠ [] → idx < headerChunks l.header → (∀ x ∈ l.chunks, x.idx ≠ idx) → allocLoad s l = some l1 →
        exec (.loadChunk nw idx { src := src, box := c }) s = .next
          (if l1.kind = 1 ∧ (getTenant t l1.tenant).st ≠ .active then failLoad t nw b l1 0x23 idx
           else
             match openChunk l1.key l1.header idx c with
             | none => failLoad (bumpFor t .die 0x3A0 [(6, nw), (32, idx)]) nw b l1 0x31 idx
             | some p =>
               let l2 := { l1 with chunks := l1.chunks ++ [{ idx := idx, bytes := p, lost := false }] }
               reportMissing (advanceLoad t nw b l2 (decide (idx < l2.dirChunks))) l2 idx))))
  ∧ (∀ (s : State) (nw idx a : Nat) (next : List Nat) (c : Sealed) (m : Bcast), s.fab.bcasts.find? (fun m => m.bolt == nw) = some m →
    let put := fun (s : State) (f : Bcast → Bcast) =>
      { s with fab := { s.fab with bcasts := modWhere (fun (x : Bcast) => x.bolt == nw) f s.fab.bcasts } }
    (m.waitEnd = none → idx = m.sent → relayChunk s nw idx none c = put (multicast s idx (chunkMsg idx [] c)) fun x =>
      { x with
        sent := idx + 1
        waitEnd := if m.chunks ≤ idx + 1 then some (s.now + 1000 * field (getReg s .die 0x388) 15 8) else none })
    ∧ (∀ t0 more, m.waitEnd = some t0 → m.chain = a :: next → m.resend = idx :: more →
      relayChunk s nw idx none c = put (sendMsg s 0 a 2 (chunkMsg idx next c)) fun x => { x with resend := more }))
  ∧ (∀ (s : State) (id : Nat) (d : Dispatched) (b : Bolt), getBolt s d.entry.bolt = some b →
    let nw := d.entry.bolt
    let refuse := fun (s : State) (st chunk : Nat) => finishEntry (raiseEvent s .die 45 [(6, nw), (32, chunk)]) d st 0
    (Admitted s id 0x13 fromOwner d →
      (sessionsOn s nw = true → exec (.loadPattern id) s = .next (refuse s 0x37 0))
      ∧ (∀ h cs, sessionsOn s nw = false → (getTenant s d.entry.tenant).weight ≠ none → (getTenant s d.entry.tenant).st = .active →
        d.entry.payload = .image h cs →
        (headerKey s h = none → exec (.loadPattern id) s = .next (refuse s 0x23 0))
        ∧ (∀ k e chunk, headerKey s h = some k → patternOf s nw b k h cs = .error (e, chunk) →
          exec (.loadPattern id) s = .next (refuse (if e = 0x31 then bumpFor s .die 0x3A0 [(6, nw), (32, chunk)] else s) e chunk))
        ∧ (∀ k r imgs sp, headerKey s h = some k → patternOf s nw b k h cs = .ok (r, imgs, sp) →
          exec (.loadPattern id) s = .next (finishEntry (raiseEvent
            (installPattern { s with freeCtr := s.freeCtr + 3 + 65536 } nw b (headerTenant h) r sp imgs) .die 44 [(6, nw), (32, 0)]) d 0 0))))
    ∧ (Admitted s id 0x14 fromOwner d →
      (sessionsOn s nw = true → exec (.unload id) s = .next (finishEntry s d 0x37 0))
      ∧ (sessionsOn s nw = false → (b.phase = 3 ∨ b.unloadJob ≠ none) → exec (.unload id) s = .next (finishEntry s d 0x2B 0))
      ∧ (∀ b1, sessionsOn s nw = false → b.phase ≠ 3 → b.unloadJob = none →
        let s1 := match b.load with | some l => failLoad s nw b l 0x32 0 | none => s
        getBolt s1 nw = some b1 → exec (.unload id) s = .next (unloadBolt (startJob s1 d (jobOf d .load)) nw b1 id))))
  ∧ (∀ (s : State) (bolt addr : Nat),
    (∀ missing, exec (.bcastReport bolt addr missing) s = .next
      (modBcast s bolt fun b =>
        if addr ∈ b.workers then
          { b with
            reports := (b.reports.filter fun r => r.1 != addr) ++ [(addr, missing)]
            chain := if missing = [] then b.chain.filter fun a => a != addr else b.chain }
        else b))
    ∧ (∀ b t0, s.fab.bcasts.find? (fun b => b.bolt == bolt) = some b → b.waitEnd = some t0 → t0 ≤ s.now → b.chain = [] →
      let lacking := fun (a : Nat) => !(b.reports.any fun r => r.1 == a)
      let chain := b.workers.filter fun a => lacking a || b.reports.any fun r => r.1 == a && !r.2.isEmpty
      let missed := b.reports.flatMap fun r => if chain.contains r.1 then r.2 else []
      let again := if chain.any lacking then List.range b.chunks else (List.range b.chunks).filter fun i => missed.contains i
      let t := modBcast s bolt fun b => { b with chain := chain, again := again, resend := again }
      exec (.bcastWait bolt) s = .next
        (if chain = [] then t else raiseEvent (bumpFor t .die 0x3B8 [(6, bolt)]) .die 47 [(6, bolt)]))
    ∧ (let t := modBcast s bolt fun b =>
        { b with
          chain := b.chain.filter fun a => a != addr
          resend := if b.chain.head? = some addr then b.again else b.resend
          workers := if addr ∈ b.chain then b.workers.filter fun a => a != addr else b.workers }
       (addr ≠ s.fab.addr → exec (.chainTimeout bolt addr) s = .next (skipNext t bolt addr))
       ∧ (∀ b l, addr = s.fab.addr → getBolt s bolt = some b → b.load = some l → l.fabric = true → l.staged = false →
          exec (.chainTimeout bolt addr) s = .next (failLoad (skipNext t bolt addr) bolt b l 0x35 0))))

/-- R345, R395, R396, R419, R420: CLAIM sets the first owner key. A command that the owner signed over SEC_NONCE consumes the nonce and
acts: TRANSFER replaces the key, RELEASE ends and erases everything of the owner, DEBUG_UNLOCK erases the tenants' secrets and opens its
level; any other signature is refused with its status, a new nonce, the counter and the event. PLAN_LOAD takes a plan of the owner's that
keeps its form and is not stale. -/
def Obligations.OwnersSignTheirCommands : Prop :=
  ∀ (s : State) (id : Nat) (d : Dispatched),
    (Admitted s id 0x20 fromPf d → ∀ k, d.entry.payload = .pubKey k → exec (.claim id) s = .next
      (if s.sec.owner = none then finishEntry (setOwnerKey s (some k)) d 0 0 else finishEntry s d 0x21 0))
    ∧ (Admitted s id 0x21 fromPf d →
      (∀ e, ownerSigned s d = .error e → exec (.transfer id) s = .next (signedRefused s d e))
      ∧ (∀ k, ownerSigned s d = .ok k → k ≠ [] → exec (.transfer id) s = .next (finishEntry (setOwnerKey (newNonce s) (some k)) d 0 0)))
    ∧ (Admitted s id 0x22 fromPf d →
      (∀ e, ownerSigned s d = .error e → exec (.release id) s = .next (signedRefused s d e))
      ∧ (ownerSigned s d = .ok [] → ∃ t, exec (.release id) s = .next t
        ∧ t.sec.owner = none ∧ t.kv.buckets = vendorBuckets ∧ (∀ kv ∈ t.regs, keptKey kv.1 = false)))
    ∧ (Admitted s id 0x23 fromPf d →
      (∀ e, unlockLevel s d = .error e → exec (.debugUnlock id) s = .next (signedRefused s d e))
      ∧ (∀ level, unlockLevel s d = .ok level → ∃ t, exec (.debugUnlock id) s = .next t
        ∧ t.sec.debug = level ∧ t.sec.dataKeys = [] ∧ t.sec.grants = [] ∧ t.sec.kekReady = false ∧ t.fab.key = none ∧ t.fab.prevKey = none
        ∧ Raised t .sec 20 ∧ (∀ p, p < panelsEn s → (getPanel t p).sram = [])))
    ∧ (∀ plan, Admitted s id 0x24 fromPf d →
      (s.sec.owner ≠ some plan.signer → exec (.planLoad id plan) s = .next (finishEntry (raiseEvent s .die 54 []) d 0x2E 0))
      ∧ (s.sec.owner = some plan.signer → planShapeOk plan = false → exec (.planLoad id plan) s = .next (finishEntry s d 0x3A 0))
      ∧ (∀ p, s.sec.owner = some plan.signer → planShapeOk plan = true → s.fab.plan = some p → plan.generation ≤ p.generation →
        exec (.planLoad id plan) s = .next (finishEntry s d 0x2F 0))
      ∧ (s.sec.owner = some plan.signer → planShapeOk plan = true → (∀ p, s.fab.plan = some p → p.generation < plan.generation) →
        exec (.planLoad id plan) s = .next (finishEntry (loadPlan s plan) d 0 0)))
    ∧ (∀ status, (signedRefused s d status).sec.nonce = Config.random64 s.freeCtr ∧ Raised (signedRefused s d status) .sec 19)

/-- R400, R404 to R407, R416: a key that opens for this start, this tenant and this bolt and passes every check enters its entry; a
refused one is answered with the first check that fails, counted and raised. GRANT and REVOKE under the pattern tenant's tag enter and
take out the grant; REVOKE closes the tenant's sessions on the bolt. The key-encryption key is ready once; the coarse telemetry shows the
last second in steps of 5 W and 1 °C. -/
def Obligations.KeysAndGrantsAreInstalled : Prop :=
  ∀ (s : State) (id : Nat) (d : Dispatched),
    (Admitted s id 0x18 fromKey d → ∀ kind bolt tenant ct, d.entry.payload = .keyInstall kind bolt tenant ct →
      (s.sec.kekReady = false → exec (.keyInstall id) s = .next (finishEntry s d 0x40 0))
      ∧ (s.sec.kekReady = true → (kind = 1 ∧ bolt = 0xFF ∨ kind = 2) → tenant < 4096 →
        (∀ e, unwrapKey s kind bolt tenant ct = some e → keyRefused s kind bolt tenant (some e) = none →
          exec (.keyInstall id) s = .next (finishEntry (installKey s kind bolt tenant e) d 0 0))
        ∧ (∀ st, keyRefused s kind bolt tenant (unwrapKey s kind bolt tenant ct) = some st →
          exec (.keyInstall id) s = .next (finishEntry (raiseEvent (bumpFor s .sec 0x0A0 [(12, tenant)]) .sec 17 [(12, tenant)]) d st 0))))
    ∧ (∀ b, getBolt s d.entry.bolt = some b → Admitted s id 0x19 fromOwnerVf d →
      (grantTagOk s d b = false → exec (.grant id) s = .next (signedRefused s d 0x2E))
      ∧ (grantTagOk s d b = true → ∃ t, exec (.grant id) s = .next t ∧ (d.entry.bolt, d.entry.tenant) ∈ t.sec.grants
        ∧ (∀ g ∈ s.sec.grants, g ∈ t.sec.grants) ∧ t.sec.nonce = Config.random64 s.freeCtr ∧ t.sessions = s.sessions ∧ t.jobs = s.jobs ∧ t.hdrs = s.hdrs))
    ∧ (∀ b, getBolt s d.entry.bolt = some b → Admitted s id 0x1A fromOwnerVf d →
      (grantTagOk s d b = false → exec (.revoke id) s = .next (signedRefused s d 0x2E))
      ∧ (grantTagOk s d b = true →
        let g := (d.entry.bolt, d.entry.tenant)
        let s1 := { newNonce s with sec := { (newNonce s).sec with grants := s.sec.grants.filter fun x => x != g } }
        exec (.revoke id) s = .next (pumpLoads (finishEntry
          ((s1.sessions.filter fun kv => kv.2.st != .free && kv.2.bolt == g.1 && kv.2.tenant == g.2).foldl (fun s kv => closeSession s kv.1 none) s1) d 0 0))))
    ∧ (s.sec.kekReady = false → s.sec.kekId ≠ 0 → s.start.restarting = false → 3 ≤ s.start.phase → s.start.phase ≠ 9 →
      exec .kekReady s = .next { s with sec := { s.sec with kekReady := true } })
    ∧ (∀ w (c : Int), ∃ t, exec (.powerCoarseWindow w c) s = .next t ∧ t.sec.coarsePower = BitVec.ofNat 16 (5 * (w / 5))
        ∧ (0 ≤ c → t.sec.coarseTemp = BitVec.ofInt 8 (c / 64))
        ∧ t = { s with freeCtr := s.freeCtr + 1, sec := { s.sec with coarsePower := t.sec.coarsePower, coarseTemp := t.sec.coarseTemp } })

/-- R401 to R403, R418: on a path where firmware answers, the SPDM requests in their order bring a connection from stage to stage, and each
answers what the rules name: certificates and their digests, signatures under the identity key, which needs the module's root (R398, R399),
and the measurements; a request out of its order is the error 4 and changes nothing else (the stages and codes are PRESUMED from SPDM 1.2,
log entry 25). R417, R418: inside an SPDM session, IDE_KM programs, starts and stops streams, a stream starting only on a link in FLIT mode,
and TDISP locks, starts and stops interfaces; LOCK_INTERFACE locks an interface that is unlocked, STOP_INTERFACE unlocks one and ends its
plaintext jobs, and an error puts a locked or running one in ERROR with its rings stopped and its event raised. -/
def Obligations.AttestationStreamsAndInterfaces : Prop :=
  (∀ (s : State) (v : Via), spdmOn s v = true →
    let k := spdmStage s v
    exec (.getVersion v) s = .next (emit (setSpdm s v 1 0) (.spdm v 0x04 [0x12]))
    ∧ (k = 1 → exec (.getCapabilities v) s = .next (emit (setSpdm s v 2 0) (.spdm v 0x61 [])))
    ∧ (k = 2 → exec (.negotiateAlgorithms v true) s = .next (emit (setSpdm s v 3 0) (.spdm v 0x63 [])))
    ∧ (k = 2 → exec (.negotiateAlgorithms v false) s = .next (spdmError s v 1))
    ∧ (3 ≤ k →
      exec (.getDigests v) s = .next (emit s (.spdm v 0x01 ([0, 1].flatMap fun n => match chainOf s n with | some c => digestBytes (sha512 c) | none => [])))
      ∧ (∀ slot c, chainOf s slot = some c → exec (.getCertificate v slot) s = .next (emit s (.spdm v 0x02 c)))
      ∧ (∀ slot (nonce : BitVec 256) c, chainOf s slot = some c →
        let body := digestBytes (sha512 c) ++ natLe 32 nonce.toNat
        (s.sec.pufOk = true →
          exec (.challenge v slot nonce) s = .next (emit s (.spdm v 0x03 (body ++ Config.signatureBytes (digestBytes s.sec.identity) body))))
        ∧ (s.sec.pufOk = false → exec (.challenge v slot nonce) s = .next (spdmError s v 5)))
      ∧ exec (.getMeasurements v 0) s = .next (emit s (.spdm v 0x60 [BitVec.ofNat 8 (8 + (boltList s).length)]))
      ∧ (∀ i m, i ≠ 0 → i ≠ 0xFF → measurement s i = some m → exec (.getMeasurements v i) s = .next (emit s (.spdm v 0x60 (BitVec.ofNat 8 i :: m))))
      ∧ (∀ x, (s.sec.pufOk = true → exec (.keyExchange v x) s = .next
            (emit (setSpdm s v 4 0) (.spdm v 0x64 (Config.signatureBytes (digestBytes s.sec.identity) (natLe 512 x)))))
          ∧ (s.sec.pufOk = false → exec (.keyExchange v x) s = .next (spdmError s v 5))))
    ∧ (k = 4 → exec (.finish v true) s = .next (emit (setSpdm s v 5 0) (.spdm v 0x65 [])) ∧ exec (.finish v false) s = .next (spdmError (setSpdm s v 3 0) v 6))
    ∧ (∀ x, s.sec.spdm.find? (fun x => x.via == v) = some x → x.stage = 5 →
      exec (.keyUpdate v) s = .next (emit (setSpdm s v 5 (x.keyGen + 1)) (.spdm v 0x69 []))
      ∧ exec (.endSession v) s = .next (emit (setSpdm s v 3 0) (.spdm v 0x6C [])))
    ∧ (∀ slot nonce i x ok, k < 3 → ∀ c ∈ [Instr.getDigests v, .getCertificate v slot, .challenge v slot nonce, .getMeasurements v i, .keyExchange v x,
        .finish v ok, .keyUpdate v, .endSession v], exec c s = .next (spdmError s v 4)))
  ∧ (∀ (s : State) (v : Via) (port vf : Nat), 
    (spdmOn s v = true → spdmStage s v = 5 →
      (∀ stream requester key, port < 2 → stream ≤ 256 → requester ≤ 255 → ∃ t, exec (.vendorDefinedRequest v (.ideKeyProg port stream requester key)) s = .next t
        ∧ (∃ x, findIde t port stream = some x ∧ x.key = key ∧ x.requester = requester)
        ∧ (∀ p k, ¬(p = port ∧ k = stream) → findIde t p k = findIde s p k)
        ∧ t = { s with sec := { s.sec with ide := t.sec.ide }, out := s.out ++ [.spdm v 0x7E []] })
      ∧ (∀ stream, (findIde s port stream ≠ none ∧ (getPort s port).up = true ∧ (getPort s port).flit = true →
          exec (.vendorDefinedRequest v (.ideGo port stream)) s = .next (emit { s with sec := { s.sec with ide := s.sec.ide.map fun x =>
            if x.port = port ∧ x.stream = stream then { x with secure := true } else x } } (.spdm v 0x7E [])))
        ∧ (findIde s port stream = none → exec (.vendorDefinedRequest v (.ideStop port stream)) s = .next (spdmError s v 1)))
      ∧ ((getVf s port vf).tdi = .locked → (∃ x ∈ s.sec.ide, x.port = port ∧ x.requester = vf ∧ x.stream ≠ 0 ∧ x.secure = true) →
        exec (.vendorDefinedRequest v (.tdispStart port vf)) s = .next (emit (modVf s port vf fun v => { v with tdi := .run }) (.spdm v 0x7E [2]))))
    ∧ (pageExists s (.tenant port vf) = true → (getVf s port vf).tdi = .unlocked →
      exec (.lockInterface port vf) s = .next (modVf s port vf fun v => { v with tdi := .locked }))
    ∧ ((getVf s port vf).tdi ≠ .unlocked → exec (.lockInterface port vf) s = .next s)
    ∧ ((getVf s port vf).tdi = .unlocked → exec (.stopInterface port vf) s = .next s)
    ∧ ((getVf s port vf).tdi ≠ .unlocked → exec (.stopInterface port vf) s = .next
      (abortPlain (modVf s port vf fun v => { v with tdi := .unlocked }) port vf))
    ∧ ((getVf s port vf).tdi = .locked ∨ (getVf s port vf).tdi = .run → exec (.tdiError port vf) s = .next
      (tdiFail { s with sec := { s.sec with ide := s.sec.ide.map fun x =>
        if x.port = port ∧ x.stream ≠ 0 ∧ x.requester = vf then { x with secure := false } else x } } port vf)))

/-! ### Host ports, blocks, registers and counters -/

/-- R449, R450: a heartbeat that the port's own PF writes makes the port LIVE; a port that has missed its heartbeats, or whose link has
been down for an interval, is LOST with its event, and the surviving port takes its bolts when it is LIVE and AUTO_ADOPT is set; a port
that comes back first adopts likewise. R417, R418, R424, R426, R446, R453, R454, R481, R490: a port's link changes are shown, counted and
raised, and a link that falls or leaves FLIT mode loses its streams; a function-level reset closes the function's rings, ends its jobs and
clears its MSI-X table; PERST# resets its port alone, and a released port trains; configuration writes act under the PCIe rules; an ATS
invalidation drops what its range covers and is answered. -/
def Obligations.PortsLinksAndFunctions : Prop :=
  (∀ (s : State) (port : Nat),
    (Passes s (.pf port) (.host port) 0x0B0 →
      let t := modPort s port fun q => { q with pair := .live, lastHb := some s.now }
      exec (.heartbeat (.pf port) port) s = .next
        (if (getPort s port).pair = .lost ∧ (getPort s (1 - port)).pair = .lost ∧ bit (getReg s .die 0x580) 1 = true then adopt t (1 - port) else t))
    ∧ (Passes s .mgmt (.host port) 0x0B0 → exec (.heartbeat .mgmt port) s = .next s)
    ∧ (port < 2 → bit (getReg s .die 0x580) 0 = true → (getPort s port).pair = .live →
      let interval := field (getReg s .die 0x580) 15 8 * 100000
      ((∃ t, (getPort s port).lastHb = some t ∧ t + interval * field (getReg s .die 0x580) 19 16 ≤ s.now)
        ∨ ∃ t, (getPort s port).downSince = some t ∧ t + interval ≤ s.now) →
      let t := raiseEvent (bumpFor (modPort s port fun q => { q with pair := .lost }) (.host (1 - port)) 0x0D0 [(2, port)]) (.host (1 - port)) 16 [(2, port)]
      exec (.heartbeatLoss port) s = .next
        (if bit (getReg s .die 0x580) 1 = true ∧ (getPort t (1 - port)).pair = .live then adopt t port else t)))
  ∧ (∀ (s : State) (port fn : Nat), port < 2 →
    let q := getPort s port
    let drop := fun (u : State) (test : Nat → Bool) => (lockedVfs u port).foldl (fun s v => if test v then tdiFail s port v else s) u
    (∀ rate width flit up, q.released = true → ¬(q.rate = rate ∧ q.width = width ∧ q.flit = flit ∧ q.up = up) →
      let t := modPort s port fun q =>
        { q with
          rate := rate
          width := width
          flit := flit
          up := up
          retrains := if up then (if q.retrains = 0xFFFF then q.retrains else q.retrains + 1) else q.retrains
          downSince := if up then none else some (q.downSince.getD s.now) }
      let u := if up = true ∧ flit = true then t else
        drop { t with sec := { t.sec with ide := t.sec.ide.filter fun x => x.port != port } } fun _ => true
      exec (.linkChange port rate width flit up) s = .next
        (if q.rate = rate ∧ q.width = width ∧ q.up = up then u else raiseEvent u (.host port) 20 [(2, port)]))
    ∧ (fn ≠ 0 → exec (.flr port fn) s = .next (resetFn (drop s fun v => v == fn) port fun f => f == fn))
    ∧ (exec (.flr port 0) s = .next (modPort (resetFn (drop s fun _ => true) port fun _ => true) port fun q => { q with numVfs := 0 }))
    ∧ (q.released = true → ∃ t, exec (.perstAssert port) s = .next t
      ∧ (getPort t port).released = false ∧ (getPort t port).up = false ∧ (getPort t port).numVfs = 0 ∧ (getPort t port).msixOn = []
      ∧ (getPort t port).busMaster = [] ∧ (∀ x ∈ t.sec.ide, x.port ≠ port))
    ∧ (s.power.aux = true → exec (.perstRelease port) s = .next (modPort s port fun q => { q with released := true }))
    ∧ (q.released = true →
      exec (.configurationRequest port (.msixEnable fn true)) s = .next
        (modPort s port fun q => { q with msixOn := if fn ∈ q.msixOn then q.msixOn else q.msixOn ++ [fn] })
      ∧ exec (.configurationRequest port (.busMaster fn true)) s = .next
        (modPort s port fun q => { q with busMaster := if fn ∈ q.busMaster then q.busMaster else q.busMaster ++ [fn] })
      ∧ (∀ hot, (fn = 0 ∨ vfLocked s port fn = false) → exec (.configurationRequest port (.powerState fn hot)) s = .next
          (modPort s port fun q => { q with d3hot := setMember q.d3hot fn hot }))
      ∧ (∀ on, exec (.configurationRequest port (.pasidEnable fn on)) s = .next (modPort s port fun q => { q with pasidOn := setMember q.pasidOn fn on }))
      ∧ (∀ on, exec (.configurationRequest port (.atsEnable fn on)) s = .next
          (modPort s port fun q => { q with atsOn := setMember q.atsOn fn on, ats := if on then q.ats else [] }))
      ∧ (∀ v masked, exec (.configurationRequest port (.msixEntry fn v masked)) s = .next
          (flushMsix (modPort s port fun q => { q with msixMasked := setMember q.msixMasked (fn, v) masked }) port fn v))
      ∧ (∀ n, exec (.configurationRequest port (.numVfs n true)) s = .next
          (modPort (resetFn (drop s fun _ => true) port fun f => decide (min n 255 < f)) port fun q => { q with numVfs := min n 255 }))
      ∧ (∀ off v, ∃ t, exec (.configurationRequest port (.other fn off v)) s = .next t
          ∧ mapGet 0 (getPort t port).cfgSpace (fn * 4096 + off) = v))
    ∧ (∀ (page : Word) size, ∃ t, exec (.atsInvalidation port page size) s = .next t ∧ t.out = s.out ++ [.atsAnswer port]
      ∧ (getPort t port).ats = q.ats.filter (fun x => !(decide (page.toNat < x.1.toNat + x.2 ∧ x.1.toNat < page.toNat + size)))))

/-- R430 to R432, R531, R532: DRAIN, RESUME, OFFLINE and ONLINE act on a block that is in the state they ask for, accepts commands and has
the generation expected: they change BLK_STATE; any other is refused, recorded with the generation and raised. A draining block is READY
and HELD once its work has ended; a block in start checks becomes READY with its start values, or FAILED. -/
def Obligations.BlocksFollowTheirCommands : Prop :=
  ∀ (s : State) (w : Window) (p : PageId) (g : BitVec 32),
    let h := getHdr s p
    (Passes s w p 0x010 →
      let free := blkAccepts p = true ∧ h.st ≠ .test ∧ (g = 0 ∨ g = h.gen)
      ((free ∧ (h.st = .ready ∨ h.st = .active)) → exec (.blkCtrlDrain w p g) s = .next (setBlk s p .draining false 1))
      ∧ (¬(free ∧ (h.st = .ready ∨ h.st = .active)) → exec (.blkCtrlDrain w p g) s = .next (blkRefuse s w p))
      ∧ ((free ∧ h.st = .ready ∧ h.held = true) → exec (.resume w p g) s = .next
          (match p with
           | .kwath _ => resendMsgs (setBlk s p .ready false 1) fun m => m.plane == 16
           | _ => setBlk s p .ready false 1))
      ∧ (¬(free ∧ h.st = .ready ∧ h.held = true) → exec (.resume w p g) s = .next (blkRefuse s w p))
      ∧ ((free ∧ h.st = .ready ∧ h.held = true ∧ h.ownBolt = 0x3F) → exec (.offline w p g) s = .next (powerOff (setBlk s p .off false 1) p))
      ∧ (¬(free ∧ h.st = .ready ∧ h.held = true ∧ h.ownBolt = 0x3F) → exec (.offline w p g) s = .next (blkRefuse s w p))
      ∧ ((free ∧ h.st = .off) → exec (.online w p g) s = .next (setBlk s p .test false 1))
      ∧ (¬(free ∧ h.st = .off) → exec (.online w p g) s = .next (blkRefuse s w p)))
    ∧ (pageExists s p = true → pagePowered s p = true → h.st = .draining → workEnded s p = true →
      exec (.drainDone p) s = .next (setBlk s p .ready true 1))
    ∧ ((h.st ≠ .draining ∨ workEnded s p = false) → exec (.drainDone p) s = .next s)
    ∧ (pageExists s p = true → pagePowered s p = true → blkAccepts p = true → h.st = .test →
      (∀ q, s.st.running = some q → targetPage q.kind q.target ≠ some p) →
      exec (.onlineCheckDone p true) s = .next (blockStarts s p) ∧ exec (.onlineCheckDone p false) s = .next (blockFails s p))
    ∧ (∀ st held cause, pageExists s p = true → ¬(h.st = st ∧ h.held = held) →
      let t := setBlk s p st held cause
      (getHdr t p).st = st ∧ (getHdr t p).held = held ∧ (getHdr t p).gen = h.gen + 1 ∧ Raised t p 0 ∧ t.panels = s.panels ∧ t.bolts = s.bolts
        ∧ t.regs = s.regs ∧ t.jobs = s.jobs)

/-- R14: EVT_STATUS_CLEAR completes in every state. A write that the page takes clears the bits of its ones, and a bit that the hardware
sets at that moment ends set, whether it was set before or not; every other bit, page and register stays. With nothing set at that moment it
clears its ones alone. A write that the page does not take clears nothing, is recorded as R433 says, and loses no such bit either. -/
def Obligations.ClearsNeverLoseAnEvent : Prop :=
  ∀ (s : State) (w : Window) (p : PageId) (value raisedNow : Word),
    let r := raisedNow &&& definedEvents p
    (Passes s w p 0x018 →
      exec (.evtStatusClear w p value raisedNow) s = .next (setEvts (clearEvts s p (value &&& ~~~r)) p false (List.range 64) r)
      ∧ (r = 0 → exec (.evtStatusClear w p value raisedNow) s = .next
          (modHdr s p fun h => { h with evt := h.evt &&& ~~~value, forced := h.forced &&& ~~~value })))
    ∧ (Passes s w p 0x018 → ∃ t, exec (.evtStatusClear w p value raisedNow) s = .next t
      ∧ (∀ i, i < 64 → bit (getHdr t p).evt i = (bit (getHdr s p).evt i && !bit value i || bit raisedNow i && bit (definedEvents p) i))
      ∧ (∀ q, pageKey q ≠ pageKey p → getHdr t q = getHdr s q)
      ∧ (getHdr t p).capture = (getHdr s p).capture ∧ t.bb = s.bb ∧ t.counters = s.counters ∧ t.regs = s.regs ∧ t.panels = s.panels
      ∧ t.bolts = s.bolts ∧ t.jobs = s.jobs ∧ t.sessions = s.sessions)
    ∧ (pageExists s p = false → exec (.evtStatusClear w p value raisedNow) s = .next s)
    ∧ (pageExists s p = true → windowOn s w = false →
        exec (.evtStatusClear w p value raisedNow) s = .next (setEvts s p false (List.range 64) r))
    ∧ (pageExists s p = true → windowOn s w = true → pagePowered s p = true → mayWrite s w p 0x018 = false →
        exec (.evtStatusClear w p value raisedNow) s = .next
          (setEvts (capture s p 4 (winCode w) 0x018 (value.toNat % 2 ^ 32)) p false (List.range 64) r))

/-- R432, R446, R111, R134, R282, R389, R434: EVT_FORCE sets the page's defined bits as events do and leaves no other trace; a read by a
driver that may read re-arms its interrupt, ends the hold of a capture, or begins a minimum anew, and returns the register as it was; a
read that is not allowed returns zero and leaves nothing else behind. -/
def Obligations.ReadsEndTheirHold : Prop :=
  ∀ (s : State) (w : Window),
    let r := fun (p : PageId) (off : Nat) => { s with lastRead := readReg s w p off }
    let lane := field (getReg s .die 0x1B0) 6 0
    (∀ p v, Passes s w p 0x028 → ∃ t, exec (.evtForce w p v) s = .next t
      ∧ (∀ i, i < 64 → bit (getHdr t p).evt i = (bit (getHdr s p).evt i || (bit v i && bit (definedEvents p) i)))
      ∧ t.bb = s.bb ∧ t.counters = s.counters ∧ (getHdr t p).capture = (getHdr s p).capture ∧ t.regs = s.regs ∧ t.panels = s.panels ∧ t.jobs = s.jobs)
    ∧ (∀ port, Readable s w (.host port) → exec (.evtSum0Read w port) s = .next
      (if w = .pf port then modPort (r (.host port) 0x090) port fun q => { q with armed := true } else r (.host port) 0x090))
    ∧ (∀ port vf, Readable s w (.tenant port vf) → exec (.tenantEvtRead w port vf) s = .next
      (modVf (r (.tenant port vf) 0x018) port vf fun v => { v with armed := true }))
    ∧ (∀ p, Readable s w p → exec (.errCaptureRead w p) s = .next (modHdr (r p 0x038) p fun h => { h with captureHeld := false }))
    ∧ (∀ p, Readable s w (.panel p) → exec (.nwLastStepRead w p) s = .next (modPanel (r (.panel p) 0x4A0) p fun q => { q with nwHeld := false }))
    ∧ (∀ p, Readable s w (.seq p) → exec (.seqFaultStepRead w p) s = .next (modPanel (r (.seq p) 0x090) p fun q => { q with seqHeld := false }))
    ∧ (Readable s w .die → exec (.sigStatusRead w) s = .next { r .die 0x578 with ras := { s.ras with lost := false } })
    ∧ (Readable s w .die → exec (.eyeRead w) s = .next (modLane (r .die 0x1B8) (lane / 8) (lane % 8) fun x => { x with eyeMin := x.eye }))
    ∧ (mayRead s w .bb = true → exec (.bbRdData3Read w) s = .next
      (setBbSel { s with lastRead := bbWord s (bbSel s w) 3 } w { bbSel s w with index := (bbSel s w).index + 1 }))
    ∧ (∀ p port vf, mayRead s w p = false →
      exec (.errCaptureRead w p) s = .next { s with lastRead := 0 }
      ∧ (p = .die → exec (.sigStatusRead w) s = .next { s with lastRead := 0 } ∧ exec (.eyeRead w) s = .next { s with lastRead := 0 })
      ∧ (p = .bb → exec (.bbRdData3Read w) s = .next { s with lastRead := 0 })
      ∧ (p = .host port → exec (.evtSum0Read w port) s = .next { s with lastRead := 0 })
      ∧ (p = .tenant port vf → exec (.tenantEvtRead w port vf) s = .next { s with lastRead := 0 }))

/-- R78, R79, R109, R111, R134, R178, R205, R234, R282, R331, R358, R389: an accepted clear write sets COUNT and OVF of the counters of
its run to zero, for every tile or the selected one, counts one more clear of its page, and changes nothing else. R78, R109: a counter
counts up to 0xFFFF_FFFF_FFFF, stays there and sets OVF, and its page's event is raised once for it; a read of a counter register returns
COUNT and OVF together. -/
def Obligations.CountersClearAndSaturate : Prop :=
  (∀ (s : State) (w : Window),
    let cleared := fun (p : PageId) (clear : Nat) (c : Instr) => Passes s w p clear → ∃ t, exec c s = .next t
      ∧ (∀ first n, (first, n, clear) ∈ cntRuns p → ∀ i, i < n → getCnt t p (first + 8 * i) 0 = Counter.zero)
      ∧ (∀ k, (∀ first n i, (first, n, clear) ∈ cntRuns p → i < n → k ≠ cntKey p (first + 8 * i) 0) → mapGet Counter.zero t.counters k = mapGet Counter.zero s.counters k)
      ∧ (getHdr t p).clears = (getHdr s p).clears + 1
      ∧ t = { s with hdrs := t.hdrs, counters := t.counters }
    cleared .die 0x1A8 (.calCntClear w) ∧ cleared .die 0x280 (.kvCntClear w) ∧ cleared .die 0x3C0 (.wtCntClear w) ∧ cleared .die 0x4B8 (.fabCntClear w)
    ∧ cleared .die 0x570 (.rasCntClear w) ∧ cleared .die 0x630 (.jobelRestartsClear w) ∧ cleared .sec 0x0C0 (.secCntClear w) ∧ cleared .hk 0x100 (.hkCntClear w)
    ∧ (∀ p k, cleared (.panel p) 0x4C0 (.fmtCntClear w p) ∧ cleared (.att p) 0x098 (.attCntClear w p) ∧ cleared (.smp p) 0x098 (.smpCntClear w p)
      ∧ cleared (.seq p) 0x0B0 (.seqCntClear w p) ∧ cleared (.kwath p) 0x0B8 (.kwCntClear w p) ∧ cleared (.host p) 0x0E0 (.hostCntClear w p)
      ∧ cleared (.slice p k) 0x098 (.netCntClear w (.slice p k)) ∧ cleared (.router p) 0x0A8 (.netCntClear w (.router p))
      ∧ cleared (.half p) 0x0A8 (.netCntClear w (.half p)))
    ∧ (∀ p, Passes s w (.panel p) 0x430 →
      let sel := field (getReg s (.panel p) 0x400) 4 0
      (∃ t, exec (.clearTile w p) s = .next t ∧ (∀ i, i < 5 → getCnt t (.panel p) (0x408 + 8 * i) sel = Counter.zero)
        ∧ (∀ tile i, tile < 32 → tile ≠ sel → i < 5 → getCnt t (.panel p) (0x408 + 8 * i) tile = getCnt s (.panel p) (0x408 + 8 * i) tile)
        ∧ (getHdr t (.panel p)).clears = (getHdr s (.panel p)).clears + 1 ∧ t = { s with hdrs := t.hdrs, counters := t.counters })
      ∧ (∃ t, exec (.clearAll w p) s = .next t ∧ (∀ tile i, tile < 24 → i < 5 → getCnt t (.panel p) (0x408 + 8 * i) tile = Counter.zero)
        ∧ (getHdr t (.panel p)).clears = (getHdr s (.panel p)).clears + 1 ∧ t = { s with hdrs := t.hdrs, counters := t.counters })))
  ∧ (∀ (s : State) (p : PageId) (off tile n : Nat), pageExists s p = true → n ≠ 0 →
    let c := getCnt s p off tile
    let t := bumpTile s p off tile n
    (getCnt t p off tile).count.toNat = min 0xFFFFFFFFFFFF (c.count.toNat + n)
    ∧ ((getCnt t p off tile).ovf = true ↔ c.ovf = true ∨ 0xFFFFFFFFFFFF ≤ c.count.toNat + n)
    ∧ (0xFFFFFFFFFFFF ≤ c.count.toNat + n → c.ovf = false → Raised t p (cntEvent p off))
    ∧ ((c.count.toNat + n < 0xFFFFFFFFFFFF ∨ c.ovf = true) → t = { s with counters := t.counters })
    ∧ (∀ k, k ≠ cntKey p off tile → mapGet Counter.zero t.counters k = mapGet Counter.zero s.counters k))

/-- R11: an access of any other size or alignment than an aligned 64-bit or 32-bit one changes no register: its page records it with code 1
(the host port page, for a ring page), and a read returns 0xFFFF_FFFF_FFFF_FFFF; an aligned read returns the register or its half. R4, R10,
R11, R13, R109, R427 to R430, R433, R437: an aligned write of a register of a page that the window may write takes effect on the addressed
half or the whole; a stored register takes its writable bits when they keep its ranges, and the write is dropped and recorded with code 2
when they do not; RESET_EST clears the panel's estimates; a write that the window may not make is recorded with code 4, and one to a page
that is not there is dropped in silence. -/
def Obligations.RegisterAccessesAct : Prop :=
  (∀ (s : State) (w : Window) (addr size : Nat) (value : Word),
    ¬(size = 8 ∧ addr % 8 = 0 ∨ size = 4 ∧ addr % 4 = 0) →
    (∀ p off, windowOn s w = true → targetOf w addr = .page p off → pageExists s p = true → pagePowered s p = true →
      exec (.registerWrite w addr size value) s = .next (capture s p 1 (winCode w) off (value.toNat % 2 ^ 32))
      ∧ exec (.accessSizeError w addr size true value) s = .next (capture s p 1 (winCode w) off (value.toNat % 2 ^ 32))
      ∧ exec (.accessSizeError w addr size false value) s = .next { capture s p 1 (winCode w) off 0 with lastRead := BitVec.allOnes 64 })
    ∧ (∀ n off port ring, windowOn s w = true → targetOf w addr = .ring n off → pageRing s w n = some (port, ring) →
      exec (.registerWrite w addr size value) s = .next (capture s (.host port) 1 (winCode w) off ring)
      ∧ exec (.accessSizeError w addr size true value) s = .next (capture s (.host port) 1 (winCode w) off ring))
    ∧ (∃ t, exec (.accessSizeError w addr size false value) s = .next t ∧ t.lastRead = 0xFFFFFFFFFFFFFFFF))
  ∧ (∀ (s : State) (w : Window) (p : PageId) (addr size off : Nat) (value : Word),
    (size = 8 ∧ addr % 8 = 0 ∨ size = 4 ∧ addr % 4 = 0) → windowOn s w = true → targetOf w addr = .page p off →
    let m := accessMask addr size
    let v := accessValue addr size value
    (Passes s w p off → exec (.registerWrite w addr size value) s = .next (writeReg s w p (off / 8 * 8) off m v value.toNat))
    ∧ (readAt s w addr size = (if size = 8 then readReg s w p (off / 8 * 8)
        else if addr % 8 = 4 then readReg s w p (off / 8 * 8) >>> 32 else readReg s w p (off / 8 * 8) &&& 0xFFFFFFFF))
    ∧ (pageExists s p = true → pagePowered s p = true → mayWrite s w p off = false →
      exec (.registerWrite w addr size value) s = .next (capture s p 4 (winCode w) off (value.toNat % 2 ^ 32)))
    ∧ (pageExists s p = false → exec (.registerWrite w addr size value) s = .next s)
    ∧ (Passes s w p off → off / 8 * 8 = 0x020 →
      let x := ((getReg s p 0x020 &&& ~~~m) ||| v) &&& definedEvents p
      ∃ t, exec (.registerWrite w addr size value) s = .next t ∧ getReg t p 0x020 = x
        ∧ (∀ q o, regKey q o ≠ regKey p 0x020 → getReg t q o = getReg s q o)
        ∧ t.hdrs = s.hdrs ∧ t.panels = s.panels ∧ t.jobs = s.jobs ∧ t.bolts = s.bolts ∧ t.counters = s.counters)
    ∧ (∀ i, p = .panel i → off / 8 * 8 = 0x540 → Passes s w p off →
      let x := ((getReg s p 0x540 &&& ~~~m) ||| v) &&& 0x3FF
      exec (.registerWrite w addr size value) s = .next
        (if 1 ≤ field x 9 0 ∧ field x 9 0 ≤ 1000 then markDirty (setReg s p 0x540 x) else capture s p 2 (winCode w) off (value.toNat % 2 ^ 32)))
    ∧ (∀ i u, Passes s w (.panel i) 0x480 → nwCtrlOk (u ||| bitOf 32) = true → ∃ t, exec (.resetEst w i u) s = .next t
      ∧ (getPanel t i).est = [] ∧ getReg t (.panel i) 0x480 = u &&& 0xFF0FFF1F ∧ t.hdrs = s.hdrs ∧ t.jobs = s.jobs ∧ t.bolts = s.bolts))

/-! ### Power, start, self-test and repair -/

/-- R455 to R457, R478, R480: the input stage: AUX and a start above 40 V, the switch charging 100 ms above 43 V, power-good, the rails
lost below 40 V with a pending commit done and the black box flushed, the switch opened with a rail trip by an overvoltage or a hard
overcurrent, and closed again after 1 s below 60 V. R460, R469 to R471, R492: a rail trip and a hardware trip remove the compute rails,
record and signal it, flush the black box and leave the module in limp mode, the trip posting nothing; an orderly stop that has sealed its
steps, or waited 10 ms, does the same; after a stop or trip the module starts again once it has been below 70 °C for 30 s, and after a
rail trip or when it is LOCKED only HK_CMD.RESTART starts it. -/
def Obligations.InputStageAndProtections : Prop :=
  (∀ (s : State) (mv : Nat),
    (s.power.vinMv ≤ 40000 → 40000 < mv → ∃ t, exec (.inputRise mv) s = .next t ∧ t.power.aux = true ∧ t.power.vinMv = mv ∧ t.start.phase = 0
      ∧ t.start.limp = 0 ∧ t.bb = s.bb ∧ t.regs = s.regs ∧ (43000 < mv → s.power.above43 = none → t.power.above43 = some s.now))
    ∧ (∀ t0, s.power.above43 = some t0 → s.power.hotswap = .opened → s.power.ovOpen = false → exec .hotswapClose s = .next
      (if t0 + 100000 ≤ s.now then { s with power := { s.power with hotswap := .charging } } else s))
    ∧ (s.power.hotswap = .charging → exec .powerGood s = .next (startAdvance { s with power := { s.power with hotswap := .closed, powerGood := true } }))
    ∧ (mv < 40000 → 40000 < s.power.vinMv → ∃ t, exec (.inputFall mv) s = .next t ∧ t.power.compute = false ∧ t.power.vinMv = mv
      ∧ t.power.hotswap = .opened ∧ t.power.aux = s.power.aux ∧ t.jobs = [] ∧ t.panels = [] ∧ t.rings = []
      ∧ (s.sec.pufOk = true → t.start.dirty = none) ∧ (s.bb.live ≠ [] → s.bb.lastFlushed = none → t.bb.flushing ≠ none))
    ∧ (62000 < mv → s.power.aux = true → s.power.hotswap ≠ .opened → exec (.inputOvervoltage mv) s = .next
      (protect { s with power := { s.power with vinMv := mv, hotswap := .opened, ovOpen := true, below60 := none, powerGood := false } } 4 1))
    ∧ (∀ ma, 32000 < ma → s.power.aux = true → s.power.hotswap ≠ .opened → exec (.hardOvercurrent ma) s = .next
      (protect { s with power := { s.power with inputMa := ma, hotswap := .opened, powerGood := false } } 4 2))
    ∧ (s.power.ovOpen = true → exec (.hotswapReclose mv) s = .next
      (let p := s.power
       if 60000 ≤ mv then { s with power := { p with vinMv := mv, below60 := none } }
       else match p.below60 with
         | none => { s with power := { p with vinMv := mv, below60 := some s.now } }
         | some t0 => if t0 + 1000000 ≤ s.now then { s with power := { p with vinMv := mv, below60 := none, ovOpen := false, hotswap := .charging } }
                      else { s with power := { p with vinMv := mv } }))
    ∧ (s.power.vinMv ≤ 40000 → s.power.aux = true → ∃ t, exec .powerLoss s = .next t ∧ t.power.aux = false ∧ t.power.compute = false ∧ t.bb.live = []
      ∧ t.bb.slotA = s.bb.slotA ∧ t.bb.slotB = s.bb.slotB ∧ t.start.area = s.start.area ∧ t.start.secA = s.start.secA ∧ t.start.secB = s.start.secB
      ∧ t.start.cfgA = s.start.cfgA ∧ t.start.cfgB = s.start.cfgB))
  ∧ (∀ (s : State) (w : Window) (rail : Nat),
    (s.power.compute = true → s.start.restarting = false → s.start.limp = 0 → ∃ t, exec (.railTrip rail) s = .next t
      ∧ t.power.compute = false ∧ t.start.limp = 4 ∧ t.start.phase = (if s.start.phase = 9 then 9 else 8) ∧ t.panels = [] ∧ Raised t .die 25)
    ∧ (s.power.compute = false → exec (.railTrip rail) s = .next s)
    ∧ (s.power.aux = true → s.power.tripLatch = false → s.start.restarting = false → s.start.limp = 0 → ∃ t, exec .thermalTrip s = .next t
      ∧ t.power.tripLatch = true ∧ t.power.compute = false ∧ (t.start.limp = 6 ∨ t.start.limp = 7) ∧ t.jobs = [] ∧ t.rings = [] ∧ t.panels = []
      ∧ Raised t .hk 19 ∧ (s.hk.stops = [] → t.start.limp = 6))
    ∧ (∀ t0, s.hk.stopping = some t0 → s.start.restarting = false → (t0 + 10000 ≤ s.now ∨ stepsOpen s = false) → exec .stopSealTimeout s = .next
      (let t := noteStop (powerSig (endEverything s 0x17) 2)
       downState (enterLimp (startFlush t 4) (if 3 ≤ t.hk.stops.length then 7 else 5) true)))
    ∧ (∀ t0, s.hk.stopping = some t0 → s.now < t0 + 10000 → stepsOpen s = true → exec .stopSealTimeout s = .next s)
    ∧ ((s.start.limp = 5 ∨ s.start.limp = 6) → bit (getReg s .hk 0x080) 40 = true → s.start.restarting = false → s.power.aux = true →
      (∃ t0, s.power.cmp70 = some t0 ∧ t0 + 30000000 ≤ s.now) → ∃ t, exec .autoRestart s = .next t
        ∧ t.start.phase = 0 ∧ t.start.limp = 0 ∧ t.power.tripLatch = false ∧ t.power.thermalLimit = 27 ∧ t.regs = s.regs)
    ∧ (s.start.limp ≠ 5 → s.start.limp ≠ 6 → exec .autoRestart s = .next s)
    ∧ (Passes s w .hk 0x0D0 → exec (.restart w) s = .next
      (if (s.start.limp = 4 ∨ s.start.limp = 7) ∧ s.power.cmp70 ≠ none ∧ s.start.restarting = false then beginRestart s
       else capture s .hk 5 (winCode w) 0x0D0 1)))

/-- R462: without the rails, or outside READY, the governor moves nothing; while the input current exceeds the effective limit, one
interval moves one thing: both rails down by 5 mV above their minimums, then the array duty above its floor, then the attention duty above
its floor, then the duties in turn down to 1/64; the duties and rails otherwise stay. R465 to R468: a converter's conversion is the newest
reading of its sequence's channel and the sequence goes on; an urgent trigger runs the injected sequence; a thermal step lowers the limit
by 1 A, to no lower than 8 A, counts and is raised; the limit rises by 1 A each RECOVER interval, up to 27 A. -/
def Obligations.GovernorAndThermalLoop : Prop :=
  (∀ (s : State) (ma : Nat),
    ((s.power.compute = false ∨ s.start.restarting = true ∨ s.start.phase ≠ 7) → exec (.governorInterval ma) s = .next s) ∧
    (s.power.compute = true → s.start.restarting = false → s.start.phase = 7 → compActs s = false →
    let b := getReg s .hk 0x0B8
    let f := getReg s .hk 0x0B0
    let p := s.power
    field b 7 0 ≤ p.arrRail → p.arrRail ≤ field b 15 8 → field b 23 16 ≤ p.logRail → p.logRail ≤ field b 31 24 →
    (ma ≤ effLimit s * 1000 → exec (.governorInterval ma) s = .next
      (underLimit { s with power := { p with inputMa := ma } } ma (effLimit s * 1000) false))
    ∧ (effLimit s * 1000 < ma → ∃ t, exec (.governorInterval ma) s = .next t ∧ t.power.thermalLimit = p.thermalLimit ∧ t.regs = s.regs ∧ t.panels = s.panels ∧ t.jobs = s.jobs
      ∧ ((field b 7 0 < p.arrRail ∨ field b 23 16 < p.logRail) →
          t.power.arrRail = (if field b 7 0 < p.arrRail then p.arrRail - 1 else p.arrRail)
          ∧ t.power.logRail = (if field b 23 16 < p.logRail then p.logRail - 1 else p.logRail)
          ∧ t.power.arrDuty = p.arrDuty ∧ t.power.attDuty = p.attDuty)
      ∧ (p.arrRail = field b 7 0 → p.logRail = field b 23 16 → t.power.arrRail = p.arrRail ∧ t.power.logRail = p.logRail
          ∧ (field f 14 8 < p.arrDuty → t.power.arrDuty = p.arrDuty - 1 ∧ t.power.attDuty = p.attDuty)
          ∧ (p.arrDuty ≤ field f 14 8 → field f 22 16 < p.attDuty → t.power.attDuty = p.attDuty - 1 ∧ t.power.arrDuty = p.arrDuty)
          ∧ (p.arrDuty ≤ field f 14 8 → p.attDuty ≤ field f 22 16 → p.arrDuty ≤ 1 → p.attDuty ≤ 1 →
              t.power.arrDuty = p.arrDuty ∧ t.power.attDuty = p.attDuty)
          ∧ (p.arrDuty ≤ field f 14 8 → p.attDuty ≤ field f 22 16 → 1 < p.arrDuty → 1 < p.attDuty →
              (t.power.arrDuty + 1 = p.arrDuty ∧ t.power.attDuty = p.attDuty ∧ t.power.arrTurn = false ∧ p.arrTurn = true)
              ∨ (t.power.attDuty + 1 = p.attDuty ∧ t.power.arrDuty = p.arrDuty ∧ t.power.arrTurn = true ∧ p.arrTurn = false))))))
  ∧ (∀ (s : State) (value : Int),
    (∀ ch, s.power.aux = true → ch = field (hkPass s false).1 (4 * s.hk.posA + 3) (4 * s.hk.posA) →
      ∃ t, exec (.hkConversion false value) s = .next t
        ∧ mapGet none t.hk.readings ch = some { value := value, fast := s.hk.fast, hkB := false, time := s.now }
        ∧ t.hk.posA = (s.hk.posA + 1) % (hkPass s false).2 ∧ t.hk.passA = hkPass s false
        ∧ (∀ k, k ≠ ch → mapGet none t.hk.readings k = mapGet none s.hk.readings k) ∧ t.hk.posB = s.hk.posB)
    ∧ (∀ ch, s.power.aux = true → ch = field (hkPass s true).1 (4 * s.hk.posB + 3) (4 * s.hk.posB) →
      ∃ t, exec (.hkConversion true value) s = .next t
        ∧ mapGet none t.hk.readings ch = some { value := value, fast := false, hkB := true, time := s.now }
        ∧ t.hk.posB = (s.hk.posB + 1) % (hkPass s true).2 ∧ t.hk.passB = hkPass s true
        ∧ (∀ k, k ≠ ch → mapGet none t.hk.readings k = mapGet none s.hk.readings k) ∧ t.hk.posA = s.hk.posA)
    ∧ (∀ trigger values, s.power.aux = true → trigger < 3 → values.length < (injected s).length →
      exec (.hkInjected trigger values) s = .next { s with hk := { s.hk with injPending := true } })
    ∧ (∀ trigger values, s.power.aux = true → trigger < 3 → (injected s).length ≤ values.length → ∃ t, exec (.hkInjected trigger values) s = .next t
      ∧ t.hk.injPending = false ∧ t.hk.posB = s.hk.posB ∧ t.regs = s.regs ∧ t.panels = s.panels)
    ∧ (s.hk.plaus = false → s.start.restarting = false → s.start.phase = 7 → throttleRate s < s.hk.rate →
      (∀ t, s.hk.lastStep = some t → t + 100000 ≤ s.now) → ∃ t, exec .throttle s = .next t
        ∧ t.power.thermalLimit = max 8 (s.power.thermalLimit - 1) ∧ t.hk.lastStep = some s.now ∧ Raised t .hk 17
        ∧ t.power.arrRail = s.power.arrRail ∧ t.power.logRail = s.power.logRail ∧ t.power.arrDuty = s.power.arrDuty ∧ t.panels = s.panels ∧ t.jobs = s.jobs)
    ∧ (s.hk.rate ≤ throttleRate s → exec .throttle s = .next s)
    ∧ (∀ t0, s.hk.lastRecover = some t0 → s.hk.plaus = false → s.start.restarting = false → s.start.phase = 7 → s.hk.stopping = none →
      s.power.thermalLimit < 27 → t0 + 1000000 * field (getReg s .hk 0x080) 47 44 ≤ s.now → exec .thermalRecover s = .next
        { s with power := { s.power with thermalLimit := s.power.thermalLimit + 1 }, hk := { s.hk with lastRecover := some s.now } }))

/-- R398, R477 to R486: a change of retained state is committed to the older copy with its tag, which verifies under the same root; without
the root nothing is committed (DEDUCED, log entry 244); a full start restores the copies that verify, or stops in
limp mode with the first cause that it finds; a crossing that aligns leaves the list and one that fails three times is FAILED; in RECOVERY
the first GO of a PF starts the load of an image, which is verified and started or waited for again. R384, R485, R487, R488, R493: FW_LOAD
of an image that verifies writes it, after the loads before it, and any other is answered with the check that it fails; when the write is
done the load completes and ACTIVATE restarts Jobel alone; a restarted Jobel runs the area's image, re-reads the units that changed,
counts, raises and lets what waited go on. -/
def Obligations.StartsFirmwareAndRecovery : Prop :=
  (∀ (s : State) (w : Window),
    (s.start.dirty ≠ none → s.start.restarting = false → s.sec.pufOk = true → ∃ t, exec .retainedCommit s = .next t ∧ t.start.dirty = none
      ∧ (s.start.secB.gen < s.start.secA.gen → s.start.secA.area ≠ areaNow s →
          t.start.secB = sealSec s (s.start.secA.gen + 1) (areaNow s) ∧ t.start.secA = s.start.secA)
      ∧ (s.start.secA.gen ≤ s.start.secB.gen → s.start.secB.area ≠ areaNow s →
          t.start.secA = sealSec s (s.start.secB.gen + 1) (areaNow s) ∧ t.start.secB = s.start.secB)
      ∧ ((if s.start.secB.gen < s.start.secA.gen then s.start.secA else s.start.secB).area = areaNow s →
          t.start.secA = s.start.secA ∧ t.start.secB = s.start.secB)
      ∧ t = { s with start := t.start })
    ∧ (s.sec.pufOk = false → exec .retainedCommit s = .next s)
    ∧ (∀ gen area, s.sec.pufOk = true → secVerifies s true (sealSec s gen area) = true)
    ∧ (∀ f : StartFindings, s.start.phase = 0 → s.power.aux = true → s.start.fwWriting = none →
      let s1 := freshStart s
      (f.pufOk = false → exec (.fullStart f) s = .next (pufFails s1))
      ∧ (f.pufOk = true → secVerifies s1 f.secAOk s1.start.secA = false → secVerifies s1 f.secBOk s1.start.secB = false →
          exec (.fullStart f) s = .next (startStops s1 3))
      ∧ (∀ b, f.pufOk = true →
        pickCopy (secVerifies s1 f.secAOk s1.start.secA) (secVerifies s1 f.secBOk s1.start.secB) s1.start.secA.gen s1.start.secB.gen = some b →
        let s2 := { s1 with start := { s1.start with vendorOk := f.vendorOk, findings := some f } }
        exec (.fullStart f) s = .next
          (if f.vendorOk = true then startFirmware (restoreCfg (restoreSec s2 b)
             (pickCopy (cfgVerifies s2 f.cfgAOk s2.start.cfgA) (cfgVerifies s2 f.cfgBOk s2.start.cfgB) s2.start.cfgA.gen s2.start.cfgB.gen))
           else startStops s2 3)))
    ∧ ((s.start.phase ≠ 0 ∨ s.power.aux = false) → ∀ f, exec (.fullStart f) s = .next s)
    ∧ (∀ i n f, s.start.phase = 4 → s.start.islands.find? (fun x => x.1 == i) = some (i, n) → s.start.findings = some f →
      let rest := s.start.islands.filter fun x => x.1 != i
      let t := { s with start := { s.start with islands := rest } }
      (n < 2 → exec (.islandAlign i false) s = .next
        { s with start := { s.start with islands := s.start.islands.map fun x => if x.1 = i then (i, n + 1) else x } })
      ∧ exec (.islandAlign i true) s = .next (if rest = [] then startReady t f else t)
      ∧ (2 ≤ n → exec (.islandAlign i false) s = .next (if rest = [] then startReady (islandFails t i) f else islandFails t i)))
    ∧ (∀ port v, w = .pf port → Passes s w .die 0x618 → bit v 32 = true → s.start.phase = 9 →
      (s.start.recState = 1 → exec (.go w v) s = .next { s with start := { s.start with recState := 2, recPort := port, recLen := field v 22 0 } })
      ∧ (s.start.recState ≠ 1 → exec (.go w v) s = .next (capture s .die 5 (winCode w) 0x618 (v.toNat % 2 ^ 32))))
    ∧ (s.start.phase = 9 → s.start.recState = 2 →
      exec (.recoveryLoadDone .dmaError) s = .next { s with start := { s.start with recState := 1, recResult := 4 } }
      ∧ (∀ m, fwFault s m ≠ 0 → exec (.recoveryLoadDone (.ok m)) s = .next { s with start := { s.start with recState := 1, recResult := fwFault s m } })
      ∧ (∀ m, fwFault s m = 0 → exec (.recoveryLoadDone (.ok m)) s = .next
          (startFirmware { s with start := { s.start with fw := some m, recState := 0, recResult := 0, limp := 0, phase := 2 } }))))
  ∧ (∀ (s : State) (w : Window) (id : Nat) (m : FwImage) (d : Dispatched),
    (Admitted s id 0x30 fromPf d →
      (fwFault s m = 1 → exec (.fwLoad id m) s = .next (finishEntry s d 0x30 0))
      ∧ (fwFault s m = 2 → exec (.fwLoad id m) s = .next (finishEntry s d 0x2E 0))
      ∧ (fwFault s m = 3 → exec (.fwLoad id m) s = .next (finishEntry s d 0x2F 0))
      ∧ (fwFault s m = 0 →
        let x : FwWrite := { image := m, activate := bit d.entry.arg0 0, job := d.id }
        let t := startJob s d (jobOf d .firmware)
        exec (.fwLoad id m) s = .next (match s.start.fwWriting with
          | some _ => { t with start := { s.start with fwWaiting := s.start.fwWaiting ++ [x] } }
          | none => { t with start := { s.start with fwWriting := some x } })))
    ∧ (∀ x, s.start.fwWriting = some x → s.start.restarting = false → exec .firmwareWriteDone s = .next
      (let t := closeJobId { s with start := { s.start with
          fw := some x.image
          fwWriting := s.start.fwWaiting.head?
          fwWaiting := s.start.fwWaiting.drop 1 } } x.job 0 0
       if x.activate = true ∧ jobelRuns t = true then jobelRestart t else t))
    ∧ (Passes s w .jobel 0x080 → jobelRuns s = true → exec (.jobelCmdRestart w) s = .next (jobelRestart s))
    ∧ (jobelRuns s = true → exec .jobelWatchdog s = .next (jobelRestart (startFlush s 6)))
    ∧ (jobelRuns s = false → exec .jobelWatchdog s = .next s)
    ∧ (s.start.restarting = true → s.power.protection = [] →
      let s1 := { s with start := { s.start with restarting := false, phase := if inLimp s then 8 else 7 } }
      let s2 := match s.start.fw with | some m => runFirmware s1 m | none => s1
      let s3 := raiseEvent (bump (rereadMirror s2) .die 0x628) .die 26 []
      exec .jobelRestarted s = .next (pumpLoads { s3 with power := { s3.power with protection := [] } }))
    ∧ (let t := jobelRestart s
       t.start.restarting = true ∧ t.start.phase = 10 ∧ t.panels = s.panels ∧ t.bolts = s.bolts ∧ t.jobs = s.jobs ∧ t.rings = s.rings ∧ t.regs = s.regs
         ∧ t.power = s.power ∧ t.fab = s.fab))

/-- R495 to R501, R511: SELF_TEST with room for its records, or ST_CMD, queues its targets; the target under test passes when its
signature is the golden one of its kind and stepping, and is FAILED otherwise, with its result, its record and its place in the
signatures. R387, R502, R505 to R507, R509 to R511: a flush takes the live records to the slot of the older generation unless one runs or
nothing is newer; its end makes the slot valid with the next generation, or leaves the other slot alone; CLEAR_STORE makes both invalid, a
new EPOCH is recorded, and BB_READ and SIG_READ write what fits of the records asked for. -/
def Obligations.SelfTestsAndTheBlackBox : Prop :=
  (∀ (s : State) (w : Window) (id : Nat) (d : Dispatched) (v : Word),
    (Admitted s id 0x31 fromPf d →
      let plan := selfTestPlan (arg0 d 3 0) (arg1 d 63 0)
      exec (.selfTest id) s = .next
        (if d.entry.outLen < 16 * plan.length then finishEntry s d 0x21 0
         else if plan = [] then finishEntry s d 0 0
         else stQueue (startJob s d (jobOf d .selfTest)) (plan.map fun x => { kind := x.1, target := x.2, job := some d.id })))
    ∧ (Passes s w .bb 0x0C8 →
      let t := field v 13 8
      let k := field v 1 0
      exec (.stCmd w v) s = .next
        (if targetNamed t = false then capture s .bb 2 (winCode w) 0x0C8 (v.toNat % 2 ^ 32)
         else if bit v 16 = true ∧ kindApplies k t = true then stQueue s [{ kind := k, target := t, job := none }] else s))
    ∧ (s.st.running = none → ∀ sig n, exec (.selfTestTargetDone sig n) s = .next s)
    ∧ (∀ q sig n, s.st.running = some q → s.st.queue = [] → q.job = none → q.kind ≤ 2 → q.target < panelsEn s → s.start.limp = 0 →
      ∃ t, exec (.selfTestTargetDone sig n) s = .next t ∧ t.st.running = none ∧ t.st.lastSig = sig ∧ Raised t .bb 16
        ∧ t.st.lastResult = (if sig = Config.golden q.kind s.stepping then 0 else 1)
        ∧ (sig ≠ Config.golden q.kind s.stepping → (getHdr t (.panel q.target)).st = .failed ∧ Raised t .bb 17)
        ∧ (sig = Config.golden q.kind s.stepping → (getHdr t (.panel q.target)).st = s.st.before)
        ∧ t.regs = s.regs ∧ t.jobs = s.jobs ∧ t.bolts = s.bolts))
  ∧ (∀ (s : State) (w : Window) (id : Nat) (d : Dispatched) (v : Word),
    (∀ trigger, 1 ≤ trigger → trigger ≤ 7 → exec (.bbFlush trigger) s = .next (startFlush s trigger))
    ∧ (Passes s w .bb 0x098 →
      exec (.flush w) s = .next (startFlush s 7)
      ∧ (s.bb.flushing = none → exec (.clearStore w) s = .next
          { s with bb := { s.bb with slotA := { s.bb.slotA with valid := false }, slotB := { s.bb.slotB with valid := false } } })
      ∧ (s.bb.flushing ≠ none → exec (.clearStore w) s = .next (capture s .bb 5 (winCode w) 0x098 2)))
    ∧ (Passes s w .bb 0x080 → exec (.bbEpoch w v) s = .next
      (bbRecord { s with bb := { s.bb with epoch := v } } .bb 0x101 [BitVec.ofNat 8 (winCode w)]))
    ∧ (∀ trigger, s.bb.flushing ≠ none → startFlush s trigger = s)
    ∧ (∀ trigger r f, s.bb.live.getLast? = some r → s.bb.lastFlushed = some f → r.seq = f → startFlush s trigger = s)
    ∧ (∀ f, s.bb.flushing = some f → ∃ t, exec (.bbFlushed true) s = .next t ∧ t.bb.flushing = none
      ∧ (f.slotB = true → t.bb.slotB = { valid := true, gen := s.bb.slotA.gen + 1, recs := f.recs } ∧ t.bb.slotA = s.bb.slotA)
      ∧ (f.slotB = false → t.bb.slotA = { valid := true, gen := s.bb.slotB.gen + 1, recs := f.recs } ∧ t.bb.slotB = s.bb.slotB)
      ∧ Raised t .bb 18)
    ∧ (∀ f, s.bb.flushing = some f → ∃ t, exec (.bbFlushed false) s = .next t ∧ t.bb.flushing = none ∧ t.bb.slotA = s.bb.slotA ∧ t.bb.slotB = s.bb.slotB
      ∧ Raised t .bb 19)
    ∧ (Admitted s id 0x32 fromPf d →
      let out := ((bbSource s (arg0 d 1 0)).filter fun r => decide ((r.seq - d.entry.arg1).toNat < 2 ^ 63)).take (d.entry.outLen / 32)
      exec (.bbRead id) s = .next (finishOutput s d (out.flatMap bbBytes) out.length))
    ∧ (Admitted s id 0x28 fromPf d →
      let out := (s.ras.sigs.filter fun g => !g.read).take (d.entry.outLen / 192)
      ∃ t, exec (.sigRead id) s = .next t
        ∧ t.ras.sigs = s.ras.sigs.map (fun g => if g.seq ∈ out.map (fun x => x.seq) then { g with read := true } else g)
        ∧ t.bb = s.bb ∧ t.hdrs = s.hdrs ∧ t.regs = s.regs ∧ t.jobs = s.jobs))

/-- R361, R365 to R367, R372, R375 to R378, R385: a swatch whose checker copy holds its block is compared with the result evaluated anew: it
passes, is void, or fails and calls a referee; checker copies rotate when ROTATE has passed; the wide lane gives the verdict where there is
no referee; a repair whose arrays are programmed and whose unit is at a pleat boundary puts the spare in the unit's place, and the array
that leaves is retired and waits for its zeroisation; a unit that answers no management read twice with no command completed between is
FAILED. -/
def Obligations.SwatchesVerdictsAndRepairs : Prop :=
  ∀ (s : State) (id nw : Nat),
    (∀ w b, s.ras.swatches.find? (fun w => w.id == id && !w.failed) = some w → getBolt s w.bolt = some b →
      let held := b.checkers.any fun c => c.ready && c.arr == w.checker && c.panel == panelRel w.bolt b w.panel && c.number == w.number
      let r := reEval (getArr s w.checker).image false (driftOf s (getArr s w.checker)) w.inputs s.freeCtr
      let t := { s with freeCtr := r.2.2 }
      let tol := swatchTol w (modeFigure s w.mode w.panel w.tile) (arrFigure s w.mode w.checker)
      (held = false → exec (.swatchCompare id) s = .next (dropSwatch (bumpFor s .die 0x520 w.ids) w))
      ∧ (held = true → exec (.swatchCompare id) s = .next
        (match compareLanes w.mode w.lanes w.ew r.1 r.2.1 tol with
         | .pass => dropSwatch t w
         | .void => dropSwatch (bumpFor t .die 0x520 w.ids) w
         | .fail _ _ => failSwatch t w r.1 r.2.1)))
    ∧ (∀ b, getBolt s nw = some b → s.start.restarting = false → b.phase = 4 → exec (.checkerRotate nw) s = .next
      (if b.lastRotate + 1000000 * b.rotateSec ≤ s.now then feedCheckers (rotateCheckers s nw) nw else s))
    ∧ (∀ w b, s.start.restarting = false → s.ras.swatches.find? (fun w => w.id == id && w.failed && !w.lanes.isEmpty) = some w → getBolt s w.bolt = some b →
      (∀ t ∈ b.steps, id ∉ t.swatches) →
      (w.referee = none → exec (.refereeRun id) s = .next (wideVerdict s w b))
      ∧ (∀ a, w.referee = some a → (∀ r ∈ s.arrays.waiting, r.target ≠ a) → (getArr s a).st = .programmed →
        let r := reEval (getArr s a).image false (driftOf s (getArr s a)) w.inputs s.freeCtr
        let t := { s with freeCtr := r.2.2 }
        let qr := arrFigure s w.mode a
        let x := agrees w w.lanes w.ew r.1 r.2.1 (modeFigure s w.mode w.panel w.tile) qr
        let y := agrees w w.checkLanes w.checkEw r.1 r.2.1 (arrFigure s w.mode w.checker) qr
        (x = true → y = false → exec (.refereeRun id) s = .next (applyVerdict t w false true))
        ∧ (x = false → y = true → exec (.refereeRun id) s = .next (applyVerdict t w true false))
        ∧ (x = y → exec (.refereeRun id) s = .next (wideVerdict t w b))))
    ∧ (∀ p tile arr spare, s.start.restarting = false → s.ras.repairs.find? (fun x => x.1 == RepairUnit.array p tile arr) = some (.array p tile arr, spare) →
      let u := RepairUnit.array p tile arr
      repairReady s u spare = true → arrAtBoundary s p tile arr = true →
      let old := physArr s p tile arr
      let new := (repairPairs s u spare).map Prod.fst
      let ids := [(6, p), (5, tile), (5, arr)]
      let s1 := retireUnit s u
      let s2 := swapUnit { s1 with ras := { s1.ras with repairs := s1.ras.repairs.filter fun x => x.1 != u } } u spare
      let s3 := bumpFor (raiseEvent s2 .die 58 ids) .die 0x538 ids
      let s4 := writeSig s3 { SigInfo.plain 0 1 0x10 with logical := some (p, tile, arr), physical := some (physSig old), action := some 1 }
      exec (.repairComplete u) s = .next (calEvaluate (pumpLoads (settleVerdicts (repairedLoads s4 (old :: new)))) [(p, tile)])
        ∧ physArr s2 p tile arr = { old with arr := spare }
        ∧ (getArr s1 old).st = .retired ∧ (∃ r ∈ s1.arrays.waiting, r.target = old ∧ r.kind = .zeroise))
    ∧ (∀ page, s.start.restarting = false → pageExists s page = true → pagePowered s page = true →
      let k := pageKey page
      let again := mapGet 0 s.ras.unanswered k ≠ 0 ∧ mapGet 0 s.ras.progress k = unitProgress s page
      (¬again → exec (.mgmtReadTimeout page) s = .next { s with ras := { s.ras with
          unanswered := mapSet 0 s.ras.unanswered k 1, progress := mapSet 0 s.ras.progress k (unitProgress s page) } })
      ∧ (again → exec (.mgmtReadTimeout page) s = .next
          (let t := { s with ras := { s.ras with unanswered := mapDel s.ras.unanswered k, progress := mapDel s.ras.progress k } }
           match page with
           | .kwath n => downPlane (failUnit t page 6 7 none) s.fab.addr n
           | _ => failUnit t page 2 7 ((pagePanel page).map fun p => .panel p))))

/-! ### What stays, and what holds at reset -/

/-- R468, R469: the thermal limit never leaves 8 A to 27 A: every step that begins with it there ends with it there. -/
def Obligations.ThermalLimitStaysInRange : Prop := ∀ s t : State, ThermalLimitOk s → step s = .next t → ThermalLimitOk t

/-- R502: the live ring never holds more than its 4,096 records: no step of any command makes it longer. R387: Jobel never keeps more than
the last 1,024 signatures: no step of any command makes it more. -/
def Obligations.RecordsStayBounded : Prop :=
  (∀ s t : State, LiveRingOk s → step s = .next t → LiveRingOk t)
  ∧ (∀ s t : State, SignaturesOk s → step s = .next t → SignaturesOk t)

/-- What a module that has started for the first time holds where the spec states it: READY, the vendor defaults in every kept register,
counters and events at zero, an owner class with no owner, no bolt, tenant or session, the thermal limit at 27 A, no debug unlock (R1,
R16, R462, R468, R480, R527), and the three invariants. -/
def Obligations.ResetIsAFirstStart : Prop :=
  ThermalLimitOk State.reset ∧ LiveRingOk State.reset ∧ SignaturesOk State.reset
  ∧ State.reset.start.phase = 7 ∧ State.reset.start.limp = 0 ∧ State.reset.sec.owner = none ∧ State.reset.sec.debug = 0
  ∧ State.reset.power.thermalLimit = 27 ∧ State.reset.power.compute = true ∧ State.reset.bolts = [] ∧ State.reset.tenants = [] ∧ State.reset.sessions = []
  ∧ State.reset.pending = []
  ∧ (∀ p off, getReg State.reset p off = vendorDefault p off) ∧ (∀ p, (getHdr State.reset p).evt = 0 ∧ (getHdr State.reset p).capture = 0)
  ∧ (∀ p off tile, getCnt State.reset p off tile = Counter.zero)
end

