-- ==== Sys2Proof/Laws/Maps.lean ====
section
/-! SUPPORT. The laws of sparse maps, byte memory and small lists: a read after a write, writes of other keys, and the canonical form
kept by every operation. -/

namespace Sys2Proof.Machine

variable {V : Type} {d v w : V} {m : List (Nat × V)} {x y : Nat}

/-! ### Reading what was written -/

theorem mapGet_mapPut : mapGet d (mapPut m x v) y = if x = y then v else mapGet d m y := by
  induction m with
  | nil => simp [mapPut, mapGet]
  | cons e m ih =>
    obtain ⟨k, u⟩ := e
    simp only [mapPut]
    split_ifs with h1 h2 <;> simp only [mapGet] <;> split_ifs <;> first | rfl | omega | (subst_vars; simp_all)

theorem mapGet_mapDel_ne (h : x ≠ y) : mapGet d (mapDel m x) y = mapGet d m y := by
  induction m with
  | nil => rfl
  | cons e m ih =>
    obtain ⟨k, u⟩ := e
    simp only [mapDel]
    split_ifs with h1
    · subst h1; simp [mapGet, h, ih]
    · simp only [mapGet, ih]

/-- A read of another key than the one written. -/
theorem mapGet_mapSet_ne [DecidableEq V] (h : x ≠ y) : mapGet d (mapSet d m x v) y = mapGet d m y := by
  unfold mapSet
  split_ifs
  · exact mapGet_mapDel_ne h
  · simp [mapGet_mapPut, h]

/-- Whether the keys of a map rise from a bound, as one case each. -/
theorem mapWfFrom_cons [DecidableEq V] {b : Option Nat} {k : Nat} {u : V} :
    mapWfFrom d b ((k, u) :: m) = true ↔ (∀ c, b = some c → c < k) ∧ u ≠ d ∧ mapWfFrom d (some k) m = true := by
  cases b <;> simp [mapWfFrom, and_assoc]

theorem mapGet_mapDel_self : mapGet d (mapDel m x) x = d := by
  induction m with
  | nil => rfl
  | cons e m ih =>
    obtain ⟨k, u⟩ := e
    simp only [mapDel]
    split_ifs with h1
    · exact ih
    · simp only [mapGet, h1, if_false]; exact ih

/-- A read of the key written. -/
@[simp] theorem mapGet_mapSet_self [DecidableEq V] : mapGet d (mapSet d m x v) x = v := by
  unfold mapSet
  split_ifs with hv
  · rw [hv]; exact mapGet_mapDel_self
  · simp [mapGet_mapPut]

/-- One law for a read after a write. -/
theorem mapGet_mapSet [DecidableEq V] : mapGet d (mapSet d m x v) y = if x = y then v else mapGet d m y := by
  split_ifs with hx
  · subst hx; exact mapGet_mapSet_self
  · exact mapGet_mapSet_ne hx

/-- A changed entry is read as changed. -/
@[simp] theorem mapGet_mapMod_self [DecidableEq V] {f : V → V} : mapGet d (mapMod d m x f) x = f (mapGet d m x) := mapGet_mapSet_self

theorem mapGet_mapMod_ne [DecidableEq V] {f : V → V} (h : x ≠ y) : mapGet d (mapMod d m x f) y = mapGet d m y := mapGet_mapSet_ne h

/-- A second write of a key replaces the first. -/
theorem mapPut_mapPut : mapPut (mapPut m x v) x w = mapPut m x w := by
  induction m with
  | nil => simp [mapPut]
  | cons e m ih =>
    obtain ⟨k, u⟩ := e
    simp only [mapPut]
    split_ifs with h1 h2
    · simp [mapPut]
    · simp [mapPut]
    · simp [mapPut, h1, h2, ih]

/-- Two changes of one entry are one change, where the first does not leave what an unlisted key reads as. -/
theorem mapMod_mapMod [DecidableEq V] {f g : V → V} (h : f (mapGet d m x) ≠ d) (h' : g (f (mapGet d m x)) ≠ d) :
    mapMod d (mapMod d m x f) x g = mapMod d m x (fun a => g (f a)) := by
  simp only [mapMod, mapSet, h, h', if_false, mapGet_mapPut, if_true, mapPut_mapPut]

/-! ### The canonical form is kept -/

theorem mapWfFrom_tail [DecidableEq V] {b : Option Nat} {e : Nat × V} (h : mapWfFrom d b (e :: m) = true) : mapWfFrom d b m = true := by
  obtain ⟨k, u⟩ := e
  rw [mapWfFrom_cons] at h
  cases m with
  | nil => cases b <;> rfl
  | cons e' m' =>
    have h2 := h.2.2
    rw [mapWfFrom_cons] at h2 ⊢
    exact ⟨fun c hc => lt_trans (h.1 c hc) (h2.1 k rfl), h2.2⟩

theorem mapDel_wf [DecidableEq V] {b : Option Nat} (h : mapWfFrom d b m = true) : mapWfFrom d b (mapDel m x) = true := by
  induction m generalizing b with
  | nil => simpa [mapDel] using h
  | cons e m ih =>
    obtain ⟨k, u⟩ := e
    have h0 := h
    rw [mapWfFrom_cons] at h
    simp only [mapDel]
    split_ifs with h1
    · exact ih (mapWfFrom_tail h0)
    · rw [mapWfFrom_cons]
      exact ⟨h.1, h.2.1, ih h.2.2⟩

theorem mapPut_wf [DecidableEq V] {b : Option Nat} (h : mapWfFrom d b m = true) (hb : ∀ c, b = some c → c < x) (hv : v ≠ d) :
    mapWfFrom d b (mapPut m x v) = true := by
  induction m generalizing b with
  | nil => simp only [mapPut, mapWfFrom_cons]; exact ⟨hb, hv, rfl⟩
  | cons e m ih =>
    obtain ⟨k, u⟩ := e
    rw [mapWfFrom_cons] at h
    simp only [mapPut]
    split_ifs with h1 h2
    · simp only [mapWfFrom_cons]
      exact ⟨hb, hv, fun c hc => by cases hc; exact h1, h.2⟩
    · subst h2; rw [mapWfFrom_cons]; exact ⟨h.1, hv, h.2.2⟩
    · rw [mapWfFrom_cons]
      exact ⟨h.1, h.2.1, ih h.2.2 (fun c hc => by cases hc; omega)⟩

/-- Writing a key keeps the canonical form. -/
theorem mapSet_wf [DecidableEq V] (h : mapWf d m = true) : mapWf d (mapSet d m x v) = true := by
  unfold mapSet mapWf
  split_ifs with hv
  · exact mapDel_wf h
  · exact mapPut_wf h (by simp) hv

/-- Changing a key's entry keeps the canonical form. -/
theorem mapMod_wf [DecidableEq V] {f : V → V} (h : mapWf d m = true) : mapWf d (mapMod d m x f) = true := mapSet_wf h

theorem mapFilter_wf [DecidableEq V] {p : Nat × V → Bool} {b : Option Nat} (h : mapWfFrom d b m = true) :
    mapWfFrom d b (m.filter p) = true := by
  induction m generalizing b with
  | nil => simpa using h
  | cons e m ih =>
    obtain ⟨k, u⟩ := e
    have weaken := mapWfFrom_tail h
    rw [mapWfFrom_cons] at h
    simp only [List.filter_cons]
    split_ifs
    · rw [mapWfFrom_cons]; exact ⟨h.1, h.2.1, ih h.2.2⟩
    · exact ih weaken

/-! ### Byte memory -/

/-- Writing one byte keeps the canonical form of memory. -/
theorem memSetByte_wf {m : Mem} {a : Nat} {b : Byte} (h : Memory.wf m = true) : Memory.wf (memSetByte m a b) = true := mapSet_wf h

/-- Writing bytes keeps the canonical form of memory. -/
theorem memWrite_wf {m : Mem} {a : Nat} {bs : List Byte} (h : Memory.wf m = true) : Memory.wf (memWrite m a bs) = true := by
  induction bs generalizing m a with
  | nil => exact h
  | cons b bs ih => exact ih (memSetByte_wf h)

/-- Clearing a range keeps the canonical form of memory. -/
theorem memClear_wf {m : Mem} {a n : Nat} (h : Memory.wf m = true) : Memory.wf (memClear m a n) = true := mapFilter_wf h

/-- Bytes outside a write read as before. -/
theorem memByte_memWrite_out {m : Mem} {a x : Nat} {bs : List Byte} (h : x < a ∨ a + bs.length ≤ x) :
    memByte (memWrite m a bs) x = memByte m x := by
  induction bs generalizing m a with
  | nil => rfl
  | cons b bs ih =>
    simp only [List.length_cons] at h
    simp only [memWrite]
    rw [ih (by omega)]
    exact mapGet_mapSet_ne (by omega)

/-- Bytes inside a write read as written. -/
theorem memByte_memWrite_in {m : Mem} {a i : Nat} {bs : List Byte} (h : i < bs.length) :
    memByte (memWrite m a bs) (a + i) = bs[i] := by
  induction bs generalizing m a i with
  | nil => simp at h
  | cons b bs ih =>
    cases i with
    | zero =>
      simp only [memWrite, Nat.add_zero, List.getElem_cons_zero]
      rw [memByte_memWrite_out (by omega)]
      exact mapGet_mapSet_self
    | succ i =>
      simp only [memWrite, List.getElem_cons_succ]
      have := ih (m := memSetByte m a b) (a := a + 1) (i := i) (by simpa using h)
      rwa [show a + 1 + i = a + (i + 1) by omega] at this

/-- A read of the whole range of a write gives the bytes written. -/
theorem memBytes_memWrite {m : Mem} {a : Nat} {bs : List Byte} :
    memBytes (memWrite m a bs) a bs.length = bs := by
  induction bs generalizing m a with
  | nil => rfl
  | cons b bs ih =>
    simp only [List.length_cons, memBytes, memWrite]
    rw [ih, memByte_memWrite_out (by omega)]
    congr 1
    exact mapGet_mapSet_self

/-- Writing no byte changes nothing. -/
@[simp] theorem memWrite_nil {m : Mem} {a : Nat} : memWrite m a [] = m := rfl

/-- A number of n bytes is spelled by its n bytes. -/
theorem leNat_natLe (n v : Nat) : leNat (natLe n v) = v % 256 ^ n := by
  induction n generalizing v with
  | zero => simp [natLe, leNat, Nat.mod_one]
  | succ n ih =>
    simp only [natLe, leNat, ih, BitVec.toNat_ofNat]
    rw [show 256 ^ (n + 1) = 256 * 256 ^ n by rw [Nat.pow_succ, Nat.mul_comm], Nat.mod_mul]

@[simp] theorem natLe_length (n v : Nat) : (natLe n v).length = n := by
  induction n generalizing v with
  | zero => rfl
  | succ n ih => simp [natLe, ih]

/-- A 64-bit word written in its byte order is read back (R10). -/
theorem leNat_natLe_word (v : Word) : BitVec.ofNat 64 (leNat (natLe 8 v.toNat)) = v := by
  rw [leNat_natLe]
  have : v.toNat % 256 ^ 8 = v.toNat := Nat.mod_eq_of_lt (by have := v.isLt; norm_num at this ⊢; exact this)
  rw [this, BitVec.ofNat_toNat]; rfl

end Sys2Proof.Machine
end

