-- ==== Sys2Proof/Laws/State.lean ====
section
/-! SUPPORT. What each update of the state leaves, field by field, and what it puts in its own field: with these, no proof unfolds a
record update. -/

namespace Sys2Proof.Machine

/-! ### The fields that an update leaves -/

/-- A changed header changes the headers alone. -/
@[simp] theorem modHdr_fields {s : State} {p : PageId} {f : Hdr → Hdr} :
    (modHdr s p f).pending = s.pending ∧ (modHdr s p f).now = s.now ∧ (modHdr s p f).freeCtr = s.freeCtr
    ∧ (modHdr s p f).lastRead = s.lastRead ∧ (modHdr s p f).out = s.out ∧ (modHdr s p f).variant = s.variant
    ∧ (modHdr s p f).stepping = s.stepping ∧ (modHdr s p f).regs = s.regs ∧ (modHdr s p f).counters = s.counters
    ∧ (modHdr s p f).bb = s.bb ∧ (modHdr s p f).st = s.st ∧ (modHdr s p f).power = s.power ∧ (modHdr s p f).hk = s.hk
    ∧ (modHdr s p f).start = s.start ∧ (modHdr s p f).sec = s.sec ∧ (modHdr s p f).port0 = s.port0 ∧ (modHdr s p f).port1 = s.port1
    ∧ (modHdr s p f).vfs = s.vfs ∧ (modHdr s p f).rings = s.rings ∧ (modHdr s p f).dispatched = s.dispatched
    ∧ (modHdr s p f).jobs = s.jobs ∧ (modHdr s p f).claims = s.claims ∧ (modHdr s p f).nextId = s.nextId
    ∧ (modHdr s p f).tenants = s.tenants ∧ (modHdr s p f).sessions = s.sessions ∧ (modHdr s p f).kv = s.kv ∧ (modHdr s p f).sets = s.sets
    ∧ (modHdr s p f).bolts = s.bolts ∧ (modHdr s p f).panels = s.panels ∧ (modHdr s p f).arrays = s.arrays ∧ (modHdr s p f).ras = s.ras
    ∧ (modHdr s p f).net = s.net ∧ (modHdr s p f).fab = s.fab ∧ (modHdr s p f).dramPoison = s.dramPoison :=
  ⟨rfl, rfl, rfl, rfl, rfl, rfl, rfl, rfl, rfl, rfl, rfl, rfl, rfl, rfl, rfl, rfl, rfl, rfl, rfl, rfl, rfl, rfl, rfl, rfl, rfl, rfl, rfl, rfl, rfl, rfl, rfl, rfl, rfl, rfl⟩

/-- A changed VF changes the VFs alone. -/
@[simp] theorem modVf_fields {s : State} {p v : Nat} {f : Vf → Vf} :
    (modVf s p v f).pending = s.pending ∧ (modVf s p v f).now = s.now ∧ (modVf s p v f).freeCtr = s.freeCtr
    ∧ (modVf s p v f).lastRead = s.lastRead ∧ (modVf s p v f).out = s.out ∧ (modVf s p v f).variant = s.variant
    ∧ (modVf s p v f).stepping = s.stepping ∧ (modVf s p v f).regs = s.regs ∧ (modVf s p v f).counters = s.counters
    ∧ (modVf s p v f).hdrs = s.hdrs ∧ (modVf s p v f).bb = s.bb ∧ (modVf s p v f).st = s.st ∧ (modVf s p v f).power = s.power
    ∧ (modVf s p v f).hk = s.hk ∧ (modVf s p v f).start = s.start ∧ (modVf s p v f).sec = s.sec ∧ (modVf s p v f).port0 = s.port0
    ∧ (modVf s p v f).port1 = s.port1 ∧ (modVf s p v f).rings = s.rings ∧ (modVf s p v f).dispatched = s.dispatched
    ∧ (modVf s p v f).jobs = s.jobs ∧ (modVf s p v f).claims = s.claims ∧ (modVf s p v f).nextId = s.nextId
    ∧ (modVf s p v f).tenants = s.tenants ∧ (modVf s p v f).sessions = s.sessions ∧ (modVf s p v f).kv = s.kv
    ∧ (modVf s p v f).sets = s.sets ∧ (modVf s p v f).bolts = s.bolts ∧ (modVf s p v f).panels = s.panels
    ∧ (modVf s p v f).arrays = s.arrays ∧ (modVf s p v f).ras = s.ras ∧ (modVf s p v f).net = s.net ∧ (modVf s p v f).fab = s.fab
    ∧ (modVf s p v f).dramPoison = s.dramPoison :=
  ⟨rfl, rfl, rfl, rfl, rfl, rfl, rfl, rfl, rfl, rfl, rfl, rfl, rfl, rfl, rfl, rfl, rfl, rfl, rfl, rfl, rfl, rfl, rfl, rfl, rfl, rfl, rfl, rfl, rfl, rfl, rfl, rfl, rfl, rfl⟩

/-- A changed ring changes the rings alone. -/
@[simp] theorem modRing_fields {s : State} {p k : Nat} {f : Ring → Ring} :
    (modRing s p k f).pending = s.pending ∧ (modRing s p k f).now = s.now ∧ (modRing s p k f).freeCtr = s.freeCtr
    ∧ (modRing s p k f).lastRead = s.lastRead ∧ (modRing s p k f).out = s.out ∧ (modRing s p k f).variant = s.variant
    ∧ (modRing s p k f).stepping = s.stepping ∧ (modRing s p k f).regs = s.regs ∧ (modRing s p k f).counters = s.counters
    ∧ (modRing s p k f).hdrs = s.hdrs ∧ (modRing s p k f).bb = s.bb ∧ (modRing s p k f).st = s.st ∧ (modRing s p k f).power = s.power
    ∧ (modRing s p k f).hk = s.hk ∧ (modRing s p k f).start = s.start ∧ (modRing s p k f).sec = s.sec ∧ (modRing s p k f).port0 = s.port0
    ∧ (modRing s p k f).port1 = s.port1 ∧ (modRing s p k f).vfs = s.vfs ∧ (modRing s p k f).dispatched = s.dispatched
    ∧ (modRing s p k f).jobs = s.jobs ∧ (modRing s p k f).claims = s.claims ∧ (modRing s p k f).nextId = s.nextId
    ∧ (modRing s p k f).tenants = s.tenants ∧ (modRing s p k f).sessions = s.sessions ∧ (modRing s p k f).kv = s.kv
    ∧ (modRing s p k f).sets = s.sets ∧ (modRing s p k f).bolts = s.bolts ∧ (modRing s p k f).panels = s.panels
    ∧ (modRing s p k f).arrays = s.arrays ∧ (modRing s p k f).ras = s.ras ∧ (modRing s p k f).net = s.net ∧ (modRing s p k f).fab = s.fab
    ∧ (modRing s p k f).dramPoison = s.dramPoison :=
  ⟨rfl, rfl, rfl, rfl, rfl, rfl, rfl, rfl, rfl, rfl, rfl, rfl, rfl, rfl, rfl, rfl, rfl, rfl, rfl, rfl, rfl, rfl, rfl, rfl, rfl, rfl, rfl, rfl, rfl, rfl, rfl, rfl, rfl, rfl⟩

/-- A changed tenant changes the tenant table alone. -/
@[simp] theorem modTenant_fields {s : State} {t : Nat} {f : Tenant → Tenant} :
    (modTenant s t f).pending = s.pending ∧ (modTenant s t f).now = s.now ∧ (modTenant s t f).freeCtr = s.freeCtr
    ∧ (modTenant s t f).lastRead = s.lastRead ∧ (modTenant s t f).out = s.out ∧ (modTenant s t f).variant = s.variant
    ∧ (modTenant s t f).stepping = s.stepping ∧ (modTenant s t f).regs = s.regs ∧ (modTenant s t f).counters = s.counters
    ∧ (modTenant s t f).hdrs = s.hdrs ∧ (modTenant s t f).bb = s.bb ∧ (modTenant s t f).st = s.st ∧ (modTenant s t f).power = s.power
    ∧ (modTenant s t f).hk = s.hk ∧ (modTenant s t f).start = s.start ∧ (modTenant s t f).sec = s.sec ∧ (modTenant s t f).port0 = s.port0
    ∧ (modTenant s t f).port1 = s.port1 ∧ (modTenant s t f).vfs = s.vfs ∧ (modTenant s t f).rings = s.rings
    ∧ (modTenant s t f).dispatched = s.dispatched ∧ (modTenant s t f).jobs = s.jobs ∧ (modTenant s t f).claims = s.claims
    ∧ (modTenant s t f).nextId = s.nextId ∧ (modTenant s t f).sessions = s.sessions ∧ (modTenant s t f).kv = s.kv
    ∧ (modTenant s t f).sets = s.sets ∧ (modTenant s t f).bolts = s.bolts ∧ (modTenant s t f).panels = s.panels
    ∧ (modTenant s t f).arrays = s.arrays ∧ (modTenant s t f).ras = s.ras ∧ (modTenant s t f).net = s.net ∧ (modTenant s t f).fab = s.fab
    ∧ (modTenant s t f).dramPoison = s.dramPoison :=
  ⟨rfl, rfl, rfl, rfl, rfl, rfl, rfl, rfl, rfl, rfl, rfl, rfl, rfl, rfl, rfl, rfl, rfl, rfl, rfl, rfl, rfl, rfl, rfl, rfl, rfl, rfl, rfl, rfl, rfl, rfl, rfl, rfl, rfl, rfl⟩

/-- A changed session changes the session table alone. -/
@[simp] theorem modSession_fields {s : State} {n : Nat} {f : Session → Session} :
    (modSession s n f).pending = s.pending ∧ (modSession s n f).now = s.now ∧ (modSession s n f).freeCtr = s.freeCtr
    ∧ (modSession s n f).lastRead = s.lastRead ∧ (modSession s n f).out = s.out ∧ (modSession s n f).variant = s.variant
    ∧ (modSession s n f).stepping = s.stepping ∧ (modSession s n f).regs = s.regs ∧ (modSession s n f).counters = s.counters
    ∧ (modSession s n f).hdrs = s.hdrs ∧ (modSession s n f).bb = s.bb ∧ (modSession s n f).st = s.st ∧ (modSession s n f).power = s.power
    ∧ (modSession s n f).hk = s.hk ∧ (modSession s n f).start = s.start ∧ (modSession s n f).sec = s.sec
    ∧ (modSession s n f).port0 = s.port0 ∧ (modSession s n f).port1 = s.port1 ∧ (modSession s n f).vfs = s.vfs
    ∧ (modSession s n f).rings = s.rings ∧ (modSession s n f).dispatched = s.dispatched ∧ (modSession s n f).jobs = s.jobs
    ∧ (modSession s n f).claims = s.claims ∧ (modSession s n f).nextId = s.nextId ∧ (modSession s n f).tenants = s.tenants
    ∧ (modSession s n f).kv = s.kv ∧ (modSession s n f).sets = s.sets ∧ (modSession s n f).bolts = s.bolts
    ∧ (modSession s n f).panels = s.panels ∧ (modSession s n f).arrays = s.arrays ∧ (modSession s n f).ras = s.ras
    ∧ (modSession s n f).net = s.net ∧ (modSession s n f).fab = s.fab ∧ (modSession s n f).dramPoison = s.dramPoison :=
  ⟨rfl, rfl, rfl, rfl, rfl, rfl, rfl, rfl, rfl, rfl, rfl, rfl, rfl, rfl, rfl, rfl, rfl, rfl, rfl, rfl, rfl, rfl, rfl, rfl, rfl, rfl, rfl, rfl, rfl, rfl, rfl, rfl, rfl, rfl⟩

/-- A changed panel changes the panels alone. -/
@[simp] theorem modPanel_fields {s : State} {p : Nat} {f : Panel → Panel} :
    (modPanel s p f).pending = s.pending ∧ (modPanel s p f).now = s.now ∧ (modPanel s p f).freeCtr = s.freeCtr
    ∧ (modPanel s p f).lastRead = s.lastRead ∧ (modPanel s p f).out = s.out ∧ (modPanel s p f).variant = s.variant
    ∧ (modPanel s p f).stepping = s.stepping ∧ (modPanel s p f).regs = s.regs ∧ (modPanel s p f).counters = s.counters
    ∧ (modPanel s p f).hdrs = s.hdrs ∧ (modPanel s p f).bb = s.bb ∧ (modPanel s p f).st = s.st ∧ (modPanel s p f).power = s.power
    ∧ (modPanel s p f).hk = s.hk ∧ (modPanel s p f).start = s.start ∧ (modPanel s p f).sec = s.sec ∧ (modPanel s p f).port0 = s.port0
    ∧ (modPanel s p f).port1 = s.port1 ∧ (modPanel s p f).vfs = s.vfs ∧ (modPanel s p f).rings = s.rings
    ∧ (modPanel s p f).dispatched = s.dispatched ∧ (modPanel s p f).jobs = s.jobs ∧ (modPanel s p f).claims = s.claims
    ∧ (modPanel s p f).nextId = s.nextId ∧ (modPanel s p f).tenants = s.tenants ∧ (modPanel s p f).sessions = s.sessions
    ∧ (modPanel s p f).kv = s.kv ∧ (modPanel s p f).sets = s.sets ∧ (modPanel s p f).bolts = s.bolts ∧ (modPanel s p f).arrays = s.arrays
    ∧ (modPanel s p f).ras = s.ras ∧ (modPanel s p f).net = s.net ∧ (modPanel s p f).fab = s.fab
    ∧ (modPanel s p f).dramPoison = s.dramPoison :=
  ⟨rfl, rfl, rfl, rfl, rfl, rfl, rfl, rfl, rfl, rfl, rfl, rfl, rfl, rfl, rfl, rfl, rfl, rfl, rfl, rfl, rfl, rfl, rfl, rfl, rfl, rfl, rfl, rfl, rfl, rfl, rfl, rfl, rfl, rfl⟩

/-- A changed bolt changes the bolts alone. -/
@[simp] theorem modBolt_fields {s : State} {b : Nat} {f : Bolt → Bolt} :
    (modBolt s b f).pending = s.pending ∧ (modBolt s b f).now = s.now ∧ (modBolt s b f).freeCtr = s.freeCtr
    ∧ (modBolt s b f).lastRead = s.lastRead ∧ (modBolt s b f).out = s.out ∧ (modBolt s b f).variant = s.variant
    ∧ (modBolt s b f).stepping = s.stepping ∧ (modBolt s b f).regs = s.regs ∧ (modBolt s b f).counters = s.counters
    ∧ (modBolt s b f).hdrs = s.hdrs ∧ (modBolt s b f).bb = s.bb ∧ (modBolt s b f).st = s.st ∧ (modBolt s b f).power = s.power
    ∧ (modBolt s b f).hk = s.hk ∧ (modBolt s b f).start = s.start ∧ (modBolt s b f).sec = s.sec ∧ (modBolt s b f).port0 = s.port0
    ∧ (modBolt s b f).port1 = s.port1 ∧ (modBolt s b f).vfs = s.vfs ∧ (modBolt s b f).rings = s.rings
    ∧ (modBolt s b f).dispatched = s.dispatched ∧ (modBolt s b f).jobs = s.jobs ∧ (modBolt s b f).claims = s.claims
    ∧ (modBolt s b f).nextId = s.nextId ∧ (modBolt s b f).tenants = s.tenants ∧ (modBolt s b f).sessions = s.sessions
    ∧ (modBolt s b f).kv = s.kv ∧ (modBolt s b f).sets = s.sets ∧ (modBolt s b f).panels = s.panels ∧ (modBolt s b f).arrays = s.arrays
    ∧ (modBolt s b f).ras = s.ras ∧ (modBolt s b f).net = s.net ∧ (modBolt s b f).fab = s.fab ∧ (modBolt s b f).dramPoison = s.dramPoison :=
  ⟨rfl, rfl, rfl, rfl, rfl, rfl, rfl, rfl, rfl, rfl, rfl, rfl, rfl, rfl, rfl, rfl, rfl, rfl, rfl, rfl, rfl, rfl, rfl, rfl, rfl, rfl, rfl, rfl, rfl, rfl, rfl, rfl, rfl, rfl⟩

/-- A bolt put in or taken out changes the bolts alone. -/
@[simp] theorem setBolt_fields {s : State} {b : Nat} {o : Option Bolt} :
    (setBolt s b o).pending = s.pending ∧ (setBolt s b o).now = s.now ∧ (setBolt s b o).freeCtr = s.freeCtr
    ∧ (setBolt s b o).lastRead = s.lastRead ∧ (setBolt s b o).out = s.out ∧ (setBolt s b o).variant = s.variant
    ∧ (setBolt s b o).stepping = s.stepping ∧ (setBolt s b o).regs = s.regs ∧ (setBolt s b o).counters = s.counters
    ∧ (setBolt s b o).hdrs = s.hdrs ∧ (setBolt s b o).bb = s.bb ∧ (setBolt s b o).st = s.st ∧ (setBolt s b o).power = s.power
    ∧ (setBolt s b o).hk = s.hk ∧ (setBolt s b o).start = s.start ∧ (setBolt s b o).sec = s.sec ∧ (setBolt s b o).port0 = s.port0
    ∧ (setBolt s b o).port1 = s.port1 ∧ (setBolt s b o).vfs = s.vfs ∧ (setBolt s b o).rings = s.rings
    ∧ (setBolt s b o).dispatched = s.dispatched ∧ (setBolt s b o).jobs = s.jobs ∧ (setBolt s b o).claims = s.claims
    ∧ (setBolt s b o).nextId = s.nextId ∧ (setBolt s b o).tenants = s.tenants ∧ (setBolt s b o).sessions = s.sessions
    ∧ (setBolt s b o).kv = s.kv ∧ (setBolt s b o).sets = s.sets ∧ (setBolt s b o).panels = s.panels ∧ (setBolt s b o).arrays = s.arrays
    ∧ (setBolt s b o).ras = s.ras ∧ (setBolt s b o).net = s.net ∧ (setBolt s b o).fab = s.fab ∧ (setBolt s b o).dramPoison = s.dramPoison :=
  ⟨rfl, rfl, rfl, rfl, rfl, rfl, rfl, rfl, rfl, rfl, rfl, rfl, rfl, rfl, rfl, rfl, rfl, rfl, rfl, rfl, rfl, rfl, rfl, rfl, rfl, rfl, rfl, rfl, rfl, rfl, rfl, rfl, rfl, rfl⟩

/-- A changed calibration changes the arrays' part alone. -/
@[simp] theorem modCal_fields {s : State} {p t : Nat} {f : TileCal → TileCal} :
    (modCal s p t f).pending = s.pending ∧ (modCal s p t f).now = s.now ∧ (modCal s p t f).freeCtr = s.freeCtr
    ∧ (modCal s p t f).lastRead = s.lastRead ∧ (modCal s p t f).out = s.out ∧ (modCal s p t f).variant = s.variant
    ∧ (modCal s p t f).stepping = s.stepping ∧ (modCal s p t f).regs = s.regs ∧ (modCal s p t f).counters = s.counters
    ∧ (modCal s p t f).hdrs = s.hdrs ∧ (modCal s p t f).bb = s.bb ∧ (modCal s p t f).st = s.st ∧ (modCal s p t f).power = s.power
    ∧ (modCal s p t f).hk = s.hk ∧ (modCal s p t f).start = s.start ∧ (modCal s p t f).sec = s.sec ∧ (modCal s p t f).port0 = s.port0
    ∧ (modCal s p t f).port1 = s.port1 ∧ (modCal s p t f).vfs = s.vfs ∧ (modCal s p t f).rings = s.rings
    ∧ (modCal s p t f).dispatched = s.dispatched ∧ (modCal s p t f).jobs = s.jobs ∧ (modCal s p t f).claims = s.claims
    ∧ (modCal s p t f).nextId = s.nextId ∧ (modCal s p t f).tenants = s.tenants ∧ (modCal s p t f).sessions = s.sessions
    ∧ (modCal s p t f).kv = s.kv ∧ (modCal s p t f).sets = s.sets ∧ (modCal s p t f).bolts = s.bolts ∧ (modCal s p t f).panels = s.panels
    ∧ (modCal s p t f).ras = s.ras ∧ (modCal s p t f).net = s.net ∧ (modCal s p t f).fab = s.fab
    ∧ (modCal s p t f).dramPoison = s.dramPoison :=
  ⟨rfl, rfl, rfl, rfl, rfl, rfl, rfl, rfl, rfl, rfl, rfl, rfl, rfl, rfl, rfl, rfl, rfl, rfl, rfl, rfl, rfl, rfl, rfl, rfl, rfl, rfl, rfl, rfl, rfl, rfl, rfl, rfl, rfl, rfl⟩

/-- A changed hem changes the panels alone. -/
@[simp] theorem modHem_fields {s : State} {p t a : Nat} {f : HemArr → HemArr} :
    (modHem s p t a f).pending = s.pending ∧ (modHem s p t a f).now = s.now ∧ (modHem s p t a f).freeCtr = s.freeCtr
    ∧ (modHem s p t a f).lastRead = s.lastRead ∧ (modHem s p t a f).out = s.out ∧ (modHem s p t a f).variant = s.variant
    ∧ (modHem s p t a f).stepping = s.stepping ∧ (modHem s p t a f).regs = s.regs ∧ (modHem s p t a f).counters = s.counters
    ∧ (modHem s p t a f).hdrs = s.hdrs ∧ (modHem s p t a f).bb = s.bb ∧ (modHem s p t a f).st = s.st ∧ (modHem s p t a f).power = s.power
    ∧ (modHem s p t a f).hk = s.hk ∧ (modHem s p t a f).start = s.start ∧ (modHem s p t a f).sec = s.sec
    ∧ (modHem s p t a f).port0 = s.port0 ∧ (modHem s p t a f).port1 = s.port1 ∧ (modHem s p t a f).vfs = s.vfs
    ∧ (modHem s p t a f).rings = s.rings ∧ (modHem s p t a f).dispatched = s.dispatched ∧ (modHem s p t a f).jobs = s.jobs
    ∧ (modHem s p t a f).claims = s.claims ∧ (modHem s p t a f).nextId = s.nextId ∧ (modHem s p t a f).tenants = s.tenants
    ∧ (modHem s p t a f).sessions = s.sessions ∧ (modHem s p t a f).kv = s.kv ∧ (modHem s p t a f).sets = s.sets
    ∧ (modHem s p t a f).bolts = s.bolts ∧ (modHem s p t a f).arrays = s.arrays ∧ (modHem s p t a f).ras = s.ras
    ∧ (modHem s p t a f).net = s.net ∧ (modHem s p t a f).fab = s.fab ∧ (modHem s p t a f).dramPoison = s.dramPoison :=
  ⟨rfl, rfl, rfl, rfl, rfl, rfl, rfl, rfl, rfl, rfl, rfl, rfl, rfl, rfl, rfl, rfl, rfl, rfl, rfl, rfl, rfl, rfl, rfl, rfl, rfl, rfl, rfl, rfl, rfl, rfl, rfl, rfl, rfl, rfl⟩

/-- A changed Kwath port changes the fabric alone. -/
@[simp] theorem modKw_fields {s : State} {p : Nat} {f : KwPort → KwPort} :
    (modKw s p f).pending = s.pending ∧ (modKw s p f).now = s.now ∧ (modKw s p f).freeCtr = s.freeCtr
    ∧ (modKw s p f).lastRead = s.lastRead ∧ (modKw s p f).out = s.out ∧ (modKw s p f).variant = s.variant
    ∧ (modKw s p f).stepping = s.stepping ∧ (modKw s p f).regs = s.regs ∧ (modKw s p f).counters = s.counters
    ∧ (modKw s p f).hdrs = s.hdrs ∧ (modKw s p f).bb = s.bb ∧ (modKw s p f).st = s.st ∧ (modKw s p f).power = s.power
    ∧ (modKw s p f).hk = s.hk ∧ (modKw s p f).start = s.start ∧ (modKw s p f).sec = s.sec ∧ (modKw s p f).port0 = s.port0
    ∧ (modKw s p f).port1 = s.port1 ∧ (modKw s p f).vfs = s.vfs ∧ (modKw s p f).rings = s.rings ∧ (modKw s p f).dispatched = s.dispatched
    ∧ (modKw s p f).jobs = s.jobs ∧ (modKw s p f).claims = s.claims ∧ (modKw s p f).nextId = s.nextId ∧ (modKw s p f).tenants = s.tenants
    ∧ (modKw s p f).sessions = s.sessions ∧ (modKw s p f).kv = s.kv ∧ (modKw s p f).sets = s.sets ∧ (modKw s p f).bolts = s.bolts
    ∧ (modKw s p f).panels = s.panels ∧ (modKw s p f).arrays = s.arrays ∧ (modKw s p f).ras = s.ras ∧ (modKw s p f).net = s.net
    ∧ (modKw s p f).dramPoison = s.dramPoison :=
  ⟨rfl, rfl, rfl, rfl, rfl, rfl, rfl, rfl, rfl, rfl, rfl, rfl, rfl, rfl, rfl, rfl, rfl, rfl, rfl, rfl, rfl, rfl, rfl, rfl, rfl, rfl, rfl, rfl, rfl, rfl, rfl, rfl, rfl, rfl⟩

/-- A changed lane changes the fabric alone. -/
@[simp] theorem modLane_fields {s : State} {p l : Nat} {f : KwLane → KwLane} :
    (modLane s p l f).pending = s.pending ∧ (modLane s p l f).now = s.now ∧ (modLane s p l f).freeCtr = s.freeCtr
    ∧ (modLane s p l f).lastRead = s.lastRead ∧ (modLane s p l f).out = s.out ∧ (modLane s p l f).variant = s.variant
    ∧ (modLane s p l f).stepping = s.stepping ∧ (modLane s p l f).regs = s.regs ∧ (modLane s p l f).counters = s.counters
    ∧ (modLane s p l f).hdrs = s.hdrs ∧ (modLane s p l f).bb = s.bb ∧ (modLane s p l f).st = s.st ∧ (modLane s p l f).power = s.power
    ∧ (modLane s p l f).hk = s.hk ∧ (modLane s p l f).start = s.start ∧ (modLane s p l f).sec = s.sec ∧ (modLane s p l f).port0 = s.port0
    ∧ (modLane s p l f).port1 = s.port1 ∧ (modLane s p l f).vfs = s.vfs ∧ (modLane s p l f).rings = s.rings
    ∧ (modLane s p l f).dispatched = s.dispatched ∧ (modLane s p l f).jobs = s.jobs ∧ (modLane s p l f).claims = s.claims
    ∧ (modLane s p l f).nextId = s.nextId ∧ (modLane s p l f).tenants = s.tenants ∧ (modLane s p l f).sessions = s.sessions
    ∧ (modLane s p l f).kv = s.kv ∧ (modLane s p l f).sets = s.sets ∧ (modLane s p l f).bolts = s.bolts
    ∧ (modLane s p l f).panels = s.panels ∧ (modLane s p l f).arrays = s.arrays ∧ (modLane s p l f).ras = s.ras
    ∧ (modLane s p l f).net = s.net ∧ (modLane s p l f).dramPoison = s.dramPoison :=
  ⟨rfl, rfl, rfl, rfl, rfl, rfl, rfl, rfl, rfl, rfl, rfl, rfl, rfl, rfl, rfl, rfl, rfl, rfl, rfl, rfl, rfl, rfl, rfl, rfl, rfl, rfl, rfl, rfl, rfl, rfl, rfl, rfl, rfl, rfl⟩

/-- A changed job changes the jobs alone. -/
@[simp] theorem modJob_fields {s : State} {j : Nat} {f : Job → Job} :
    (modJob s j f).pending = s.pending ∧ (modJob s j f).now = s.now ∧ (modJob s j f).freeCtr = s.freeCtr
    ∧ (modJob s j f).lastRead = s.lastRead ∧ (modJob s j f).out = s.out ∧ (modJob s j f).variant = s.variant
    ∧ (modJob s j f).stepping = s.stepping ∧ (modJob s j f).regs = s.regs ∧ (modJob s j f).counters = s.counters
    ∧ (modJob s j f).hdrs = s.hdrs ∧ (modJob s j f).bb = s.bb ∧ (modJob s j f).st = s.st ∧ (modJob s j f).power = s.power
    ∧ (modJob s j f).hk = s.hk ∧ (modJob s j f).start = s.start ∧ (modJob s j f).sec = s.sec ∧ (modJob s j f).port0 = s.port0
    ∧ (modJob s j f).port1 = s.port1 ∧ (modJob s j f).vfs = s.vfs ∧ (modJob s j f).rings = s.rings
    ∧ (modJob s j f).dispatched = s.dispatched ∧ (modJob s j f).claims = s.claims ∧ (modJob s j f).nextId = s.nextId
    ∧ (modJob s j f).tenants = s.tenants ∧ (modJob s j f).sessions = s.sessions ∧ (modJob s j f).kv = s.kv ∧ (modJob s j f).sets = s.sets
    ∧ (modJob s j f).bolts = s.bolts ∧ (modJob s j f).panels = s.panels ∧ (modJob s j f).arrays = s.arrays ∧ (modJob s j f).ras = s.ras
    ∧ (modJob s j f).net = s.net ∧ (modJob s j f).fab = s.fab ∧ (modJob s j f).dramPoison = s.dramPoison :=
  ⟨rfl, rfl, rfl, rfl, rfl, rfl, rfl, rfl, rfl, rfl, rfl, rfl, rfl, rfl, rfl, rfl, rfl, rfl, rfl, rfl, rfl, rfl, rfl, rfl, rfl, rfl, rfl, rfl, rfl, rfl, rfl, rfl, rfl, rfl⟩

/-- Drawing a free value advances the model's counter alone. -/
@[simp] theorem drawFree_fields {s : State} :
    (drawFree s).pending = s.pending ∧ (drawFree s).now = s.now ∧ (drawFree s).lastRead = s.lastRead ∧ (drawFree s).out = s.out
    ∧ (drawFree s).variant = s.variant ∧ (drawFree s).stepping = s.stepping ∧ (drawFree s).regs = s.regs
    ∧ (drawFree s).counters = s.counters ∧ (drawFree s).hdrs = s.hdrs ∧ (drawFree s).bb = s.bb ∧ (drawFree s).st = s.st
    ∧ (drawFree s).power = s.power ∧ (drawFree s).hk = s.hk ∧ (drawFree s).start = s.start ∧ (drawFree s).sec = s.sec
    ∧ (drawFree s).port0 = s.port0 ∧ (drawFree s).port1 = s.port1 ∧ (drawFree s).vfs = s.vfs ∧ (drawFree s).rings = s.rings
    ∧ (drawFree s).dispatched = s.dispatched ∧ (drawFree s).jobs = s.jobs ∧ (drawFree s).claims = s.claims
    ∧ (drawFree s).nextId = s.nextId ∧ (drawFree s).tenants = s.tenants ∧ (drawFree s).sessions = s.sessions ∧ (drawFree s).kv = s.kv
    ∧ (drawFree s).sets = s.sets ∧ (drawFree s).bolts = s.bolts ∧ (drawFree s).panels = s.panels ∧ (drawFree s).arrays = s.arrays
    ∧ (drawFree s).ras = s.ras ∧ (drawFree s).net = s.net ∧ (drawFree s).fab = s.fab ∧ (drawFree s).dramPoison = s.dramPoison :=
  ⟨rfl, rfl, rfl, rfl, rfl, rfl, rfl, rfl, rfl, rfl, rfl, rfl, rfl, rfl, rfl, rfl, rfl, rfl, rfl, rfl, rfl, rfl, rfl, rfl, rfl, rfl, rfl, rfl, rfl, rfl, rfl, rfl, rfl, rfl⟩

/-- A message sent joins what has left the module, and nothing else changes. -/
@[simp] theorem emit_fields {s : State} {o : Out} :
    (emit s o).pending = s.pending ∧ (emit s o).now = s.now ∧ (emit s o).freeCtr = s.freeCtr ∧ (emit s o).lastRead = s.lastRead
    ∧ (emit s o).variant = s.variant ∧ (emit s o).stepping = s.stepping ∧ (emit s o).regs = s.regs ∧ (emit s o).counters = s.counters
    ∧ (emit s o).hdrs = s.hdrs ∧ (emit s o).bb = s.bb ∧ (emit s o).st = s.st ∧ (emit s o).power = s.power ∧ (emit s o).hk = s.hk
    ∧ (emit s o).start = s.start ∧ (emit s o).sec = s.sec ∧ (emit s o).port0 = s.port0 ∧ (emit s o).port1 = s.port1
    ∧ (emit s o).vfs = s.vfs ∧ (emit s o).rings = s.rings ∧ (emit s o).dispatched = s.dispatched ∧ (emit s o).jobs = s.jobs
    ∧ (emit s o).claims = s.claims ∧ (emit s o).nextId = s.nextId ∧ (emit s o).tenants = s.tenants ∧ (emit s o).sessions = s.sessions
    ∧ (emit s o).kv = s.kv ∧ (emit s o).sets = s.sets ∧ (emit s o).bolts = s.bolts ∧ (emit s o).panels = s.panels
    ∧ (emit s o).arrays = s.arrays ∧ (emit s o).ras = s.ras ∧ (emit s o).net = s.net ∧ (emit s o).fab = s.fab
    ∧ (emit s o).dramPoison = s.dramPoison :=
  ⟨rfl, rfl, rfl, rfl, rfl, rfl, rfl, rfl, rfl, rfl, rfl, rfl, rfl, rfl, rfl, rfl, rfl, rfl, rfl, rfl, rfl, rfl, rfl, rfl, rfl, rfl, rfl, rfl, rfl, rfl, rfl, rfl, rfl, rfl⟩

/-- A register written changes the registers alone. -/
@[simp] theorem setReg_fields {s : State} {p : PageId} {o : Nat} {v : Word} :
    (setReg s p o v).pending = s.pending ∧ (setReg s p o v).now = s.now ∧ (setReg s p o v).freeCtr = s.freeCtr
    ∧ (setReg s p o v).lastRead = s.lastRead ∧ (setReg s p o v).out = s.out ∧ (setReg s p o v).variant = s.variant
    ∧ (setReg s p o v).stepping = s.stepping ∧ (setReg s p o v).counters = s.counters ∧ (setReg s p o v).hdrs = s.hdrs
    ∧ (setReg s p o v).bb = s.bb ∧ (setReg s p o v).st = s.st ∧ (setReg s p o v).power = s.power ∧ (setReg s p o v).hk = s.hk
    ∧ (setReg s p o v).start = s.start ∧ (setReg s p o v).sec = s.sec ∧ (setReg s p o v).port0 = s.port0
    ∧ (setReg s p o v).port1 = s.port1 ∧ (setReg s p o v).vfs = s.vfs ∧ (setReg s p o v).rings = s.rings
    ∧ (setReg s p o v).dispatched = s.dispatched ∧ (setReg s p o v).jobs = s.jobs ∧ (setReg s p o v).claims = s.claims
    ∧ (setReg s p o v).nextId = s.nextId ∧ (setReg s p o v).tenants = s.tenants ∧ (setReg s p o v).sessions = s.sessions
    ∧ (setReg s p o v).kv = s.kv ∧ (setReg s p o v).sets = s.sets ∧ (setReg s p o v).bolts = s.bolts ∧ (setReg s p o v).panels = s.panels
    ∧ (setReg s p o v).arrays = s.arrays ∧ (setReg s p o v).ras = s.ras ∧ (setReg s p o v).net = s.net ∧ (setReg s p o v).fab = s.fab
    ∧ (setReg s p o v).dramPoison = s.dramPoison :=
  ⟨rfl, rfl, rfl, rfl, rfl, rfl, rfl, rfl, rfl, rfl, rfl, rfl, rfl, rfl, rfl, rfl, rfl, rfl, rfl, rfl, rfl, rfl, rfl, rfl, rfl, rfl, rfl, rfl, rfl, rfl, rfl, rfl, rfl, rfl⟩

/-- A change that waits for its commit is noted in the start state alone. -/
@[simp] theorem markDirty_fields {s : State} :
    (markDirty s).pending = s.pending ∧ (markDirty s).now = s.now ∧ (markDirty s).freeCtr = s.freeCtr
    ∧ (markDirty s).lastRead = s.lastRead ∧ (markDirty s).out = s.out ∧ (markDirty s).variant = s.variant
    ∧ (markDirty s).stepping = s.stepping ∧ (markDirty s).regs = s.regs ∧ (markDirty s).counters = s.counters
    ∧ (markDirty s).hdrs = s.hdrs ∧ (markDirty s).bb = s.bb ∧ (markDirty s).st = s.st ∧ (markDirty s).power = s.power
    ∧ (markDirty s).hk = s.hk ∧ (markDirty s).sec = s.sec ∧ (markDirty s).port0 = s.port0 ∧ (markDirty s).port1 = s.port1
    ∧ (markDirty s).vfs = s.vfs ∧ (markDirty s).rings = s.rings ∧ (markDirty s).dispatched = s.dispatched ∧ (markDirty s).jobs = s.jobs
    ∧ (markDirty s).claims = s.claims ∧ (markDirty s).nextId = s.nextId ∧ (markDirty s).tenants = s.tenants
    ∧ (markDirty s).sessions = s.sessions ∧ (markDirty s).kv = s.kv ∧ (markDirty s).sets = s.sets ∧ (markDirty s).bolts = s.bolts
    ∧ (markDirty s).panels = s.panels ∧ (markDirty s).arrays = s.arrays ∧ (markDirty s).ras = s.ras ∧ (markDirty s).net = s.net
    ∧ (markDirty s).fab = s.fab ∧ (markDirty s).dramPoison = s.dramPoison :=
  ⟨rfl, rfl, rfl, rfl, rfl, rfl, rfl, rfl, rfl, rfl, rfl, rfl, rfl, rfl, rfl, rfl, rfl, rfl, rfl, rfl, rfl, rfl, rfl, rfl, rfl, rfl, rfl, rfl, rfl, rfl, rfl, rfl, rfl, rfl⟩

/-- Cleared counters change the counters alone. -/
@[simp] theorem clearRun_fields {s : State} {p : PageId} {first n : Nat} {ts : List Nat} :
    (clearRun s p first n ts).pending = s.pending ∧ (clearRun s p first n ts).now = s.now ∧ (clearRun s p first n ts).freeCtr = s.freeCtr
    ∧ (clearRun s p first n ts).lastRead = s.lastRead ∧ (clearRun s p first n ts).out = s.out
    ∧ (clearRun s p first n ts).variant = s.variant ∧ (clearRun s p first n ts).stepping = s.stepping
    ∧ (clearRun s p first n ts).regs = s.regs ∧ (clearRun s p first n ts).hdrs = s.hdrs ∧ (clearRun s p first n ts).bb = s.bb
    ∧ (clearRun s p first n ts).st = s.st ∧ (clearRun s p first n ts).power = s.power ∧ (clearRun s p first n ts).hk = s.hk
    ∧ (clearRun s p first n ts).start = s.start ∧ (clearRun s p first n ts).sec = s.sec ∧ (clearRun s p first n ts).port0 = s.port0
    ∧ (clearRun s p first n ts).port1 = s.port1 ∧ (clearRun s p first n ts).vfs = s.vfs ∧ (clearRun s p first n ts).rings = s.rings
    ∧ (clearRun s p first n ts).dispatched = s.dispatched ∧ (clearRun s p first n ts).jobs = s.jobs
    ∧ (clearRun s p first n ts).claims = s.claims ∧ (clearRun s p first n ts).nextId = s.nextId
    ∧ (clearRun s p first n ts).tenants = s.tenants ∧ (clearRun s p first n ts).sessions = s.sessions
    ∧ (clearRun s p first n ts).kv = s.kv ∧ (clearRun s p first n ts).sets = s.sets ∧ (clearRun s p first n ts).bolts = s.bolts
    ∧ (clearRun s p first n ts).panels = s.panels ∧ (clearRun s p first n ts).arrays = s.arrays ∧ (clearRun s p first n ts).ras = s.ras
    ∧ (clearRun s p first n ts).net = s.net ∧ (clearRun s p first n ts).fab = s.fab ∧ (clearRun s p first n ts).dramPoison = s.dramPoison :=
  ⟨rfl, rfl, rfl, rfl, rfl, rfl, rfl, rfl, rfl, rfl, rfl, rfl, rfl, rfl, rfl, rfl, rfl, rfl, rfl, rfl, rfl, rfl, rfl, rfl, rfl, rfl, rfl, rfl, rfl, rfl, rfl, rfl, rfl, rfl⟩

/-- A counted clear changes the headers alone. -/
@[simp] theorem countClear_fields {s : State} {p : PageId} :
    (countClear s p).pending = s.pending ∧ (countClear s p).now = s.now ∧ (countClear s p).freeCtr = s.freeCtr
    ∧ (countClear s p).lastRead = s.lastRead ∧ (countClear s p).out = s.out ∧ (countClear s p).variant = s.variant
    ∧ (countClear s p).stepping = s.stepping ∧ (countClear s p).regs = s.regs ∧ (countClear s p).counters = s.counters
    ∧ (countClear s p).bb = s.bb ∧ (countClear s p).st = s.st ∧ (countClear s p).power = s.power ∧ (countClear s p).hk = s.hk
    ∧ (countClear s p).start = s.start ∧ (countClear s p).sec = s.sec ∧ (countClear s p).port0 = s.port0
    ∧ (countClear s p).port1 = s.port1 ∧ (countClear s p).vfs = s.vfs ∧ (countClear s p).rings = s.rings
    ∧ (countClear s p).dispatched = s.dispatched ∧ (countClear s p).jobs = s.jobs ∧ (countClear s p).claims = s.claims
    ∧ (countClear s p).nextId = s.nextId ∧ (countClear s p).tenants = s.tenants ∧ (countClear s p).sessions = s.sessions
    ∧ (countClear s p).kv = s.kv ∧ (countClear s p).sets = s.sets ∧ (countClear s p).bolts = s.bolts ∧ (countClear s p).panels = s.panels
    ∧ (countClear s p).arrays = s.arrays ∧ (countClear s p).ras = s.ras ∧ (countClear s p).net = s.net ∧ (countClear s p).fab = s.fab
    ∧ (countClear s p).dramPoison = s.dramPoison :=
  ⟨rfl, rfl, rfl, rfl, rfl, rfl, rfl, rfl, rfl, rfl, rfl, rfl, rfl, rfl, rfl, rfl, rfl, rfl, rfl, rfl, rfl, rfl, rfl, rfl, rfl, rfl, rfl, rfl, rfl, rfl, rfl, rfl, rfl, rfl⟩

/-- A changed queue changes the queue alone. -/
@[simp] theorem withPending_fields {s : State} {q : List Instr} :
    (s.withPending q).now = s.now ∧ (s.withPending q).freeCtr = s.freeCtr ∧ (s.withPending q).lastRead = s.lastRead
    ∧ (s.withPending q).out = s.out ∧ (s.withPending q).variant = s.variant ∧ (s.withPending q).stepping = s.stepping
    ∧ (s.withPending q).regs = s.regs ∧ (s.withPending q).counters = s.counters ∧ (s.withPending q).hdrs = s.hdrs
    ∧ (s.withPending q).bb = s.bb ∧ (s.withPending q).st = s.st ∧ (s.withPending q).power = s.power ∧ (s.withPending q).hk = s.hk
    ∧ (s.withPending q).start = s.start ∧ (s.withPending q).sec = s.sec ∧ (s.withPending q).port0 = s.port0
    ∧ (s.withPending q).port1 = s.port1 ∧ (s.withPending q).vfs = s.vfs ∧ (s.withPending q).rings = s.rings
    ∧ (s.withPending q).dispatched = s.dispatched ∧ (s.withPending q).jobs = s.jobs ∧ (s.withPending q).claims = s.claims
    ∧ (s.withPending q).nextId = s.nextId ∧ (s.withPending q).tenants = s.tenants ∧ (s.withPending q).sessions = s.sessions
    ∧ (s.withPending q).kv = s.kv ∧ (s.withPending q).sets = s.sets ∧ (s.withPending q).bolts = s.bolts
    ∧ (s.withPending q).panels = s.panels ∧ (s.withPending q).arrays = s.arrays ∧ (s.withPending q).ras = s.ras
    ∧ (s.withPending q).net = s.net ∧ (s.withPending q).fab = s.fab ∧ (s.withPending q).dramPoison = s.dramPoison :=
  ⟨rfl, rfl, rfl, rfl, rfl, rfl, rfl, rfl, rfl, rfl, rfl, rfl, rfl, rfl, rfl, rfl, rfl, rfl, rfl, rfl, rfl, rfl, rfl, rfl, rfl, rfl, rfl, rfl, rfl, rfl, rfl, rfl, rfl, rfl⟩

/-- A changed port changes the ports alone. -/
@[simp] theorem modPort_fields {s : State} {p : Nat} {f : Port → Port} :
    (modPort s p f).pending = s.pending ∧ (modPort s p f).now = s.now ∧ (modPort s p f).freeCtr = s.freeCtr
    ∧ (modPort s p f).lastRead = s.lastRead ∧ (modPort s p f).out = s.out ∧ (modPort s p f).variant = s.variant
    ∧ (modPort s p f).stepping = s.stepping ∧ (modPort s p f).regs = s.regs ∧ (modPort s p f).counters = s.counters
    ∧ (modPort s p f).hdrs = s.hdrs ∧ (modPort s p f).bb = s.bb ∧ (modPort s p f).st = s.st ∧ (modPort s p f).power = s.power
    ∧ (modPort s p f).hk = s.hk ∧ (modPort s p f).start = s.start ∧ (modPort s p f).sec = s.sec ∧ (modPort s p f).vfs = s.vfs
    ∧ (modPort s p f).rings = s.rings ∧ (modPort s p f).dispatched = s.dispatched ∧ (modPort s p f).jobs = s.jobs
    ∧ (modPort s p f).claims = s.claims ∧ (modPort s p f).nextId = s.nextId ∧ (modPort s p f).tenants = s.tenants
    ∧ (modPort s p f).sessions = s.sessions ∧ (modPort s p f).kv = s.kv ∧ (modPort s p f).sets = s.sets ∧ (modPort s p f).bolts = s.bolts
    ∧ (modPort s p f).panels = s.panels ∧ (modPort s p f).arrays = s.arrays ∧ (modPort s p f).ras = s.ras ∧ (modPort s p f).net = s.net
    ∧ (modPort s p f).fab = s.fab ∧ (modPort s p f).dramPoison = s.dramPoison :=
  by unfold modPort; split <;> exact ⟨rfl, rfl, rfl, rfl, rfl, rfl, rfl, rfl, rfl, rfl, rfl, rfl, rfl, rfl, rfl, rfl, rfl, rfl, rfl, rfl, rfl, rfl, rfl, rfl, rfl, rfl, rfl, rfl, rfl, rfl, rfl, rfl, rfl⟩

/-! ### What an update puts in its own field -/

variable {s : State}

@[simp] theorem withPending_pending {q : List Instr} : (s.withPending q).pending = q := rfl
@[simp] theorem emit_out {o : Out} : (emit s o).out = s.out ++ [o] := rfl
@[simp] theorem drawFree_freeCtr : (drawFree s).freeCtr = s.freeCtr + 1 := rfl
@[simp] theorem getHdr_modHdr {p : PageId} {f : Hdr → Hdr} : getHdr (modHdr s p f) p = f (getHdr s p) := mapGet_mapMod_self
@[simp] theorem getVf_modVf {p v : Nat} {f : Vf → Vf} : getVf (modVf s p v f) p v = f (getVf s p v) := mapGet_mapMod_self
@[simp] theorem getRing_modRing {p k : Nat} {f : Ring → Ring} : getRing (modRing s p k f) p k = f (getRing s p k) := mapGet_mapMod_self
@[simp] theorem getTenant_modTenant {t : Nat} {f : Tenant → Tenant} : getTenant (modTenant s t f) t = f (getTenant s t) :=
  mapGet_mapMod_self
@[simp] theorem getSession_modSession {n : Nat} {f : Session → Session} : getSession (modSession s n f) n = f (getSession s n) :=
  mapGet_mapMod_self
@[simp] theorem getCal_modCal {p t : Nat} {f : TileCal → TileCal} : getCal (modCal s p t f) p t = f (getCal s p t) := by
  unfold getCal modCal; exact mapGet_mapMod_self
@[simp] theorem getKw_modKw {p : Nat} {f : KwPort → KwPort} : getKw (modKw s p f) p = f (getKw s p) := mapGet_mapMod_self
@[simp] theorem getLane_modLane {p l : Nat} {f : KwLane → KwLane} : getLane (modLane s p l f) p l = f (getLane s p l) :=
  mapGet_mapMod_self
@[simp] theorem getBolt_setBolt {b : Nat} {o : Option Bolt} : getBolt (setBolt s b o) b = o := mapGet_mapSet_self
@[simp] theorem getBolt_modBolt {b : Nat} {f : Bolt → Bolt} : getBolt (modBolt s b f) b = (getBolt s b).map f := mapGet_mapMod_self
@[simp] theorem getReg_setReg {p : PageId} {o : Nat} {v : Word} : getReg (setReg s p o v) p o = v := mapGet_mapSet_self
@[simp] theorem getPort_modPort {p : Nat} {f : Port → Port} : getPort (modPort s p f) p = f (getPort s p) := by
  unfold getPort modPort; split <;> rfl

/-- A change of one session leaves the others. -/
theorem getSession_modSession_ne {n m : Nat} {f : Session → Session} (h : n ≠ m) : getSession (modSession s n f) m = getSession s m :=
  mapGet_mapMod_ne h

/-- A change of one tenant leaves the others. -/
theorem getTenant_modTenant_ne {n m : Nat} {f : Tenant → Tenant} (h : n ≠ m) : getTenant (modTenant s n f) m = getTenant s m :=
  mapGet_mapMod_ne h

/-- A change of one page's header leaves the others. -/
theorem getHdr_modHdr_ne {p q : PageId} {f : Hdr → Hdr} (h : pageKey p ≠ pageKey q) : getHdr (modHdr s p f) q = getHdr s q :=
  mapGet_mapMod_ne h

end Sys2Proof.Machine
end

