-- ==== Sys2Proof/Laws/Events.lean ====
section
/-! SUPPORT. What the shared operations can do, said once: raising events, capturing errors, counting, writing a signature, changing a block's
state and answering an entry; and which event bits are set after them. -/

namespace Sys2Proof.Machine

variable {s t u : State}

/-! ### Raising events changes the interrupt state and the records alone -/

theorem OnlyEvents.eq (h : OnlyEvents s t) :
    t = { s with hdrs := t.hdrs, bb := t.bb, port0 := t.port0, port1 := t.port1, vfs := t.vfs, out := t.out } := h

theorem OnlyEvents.refl : OnlyEvents s s := rfl

theorem OnlyEvents.trans (h : OnlyEvents s t) (k : OnlyEvents t u) : OnlyEvents s u := by
  unfold OnlyEvents at *
  rw [k, h]

/-- The fields that events leave. -/
theorem OnlyEvents.fields (h : OnlyEvents s t) :
    t.pending = s.pending ∧ t.now = s.now ∧ t.freeCtr = s.freeCtr ∧ t.lastRead = s.lastRead ∧ t.variant = s.variant
    ∧ t.stepping = s.stepping ∧ t.regs = s.regs ∧ t.counters = s.counters ∧ t.st = s.st ∧ t.power = s.power ∧ t.hk = s.hk
    ∧ t.start = s.start ∧ t.sec = s.sec ∧ t.rings = s.rings ∧ t.dispatched = s.dispatched ∧ t.jobs = s.jobs ∧ t.claims = s.claims
    ∧ t.nextId = s.nextId ∧ t.tenants = s.tenants ∧ t.sessions = s.sessions ∧ t.kv = s.kv ∧ t.sets = s.sets ∧ t.bolts = s.bolts
    ∧ t.panels = s.panels ∧ t.arrays = s.arrays ∧ t.ras = s.ras ∧ t.net = s.net ∧ t.fab = s.fab ∧ t.dramPoison = s.dramPoison := by
  rw [h.eq]; exact ⟨rfl, rfl, rfl, rfl, rfl, rfl, rfl, rfl, rfl, rfl, rfl, rfl, rfl, rfl, rfl, rfl, rfl, rfl, rfl, rfl, rfl, rfl, rfl, rfl, rfl, rfl, rfl, rfl, rfl⟩

theorem modHdr_only {p : PageId} {f : Hdr → Hdr} : OnlyEvents s (modHdr s p f) := rfl

theorem modVf_only {p v : Nat} {f : Vf → Vf} : OnlyEvents s (modVf s p v f) := rfl

theorem emit_only {o : Out} : OnlyEvents s (emit s o) := rfl

theorem modPort_only {p : Nat} {f : Port → Port} : OnlyEvents s (modPort s p f) := by
  unfold modPort; split <;> rfl

theorem withBb_only {b : BlackBox} : OnlyEvents s { s with bb := b } := rfl

theorem bbRecord_only {p : PageId} {c : Nat} {d : List Byte} : OnlyEvents s (bbRecord s p c d) := by
  unfold bbRecord bbPut; exact withBb_only

theorem bbRecord_hdrs {p : PageId} {c : Nat} {d : List Byte} : (bbRecord s p c d).hdrs = s.hdrs := by
  have k : ∀ b : BlackBox, ({ s with bb := b } : State).hdrs = s.hdrs := fun _ => rfl
  unfold bbRecord bbPut; exact k _

theorem sendMsix_only {p fn v : Nat} : OnlyEvents s (sendMsix s p fn v) := by
  unfold sendMsix; dsimp only; split
  · exact .refl
  · split
    · exact modPort_only
    · exact emit_only

theorem notifyPort_only {p : PageId} {k : Nat} : OnlyEvents s (notifyPort s p k) := by
  unfold notifyPort; dsimp only; split
  · exact sendMsix_only.trans modPort_only
  · exact .refl

theorem notify_only {p : PageId} : OnlyEvents s (notify s p) := by
  unfold notify; split
  · dsimp only; split
    · exact sendMsix_only.trans modVf_only
    · exact .refl
  · exact notifyPort_only.trans notifyPort_only

theorem setEvt_only {p : PageId} {n : Nat} {f : Bool} : OnlyEvents s (setEvt s p n f) := by
  unfold setEvt; dsimp only; split
  · exact modHdr_only.trans notify_only
  · exact modHdr_only

theorem capture_only {p : PageId} {c w o d : Nat} : OnlyEvents s (capture s p c w o d) := by
  unfold capture; split
  · exact modHdr_only
  · exact (modHdr_only.trans bbRecord_only).trans setEvt_only

/-- Raising an event, whatever it is and wherever: only the events' own fields change (R432 to R434, R446, R504). -/
theorem raiseEvent_only {p : PageId} {n : Nat} {ids : List (Nat × Nat)} : OnlyEvents s (raiseEvent s p n ids) := by
  unfold raiseEvent; split
  · exact .refl
  · exact (capture_only.trans bbRecord_only).trans setEvt_only

theorem setEvts_only {p : PageId} {f : Bool} {w : Word} {ns : List Nat} : OnlyEvents s (setEvts s p f ns w) := by
  induction ns generalizing s with
  | nil => exact .refl
  | cons n ns ih =>
    unfold setEvts
    split
    · exact setEvt_only.trans ih
    · exact ih

/-- What it leaves. -/
@[simp] theorem capture_fields {p : PageId} {c w o d : Nat} :
    (capture s p c w o d).pending = s.pending ∧ (capture s p c w o d).now = s.now ∧ (capture s p c w o d).freeCtr = s.freeCtr
    ∧ (capture s p c w o d).lastRead = s.lastRead ∧ (capture s p c w o d).variant = s.variant
    ∧ (capture s p c w o d).stepping = s.stepping ∧ (capture s p c w o d).regs = s.regs ∧ (capture s p c w o d).counters = s.counters
    ∧ (capture s p c w o d).st = s.st ∧ (capture s p c w o d).power = s.power ∧ (capture s p c w o d).hk = s.hk
    ∧ (capture s p c w o d).start = s.start ∧ (capture s p c w o d).sec = s.sec ∧ (capture s p c w o d).rings = s.rings
    ∧ (capture s p c w o d).dispatched = s.dispatched ∧ (capture s p c w o d).jobs = s.jobs ∧ (capture s p c w o d).claims = s.claims
    ∧ (capture s p c w o d).nextId = s.nextId ∧ (capture s p c w o d).tenants = s.tenants ∧ (capture s p c w o d).sessions = s.sessions
    ∧ (capture s p c w o d).kv = s.kv ∧ (capture s p c w o d).sets = s.sets ∧ (capture s p c w o d).bolts = s.bolts
    ∧ (capture s p c w o d).panels = s.panels ∧ (capture s p c w o d).arrays = s.arrays ∧ (capture s p c w o d).ras = s.ras
    ∧ (capture s p c w o d).net = s.net ∧ (capture s p c w o d).fab = s.fab ∧ (capture s p c w o d).dramPoison = s.dramPoison :=
  capture_only.fields

/-- What it leaves. -/
@[simp] theorem raiseEvent_fields {p : PageId} {n : Nat} {ids : List (Nat × Nat)} :
    (raiseEvent s p n ids).pending = s.pending ∧ (raiseEvent s p n ids).now = s.now ∧ (raiseEvent s p n ids).freeCtr = s.freeCtr
    ∧ (raiseEvent s p n ids).lastRead = s.lastRead ∧ (raiseEvent s p n ids).variant = s.variant
    ∧ (raiseEvent s p n ids).stepping = s.stepping ∧ (raiseEvent s p n ids).regs = s.regs ∧ (raiseEvent s p n ids).counters = s.counters
    ∧ (raiseEvent s p n ids).st = s.st ∧ (raiseEvent s p n ids).power = s.power ∧ (raiseEvent s p n ids).hk = s.hk
    ∧ (raiseEvent s p n ids).start = s.start ∧ (raiseEvent s p n ids).sec = s.sec ∧ (raiseEvent s p n ids).rings = s.rings
    ∧ (raiseEvent s p n ids).dispatched = s.dispatched ∧ (raiseEvent s p n ids).jobs = s.jobs ∧ (raiseEvent s p n ids).claims = s.claims
    ∧ (raiseEvent s p n ids).nextId = s.nextId ∧ (raiseEvent s p n ids).tenants = s.tenants ∧ (raiseEvent s p n ids).sessions = s.sessions
    ∧ (raiseEvent s p n ids).kv = s.kv ∧ (raiseEvent s p n ids).sets = s.sets ∧ (raiseEvent s p n ids).bolts = s.bolts
    ∧ (raiseEvent s p n ids).panels = s.panels ∧ (raiseEvent s p n ids).arrays = s.arrays ∧ (raiseEvent s p n ids).ras = s.ras
    ∧ (raiseEvent s p n ids).net = s.net ∧ (raiseEvent s p n ids).fab = s.fab ∧ (raiseEvent s p n ids).dramPoison = s.dramPoison :=
  raiseEvent_only.fields

/-- What it leaves. -/
@[simp] theorem setEvt_fields {p : PageId} {n : Nat} {f : Bool} :
    (setEvt s p n f).pending = s.pending ∧ (setEvt s p n f).now = s.now ∧ (setEvt s p n f).freeCtr = s.freeCtr
    ∧ (setEvt s p n f).lastRead = s.lastRead ∧ (setEvt s p n f).variant = s.variant ∧ (setEvt s p n f).stepping = s.stepping
    ∧ (setEvt s p n f).regs = s.regs ∧ (setEvt s p n f).counters = s.counters ∧ (setEvt s p n f).st = s.st
    ∧ (setEvt s p n f).power = s.power ∧ (setEvt s p n f).hk = s.hk ∧ (setEvt s p n f).start = s.start ∧ (setEvt s p n f).sec = s.sec
    ∧ (setEvt s p n f).rings = s.rings ∧ (setEvt s p n f).dispatched = s.dispatched ∧ (setEvt s p n f).jobs = s.jobs
    ∧ (setEvt s p n f).claims = s.claims ∧ (setEvt s p n f).nextId = s.nextId ∧ (setEvt s p n f).tenants = s.tenants
    ∧ (setEvt s p n f).sessions = s.sessions ∧ (setEvt s p n f).kv = s.kv ∧ (setEvt s p n f).sets = s.sets
    ∧ (setEvt s p n f).bolts = s.bolts ∧ (setEvt s p n f).panels = s.panels ∧ (setEvt s p n f).arrays = s.arrays
    ∧ (setEvt s p n f).ras = s.ras ∧ (setEvt s p n f).net = s.net ∧ (setEvt s p n f).fab = s.fab
    ∧ (setEvt s p n f).dramPoison = s.dramPoison :=
  setEvt_only.fields

/-- What it leaves. -/
@[simp] theorem bbRecord_fields {p : PageId} {c : Nat} {d : List Byte} :
    (bbRecord s p c d).pending = s.pending ∧ (bbRecord s p c d).now = s.now ∧ (bbRecord s p c d).freeCtr = s.freeCtr
    ∧ (bbRecord s p c d).lastRead = s.lastRead ∧ (bbRecord s p c d).variant = s.variant ∧ (bbRecord s p c d).stepping = s.stepping
    ∧ (bbRecord s p c d).regs = s.regs ∧ (bbRecord s p c d).counters = s.counters ∧ (bbRecord s p c d).st = s.st
    ∧ (bbRecord s p c d).power = s.power ∧ (bbRecord s p c d).hk = s.hk ∧ (bbRecord s p c d).start = s.start
    ∧ (bbRecord s p c d).sec = s.sec ∧ (bbRecord s p c d).rings = s.rings ∧ (bbRecord s p c d).dispatched = s.dispatched
    ∧ (bbRecord s p c d).jobs = s.jobs ∧ (bbRecord s p c d).claims = s.claims ∧ (bbRecord s p c d).nextId = s.nextId
    ∧ (bbRecord s p c d).tenants = s.tenants ∧ (bbRecord s p c d).sessions = s.sessions ∧ (bbRecord s p c d).kv = s.kv
    ∧ (bbRecord s p c d).sets = s.sets ∧ (bbRecord s p c d).bolts = s.bolts ∧ (bbRecord s p c d).panels = s.panels
    ∧ (bbRecord s p c d).arrays = s.arrays ∧ (bbRecord s p c d).ras = s.ras ∧ (bbRecord s p c d).net = s.net
    ∧ (bbRecord s p c d).fab = s.fab ∧ (bbRecord s p c d).dramPoison = s.dramPoison :=
  bbRecord_only.fields

/-! ### Counting, signatures, block states and answers -/

/-- Counting changes the counters, and what the event of a saturation changes (R78). -/
@[simp] theorem bumpIds_fields {p : PageId} {o t n : Nat} {ids : List (Nat × Nat)} :
    (bumpIds s p o t n ids).pending = s.pending ∧ (bumpIds s p o t n ids).now = s.now ∧ (bumpIds s p o t n ids).freeCtr = s.freeCtr
    ∧ (bumpIds s p o t n ids).lastRead = s.lastRead ∧ (bumpIds s p o t n ids).variant = s.variant
    ∧ (bumpIds s p o t n ids).stepping = s.stepping ∧ (bumpIds s p o t n ids).regs = s.regs ∧ (bumpIds s p o t n ids).st = s.st
    ∧ (bumpIds s p o t n ids).power = s.power ∧ (bumpIds s p o t n ids).hk = s.hk ∧ (bumpIds s p o t n ids).start = s.start
    ∧ (bumpIds s p o t n ids).sec = s.sec ∧ (bumpIds s p o t n ids).rings = s.rings ∧ (bumpIds s p o t n ids).dispatched = s.dispatched
    ∧ (bumpIds s p o t n ids).jobs = s.jobs ∧ (bumpIds s p o t n ids).claims = s.claims ∧ (bumpIds s p o t n ids).nextId = s.nextId
    ∧ (bumpIds s p o t n ids).tenants = s.tenants ∧ (bumpIds s p o t n ids).sessions = s.sessions ∧ (bumpIds s p o t n ids).kv = s.kv
    ∧ (bumpIds s p o t n ids).sets = s.sets ∧ (bumpIds s p o t n ids).bolts = s.bolts ∧ (bumpIds s p o t n ids).panels = s.panels
    ∧ (bumpIds s p o t n ids).arrays = s.arrays ∧ (bumpIds s p o t n ids).ras = s.ras ∧ (bumpIds s p o t n ids).net = s.net
    ∧ (bumpIds s p o t n ids).fab = s.fab ∧ (bumpIds s p o t n ids).dramPoison = s.dramPoison :=
  by
  unfold bumpIds; split
  · exact ⟨rfl, rfl, rfl, rfl, rfl, rfl, rfl, rfl, rfl, rfl, rfl, rfl, rfl, rfl, rfl, rfl, rfl, rfl, rfl, rfl, rfl, rfl, rfl, rfl, rfl, rfl, rfl, rfl⟩
  · dsimp only; split
    · rw [raiseEvent_only.eq]; exact ⟨rfl, rfl, rfl, rfl, rfl, rfl, rfl, rfl, rfl, rfl, rfl, rfl, rfl, rfl, rfl, rfl, rfl, rfl, rfl, rfl, rfl, rfl, rfl, rfl, rfl, rfl, rfl, rfl⟩
    · exact ⟨rfl, rfl, rfl, rfl, rfl, rfl, rfl, rfl, rfl, rfl, rfl, rfl, rfl, rfl, rfl, rfl, rfl, rfl, rfl, rfl, rfl, rfl, rfl, rfl, rfl, rfl, rfl, rfl⟩

/-- Counting in an event that names nothing further. -/
@[simp] theorem bumpTile_fields {p : PageId} {o t n : Nat} :
    (bumpTile s p o t n).pending = s.pending ∧ (bumpTile s p o t n).now = s.now ∧ (bumpTile s p o t n).freeCtr = s.freeCtr
    ∧ (bumpTile s p o t n).lastRead = s.lastRead ∧ (bumpTile s p o t n).variant = s.variant ∧ (bumpTile s p o t n).stepping = s.stepping
    ∧ (bumpTile s p o t n).regs = s.regs ∧ (bumpTile s p o t n).st = s.st ∧ (bumpTile s p o t n).power = s.power
    ∧ (bumpTile s p o t n).hk = s.hk ∧ (bumpTile s p o t n).start = s.start ∧ (bumpTile s p o t n).sec = s.sec
    ∧ (bumpTile s p o t n).rings = s.rings ∧ (bumpTile s p o t n).dispatched = s.dispatched ∧ (bumpTile s p o t n).jobs = s.jobs
    ∧ (bumpTile s p o t n).claims = s.claims ∧ (bumpTile s p o t n).nextId = s.nextId ∧ (bumpTile s p o t n).tenants = s.tenants
    ∧ (bumpTile s p o t n).sessions = s.sessions ∧ (bumpTile s p o t n).kv = s.kv ∧ (bumpTile s p o t n).sets = s.sets
    ∧ (bumpTile s p o t n).bolts = s.bolts ∧ (bumpTile s p o t n).panels = s.panels ∧ (bumpTile s p o t n).arrays = s.arrays
    ∧ (bumpTile s p o t n).ras = s.ras ∧ (bumpTile s p o t n).net = s.net ∧ (bumpTile s p o t n).fab = s.fab
    ∧ (bumpTile s p o t n).dramPoison = s.dramPoison :=
  bumpIds_fields

/-- Counting one, with what the count is of. -/
@[simp] theorem bumpFor_fields {p : PageId} {o : Nat} {ids : List (Nat × Nat)} :
    (bumpFor s p o ids).pending = s.pending ∧ (bumpFor s p o ids).now = s.now ∧ (bumpFor s p o ids).freeCtr = s.freeCtr
    ∧ (bumpFor s p o ids).lastRead = s.lastRead ∧ (bumpFor s p o ids).variant = s.variant ∧ (bumpFor s p o ids).stepping = s.stepping
    ∧ (bumpFor s p o ids).regs = s.regs ∧ (bumpFor s p o ids).st = s.st ∧ (bumpFor s p o ids).power = s.power
    ∧ (bumpFor s p o ids).hk = s.hk ∧ (bumpFor s p o ids).start = s.start ∧ (bumpFor s p o ids).sec = s.sec
    ∧ (bumpFor s p o ids).rings = s.rings ∧ (bumpFor s p o ids).dispatched = s.dispatched ∧ (bumpFor s p o ids).jobs = s.jobs
    ∧ (bumpFor s p o ids).claims = s.claims ∧ (bumpFor s p o ids).nextId = s.nextId ∧ (bumpFor s p o ids).tenants = s.tenants
    ∧ (bumpFor s p o ids).sessions = s.sessions ∧ (bumpFor s p o ids).kv = s.kv ∧ (bumpFor s p o ids).sets = s.sets
    ∧ (bumpFor s p o ids).bolts = s.bolts ∧ (bumpFor s p o ids).panels = s.panels ∧ (bumpFor s p o ids).arrays = s.arrays
    ∧ (bumpFor s p o ids).ras = s.ras ∧ (bumpFor s p o ids).net = s.net ∧ (bumpFor s p o ids).fab = s.fab
    ∧ (bumpFor s p o ids).dramPoison = s.dramPoison :=
  bumpIds_fields

/-- Counting one. -/
@[simp] theorem bump_fields {p : PageId} {o : Nat} :
    (bump s p o).pending = s.pending ∧ (bump s p o).now = s.now ∧ (bump s p o).freeCtr = s.freeCtr ∧ (bump s p o).lastRead = s.lastRead
    ∧ (bump s p o).variant = s.variant ∧ (bump s p o).stepping = s.stepping ∧ (bump s p o).regs = s.regs ∧ (bump s p o).st = s.st
    ∧ (bump s p o).power = s.power ∧ (bump s p o).hk = s.hk ∧ (bump s p o).start = s.start ∧ (bump s p o).sec = s.sec
    ∧ (bump s p o).rings = s.rings ∧ (bump s p o).dispatched = s.dispatched ∧ (bump s p o).jobs = s.jobs ∧ (bump s p o).claims = s.claims
    ∧ (bump s p o).nextId = s.nextId ∧ (bump s p o).tenants = s.tenants ∧ (bump s p o).sessions = s.sessions ∧ (bump s p o).kv = s.kv
    ∧ (bump s p o).sets = s.sets ∧ (bump s p o).bolts = s.bolts ∧ (bump s p o).panels = s.panels ∧ (bump s p o).arrays = s.arrays
    ∧ (bump s p o).ras = s.ras ∧ (bump s p o).net = s.net ∧ (bump s p o).fab = s.fab ∧ (bump s p o).dramPoison = s.dramPoison :=
  bumpTile_fields

theorem sigCont_only {xs : List (List Byte)} : OnlyEvents s (sigCont s xs) := by
  induction xs generalizing s with
  | nil => exact .refl
  | cons x xs ih => unfold sigCont; exact bbRecord_only.trans ih

/-- A signature: records, Jobel's list, and SIG_LOST when an unread one is overwritten. -/
theorem writeSig_shape {i : SigInfo} : ∃ t r b ids, OnlyEvents s t ∧
    writeSig s i = if b = true then raiseEvent { t with ras := r } .die 62 ids else { t with ras := r } := by
  unfold writeSig; extract_lets same g enc parts s1 s2 l lapped r s3
  have h : OnlyEvents s s2 := bbRecord_only.trans sigCont_only
  have e : s3 = { s2 with ras := s3.ras } := rfl
  clear_value s3 s2 lapped
  exact ⟨s2, s3.ras, lapped, [(64, g.seq.toNat)], h, by rw [← e]⟩

/-- A signature changes Jobel's records, the black box and what SIG_LOST raises (R387). -/
@[simp] theorem writeSig_fields {i : SigInfo} :
    (writeSig s i).pending = s.pending ∧ (writeSig s i).now = s.now ∧ (writeSig s i).freeCtr = s.freeCtr
    ∧ (writeSig s i).lastRead = s.lastRead ∧ (writeSig s i).variant = s.variant ∧ (writeSig s i).stepping = s.stepping
    ∧ (writeSig s i).regs = s.regs ∧ (writeSig s i).counters = s.counters ∧ (writeSig s i).st = s.st ∧ (writeSig s i).power = s.power
    ∧ (writeSig s i).hk = s.hk ∧ (writeSig s i).start = s.start ∧ (writeSig s i).sec = s.sec ∧ (writeSig s i).rings = s.rings
    ∧ (writeSig s i).dispatched = s.dispatched ∧ (writeSig s i).jobs = s.jobs ∧ (writeSig s i).claims = s.claims
    ∧ (writeSig s i).nextId = s.nextId ∧ (writeSig s i).tenants = s.tenants ∧ (writeSig s i).sessions = s.sessions
    ∧ (writeSig s i).kv = s.kv ∧ (writeSig s i).sets = s.sets ∧ (writeSig s i).bolts = s.bolts ∧ (writeSig s i).panels = s.panels
    ∧ (writeSig s i).arrays = s.arrays ∧ (writeSig s i).net = s.net ∧ (writeSig s i).fab = s.fab
    ∧ (writeSig s i).dramPoison = s.dramPoison :=
  by
  obtain ⟨t, r, b, ids, h, e⟩ := writeSig_shape (s := s) (i := i)
  rw [e]; split
  · rw [raiseEvent_only.eq, h.eq]; exact ⟨rfl, rfl, rfl, rfl, rfl, rfl, rfl, rfl, rfl, rfl, rfl, rfl, rfl, rfl, rfl, rfl, rfl, rfl, rfl, rfl, rfl, rfl, rfl, rfl, rfl, rfl, rfl, rfl⟩
  · rw [h.eq]; exact ⟨rfl, rfl, rfl, rfl, rfl, rfl, rfl, rfl, rfl, rfl, rfl, rfl, rfl, rfl, rfl, rfl, rfl, rfl, rfl, rfl, rfl, rfl, rfl, rfl, rfl, rfl, rfl, rfl⟩

/-- A block's state change: its header, Jobel's mirror and the event. -/
@[simp] theorem setBlk_fields {p : PageId} {b : BlkSt} {h : Bool} {c : Nat} :
    (setBlk s p b h c).pending = s.pending ∧ (setBlk s p b h c).now = s.now ∧ (setBlk s p b h c).freeCtr = s.freeCtr
    ∧ (setBlk s p b h c).lastRead = s.lastRead ∧ (setBlk s p b h c).variant = s.variant ∧ (setBlk s p b h c).stepping = s.stepping
    ∧ (setBlk s p b h c).regs = s.regs ∧ (setBlk s p b h c).counters = s.counters ∧ (setBlk s p b h c).st = s.st
    ∧ (setBlk s p b h c).power = s.power ∧ (setBlk s p b h c).hk = s.hk ∧ (setBlk s p b h c).start = s.start
    ∧ (setBlk s p b h c).sec = s.sec ∧ (setBlk s p b h c).rings = s.rings ∧ (setBlk s p b h c).dispatched = s.dispatched
    ∧ (setBlk s p b h c).jobs = s.jobs ∧ (setBlk s p b h c).claims = s.claims ∧ (setBlk s p b h c).nextId = s.nextId
    ∧ (setBlk s p b h c).tenants = s.tenants ∧ (setBlk s p b h c).sessions = s.sessions ∧ (setBlk s p b h c).kv = s.kv
    ∧ (setBlk s p b h c).sets = s.sets ∧ (setBlk s p b h c).bolts = s.bolts ∧ (setBlk s p b h c).panels = s.panels
    ∧ (setBlk s p b h c).arrays = s.arrays ∧ (setBlk s p b h c).net = s.net ∧ (setBlk s p b h c).fab = s.fab
    ∧ (setBlk s p b h c).dramPoison = s.dramPoison :=
  by
  unfold setBlk; dsimp only; split
  · exact ⟨rfl, rfl, rfl, rfl, rfl, rfl, rfl, rfl, rfl, rfl, rfl, rfl, rfl, rfl, rfl, rfl, rfl, rfl, rfl, rfl, rfl, rfl, rfl, rfl, rfl, rfl, rfl, rfl⟩
  · split <;> (rw [raiseEvent_only.eq]; exact ⟨rfl, rfl, rfl, rfl, rfl, rfl, rfl, rfl, rfl, rfl, rfl, rfl, rfl, rfl, rfl, rfl, rfl, rfl, rfl, rfl, rfl, rfl, rfl, rfl, rfl, rfl, rfl, rfl⟩)

/-- Settling a ring changes the rings alone. -/
@[simp] theorem settleRing_fields {p k : Nat} :
    (settleRing s p k).pending = s.pending ∧ (settleRing s p k).now = s.now ∧ (settleRing s p k).freeCtr = s.freeCtr
    ∧ (settleRing s p k).lastRead = s.lastRead ∧ (settleRing s p k).out = s.out ∧ (settleRing s p k).variant = s.variant
    ∧ (settleRing s p k).stepping = s.stepping ∧ (settleRing s p k).regs = s.regs ∧ (settleRing s p k).counters = s.counters
    ∧ (settleRing s p k).hdrs = s.hdrs ∧ (settleRing s p k).bb = s.bb ∧ (settleRing s p k).st = s.st ∧ (settleRing s p k).power = s.power
    ∧ (settleRing s p k).hk = s.hk ∧ (settleRing s p k).start = s.start ∧ (settleRing s p k).sec = s.sec
    ∧ (settleRing s p k).port0 = s.port0 ∧ (settleRing s p k).port1 = s.port1 ∧ (settleRing s p k).vfs = s.vfs
    ∧ (settleRing s p k).dispatched = s.dispatched ∧ (settleRing s p k).jobs = s.jobs ∧ (settleRing s p k).claims = s.claims
    ∧ (settleRing s p k).nextId = s.nextId ∧ (settleRing s p k).tenants = s.tenants ∧ (settleRing s p k).sessions = s.sessions
    ∧ (settleRing s p k).kv = s.kv ∧ (settleRing s p k).sets = s.sets ∧ (settleRing s p k).bolts = s.bolts
    ∧ (settleRing s p k).panels = s.panels ∧ (settleRing s p k).arrays = s.arrays ∧ (settleRing s p k).ras = s.ras
    ∧ (settleRing s p k).net = s.net ∧ (settleRing s p k).fab = s.fab ∧ (settleRing s p k).dramPoison = s.dramPoison :=
  by
  unfold settleRing; dsimp only; split_ifs <;> exact ⟨rfl, rfl, rfl, rfl, rfl, rfl, rfl, rfl, rfl, rfl, rfl, rfl, rfl, rfl, rfl, rfl, rfl, rfl, rfl, rfl, rfl, rfl, rfl, rfl, rfl, rfl, rfl, rfl, rfl, rfl, rfl, rfl, rfl, rfl⟩

/-- A completion that waits changes the rings alone. -/
@[simp] theorem queueCompletion_fields {p k : Nat} {c : Completion} :
    (queueCompletion s p k c).pending = s.pending ∧ (queueCompletion s p k c).now = s.now ∧ (queueCompletion s p k c).freeCtr = s.freeCtr
    ∧ (queueCompletion s p k c).lastRead = s.lastRead ∧ (queueCompletion s p k c).out = s.out
    ∧ (queueCompletion s p k c).variant = s.variant ∧ (queueCompletion s p k c).stepping = s.stepping
    ∧ (queueCompletion s p k c).regs = s.regs ∧ (queueCompletion s p k c).counters = s.counters ∧ (queueCompletion s p k c).hdrs = s.hdrs
    ∧ (queueCompletion s p k c).bb = s.bb ∧ (queueCompletion s p k c).st = s.st ∧ (queueCompletion s p k c).power = s.power
    ∧ (queueCompletion s p k c).hk = s.hk ∧ (queueCompletion s p k c).start = s.start ∧ (queueCompletion s p k c).sec = s.sec
    ∧ (queueCompletion s p k c).port0 = s.port0 ∧ (queueCompletion s p k c).port1 = s.port1 ∧ (queueCompletion s p k c).vfs = s.vfs
    ∧ (queueCompletion s p k c).dispatched = s.dispatched ∧ (queueCompletion s p k c).jobs = s.jobs
    ∧ (queueCompletion s p k c).claims = s.claims ∧ (queueCompletion s p k c).nextId = s.nextId
    ∧ (queueCompletion s p k c).tenants = s.tenants ∧ (queueCompletion s p k c).sessions = s.sessions
    ∧ (queueCompletion s p k c).kv = s.kv ∧ (queueCompletion s p k c).sets = s.sets ∧ (queueCompletion s p k c).bolts = s.bolts
    ∧ (queueCompletion s p k c).panels = s.panels ∧ (queueCompletion s p k c).arrays = s.arrays ∧ (queueCompletion s p k c).ras = s.ras
    ∧ (queueCompletion s p k c).net = s.net ∧ (queueCompletion s p k c).fab = s.fab ∧ (queueCompletion s p k c).dramPoison = s.dramPoison :=
  by
  unfold queueCompletion; split <;> exact ⟨rfl, rfl, rfl, rfl, rfl, rfl, rfl, rfl, rfl, rfl, rfl, rfl, rfl, rfl, rfl, rfl, rfl, rfl, rfl, rfl, rfl, rfl, rfl, rfl, rfl, rfl, rfl, rfl, rfl, rfl, rfl, rfl, rfl, rfl⟩

/-- An answered entry leaves the dispatched ones, its ring takes the completion, and nothing else changes (R443). -/
theorem finishEntry_eq {d : Dispatched} {st det : Nat} : ∃ rs, finishEntry s d st det =
    { s with dispatched := s.dispatched.filter fun x => x.id != d.id, rings := rs } := by
  refine ⟨(finishEntry s d st det).rings, ?_⟩
  simp only [finishEntry, settleRing, queueCompletion]
  split_ifs <;> rfl

/-- What an answer leaves. -/
@[simp] theorem finishEntry_fields {d : Dispatched} {st det : Nat} :
    (finishEntry s d st det).pending = s.pending ∧ (finishEntry s d st det).now = s.now ∧ (finishEntry s d st det).freeCtr = s.freeCtr
    ∧ (finishEntry s d st det).lastRead = s.lastRead ∧ (finishEntry s d st det).out = s.out ∧ (finishEntry s d st det).variant = s.variant
    ∧ (finishEntry s d st det).stepping = s.stepping ∧ (finishEntry s d st det).regs = s.regs
    ∧ (finishEntry s d st det).counters = s.counters ∧ (finishEntry s d st det).hdrs = s.hdrs ∧ (finishEntry s d st det).bb = s.bb
    ∧ (finishEntry s d st det).st = s.st ∧ (finishEntry s d st det).power = s.power ∧ (finishEntry s d st det).hk = s.hk
    ∧ (finishEntry s d st det).start = s.start ∧ (finishEntry s d st det).sec = s.sec ∧ (finishEntry s d st det).port0 = s.port0
    ∧ (finishEntry s d st det).port1 = s.port1 ∧ (finishEntry s d st det).vfs = s.vfs ∧ (finishEntry s d st det).jobs = s.jobs
    ∧ (finishEntry s d st det).claims = s.claims ∧ (finishEntry s d st det).nextId = s.nextId
    ∧ (finishEntry s d st det).tenants = s.tenants ∧ (finishEntry s d st det).sessions = s.sessions ∧ (finishEntry s d st det).kv = s.kv
    ∧ (finishEntry s d st det).sets = s.sets ∧ (finishEntry s d st det).bolts = s.bolts ∧ (finishEntry s d st det).panels = s.panels
    ∧ (finishEntry s d st det).arrays = s.arrays ∧ (finishEntry s d st det).ras = s.ras ∧ (finishEntry s d st det).net = s.net
    ∧ (finishEntry s d st det).fab = s.fab ∧ (finishEntry s d st det).dramPoison = s.dramPoison :=
  by
  obtain ⟨rs, h⟩ := finishEntry_eq (s := s) (d := d) (st := st) (det := det)
  rw [h]; exact ⟨rfl, rfl, rfl, rfl, rfl, rfl, rfl, rfl, rfl, rfl, rfl, rfl, rfl, rfl, rfl, rfl, rfl, rfl, rfl, rfl, rfl, rfl, rfl, rfl, rfl, rfl, rfl, rfl, rfl, rfl, rfl, rfl, rfl⟩

/-! ### Event bits and headers -/

/-- Whether one header is another with more events set, and a capture perhaps. -/
def Hdr.Grown (h k : Hdr) : Prop :=
  (∀ n, bit h.evt n = true → bit k.evt n = true) ∧ k.st = h.st ∧ k.held = h.held ∧ k.gen = h.gen ∧ k.clears = h.clears ∧ k.cause = h.cause
    ∧ k.ownPort = h.ownPort ∧ k.ownBolt = h.ownBolt ∧ k.ownTenant = h.ownTenant

theorem Hdr.Grown.refl {h : Hdr} : h.Grown h := ⟨fun _ h => h, rfl, rfl, rfl, rfl, rfl, rfl, rfl, rfl⟩

theorem Hdr.Grown.trans {a b c : Hdr} (h : a.Grown b) (k : b.Grown c) : a.Grown c := by
  obtain ⟨h0, h1, h2, h3, h4, h5, h6, h7, h8⟩ := h
  obtain ⟨k0, k1, k2, k3, k4, k5, k6, k7, k8⟩ := k
  exact ⟨fun n h => k0 n (h0 n h), k1.trans h1, k2.trans h2, k3.trans h3, k4.trans h4, k5.trans h5, k6.trans h6, k7.trans h7, k8.trans h8⟩

theorem bit_or {a b : Word} {n : Nat} : bit (a ||| b) n = (bit a n || bit b n) := by simp [bit]

theorem bit_bitOf {n m : Nat} (h : n < 64) : bit (bitOf n) m = decide (m = n) := by
  simp only [bit, bitOf, BitVec.getLsbD_ofNat, Nat.testBit_two_pow]
  by_cases e : m = n
  · subst e; simp [h]
  · simp [e, Ne.symm e]

/-- A change of a header that only grows it grows every header of the module. -/
theorem modHdr_grown {p q : PageId} {f : Hdr → Hdr} (h : ∀ x : Hdr, x.Grown (f x)) : (getHdr s q).Grown (getHdr (modHdr s p f) q) := by
  by_cases e : pageKey p = pageKey q
  · have : getHdr (modHdr s p f) q = f (getHdr s q) := by
      simp only [getHdr, modHdr, ← e]; exact mapGet_mapMod_self
    rw [this]; exact h _
  · rw [getHdr_modHdr_ne e]; exact .refl

theorem getHdr_of_hdrs {q : PageId} (h : t.hdrs = s.hdrs) : getHdr t q = getHdr s q := by unfold getHdr; rw [h]

theorem sendMsix_hdrs {p fn v : Nat} : (sendMsix s p fn v).hdrs = s.hdrs := by
  unfold sendMsix; dsimp only; split_ifs <;> simp

theorem notify_hdrs {p : PageId} : (notify s p).hdrs = s.hdrs := by
  have one : ∀ (s : State) (k : Nat), (notifyPort s p k).hdrs = s.hdrs := by
    intro s k; unfold notifyPort; dsimp only; split_ifs <;> simp [sendMsix_hdrs]
  unfold notify; split
  · dsimp only; split_ifs <;> simp [sendMsix_hdrs]
  · rw [one, one]

/-- A bit that becomes set. -/
theorem setEvt_raised {p : PageId} {n : Nat} {f : Bool} (h : n < 64) : Raised (setEvt s p n f) p n := by
  unfold Raised setEvt; dsimp only
  split
  · rw [getHdr_of_hdrs notify_hdrs]; simp [bit_or, bit_bitOf h]
  · simp [bit_or, bit_bitOf h]

theorem setEvt_grown {p q : PageId} {n : Nat} {f : Bool} : (getHdr s q).Grown (getHdr (setEvt s p n f) q) := by
  unfold setEvt; extract_lets h s1
  have e : (getHdr s q).Grown (getHdr s1 q) := modHdr_grown fun x => ⟨fun m hm => by simp [bit_or, hm], rfl, rfl, rfl, rfl, rfl, rfl, rfl, rfl⟩
  clear_value s1
  split
  · rw [getHdr_of_hdrs notify_hdrs]; exact e
  · exact e

theorem capture_grown {p q : PageId} {c w o d : Nat} : (getHdr s q).Grown (getHdr (capture s p c w o d) q) := by
  unfold capture; split
  · exact modHdr_grown fun x => ⟨fun m hm => hm, rfl, rfl, rfl, rfl, rfl, rfl, rfl, rfl⟩
  · extract_lets s1
    have e : (getHdr s q).Grown (getHdr s1 q) := modHdr_grown fun x => ⟨fun m hm => hm, rfl, rfl, rfl, rfl, rfl, rfl, rfl, rfl⟩
    clear_value s1
    refine .trans ?_ setEvt_grown
    rw [getHdr_of_hdrs bbRecord_hdrs]; exact e

/-- Raising an event grows headers and nothing of them shrinks. -/
theorem raiseEvent_grown {p q : PageId} {n : Nat} {ids : List (Nat × Nat)} : (getHdr s q).Grown (getHdr (raiseEvent s p n ids) q) := by
  unfold raiseEvent; split
  · exact .refl
  · extract_lets v s1
    have e : (getHdr s q).Grown (getHdr s1 q) := capture_grown
    clear_value s1
    refine .trans ?_ setEvt_grown
    rw [getHdr_of_hdrs bbRecord_hdrs]; exact e

/-- The event's own bit is set after it. -/
theorem raiseEvent_raised {p : PageId} {n : Nat} {ids : List (Nat × Nat)} (h : pageExists s p = true) (hn : n < 64) :
    Raised (raiseEvent s p n ids) p n := by
  unfold raiseEvent; simp only [h, Bool.not_true, Bool.false_eq_true, if_false]
  exact setEvt_raised hn

theorem bumpIds_grown {p q : PageId} {o k n : Nat} {ids : List (Nat × Nat)} : (getHdr s q).Grown (getHdr (bumpIds s p o k n ids) q) := by
  unfold bumpIds; split
  · exact .refl
  · extract_lets c d s1
    have e : getHdr s1 q = getHdr s q := getHdr_of_hdrs rfl
    clear_value s1 d
    split
    · rw [← e]; exact raiseEvent_grown
    · rw [e]; exact .refl

theorem bumpTile_grown {p q : PageId} {o k n : Nat} : (getHdr s q).Grown (getHdr (bumpTile s p o k n) q) := bumpIds_grown

theorem bumpFor_grown {p q : PageId} {o : Nat} {ids : List (Nat × Nat)} : (getHdr s q).Grown (getHdr (bumpFor s p o ids) q) := bumpIds_grown

theorem bump_grown {p q : PageId} {o : Nat} : (getHdr s q).Grown (getHdr (bump s p o) q) := bumpTile_grown

theorem sigCont_hdrs {xs : List (List Byte)} : (sigCont s xs).hdrs = s.hdrs := by
  induction xs generalizing s with
  | nil => rfl
  | cons x xs ih => unfold sigCont; exact ih.trans bbRecord_hdrs

theorem writeSig_grown {q : PageId} {i : SigInfo} : (getHdr s q).Grown (getHdr (writeSig s i) q) := by
  unfold writeSig; extract_lets same g enc parts s1 s2 l lapped r s3
  have e1 : s1.hdrs = s.hdrs := by unfold s1; exact bbRecord_hdrs
  have e2 : s2.hdrs = s1.hdrs := by unfold s2; exact sigCont_hdrs
  clear_value s2 lapped r
  have e3 : s3.hdrs = s2.hdrs := rfl
  have e : getHdr s3 q = getHdr s q := getHdr_of_hdrs (e3.trans (e2.trans e1))
  clear_value s3
  split
  · rw [← e]; exact raiseEvent_grown
  · rw [e]; exact .refl

end Sys2Proof.Machine
end

