-- ==== Sys2Proof/Laws/Gate.lean ====
section
/-! SUPPORT. The two gates said once: a register write that passes its window and power checks acts, and a dispatched entry that is
admitted runs its command; with what each check that fails comes to. -/

namespace Sys2Proof.Machine

variable {s : State} {w : Window} {p : PageId} {off value : Nat} {act : State → State}

/-- A write that passes acts (R392, R433, R491). -/
theorem gated_of_passes (h : Passes s w p off) : gated s w p off value act = act s := by
  obtain ⟨a, b, c, d⟩ := h; simp [gated, a, b, c, d]

/-- A write to a page that is not there, or from a window that is off, changes nothing. -/
theorem gated_of_absent (h : pageExists s p = false ∨ windowOn s w = false) : gated s w p off value act = s := by
  rcases h with h | h <;> simp [gated, h]

/-- A write that its window may not make is recorded with code 4 (R392, R433). -/
theorem gated_of_refused (h1 : pageExists s p = true) (h2 : windowOn s w = true) (h3 : pagePowered s p = true)
    (h4 : mayWrite s w p off = false) : gated s w p off value act = capture s p 4 (winCode w) off (value % 2 ^ 32) := by
  simp [gated, h1, h2, h3, h4]

variable {id op : Nat} {may : State → Dispatched → Bool} {d : Dispatched} {run : State → Dispatched → State}

/-- An admitted entry runs its command (R440, R447). -/
theorem command_of_admitted (h : Admitted s id op may d) : command s id op may run = run s d := by
  obtain ⟨h1, h2, h3, h4, h5⟩ := h
  simp only [command, h1, h2]
  rw [if_neg (by simpa using h3), if_neg (by simpa using h4)]; simp [h5]

/-- An entry whose function may not submit the command is answered NOT_OWNER, and a refused open raises SESSION_REFUSED (R182, R447). -/
theorem command_of_not_owner (h1 : s.dispatched.find? (fun x => x.id == id) = some d) (h2 : d.entry.opcode = op)
    (h3 : ¬(s.start.restarting = true ∧ jobelOpcode op = true)) (h4 : ¬(s.start.limp ≠ 0 ∧ limpOpcode op = false)) (h5 : may s d = false) :
    command s id op may run = finishEntry (refusedOpen s d) d 0x22 0 := by
  simp only [command, h1, h2]
  rw [if_neg (by simpa using h3), if_neg (by simpa using h4)]; simp [h5]

end Sys2Proof.Machine
end

