-- ==== Sys2Proof/Laws/Issue.lean ====
section
/-! SUPPORT. The laws of contexts and of issue: what the site of a context says, two changes of one context as one, and what issuing a
ready instruction, a bad fetch or one without a credit comes to. -/

namespace Sys2Proof.Machine

/-- What the site of a context says of it: its panel, its slot, and that the panel lists it. -/
theorem siteOf_spec {s : State} {p c : Nat} {h : Site} (hs : siteOf s p c = some h) :
    h.p = p ∧ h.x.slot = c ∧ getCtx s p c = some h.x := by
  unfold siteOf at hs
  split at hs
  · cases hs
  · rename_i x hx
    split at hs
    · cases hs
    · split at hs
      · cases hs
      · split at hs
        · cases hs
        · cases hs
          exact ⟨rfl, by simpa using List.find?_some hx, hx⟩

/-- A panel that lists a context is not the panel at start. -/
theorem panel_ne_start {q : Panel} {x : Ctx} (h : x ∈ q.ctxs) : q ≠ Panel.start := by
  intro hq; subst hq; exact absurd h (by simp [Panel.start])

theorem getCtx_mem {s : State} {p c : Nat} {x : Ctx} (h : getCtx s p c = some x) : x ∈ (getPanel s p).ctxs :=
  List.mem_of_find?_eq_some h

/-- A changed panel is read as changed. -/
@[simp] theorem getPanel_modPanel {s : State} {p : Nat} {f : Panel → Panel} : getPanel (modPanel s p f) p = f (getPanel s p) :=
  mapGet_mapMod_self

/-- A change of one panel leaves the others. -/
theorem getPanel_modPanel_ne {s : State} {p q : Nat} {f : Panel → Panel} (h : p ≠ q) : getPanel (modPanel s p f) q = getPanel s q :=
  mapGet_mapMod_ne h

/-- Two changes of a panel are one. -/
theorem modPanel_modPanel {s : State} {p : Nat} {f g : Panel → Panel} (h : f (getPanel s p) ≠ Panel.start)
    (h' : g (f (getPanel s p)) ≠ Panel.start) : modPanel (modPanel s p f) p g = modPanel s p fun q => g (f q) := by
  simp only [modPanel]
  exact congrArg (fun m => { s with panels := m }) (mapMod_mapMod h h')

theorem modWhere_modWhere {α : Type} {t : α → Bool} {f g : α → α} {xs : List α} (h : ∀ x ∈ xs, t (f x) = t x) :
    modWhere t g (modWhere t f xs) = modWhere t (fun x => g (f x)) xs := by
  simp only [modWhere, List.map_map]
  apply List.map_congr_left
  intro x hx
  simp only [Function.comp]
  by_cases ht : t x = true
  · simp [ht, h x hx]
  · simp [ht]

/-- A change of contexts keeps their number, so that a panel with a context stays one. -/
theorem modCtx_ctxs_ne_nil {q : Panel} {c : Nat} {f : Ctx → Ctx} {x : Ctx} (h : x ∈ q.ctxs) :
    ({ q with ctxs := modWhere (fun x : Ctx => x.slot == c) f q.ctxs } : Panel) ≠ Panel.start := by
  intro hq
  have := congrArg (fun q : Panel => q.ctxs.length) hq
  simp only [modWhere, List.length_map, Panel.start, List.length_nil] at this
  exact absurd (List.length_pos_of_mem h) (by omega)

/-- Two changes of one context that keep its slot are one. -/
theorem modCtx_modCtx {s : State} {p c : Nat} {f g : Ctx → Ctx} {x : Ctx} (hx : getCtx s p c = some x) (hf : ∀ y, (f y).slot = y.slot) :
    modCtx (modCtx s p c f) p c g = modCtx s p c fun y => g (f y) := by
  have hm := getCtx_mem hx
  unfold modCtx
  rw [modPanel_modPanel (modCtx_ctxs_ne_nil hm)]
  · congr 1; funext q
    rw [modWhere_modWhere (fun y _ => by simp [hf])]
  · have : f x ∈ modWhere (fun x : Ctx => x.slot == c) f (getPanel s p).ctxs := by
      have hc : (x.slot == c) = true := List.find?_some (p := fun x : Ctx => x.slot == c) hx
      unfold modWhere
      exact List.mem_map.2 ⟨x, hm, by simp [hc]⟩
    exact modCtx_ctxs_ne_nil (q := { getPanel s p with ctxs := modWhere (fun x : Ctx => x.slot == c) f (getPanel s p).ctxs }) this

/-- A context is read as changed. -/
theorem getCtx_modCtx {s : State} {p c : Nat} {f : Ctx → Ctx} {x : Ctx} (hx : getCtx s p c = some x) (hf : ∀ y, (f y).slot = y.slot) :
    getCtx (modCtx s p c f) p c = some (f x) := by
  unfold getCtx modCtx
  rw [getPanel_modPanel]
  unfold getCtx at hx
  simp only [modWhere, List.find?_map]
  have : ((fun x : Ctx => x.slot == c) ∘ fun x => if (x.slot == c) = true then f x else x) = fun x : Ctx => x.slot == c := by
    funext y; simp only [Function.comp]; split_ifs with h
    · rw [hf]
    · rfl
  rw [this, hx]
  have hc : (x.slot == c) = true := List.find?_some (p := fun x : Ctx => x.slot == c) hx
  simp only [Option.map_some, hc, if_true]

/-! ### Issue -/

/-- What a ready instruction's own rules answer is what the row answers. -/
theorem issue_ready {s : State} {p c op : Nat} {h : Site} {w : Word} {body : State → Site → Word → Eff} (r : Ready s p c op h w) :
    issue s p c op body = match body (issued s p c op) h w with
      | .done t => t
      | .fault code => patternFault s p c code h.x.pc.toNat op
      | .poisoned line => poisonStop s p c line
      | .wait q => beginWait s q := by
  obtain ⟨hs, hw, hf, hc, hl, hfw, ho, hfm, hr, hg, hn, hu⟩ := r
  obtain ⟨rfl, hslot, -⟩ := siteOf_spec hs
  subst hslot ho
  have hq : (opQueues s h.p (opOf w)).find? (fun k => !creditFree s k) = none := by
    rw [List.find?_eq_none]; intro k hk
    simpa using List.all_eq_true.mp hu k hk
  unfold issue
  simp only [hs, hw, hf, hc, hl, hfw, hfm, hr, hg, hn, hq, bne_self_eq_false, Bool.not_true, Bool.or_self, if_false, Bool.false_eq_true,
    ne_eq, not_true_eq_false, or_self]
  rfl

/-- Issuing changes nothing of its panel but the contexts. -/
theorem issued_getPanel (s : State) (p c op : Nat) : ∃ cs, getPanel (issued s p c op) p = { getPanel s p with ctxs := cs } := by
  refine ⟨modWhere (fun x : Ctx => x.slot == c) Ctx.advanced (getPanel s p).ctxs, ?_⟩
  simp only [issued, modCtx, modPanel, getPanel, mapGet_mapMod_self]
  cases opQueue p op <;> rfl

/-- An issued instruction that finds its descriptor runs its own rules on the descriptor's words and its count. -/
theorem withDesc_described {s : State} {p c op : Nat} {h : Site} {w : Word} {res : List Word → Bool} {d : List Word} {n : Nat}
    {body : List Word → Nat → Eff} (r : Ready s p c op h w) (D : DescribedBy s p h w res d n) :
    withDesc (issued s p c op) h w res body = body d n := by
  obtain ⟨a1, a2, a3, a4, a5, a6⟩ := D
  obtain ⟨rfl, -, -⟩ := siteOf_spec r.1
  obtain ⟨cs, e⟩ := issued_getPanel s h.p c op
  have e1 : linePoison (getPanel (issued s h.p c op) h.p) (gReg h.x (g51 w) + offOf w).toNat = false := by rw [e]; exact a3
  have e2 : descWords (getPanel (issued s h.p c op) h.p) (gReg h.x (g51 w) + offOf w).toNat = d := by rw [e, a4]; rfl
  unfold withDesc
  simp only [e1, e2, a5, if_false, ← a6, Bool.false_eq_true]
  rw [if_neg (fun x => x a1), if_neg (Nat.not_le.mpr a2)]

/-- An issued instruction whose descriptor does not lie at a multiple of 64 inside panel SRAM is a pattern fault (R244). -/
theorem withDesc_outside {s : State} {h : Site} {w : Word} {res : List Word → Bool} {body : List Word → Nat → Eff}
    (a : (gReg h.x (g51 w) + offOf w).toNat % 64 ≠ 0 ∨ sramSize ≤ (gReg h.x (g51 w) + offOf w).toNat) :
    withDesc s h w res body = .fault (if (gReg h.x (g51 w) + offOf w).toNat % 64 ≠ 0 then 0x03 else 0x04) := by
  unfold withDesc
  by_cases h1 : (gReg h.x (g51 w) + offOf w).toNat % 64 = 0
  · have h2 := a.resolve_left (fun x => x h1)
    simp only [h1, h2, ne_eq, not_true_eq_false, if_false, if_true]
  · simp only [h1, ne_eq, not_false_eq_true, if_true]

end Sys2Proof.Machine
end

