-- ==== Sys2Proof/WellFormed.lean ====
section
/-! DEFINITION. Which commands a sender can form: every panel, tile, array, port, ring, lane and bolt number within the
ranges that the spec numbers (R1, R17, R26, R239, R333, R424, R436). A meaning is given to every command, well formed or
not; a well-formed one names units that some module has. -/

namespace Sys2Proof

/-- A logical panel number (R1). -/
def panelOk (p : Nat) : Bool := decide (p < 48)

/-- A batch table slot of a panel (R239, R289). -/
def slotOk (c : Nat) : Bool := decide (c < 16)

/-- A host port (R424). -/
def portOk (p : Nat) : Bool := decide (p < 2)

/-- A Kwath port (R333). -/
def kwOk (p : Nat) : Bool := decide (p < 16)

/-- A ring of a port (R436). -/
def ringOk (r : Nat) : Bool := decide (r < 4096)

/-- A virtual function (R424). -/
def vfOk (v : Nat) : Bool := decide (1 ≤ v ∧ v < 256)

/-- A physical array (R26). -/
def arrOk (a : ArrId) : Bool := decide (a.pp < 50 ∧ a.tile < 25 ∧ a.arr < 34)

/-- A window (R392, R434). -/
def Window.wf : Window → Bool
  | .mgmt => true
  | .pf p => portOk p
  | .vf p v => portOk p && vfOk v

/-- A page of BAR0 or a tenant page (R428). -/
def PageId.wf : PageId → Bool
  | .die => true | .jobel => true | .sec => true | .hk => true | .bb => true
  | .host p => portOk p
  | .half h => decide (h < 2)
  | .kwath p => kwOk p
  | .stack s => decide (s < 4)
  | .panel i => panelOk i | .core i => panelOk i | .seq i => panelOk i | .att i => panelOk i | .smp i => panelOk i
  | .slice i k => panelOk i && decide (k < 8)
  | .router i => panelOk i
  | .tenant p v => portOk p && vfOk v

/-- A tile position within a panel (R17). -/
def posOk (p tile arr : Nat) : Bool := panelOk p && decide (tile < 24 ∧ arr < 32)

/-- A resource with an arbiter (R307). -/
def ResId.wf : ResId → Bool
  | .slice p k => panelOk p && decide (k < 8)
  | .seam h l => decide (h < 2 ∧ l < 15)
  | .dram h c => decide (h < 2 ∧ c < 32)
  | .kwath p => kwOk p

/-- A command whose numbers lie in their ranges. -/
def Instr.wf : Instr → Bool
  | .nop p c => panelOk p && slotOk c | .ldi p c => panelOk p && slotOk c | .ldih p c => panelOk p && slotOk c
  | .addi p c => panelOk p && slotOk c | .add p c => panelOk p && slotOk c | .sub p c => panelOk p && slotOk c
  | .muli p c => panelOk p && slotOk c | .shli p c => panelOk p && slotOk c | .andi p c => panelOk p && slotOk c
  | .ld p c => panelOk p && slotOk c | .ldResult p c => panelOk p && slotOk c | .st p c => panelOk p && slotOk c
  | .bz p c => panelOk p && slotOk c | .bnz p c => panelOk p && slotOk c | .loop p c => panelOk p && slotOk c
  | .endProg p c => panelOk p && slotOk c | .move p c => panelOk p && slotOk c
  | .unitCommandComplete p _ => panelOk p
  | .evald p c => panelOk p && slotOk c | .evalx p c => panelOk p && slotOk c | .evalt p c => panelOk p && slotOk c
  | .pleatStep p t a => posOk p t a | .bobbinAdd p t a => posOk p t a
  | .reductionContribution p _ => panelOk p | .normSample p _ => panelOk p
  | .bprom p c => panelOk p && slotOk c | .bdrain p c => panelOk p && slotOk c | .redopen p c => panelOk p && slotOk c
  | .act p c => panelOk p && slotOk c | .cvt p c => panelOk p && slotOk c | .wmv p c => panelOk p && slotOk c
  | .wew p c => panelOk p && slotOk c | .wnorm p c => panelOk p && slotOk c | .wlook p c => panelOk p && slotOk c
  | .wad p c => panelOk p && slotOk c | .attn p c => panelOk p && slotOk c
  | .remoteRun p _ => panelOk p | .partialFold p _ => panelOk p
  | .kvw p c => panelOk p && slotOk c | .attb p c => panelOk p && slotOk c | .send p c => panelOk p && slotOk c
  | .recv p c => panelOk p && slotOk c | .flowFlitArrive p f => panelOk p && decide (f < 256)
  | .tack p c => panelOk p && slotOk c | .sealw p c => panelOk p && slotOk c | .sample p c => panelOk p && slotOk c
  | .smerge p c => panelOk p && slotOk c | .fence p c => panelOk p && slotOk c | .call p c => panelOk p && slotOk c
  | .callReply p _ => panelOk p
  | .stepForm b => panelOk b | .batchTableReceive p => panelOk p | .spanBatchReceive b _ => panelOk b
  | .rankSealReport b _ _ => panelOk b | .sealed b _ => panelOk b | .recallStep b _ _ => panelOk b
  | .recallDiscard p => panelOk p | .replay b => panelOk b | .jobStatusClaim _ => true
  | .adapterSlotLoad b t n => panelOk b && decide (t < 4096 ∧ n < 65535) | .adapterSlotResident b k => panelOk b && decide (k < 64)
  | .treeLookup n => decide (n < 16384) | .treePublish n _ => decide (n < 16384) | .treeDrop _ => true
  | .treeRebuild w => w.wf | .bucketLoad w => w.wf
  | .memUncorrectable _ => true | .dramScrub _ _ => true | .poisonRepaired p _ => panelOk p
  | .progRequest r => arrOk r.target | .progAdmit => true | .progQuarterStage a => arrOk a | .progRound a => arrOk a
  | .progComplete a gs => arrOk a && decide (gs.length = 4) && gs.all (fun g => decide (g.n = 4096)) | .zeroisation a _ => arrOk a
  | .calTileRun p t => calOk p t | .calMeasureDone p t => calOk p t | .calFitDone p t fs => calOk p t && fs.all fun f => decide (f.arr < 34)
  | .calSwap p t => calOk p t | .calProgTimer p t => calOk p t | .calFallbackTick => true | .runAll w => w.wf
  | .runPanel w p => w.wf && panelOk p | .eyeSample l _ _ => decide (l < 128)
  | .swatchCompare _ => true | .checkerRotate b => panelOk b | .refereeRun _ => true | .repairComplete _ => true
  | .mgmtReadTimeout p => p.wf
  | .creditReturn _ => true | .creditStall _ => true | .contextWaitStall p c => panelOk p && slotOk c
  | .flitSend p d => panelOk p && decide (d < 5) | .seamParity h l => decide (h < 2 ∧ l < 15)
  | .arbRequest r _ _ _ => r.wf | .arbItemDone r _ => r.wf | .arbWatchdog r => r.wf
  | .kwLaneDown p l _ => kwOk p && decide (l < 8) | .kwLaneRetrain p l _ => kwOk p && decide (l < 8)
  | .kwFlitReceive p _ => kwOk p | .kwReplayRequest p _ => kwOk p
  | .fabricSend p r _ _ _ _ => panelOk p && decide (r < 64) | .fabricMessageReceive m => decide (m.src < 64) && panelOk m.dstPanel
  | .messageAck d v _ => decide (d < 64 ∧ v < 4) | .planeDown a k => decide (a < 64 ∧ k < 16) | .heartbeatSend => true
  | .managerLost => true | .moduleLost a => decide (a < 64) | .hello m => decide (m.addr < 64) | .discWait => true
  | .fabricKeyReceive _ _ => true | .epochRequest n => decide (n < 64) | .bcastReport b a _ => panelOk b && decide (a < 64)
  | .bcastWait b => panelOk b | .chainTimeout b a => panelOk b && decide (a < 64)
  | .loadChunk b _ m => panelOk b && (match m.src with | some x => decide (x.1 < 64) && x.2.all (fun a => decide (a < 64)) | none => true)
  | .sqTail w r _ => w.wf && ringOk r | .entryFetch p r _ => portOk p && ringOk r | .cqHead w r _ => w.wf && ringOk r
  | .completionPost p r _ => portOk p && ringOk r | .cqStall p r => portOk p && ringOk r
  | .coalTimer p r => portOk p && ringOk r | .ringEnable w r _ => w.wf && ringOk r | .ringDisable w r _ => w.wf && ringOk r
  | .ringAssign w p _ => w.wf && portOk p | .vfAssign w p _ => w.wf && portOk p
  | .tenantCreate _ => true | .tenantRemove _ => true | .boltCreate _ => true | .boltRemove _ => true
  | .boltTransfer _ => true | .boltAdopt _ => true | .sessionOpen _ => true | .sessionClose _ => true
  | .generate _ => true | .tune _ => true | .abort _ => true | .prefixRetain _ => true | .prefixRelease _ => true
  | .loadStage _ => true | .loadCommit _ => true | .loadCancel _ => true | .loadPattern _ => true | .unload _ => true
  | .keyInstall _ => true | .grant _ => true | .revoke _ => true | .claim _ => true | .transfer _ => true
  | .release _ => true | .debugUnlock _ => true | .planLoad _ _ => true | .sigRead _ => true | .fwLoad _ _ => true
  | .selfTest _ => true | .bbRead _ => true
  | .tenRefill w _ => w.wf | .heartbeat w p => w.wf && portOk p | .heartbeatLoss p => portOk p
  | .linkChange p r wd _ _ => portOk p && decide (r < 16 ∧ wd < 16) | .flr p f => portOk p && decide (f < 256)
  | .perstAssert p => portOk p | .perstRelease p => portOk p
  | .getVersion v => viaOk v | .getCapabilities v => viaOk v | .negotiateAlgorithms v _ => viaOk v | .getDigests v => viaOk v
  | .getCertificate v k => viaOk v && decide (k < 8) | .challenge v k _ => viaOk v && decide (k < 8)
  | .getMeasurements v i => viaOk v && decide (i < 256) | .keyExchange v _ => viaOk v | .finish v _ => viaOk v
  | .keyUpdate v => viaOk v | .endSession v => viaOk v | .vendorDefinedRequest v _ => viaOk v
  | .lockInterface p v => portOk p && vfOk v | .stopInterface p v => portOk p && vfOk v | .tdiError p v => portOk p && vfOk v
  | .kekReady => true
  | .blkCtrlDrain w g _ => w.wf && g.wf | .drainDone g => g.wf | .resume w g _ => w.wf && g.wf
  | .offline w g _ => w.wf && g.wf | .online w g _ => w.wf && g.wf | .onlineCheckDone g _ => g.wf
  | .evtStatusClear w g _ _ => w.wf && g.wf | .evtForce w g _ => w.wf && g.wf | .evtSum0Read w p => w.wf && portOk p
  | .tenantEvtRead w p v => w.wf && portOk p && vfOk v | .errCaptureRead w g => w.wf && g.wf
  | .nwLastStepRead w p => w.wf && panelOk p | .seqFaultStepRead w p => w.wf && panelOk p | .sigStatusRead w => w.wf
  | .eyeRead w => w.wf | .bbRdData3Read w => w.wf | .resetEst w p _ => w.wf && panelOk p | .clearTile w p => w.wf && panelOk p
  | .clearAll w p => w.wf && panelOk p | .fmtCntClear w p => w.wf && panelOk p | .calCntClear w => w.wf | .kvCntClear w => w.wf
  | .attCntClear w p => w.wf && panelOk p | .smpCntClear w p => w.wf && panelOk p | .wtCntClear w => w.wf
  | .seqCntClear w p => w.wf && panelOk p | .netCntClear w g => w.wf && g.wf | .fabCntClear w => w.wf
  | .kwCntClear w p => w.wf && kwOk p | .rasCntClear w => w.wf | .secCntClear w => w.wf | .hostCntClear w p => w.wf && portOk p
  | .hkCntClear w => w.wf | .jobelRestartsClear w => w.wf | .registerWrite w _ n _ => w.wf && (n == 4 || n == 8)
  | .accessSizeError w _ _ _ _ => w.wf
  | .retainedCommit => true | .inputRise _ => true | .hotswapClose => true | .powerGood => true | .inputFall _ => true
  | .inputOvervoltage _ => true | .hardOvercurrent _ => true | .railTrip _ => true | .governorInterval _ => true
  | .hkConversion _ _ => true | .hkInjected _ v => decide (v.length ≤ 4) | .throttle => true | .thermalRecover => true
  | .stopSealTimeout => true | .thermalTrip => true | .autoRestart => true | .restart w => w.wf | .fullStart _ => true
  | .islandAlign i _ => islandOk i | .go w _ => w.wf | .recoveryLoadDone _ => true | .jobelCmdRestart w => w.wf
  | .jobelWatchdog => true | .jobelRestarted => true | .bbFlush _ => true | .bbFlushed _ => true | .flush w => w.wf
  | .clearStore w => w.wf | .bbEpoch w _ => w.wf | .stCmd w _ => w.wf | .selfTestTargetDone _ _ => true
  | .hotswapReclose _ => true | .powerLoss => true | .uncorrectableCodeword p l => kwOk p && decide (l < 8)
  | .receiveBufferPost p _ _ _ => panelOk p | .planStateReceive _ => true | .firmwareWriteDone => true
  | .powerCoarseWindow _ _ => true | .configurationRequest p _ => portOk p | .atsInvalidation p _ _ => portOk p
where
  /-- A tile that calibration runs (R122): logical tile 0 to 23 or the spare tile of a panel; panels 48 and 49 are the half spares. -/
  calOk (p t : Nat) : Bool := decide (p < 50 ∧ t < 25)
  /-- SPDM over DOE names a port. -/
  viaOk : Via → Bool
    | .doe p => portOk p
    | .mctp => true
  /-- An island of the module (R482). -/
  islandOk : Island → Bool
    | .pcie p => portOk p
    | .dram s => decide (s < 4)
    | .kwath p => kwOk p

end Sys2Proof
end

