-- ==== Sys2Proof/Tests/Slice0.lean ====
section
/-! SUPPORT. Tests: ill-formed commands that the check refuses, the spec's worked numbers, and for each statement of Obligations.lean
concrete states and operands that meet its hypotheses, clause by clause. -/

namespace Sys2Proof.Tests

open Sys2Proof Sys2Proof.Machine

set_option Elab.async false

/-! ### States to start from -/

/-- A panel's place in the pattern: code from 0x1000, one line of it. -/
def tEntry : PanelEntry :=
  { codeBase := 0x1000, codeBytes := 64, batchBase := 0x2000, tackBase := 0x3000, tackBytes := 0x1000, adapterBase := 0x4000, kvBase := 0x10000,
    kvFrames := 0, ringBase := 0x8000, ringBytes := 0x100, entryDecode := 0x1000, entryPrefill := 0x1000, entryTune := 0x1000,
    entryRecompute := 0x1000, imageAt := 0, imageBytes := 128 }

/-- A pattern of one panel with one flow. -/
def tPat : Pattern :=
  { pattern := 1, window := 2, rowLimit := 4, scratchFrames := 1, tackFrames := 1, layers := 1, slots := 1, slotBytes := 64, vocab := 64,
    panels := [tEntry], flows := [{ flow := 1, src := 0, mcast := false, dsts := [1], vc := 0, ringOff := 0, ringLen := 64 }], links := [],
    attnList := [0], homes := [[0]], shadows := [none], plain := [], images := [List.replicate 128 0], digest := 0 }

/-- A bolt of panel 0 that serves the pattern, changed as a test wants it. -/
def tBolt (f : Bolt → Bolt) : Bolt := f { newBolt 1 1 0 with phase := 4, tenant := 5, weights := some 1, pat := some tPat, tpp := 64 }

/-- The module with that bolt. -/
def tWith (f : Bolt → Bolt) : State := { State.reset with bolts := [(0, some (tBolt f))] }

/-- A context in slot 0 at the code's start. -/
def tCtx : Ctx :=
  { slot := 0, step := 7, pc := 0x1000, g := [], loads := [], calls := [], wait := .none, since := 0, stalled := false, cmds := [],
    reported := false, tail := false, shadow := none, tackCount := 0, tackSram := 0, tackDram := 0 }

/-- An open step. -/
def tStep (seq : Word) : Step :=
  { seq := seq, kind := 0, rows := [], gen := 0, toSend := [], reported := [], swatches := [], norms := [], asked := [], entered := [],
    partSealed := false, ranks := [], sealed := false, tacks := [], kvUndo := [], countUndo := [], dead := [], sets := [], grads := [] }

/-- Panel 0 with a context that has come to a word. -/
def tSeq (w : Word) (f : Ctx → Ctx) : State :=
  { tWith (fun b => { b with steps := [tStep 7] }) with
    panels := [(0, { Panel.start with sram := memWrite [] 0x1000 (natLe 8 w.toNat), ctxs := [f tCtx] })] }

/-- The site of that context. -/
def tSite (f : Ctx → Ctx) : Site :=
  { p := 0, nw := 0, b := tBolt (fun b => { b with steps := [tStep 7] }), pat := tPat, e := tEntry, x := f tCtx, rows := [], kind := 0 }

/-- An instruction word without operands: its opcode and its format. -/
def tWord (op fmt : Nat) : Word := BitVec.ofNat 64 (op * 2 ^ 56 + fmt * 2 ^ 52)

/-! ### The block and its queue -/

theorem test_witness_stepsRunTheQueue : ({ State.reset with pending := [.progAdmit] } : State).pending = Instr.progAdmit :: [] ∧ State.reset.pending = [] :=
  ⟨rfl, rfl⟩

/-! ### The sequencer's instructions -/

theorem test_witness_scalar : ∀ op ∈ [0x00, 0x01, 0x02, 0x03, 0x04, 0x05, 0x06, 0x07, 0x08],
    Ready (tSeq (tWord op (if op = 0 then 0 else 1)) id) 0 0 op (tSite id) (tWord op (if op = 0 then 0 else 1)) := by
  unfold Ready; decide +kernel

theorem test_witness_branches : ∀ op ∈ [0x0B, 0x0C, 0x0D], Ready (tSeq (tWord op 1) id) 0 0 op (tSite id) (tWord op 1) := by
  unfold Ready; decide +kernel

theorem test_witness_loadsAndStores : ∀ op ∈ [0x09, 0x0A], Ready (tSeq (tWord op 1) id) 0 0 op (tSite id) (tWord op 1) := by
  unfold Ready; decide +kernel

/-- The hypotheses of the store's clause, with the last address of panel SRAM too. -/
theorem test_witness_store :
    sramViolates (getPanel (tSeq (tWord 0x0A 1) id) 0) (tSite id).ctx 0 8 = false
      ∧ Ready (tSeq (tWord 0x0A 1 + 0xFFFFF8) id) 0 0 0x0A (tSite id) (tWord 0x0A 1 + 0xFFFFF8)
      ∧ sramViolates (getPanel (tSeq (tWord 0x0A 1 + 0xFFFFF8) id) 0) (tSite id).ctx 0xFFFFF8 8 = false := by
  unfold Ready; decide +kernel

theorem test_witness_ldResult : siteOf (tSeq 0 fun x => { x with loads := [(3, 9, false)] }) 0 0
    = some (tSite fun x => { x with loads := [(3, 9, false)] }) := by decide +kernel

theorem test_witness_control : (∀ op ∈ [0x0F, 0x60, 0x51], Ready (tSeq (tWord op 0) id) 0 0 op (tSite id) (tWord op 0))
    ∧ Ready (tSeq (tWord 0x51 0) fun x => { x with tail := true }) 0 0 0x51 (tSite fun x => { x with tail := true }) (tWord 0x51 0)
    ∧ Ready (tSeq (tWord 0x61 1) id) 0 0 0x61 (tSite id) (tWord 0x61 1) := by
  unfold Ready; decide +kernel

/-- A panel whose core has a call and whose context has a command that is done. -/
def tCalls : State :=
  modPanel (tSeq 0 fun x => { x with cmds := [{ id := 4, u := .red, cls := 1, opcode := 0x2C, pc := 0x1000, left := 0 }] }) 0 fun q =>
    { q with calls := [{ ctx := 0, step := 7, fn := 1, arg := 0, gd := 2, cmd := 4 }] }

theorem test_witness_callReply : (getPanel tCalls 0).calls = [{ ctx := 0, step := 7, fn := 1, arg := 0, gd := 2, cmd := 4 }]
    ∧ (getPanel tCalls 0).ctxs.find? (fun x => x.cmds.any fun k => k.id == 4 && k.left == 0)
      = some { tCtx with cmds := [{ id := 4, u := .red, cls := 1, opcode := 0x2C, pc := 0x1000, left := 0 }] } := by decide +kernel

theorem test_witness_badFetches : rowOfOpcode 0 0 0x01 = some (.ldi 0 0) ∧ siteOf (tSeq 0 id) 0 0 = some (tSite id) ∧ (tSite id).x.wait = .none
    ∧ firstToIssue (tSeq 0 id) 0 tEntry tCtx = true
    ∧ siteOf (tSeq 0 fun x => { x with pc := 0x1040 }) 0 0 = some (tSite fun x => { x with pc := 0x1040 }) ∧ inCode tEntry 0x1040 = false
    ∧ inCode tEntry 0x1038 = true ∧ inCode tEntry 0x1000 = true
    ∧ linePoison (getPanel (modPanel (tSeq 0 id) 0 fun q => { q with marks := [(0x40, { LineMark.clean with poison := true })] }) 0) 0x1000 = true
    ∧ opFormat (opOf (tWord 0xFF 0)) = none ∧ opFormat 0x01 = some 1 ∧ fmtOf (tWord 0x01 0) ≠ 1 ∧ reservedSet 0x01 1 (tWord 0x01 1 + 0x100000000) = true := by
  decide +kernel

theorem test_witness_noCredit :
    opQueue 0 0x61 = some (.coreCall 0)
      ∧ creditFree (setUsed (tSeq (tWord 0x61 1) id) (.coreCall 0) (queueDepth (tSeq (tWord 0x61 1) id) (.coreCall 0))) (.coreCall 0) = false
      ∧ siteOf (setUsed (tSeq (tWord 0x61 1) id) (.coreCall 0) (queueDepth (tSeq (tWord 0x61 1) id) (.coreCall 0))) 0 0 = some (tSite id)
      ∧ firstToIssue (setUsed (tSeq (tWord 0x61 1) id) (.coreCall 0) (queueDepth (tSeq (tWord 0x61 1) id) (.coreCall 0))) 0 tEntry tCtx = true
      ∧ regsReady tCtx (tWord 0x61 1) = true ∧ unitFree (tSeq (tWord 0x61 1) id) 0 0x61 = true
      ∧ (opQueues (setUsed (tSeq (tWord 0x61 1) id) (.coreCall 0) (queueDepth (tSeq (tWord 0x61 1) id) (.coreCall 0))) 0 0x61).find?
          (fun q => !creditFree (setUsed (tSeq (tWord 0x61 1) id) (.coreCall 0) (queueDepth (tSeq (tWord 0x61 1) id) (.coreCall 0))) q)
        = some (.coreCall 0) := by decide +kernel

/-! ### Instructions for the units -/

/-- A row that draws a token. -/
def tRow : BatchRow := { session := 9, tenant := 6, bucket := 0, slot := 0, splits := 1, draw := true, pos := 0, ctx := 0 }

/-- A bolt whose block 0 is placed, with a step of one row. -/
def tRowBolt : Bolt := tBolt fun b =>
  { b with steps := [{ tStep 7 with rows := [tRow] }], place := [{ panel := 0, number := 0, exact := false, tile := 0, arr := 0 }] }

/-- An evaluation of that block. -/
def tJob : EvalJob :=
  { cmd := 1, ctx := 0, step := 7, gen := 0, mode := 0, number := 0, inFmt := 0, s2 := false, p := 4, rs := 0, pol := 0, edge := false, layer := 0,
    inAddr := 0, inStride := 64, inBlock := 64, outReg := 0, outStride := 1, firstPleat := 0, lastPleat := 0, finalPleat := 0, n := 1, v := 0, k := 0,
    phase := 0 }

/-- Panel 0 with a context at a word, and a descriptor's words at address 0. -/
def tUnit (w : Word) (d : List (Nat × Nat)) : State :=
  { State.reset with
    bolts := [(0, some tRowBolt)]
    panels := [(0, { Panel.start with
      sram := memWrite (d.foldl (fun m x => memWrite m (8 * x.1) (natLe 8 x.2)) []) 0x1000 (natLe 8 w.toNat)
      ctxs := [tCtx] })] }

/-- The site of that context. -/
def tUnitSite : Site := { p := 0, nw := 0, b := tRowBolt, pat := tPat, e := tEntry, x := tCtx, rows := [tRow], kind := 0 }

theorem test_witness_units : ∀ op ∈ [0x20, 0x21, 0x22, 0x30, 0x31, 0x38, 0x39, 0x3A, 0x3B, 0x3C, 0x40, 0x41, 0x42, 0x58, 0x59, 0x2C],
    Ready (tUnit (tWord op 2) []) 0 0 op tUnitSite (tWord op 2) := by
  unfold Ready; decide +kernel

/-- A descriptor of zeros stands for each reserved-bit table, in every clause whose answer takes the faults as they come. -/
theorem test_witness_descriptors :
    DescribedBy (tUnit (tWord 0x20 2) []) 0 tUnitSite (tWord 0x20 2) evalReserved (List.replicate 8 0) 1
      ∧ DescribedBy (tUnit (tWord 0x30 2) []) 0 tUnitSite (tWord 0x30 2) vecReserved (List.replicate 8 0) 1
      ∧ DescribedBy (tUnit (tWord 0x40 2) []) 0 tUnitSite (tWord 0x40 2) attReserved (List.replicate 8 0) 1
      ∧ DescribedBy (tUnit (tWord 0x2C 2) []) 0 tUnitSite (tWord 0x2C 2) redReserved (List.replicate 8 0) 1 := by
  unfold DescribedBy; decide +kernel

/-- The words of a sound descriptor for SAMPLE, SMERGE and REDOPEN. -/
def tSample : List (Nat × Nat) := [(0, 7 * 2 ^ 48), (6, 2 ^ 32)]
def tRed : List (Nat × Nat) := [(0, 2 ^ 11 + 2 ^ 24), (1, 128 * 2 ^ 24), (2, 2 ^ 24)]

theorem test_witness_rowsSound :
    firstFault (sampleFaults tUnitSite (vecDesc (descWords (getPanel (tUnit 0 tSample) 0) 0)) 1) = none
      ∧ firstFault (smergeFaults tUnitSite (vecDesc (descWords (getPanel (tUnit 0 tSample) 0) 0)) 1) = none
      ∧ DescribedBy (tUnit (tWord 0x58 2) tSample) 0 tUnitSite (tWord 0x58 2) vecReserved (descWords (getPanel (tUnit 0 tSample) 0) 0) 1
      ∧ Ready (tUnit (tWord 0x58 2) tSample) 0 0 0x58 tUnitSite (tWord 0x58 2)
      ∧ Ready (tUnit (tWord 0x59 2) tSample) 0 0 0x59 tUnitSite (tWord 0x59 2) := by
  unfold DescribedBy Ready; decide +kernel

theorem test_witness_moves :
    (∀ x ∈ [(0x10, tWord 0x10 3 + 0xFFFF0000), (0x50, tWord 0x50 3), (0x28, tWord 0x28 4 + 0x100000000), (0x29, tWord 0x29 4 + 0x100000000),
        (0x48, tWord 0x48 5 + 0x1000000000), (0x49, tWord 0x49 5 + 0x1000000000)], Ready (tUnit x.2 []) 0 0 x.1 tUnitSite x.2)
      ∧ moveFault tUnitSite (tWord 0x10 3 + 0xFFFF0000) = none ∧ tackFault tUnitSite (tWord 0x50 3) = none
      ∧ (∀ x ∈ rangeSites tUnitSite (tWord 0x28 4 + 0x100000000), x ≠ none)
      ∧ (∀ x ∈ rangeSites tUnitSite (tWord 0x29 4 + 0x100000000),
          willHoldAt (modHem (tUnit 0 []) 0 0 0 fun m => { m with holding := some tJob }) 0 x ≠ none)
      ∧ redFault (tUnit (tWord 0x2C 2) tRed) 0 (tWord 0x2C 2) (descWords (getPanel (tUnit 0 tRed) 0) 0) = none
      ∧ DescribedBy (tUnit (tWord 0x2C 2) tRed) 0 tUnitSite (tWord 0x2C 2) redReserved (descWords (getPanel (tUnit 0 tRed) 0) 0) 1
      ∧ instrFlow tUnitSite (tWord 0x48 5 + 0x1000000000) = tPat.flows.head?
      ∧ recvFault tUnitSite (tWord 0x49 5 + 0x1000000000) = none := by
  unfold Ready DescribedBy; decide +kernel

/-- A context whose g1 holds 64, and a SEND of that length. -/
def tSendSite : Site := { tUnitSite with x := { tCtx with g := [(1, 64)] } }

theorem test_witness_send :
    Ready (modPanel (tUnit (tWord 0x48 5 + 0x101000000000) []) 0 fun q => { q with ctxs := [{ tCtx with g := [(1, 64)] }] }) 0 0 0x48 tSendSite
        (tWord 0x48 5 + 0x101000000000)
      ∧ instrFlow tSendSite (tWord 0x48 5 + 0x101000000000) = tPat.flows.head?
      ∧ (∀ f ∈ tPat.flows, sendFault tSendSite (tWord 0x48 5 + 0x101000000000) f = none) := by
  unfold Ready; decide +kernel

/-- The site of a context whose g1 holds 1. -/
def tOddSite : Site := { tUnitSite with x := { tCtx with g := [(1, 1)] } }

theorem test_witness_unsound :
    moveFault tUnitSite (tWord 0x10 3 + 0x3000000000) = some 0x06 ∧ tackFault tUnitSite (tWord 0x50 3 + 0x2000000000) = some 0x06
      ∧ none ∈ rangeSites tUnitSite (tWord 0x28 4 + 0x200000000) ∧ none ∉ rangeSites tUnitSite (tWord 0x29 4 + 0x100000000)
      ∧ (∃ x ∈ rangeSites tUnitSite (tWord 0x29 4 + 0x100000000), willHoldAt (tUnit 0 []) 0 x = none)
      ∧ redFault (tUnit (tWord 0x2C 2) []) 0 (tWord 0x2C 2) (List.replicate 8 0) = some 0x06
      ∧ instrFlow tUnitSite (tWord 0x48 5) = none
      ∧ (∀ f ∈ tPat.flows, sendFault tOddSite (tWord 0x48 5 + 0x101000000000) f ≠ none)
      ∧ recvFault tOddSite (tWord 0x49 5 + 0x101000000000) = some 0x03
      ∧ firstFault (sampleFaults tUnitSite (vecDesc (List.replicate 8 0)) 1) = some 0x05
      ∧ firstFault (smergeFaults tUnitSite (vecDesc (List.replicate 8 0)) 1) = some 0x06
      ∧ Ready (tUnit (tWord 0x30 2 + 1) []) 0 0 0x30 tUnitSite (tWord 0x30 2 + 1)
      ∧ Ready (tUnit (tWord 0x30 2 + 0x1000000) []) 0 0 0x30 tUnitSite (tWord 0x30 2 + 0x1000000) := by
  unfold Ready; decide +kernel

/-! ### Hems, reduction, the norm watch, attention and messages -/

/-- Panel 0 with the hem of array 0 of tile 0 changed. -/
def tHem (f : HemArr → HemArr) : State := modHem (tUnit 0 []) 0 0 0 f

/-- The array behind it, programmed. -/
def tProgrammed (s : State) : State := modArr s { pp := 0, tile := 0, arr := 0 } fun x => { x with st := .programmed }

/-- A result of one lane at the edge of its range. -/
def tRes : HemRes :=
  { xs := [524287], ep := 0, zero := false, firstPhase := true, flags := [false], poison := [false], uncal := false, satIn := false, weight := 1,
    endSel := true, last := true, job := tJob, inputs := [] }

theorem test_witness_pleats :
    (getHem (tHem fun m => { m with jobs := [tJob] }) 0 0 0).jobs = [tJob] ∧ tJob.mode ≤ 2
      ∧ (tProgrammed (tHem fun m => { m with jobs := [tJob] })).arrays.failedPos.contains (posKey 0 0 0) = false
      ∧ (getArr (tProgrammed (tHem fun m => { m with jobs := [tJob] })) (physArr (tProgrammed (tHem fun m => { m with jobs := [tJob] })) 0 0 0)).st = .programmed
      ∧ calHolds (tProgrammed (tHem fun m => { m with jobs := [tJob] })) 0 0 = false
      ∧ ({ (tHem id).arrays with failedPos := [posKey 0 0 0] }).failedPos.contains (posKey 0 0 0) = true
      ∧ (getHem (tHem fun m => { m with jobs := [tJob], released := true }) 0 0 0).released = true
      ∧ (getHem (tHem fun m => { m with results := [tRes] }) 0 0 0).results = [tRes] := by decide +kernel

/-- The digits of a pleat that is in the buffer, one that can come, and one that finds no credit; and the other turns of a bobbin. -/
theorem test_witness_pleatInputs :
    let full := setUsed (tHem fun m => { m with jobs := [tJob] }) (.tileIn 0 0) (queueDepth (tHem id) (.tileIn 0 0))
    (getHem (tHem fun m => { m with jobs := [tJob] }) 0 0 0).buf = none
      ∧ creditsFree (tHem fun m => { m with jobs := [tJob] }) (.tileIn 0 0) (linesOfPleat tJob) = true
      ∧ creditsFree full (.tileIn 0 0) (linesOfPleat tJob) = false ∧ (getHem full 0 0 0).jobs = [tJob]
      ∧ (getHem (loadPleat (tHem fun m => { m with jobs := [tJob] }) 0 0 0 tJob) 0 0 0).buf.isSome = true
      ∧ drainsWait (tHem id) 0 0 0 = false
      ∧ (getHem (tHem fun m => { m with jobs := [{ tJob with mode := 4 }] }) 0 0 0).results = []
      ∧ (getHem (tHem fun m => { m with jobs := [{ tJob with mode := 3 }], holding := some tJob }) 0 0 0).holding = some tJob := by decide +kernel

/-- Each reason to wait. -/
theorem test_witness_pleatWaits :
    2 ≤ (getHem (tHem fun m => { m with jobs := [tJob], results := [tRes, tRes] }) 0 0 0).results.length
      ∧ (getArr (loadPleat (tHem fun m => { m with jobs := [tJob] }) 0 0 0 tJob) (physArr (tHem fun m => { m with jobs := [tJob] }) 0 0 0)).st
          ≠ .programmed
      ∧ tJob.phase = 0 ∧ calHolds (modCal (tHem fun m => { m with jobs := [tJob] }) 0 0 fun c => { c with stage := 1 }) 0 0 = true
      ∧ calHolds (modCal (tHem fun m => { m with jobs := [tJob] }) 0 0 fun c => { c with stage := 5 }) 0 0 = true := by decide +kernel

/-- A drain that has found no credit. -/
theorem test_witness_drainWaits :
    drainsWait (modPanel (tUnit 0 []) 0 fun q =>
      { q with bobbinOut := [{ reg := 3, rank := 0, panel := 0, tile := 0, arr := 0, lanes := [1], ew := 0, satConv := false, satAcc := false,
                               satIn := false, uncal := false, poison := false, zero := false, cmd := 1, step := 7, gen := 0, swatch := none }] })
      0 0 0 = true := by decide +kernel

/-- A bobbin with a run open at its lower edge, and one with none. -/
theorem test_witness_runs :
    (∀ l ∈ [{ Lane.start with n := -524288 }], -524288 ≤ l.n ∧ l.n ≤ 524287) ∧ (∀ x ∈ tRes.xs, -524288 ≤ x ∧ x ≤ 524287)
      ∧ (HemArr.start.run = false ∧ ∀ l ∈ HemArr.start.lanes, l.n = 0)
      ∧ ({ tRes with zero := true }).zero = true ∧ ({ HemArr.start with lanes := [Lane.start] }).lanes.length = tRes.xs.length := by decide +kernel

/-- A contribution of a panel. -/
def tContrib (panel : Nat) : Contrib :=
  { reg := 3, rank := 0, panel := panel, tile := 0, arr := 0, lanes := [1], ew := 0, satConv := false, satAcc := false, satIn := false, uncal := false,
    poison := false, zero := false, cmd := 1, step := 7, gen := 0, swatch := none }

theorem test_witness_reduction :
    [tContrib 1, tContrib 0].Perm [tContrib 0, tContrib 1]
      ∧ [tContrib 0, tContrib 1].Pairwise (fun a b => contribLt a b = true ∨ contribLt b a = true) := by decide +kernel

/-- A sample of layer 0 at 1.0, and one that is no number. -/
def tSampleOf (r : F32) : NormSample := { layer := 0, grad := false, step := 7, r := r }

theorem test_witness_contributions :
    (getPanel (modPanel (tUnit 0 []) 0 fun q => { q with drains := [tContrib 0] }) 0).drains[0]? = some (tContrib 0)
      ∧ (getPanel (modPanel (tUnit 0 []) 0 fun q => { q with samples := [tSampleOf 0x3F800000] }) 0).samples[0]? = some (tSampleOf 0x3F800000)
      ∧ boltOfPanel (tUnit 0 []) 0 = some (0, tRowBolt)
      ∧ (∀ t ∈ tRowBolt.steps, t.sealed = false → t.seq < 7 → 0 ∈ t.reported ∨ (0, 0) ∈ t.entered)
      ∧ (∀ m ∈ [tSampleOf 0x3F800000], m.layer = 0 → m.grad = false → ¬ m.step < 7)
      ∧ ({ tSampleOf 0 with step := 6 }).step < (tSampleOf 0x3F800000).step
      ∧ currentStep (tUnit 0 []) 0 7 0 = true ∧ currentStep (tUnit 0 []) 0 8 0 = false := by decide +kernel

theorem test_witness_normWatch :
    nwJump (getReg State.reset (.panel 0) 0x480) 0 0 0x3F800000 = false ∧ nwUpdate (getReg State.reset (.panel 0) 0x480) 0 0 0x3F800000 ≠ (0, 0)
      ∧ nwJump (getReg State.reset (.panel 0) 0x480) 0 0 0x7F800000 = true ∧ 0 < panelsEn State.reset := by decide +kernel

/-- A run of a row that another panel sent here, and a partial. -/
def tRemote : RemoteJob :=
  { home := 1, cmd := 1, step := 7, gen := 0, row := 0, head := 0, session := 9, pos := 0, layer := 0, kvHead := 0, fmt := 0, d := 64, window := 0,
    bitmap := none, scale := 0, q := [], first := 0, count := 1 }
def tPart : PartMsg := { cmd := 1, step := 7, gen := 0, row := 0, head := 0, seg := 0, m := 0, l := 0, o := [], poison := false }

theorem test_witness_remote :
    (getPanel (modPanel (tUnit 0 []) 0 fun q => { q with remote := [[tRemote]], parts := [tPart] }) 0).remote = (tRemote :: []) :: []
      ∧ (getPanel (modPanel (tUnit 0 []) 0 fun q => { q with remote := [[tRemote]], parts := [tPart] }) 0).parts[0]? = some tPart := by decide +kernel

/-- A flit at a router. -/
def tFlit (dst : Nat) : QFlit :=
  { out := 0, inp := 4, flit := { cmd := 1, flow := 1, vc := 0, src := 0, dsts := [dst], data := [], last := true, msgLen := 64, mark := LineMark.clean,
                                  step := 7, gen := 0, tenant := 5 } }

theorem test_witness_flits :
    linkPick (modPanel (tUnit 0 []) 0 fun q => { q with router := [{ tFlit 1 with inp := 2 }] }) 0 0 = some ({ tFlit 1 with inp := 2 }, false)
      ∧ (routerHeads (getPanel (modPanel (tUnit 0 []) 0 fun q => { q with router := [tFlit 0] }) 0)).find?
          (fun f => f.flit.flow == 1 && ((branches (tUnit 0 []) 0 f.flit).all fun b => b.1 == 4)) = some (tFlit 0)
      ∧ flitReady (modPanel (tUnit 0 []) 0 fun q => { q with router := [tFlit 0] }) 0 (tFlit 0) = true
      ∧ linkPick (tUnit 0 []) 0 0 = none
      ∧ flitReady (setUsed (tUnit 0 []) (.flowRing 0 1) (queueDepth (tUnit 0 []) (.flowRing 0 1))) 0 (tFlit 0) = false := by decide +kernel

/-! ### Steps, recalls, job endings and adapter slots -/

/-- A recall of step 7 that waits for nothing. -/
def tRecall : Recall := { step := 7, waiting := [], replay := false, verdicts := [], recompute := [], layer := none }

theorem test_witness_stepForm :
    getBolt (tWith id) 0 = some (tBolt id) ∧ (tBolt id).pat = some tPat ∧ (tBolt id).rank = 0 ∧ (tBolt id).stopped = false ∧ serving (tBolt id) = true
      ∧ panelsServe (tWith id) 0 (tBolt id) = true ∧ (tWith id).hk.stopping = none ∧ batchSlot (tWith id) 0 (tBolt id) tPat.window = some 0
      ∧ (tBolt id).recalling = none
      ∧ (tBolt fun b => { b with recalling := some tRecall }).recalling = some tRecall ∧ tRecall.waiting = [] ∧ tRecall.verdicts = [] := by decide +kernel

/-- Each reason to form none. -/
theorem test_witness_stepNotFormed :
    (tBolt fun b => { b with rank := 1 }).rank ≠ 0 ∧ (tBolt fun b => { b with stopped := true }).stopped = true
      ∧ serving (tBolt fun b => { b with phase := 3 }) = false ∧ panelsServe (setBlk (tWith id) (.panel 0) .draining false 1) 0 (tBolt id) = false
      ∧ ({ (tWith id).hk with stopping := some 0 }).stopping.isSome = true
      ∧ batchSlot (tSeq 0 id) 0 (tBolt id) 1 = none := by decide +kernel

/-- A panel that a batch table of step 7 has reached. -/
def tBatches (f : Bolt → Bolt) : State :=
  modPanel (tWith f) 0 fun q => { q with batches := [(0, { step := 7, kind := 0, rows := [] }, 1)] }

theorem test_witness_batches :
    (getPanel (tBatches id) 0).batches = (0, { step := 7, kind := 0, rows := [] }, 1) :: []
      ∧ boltOfPanel (tBatches id) 0 = some (0, tBolt id) ∧ panelEntry 0 (tBolt id) 0 = some tEntry
      ∧ staleAt (tBatches id) 0 7 1 = false ∧ (getPanel (tBatches id) 0).ctxs.length < tPat.window
      ∧ staleAt (tBatches fun b => { b with recalling := some tRecall }) 0 7 1 = true
      ∧ (tBolt fun b => { b with rank := 1, ranks := 2 }).rank ≠ 0 ∧ serving (tBolt fun b => { b with rank := 1, ranks := 2 }) = true
      ∧ (∀ t ∈ (tBolt fun b => { b with steps := [tStep 7] }).steps, t.seq ≠ 8)
      ∧ batchSlot (tWith fun b => { b with rank := 1, ranks := 2, steps := [tStep 7] }) 0 (tBolt fun b => { b with rank := 1 }) tPat.window = some 0 := by
  decide +kernel

/-- A bolt of a rank with step 7, changed. -/
def tSealing (rank : Nat) (f : Step → Step) : Bolt → Bolt := fun b => { b with rank := rank, ranks := 2, steps := [f (tStep 7)] }

theorem test_witness_parts :
    findStep (tBolt (tSealing 0 fun t => { t with reported := [0] })) 7 = some { tStep 7 with reported := [0] }
      ∧ partReady 0 (tBolt (tSealing 0 fun t => { t with reported := [0] })) { tStep 7 with reported := [0] } = true
      ∧ partReady 0 (tBolt (tSealing 1 fun t => { t with reported := [0] })) { tStep 7 with reported := [0] } = true
      ∧ partReady 0 (tBolt (tSealing 0 id)) (tStep 7) = false ∧ (1 : Nat) < (tBolt (tSealing 0 id)).ranks ∧ 1 ∉ (tStep 7).ranks
      ∧ (tStep 7).sealed = false ∧ (tStep 7).partSealed = false := by decide +kernel

theorem test_witness_seals :
    findStep (tBolt (tSealing 0 fun t => { t with partSealed := true, ranks := [0, 1] })) 7 = some { tStep 7 with partSealed := true, ranks := [0, 1] }
      ∧ recalled (tBolt (tSealing 0 id)) (tStep 7) = false
      ∧ (∀ x ∈ (tBolt (tSealing 0 id)).steps, x.sealed = true ∨ (7 : Word) ≤ x.seq ∨ x.kind = 3)
      ∧ (∀ r, r < max 1 2 → r ∈ [0, 1])
      ∧ recalled (tBolt fun b => { tSealing 0 id b with recalling := some { tRecall with waiting := [0] } }) (tStep 7) = true := by decide +kernel

theorem test_witness_claims :
    winner (([(4, 1), (4, 0), (5, 0x12)].filter fun c => c.1 == 4).map Prod.snd) = some 0
      ∧ (0 ∈ [1, 0, 0x12]) ∧ (0 ∉ [1, 0x10] ∧ ∃ c ∈ [1, 0x10], 0x10 ≤ c) ∧ ([1, 0xF] ≠ [] ∧ 0 ∉ [1, 0xF] ∧ ∀ c ∈ [1, 0xF], c < 0x10) := by decide +kernel

theorem test_witness_recalls :
    recallAsked (tWith id) 0 { tStep 7 with asked := [.patternFault] } .patternFault = true
      ∧ (tBolt (tSealing 0 fun t => { t with asked := [.patternFault] })).recalling = none
      ∧ findStep (tBolt (tSealing 0 fun t => { t with asked := [.patternFault] })) 7 = some { tStep 7 with asked := [.patternFault] }
      ∧ recallAsked (tWith id) 0 { tStep 7 with asked := [.normReexec 0] } (.normReexec 0) = true ∧ tRecall.step ≤ 7 ∧ (tStep 7).kind ≠ 3
      ∧ RecallCause.normReexec 0 ≠ .patternFault ∧ (6 : Word) < tRecall.step
      ∧ recallAsked (tWith id) 0 (tStep 7) .patternFault = false ∧ ({ tStep 7 with sealed := true }).sealed = true := by decide +kernel

theorem test_witness_replay :
    (getPanel (modPanel (tWith id) 0 fun q => { q with recalling := some (0, 7, 1) }) 0).recalling = some (0, 7, 1)
      ∧ getBolt (tWith fun b => { b with steps := [tStep 7], recalling := some tRecall }) 0 = some (tBolt fun b => { b with steps := [tStep 7], recalling := some tRecall })
      ∧ (∀ t ∈ [tStep 7], t.sealed = false → tRecall.step ≤ t.seq → t.kind ≠ 3)
      ∧ (∀ x ∈ tRecall.recompute, recompOpen (tWith id) x = none)
      ∧ ([tStep 7].filter fun t => !t.sealed && decide (tRecall.step ≤ t.seq) && t.held.isNone).length
          ≤ (batchSlots (tWith fun b => { b with steps := [tStep 7], recalling := some tRecall }) 0
              (tBolt fun b => { b with steps := [tStep 7], recalling := some tRecall }) tPat.window).length
      ∧ ({ tStep 7 with held := some 0 }).held.isNone = false := by decide +kernel

/-- A stored set that the bolt wants. -/
def tSets : State :=
  { tWith (fun b => { b with wanted := [(6, 2)], slots := [(0, { st := 1, tenant := 6, set := 2, lastUse := 0 })] }) with
    sets := [{ tenant := 6, set := 2, pattern := 1, segs := [], master := [], steps := 0, partSet := false }] }

theorem test_witness_slots :
    (6, 2) ∈ [(6, 2)] ∧ (∃ a ∈ tSets.sets, a.tenant = 6 ∧ a.set = 2)
      ∧ (∀ x ∈ [(0, { AdSlot.start with st := 2, tenant := 6, set := 2, stale := true })], x.2.st ≠ 0 → x.2.stale = false → x.2.tenant = 6 → x.2.set ≠ 2) ∧ chooseSlot tSets 0 (tBolt id) tPat.slots = some 0
      ∧ (mapGet AdSlot.start [(0, { st := 1, tenant := 6, set := 2, lastUse := 0 })] 0).st = 1
      ∧ (tSets.sets.find? fun x => x.tenant == 6 && x.set == 2).isSome = true ∧ (∀ x ∈ [tStep 7], x.held = none) := by decide +kernel

/-! ### The prefix tree and the memories -/

/-- A generation job of session 9. -/
def tGen : GenJob :=
  { stream := false, plain := true, maxNew := 1, stopId := 0, counter := 1, block := [], prompt := List.replicate 65 1, nextPos := 0, carry := none,
    record := [], records := 0, drawn := [], lastDrawn := false, truncRaised := false }
def tJobOf (kind : JobKind) : Job :=
  { id := 4, port := 0, ring := 1, fn := 0, tag := 0, tenant := 6, session := 9, bolt := 0, outAddr := 0, outLen := 4096, kind := kind, status := none,
    ready := some 0, uncal := false, sat := false, penTrunc := false, partSet := false, outBytes := 0, tokens := 0, step := 0, reserved := [] }

/-- The module with a session whose scope has a root, and a page of range 0. -/
def tTree : State :=
  setReg { tWith id with
    sessions := [(9, { Session.start with st := .running, tenant := 6, pattern := 1, lookup := true, publish := true, sealedLen := 64, job := some 4 })]
    jobs := [tJobOf (.gen tGen)]
    kv := { Kv.start with
      nodes := [(1, { Node.start with tpp32 := 2, depth := rootDepth, tenant := 6, pattern := 1, aset := 0xFFFF, live := true })]
      ptes := [(pteKey 9 0 0 0, { Pte.start with present := true, frame := 3 })]
      pages := [(3, { KvPage.start with valid := 64, fmt := 1 })] } } .die 0x208 3

theorem test_witness_treeLookup :
    genOf tTree 9 = some (tJobOf (.gen tGen), tGen) ∧ rootOf tTree (getSession tTree 9) = some 1 ∧ (getSession tTree 9).lookup = true ∧ treeOn tTree = true
      ∧ (getSession tTree 9).log = [] ∧ (getSession tTree 9).path = [] ∧ tGen.carry = none ∧ (tJobOf (.gen tGen)).ready ≠ none
      ∧ sessionTpp (tBolt id) tPat = 32 * (getNode tTree 1).tpp32 := by decide +kernel

theorem test_witness_treePublish :
    (getSession tTree 9).st ≠ .free ∧ (getSession tTree 9).publish = true ∧ (tBolt id).tpp ≠ 0 ∧ (getSession tTree 9).path.length = 0
      ∧ (0 + 1) * (tBolt id).tpp ≤ (getSession tTree 9).sealedLen - (getSession tTree 9).carry.toList.length
      ∧ (∀ k ∈ (layerHeads tPat).map fun x => pteKey 9 x.1 x.2 0,
          (getPte tTree k).present = true ∧ (getPte tTree k).tree = false ∧ (getPage tTree (getPte tTree k).frame).valid = (tBolt id).tpp)
      ∧ ensureRoot tTree (getSession tTree 9) (tBolt id).tpp = some (tTree, 1) ∧ (getNode tTree 1).tpp32 = (tBolt id).tpp / 32
      ∧ atBoundary tTree 0 (tBolt id) 9 = true
      ∧ ensureRoot { tTree with kv := { tTree.kv with nodes := [] } } (getSession tTree 9) (tBolt id).tpp = none := by decide +kernel

theorem test_witness_treeDrop :
    (getNode tTree 1).live = true ∧ (∀ n ∈ subtree tTree 1024 1, (getNode tTree n).count = 0 ∧ (getNode tTree n).sat = false) ∧ 1 ∈ subtree tTree 1024 1 ∧ tTree.kv.rebuilding = false
      ∧ ({ getNode tTree 1 with count := 1 }).count ≠ 0 ∧ ({ getNode tTree 1 with sat := true }).sat = true
      ∧ ({ tTree.kv with rebuilding := true }).rebuilding = true ∧ Passes State.reset .mgmt .die 0x218 := by decide +kernel

theorem test_witness_memory :
    0 < panelsEn State.reset ∧ 0xFFFFFF < sramSize
      ∧ linePoison (getPanel (modPanel (tWith id) 0 fun q => { q with marks := [(1, { LineMark.clean with poison := true })] }) 0) 0x40 = true
      ∧ 64 * (0x40 / 64) + 64 ≤ (nth [] tPat.images (panelRel 0 (tBolt id) 0)).length := by decide +kernel

/-! ### Programming and calibration -/

/-- A request for an array, and the array at a row of it. -/
def tReq (k : ProgKind) : ProgReq := { target := { pp := 0, tile := 0, arr := 0 }, kind := k, exact := false, bolt := 0, panel := 0, number := 0 }
def tProg (k : ProgKind) (f : Arr → Arr) : State :=
  modArr (tWith id) { pp := 0, tile := 0, arr := 0 } fun x => f { x with st := .programming, req := some (tReq k) }

/-- The requests that wait. -/
def tWaiting (rs : List ProgReq) : State := { tWith id with arrays := { (tWith id).arrays with waiting := rs } }

theorem test_witness_admission :
    ({ State.reset.start with restarting := true }).restarting = true ∧ ({ State.reset.power with compute := false }).compute = false
      ∧ (tWaiting [tReq .load, tReq .repair]).arrays.waiting.filter firstClass ++ (tWaiting [tReq .load, tReq .repair]).arrays.waiting.filter
          (fun r => !firstClass r) = tReq .repair :: [tReq .load]
      ∧ ([tReq .repair, tReq .zeroise].find? (admissible (tWaiting [tReq .repair, tReq .zeroise]))) = some (tReq .zeroise)
      ∧ admissible { tWaiting [tReq .selfTest] with bolts := [] } (tReq .selfTest) = true
      ∧ (activeArrs (tWaiting [tReq .load]) + 1) * 2 ≤ progLimit (tWaiting [tReq .load]) ∧ (getArr (tWaiting [tReq .load]) (tReq .load).target).st ≠ .programming
      ∧ (∀ kv ∈ (tWaiting [tReq .load]).arrays.arrs, kv.1 = arrKey (tReq .load).target → kv.2.st ≠ .zeroisePending)
      ∧ progLimit (setReg (tWaiting [tReq .load]) .die 0x100 0) < (activeArrs (tWaiting [tReq .load]) + 1) * 2 := by decide +kernel

/-- Block 0 of the bolt has its levels in the copy: here a block of no chunk, so the source is the self-test's. -/
theorem test_witness_requests :
    arrFree (tWith id) (tReq .load).target = true ∧ (getArr (tWith id) (tReq .load).target).st ≠ .programming
      ∧ (getArr (tWith id) (tReq .load).target).st ≠ .retired ∧ (tReq .zeroise).kind = .zeroise
      ∧ (getArr (tProg .selfTest id) (tReq .load).target).req = some (tReq .selfTest) ∧ (getArr (tProg .selfTest id) (tReq .load).target).st = .programming
      ∧ (getArr (tProg .selfTest id) (tReq .load).target).quarter < 4
      ∧ (getArr (tProg .selfTest id) (tReq .load).target).row = 256 * (getArr (tProg .selfTest id) (tReq .load).target).quarter
      ∧ sourceReady { tProg .selfTest id with bolts := [] } (tReq .selfTest) = true
      ∧ tileBuffer (tWith id) (tReq .load).target = some (.tileIn 0 0) ∧ creditFree (tWith id) (.tileIn 0 0) = true
      ∧ creditFree (setUsed (tWith id) (.tileIn 0 0) (queueDepth (tWith id) (.tileIn 0 0))) (.tileIn 0 0) = false := by decide +kernel

theorem test_witness_rounds :
    (getArr (tProg .load fun x => { x with quarter := 4, row := 1023 }) (tReq .load).target).row < 256 * 4
      ∧ (getArr (tProg .zeroise fun x => { x with row := 1023 }) (tReq .load).target).row < 1024
      ∧ acceptable { Arr.start with near := 4 } (tReq .load) = true ∧ acceptable { Arr.start with near := 5 } (tReq .load) = false
      ∧ acceptable { Arr.start with marginBad := true } (tReq .load) = false
      ∧ (outside [0, 3] [100, 3200] 200).1 = 0 ∧ (outside [0, 3] [100, 2799] 200).1 ≠ 0
      ∧ swapReady (tProg .load fun x => { x with row := 1024 }) (tReq .load).target (tReq .load) = true
      ∧ (getArr (tProg .zeroise fun x => { x with row := 1024 }) (tReq .load).target).near = 0
      ∧ (getArr (tProg .zeroise fun x => { x with row := 1024 }) (tReq .load).target).far = 0
      ∧ (getArr (tProg .zeroise fun x => { x with row := 1024, near := 1 }) (tReq .load).target).near ≠ 0 := by decide +kernel

/-- A tile with a run asked for, or at one of its stages. -/
def tCal (f : TileCal → TileCal) : State := modCal (tWith id) 0 3 f

theorem test_witness_calibration :
    calEligible (tCal fun c => { c with pending := 4 }) 0 3 = true ∧ tileAtBoundary (tCal fun c => { c with pending := 4 }) 0 3 = true
      ∧ (∀ t, t < 25 → calHolds (tCal fun c => { c with pending := 4 }) 0 t = false) ∧ (0, 3) ∈ allTiles (tCal id)
      ∧ (tCal id).start.restarting = false ∧ (tCal id).power.compute = true
      ∧ (getCal (tCal fun c => { c with stage := 5 }) 0 3).stage = 5
      ∧ tileAtBoundary (modHem (tCal fun c => { c with stage := 5 }) 0 3 0 fun m => { m with jobs := [{ tJob with phase := 1 }] }) 0 3 = false
      ∧ (∀ t, t < 3 → calEligible (tCal fun c => { c with pending := 4 }) 0 t = false)
      ∧ (getCal (tCal fun c => { c with stage := 1 }) 0 3).stage = 1 ∧ (getCal (tCal fun c => { c with stage := 2 }) 0 3).stage = 2
      ∧ (getCal (tCal fun c => { c with stage := 3 }) 0 3).stage = 3 ∧ tileAtBoundary (tCal fun c => { c with stage := 3 }) 0 3 = true
      ∧ tileAtBoundary (modHem (tCal fun c => { c with stage := 3 }) 0 3 0 fun m => { m with jobs := [{ tJob with phase := 1 }] }) 0 3 = false
      ∧ (∃ t ∈ (getCal (tCal fun c => { c with due := [0] }) 0 3).due, t ≤ (tCal id).now)
      ∧ ({ (tCal id).arrays with fallback := true }).fallback = true ∧ (∀ t, (tCal id).arrays.lastFallback = some t → t + max 1000000 (minGap (tCal id)) ≤ 0)
      ∧ Passes State.reset .mgmt .die 0x188 := by decide +kernel

theorem test_witness_eye :
    (0 : Nat) < 1 ∧ 0xFFFE < 0xFFFF ∧ 1 < eyeWarn State.reset ∧ (getLane State.reset 0 0).eyeLow = false ∧ eyeWarn State.reset ≤ 0xFFFE
      ∧ (getLane (modLane State.reset 0 0 fun x => { x with eyeLow := true }) 0 0).eyeLow = true := by decide +kernel

/-! ### Credits, arbiters and links -/

theorem test_witness_credits :
    usedCredits State.reset (.meshLink 0 0 0) = 0 ∧ pageExists State.reset (receiverPage State.reset (.meshLink 0 0 0)) = true
      ∧ (getHdr State.reset (receiverPage State.reset (.meshLink 0 0 0))).captureHeld = false
      ∧ usedCredits (setUsed State.reset (.meshLink 0 0 0) 1) (.meshLink 0 0 0) ≠ 0 ∧ queueKey (.meshLink 0 0 1) ≠ queueKey (.meshLink 0 0 0) := by decide +kernel

/-- A sender that has waited past its limit, and a context that has. -/
def tStalled : State :=
  { tSeq 0 (fun x => { x with wait := .sealw }) with
    now := 1
    net := { Net.start with waits := [(queueKey (.coreCall 0), some 0)] } }

theorem test_witness_stalls :
    mapGet none tStalled.net.waits (queueKey (.coreCall 0)) = some 0 ∧ 0 < tStalled.now ∧ mapGet false tStalled.net.stalls (queueKey (.coreCall 0)) = false
      ∧ pageExists tStalled (senderPage tStalled (.coreCall 0)) = true
      ∧ mapGet false [(queueKey (.coreCall 0), true)] (queueKey (.coreCall 0)) = true
      ∧ getCtx tStalled 0 0 = some { tCtx with wait := .sealw } ∧ tCtx.stalled = false ∧ tCtx.since < tStalled.now ∧ 0 < panelsEn tStalled := by decide +kernel

/-- A service lane that a requester holds, nothing having moved. -/
def tHeld : State :=
  { setArb State.reset (.seam 0 14) { Arbiter.start with
      holder := some ({ who := 3, class0 := false, items := 2, progress := 0, arrived := 0, hint := 0 }, 0, 0) } with now := 1000 }

theorem test_witness_arbiters :
    resSteer State.reset (.seam 0 12) = .seam 0 12 ∧ resSteer State.reset (.slice 0 0) = .slice 0 0 ∧ resExists State.reset (.slice 0 0) = true ∧ resExists State.reset (.seam 0 14) = true ∧ (30 : Nat) < 31
      ∧ (getArb tHeld (.seam 0 14)).holder = some ({ who := 3, class0 := false, items := 2, progress := 0, arrived := 0, hint := 0 }, 0, 0)
      ∧ (getArb State.reset (.seam 0 14)).holder = none ∧ 0 + resLimit tHeld (.seam 0 14) < tHeld.now
      ∧ ({ tHeld with now := resLimit tHeld (.seam 0 14) }).now ≤ 0 + resLimit tHeld (.seam 0 14) := by decide +kernel

/-- The first seam lane and the last, up, with no error and with fifteen. -/
theorem test_witness_seam :
    State.reset.net.seam0.lanesUp.getLsbD 0 = true ∧ State.reset.net.seam1.lanesUp.getLsbD 14 = true
      ∧ ((mapGet [] State.reset.net.seam0.errors 0).filter (fun t => decide (State.reset.now ≤ t + 1000)) ++ [State.reset.now]).length < 16
      ∧ 16 ≤ ((mapGet [] [(0, List.replicate 15 0)] 0).filter (fun t => decide (0 ≤ t + 1000)) ++ [0]).length := by decide +kernel

/-! ### The fabric -/

/-- A member of a running fabric: address 2, rank 0 of two; address 3 has rank 1. -/
def tFab : State :=
  { modLane (tWith fun b => { b with ranks := 2 }) 0 0 (fun x => { x with up := true }) with
    fab := { (modLane State.reset 0 0 fun x => { x with up := true }).fab with
      st := 4
      addr := 2
      roleInForce := 2
      role := 2
      key := some 1
      lasers := true
      lastHb := some 0
      peers := [{ addr := 3, planes := 1, rank := 1, cls := 1 }] }
    now := 20000000 }

theorem test_witness_kwLanes :
    (getLane tFab 0 0).up = true ∧ (getLane tFab 0 1).up = false ∧ tFab.fab.lasers = true
      ∧ laneBad tFab { KwLane.start with up := true, errors := List.replicate 17 20000000 } = true
      ∧ (∀ t, (getLane tFab 0 1).lastTry = some t → t + 10000000 ≤ tFab.now) := by decide +kernel

/-- A flit with a sequence number, and a fabric message. -/
def tKwFlit : KwFlit :=
  { vc := 1, src := 3, lseq := 0, first := true, poison := false, hello := false, credits := [], tagFlit := false, tagOk := true, epoch := 0 }
def tMsg (seq : BitVec 32) : FabMsg :=
  { src := 3, dstPanel := 0, vc := 1, seq := seq, flow := 1, tenant := 5, pattern := 1, poison := false, step := 7, gen := 0, basting := true, data := [] }

theorem test_witness_kwFlits :
    kwPortUp tFab 0 = true ∧ tFab.sec.debug = 0 ∧ (tKwFlit.lseq - (getKw tFab 0).rxSeq).toNat < 32768
      ∧ (0xFFFF : BitVec 16) ≠ (getKw tFab 0).txSeq ∧ ((getKw tFab 0).txSeq - 0xFFFF : BitVec 16).toNat ≤ 2048
      ∧ (getKw tFab 0).txCount < ((getKw tFab 0).txSeq - 0xFFFF : BitVec 16).toNat
      ∧ ((getKw (modKw tFab 0 fun k => { k with txSeq := 2048, txCount := 2048 }) 0).txSeq - 0 : BitVec 16).toNat ≤ 2048
      ∧ 2048 < ((getKw (modKw tFab 0 fun k => { k with txSeq := 2049, txCount := 2049 }) 0).txSeq - 0 : BitVec 16).toNat := by decide +kernel

theorem test_witness_messages :
    boltOfPanel tFab 0 = some (0, tBolt fun b => { b with ranks := 2 }) ∧ 0x100000 % 64 = 0 ∧ 0 + 64 ≤ sramSize ∧ tFab.fab.key ≠ none
      ∧ addrOfRank tFab 1 = some 3 ∧ 3 ∉ tFab.fab.lostMods
      ∧ (sramRead (getPanel tFab 0) (boltCtx tFab 0) 0 64).violation = false
      ∧ 3 ∈ ({ tFab.fab with lostMods := [3] }).lostMods ∧ (tMsg 0).src ∉ tFab.fab.fencedMods
      ∧ ((tMsg 0).seq - mapGet (0 : BitVec 32) tFab.fab.rxSeq 13).toNat < 2147483648 ∧ tMsg 0 ∉ tFab.fab.early
      ∧ ((tMsg 0x7FFFFFFF).seq - mapGet (0 : BitVec 32) tFab.fab.rxSeq 13).toNat < 2147483648
      ∧ 2147483648 ≤ ((tMsg 0x80000000).seq - mapGet (0 : BitVec 32) tFab.fab.rxSeq 13).toNat ∧ boltOfPanel tFab 0 ≠ none := by decide +kernel

theorem test_witness_members :
    tFab.fab.role = 2 ∧ 4 ≤ tFab.fab.st ∧ (∀ t, tFab.fab.lastHb = some t → t + hbUs tFab ≤ tFab.now) ∧ 0 + 3 * hbUs tFab ≤ tFab.now
      ∧ ({ tFab.fab with role := 1 }).role = 1 ∧ ({ tFab.fab with role := 3 }).role = 3 ∧ tFab.fab.roleInForce ≠ 0 ∧ 3 ≠ tFab.fab.addr
      ∧ 3 ∉ tFab.fab.lostMods ∧ State.reset.fab.st < 4 := by decide +kernel

/-- A HELLO, and a plan that the owner signed. -/
def tHello : HelloMsg := { digest := 5, addr := 3, role := 2, planGen := 1, sigOk := true, seen := [(0, 3)] }
def tPlan (g : BitVec 16) : Plan :=
  { generation := g, entries := [{ addr := 3, digest := 5, rank := 1, role := 1, planes := 1 }], signer := [7] }
def tPlanned : State := { tFab with sec := { tFab.sec with owner := some [7], kekReady := true } }

theorem test_witness_plan :
    tHello.digest ≠ ownDigest tFab ∧ tFab.fab.role = 2 ∧ tHello.role = 2 ∧ tHello.sigOk = true ∧ ({ tHello with sigOk := false }).sigOk = false
      ∧ ({ tHello with digest := 0 }).digest = ownDigest tFab ∧ newcomer tFab { tHello with addr := 9 } = true ∧ newcomer { tFab with fab := { tFab.fab with discSince := some 0 } } tHello = false
      ∧ ({ tFab.fab with discSince := some 0 }).discSince = some 0 ∧ 0 + discWaitUs tFab ≤ tFab.now
      ∧ tPlanned.sec.kekReady = true ∧ ({ kek := 1, label := 0, message := List.replicate 32 0 } : Oaep).kek = tPlanned.sec.kekId
      ∧ (List.replicate 32 (0 : Byte)).length = 32 ∧ 3 ≠ tFab.fab.addr
      ∧ keyLife tFab ≤ ({ tFab.fab with packets := keyLife tFab }).packets
      ∧ (tPlan 1).entries.find? (fun e => e.role == 1) = some { addr := 3, digest := 5, rank := 1, role := 1, planes := 1 }
      ∧ tFab.sec.owner ≠ some (tPlan 1).signer ∧ tPlanned.sec.owner = some (tPlan 1).signer
      ∧ (∀ p, tPlanned.fab.plan = some p → p.generation ≤ (tPlan 1).generation) := by decide +kernel

/-! ### Rings and their commands -/

/-- A ring that is enabled with the given positions. -/
def tRing : Ring := { Ring.start with st := .enabled, cfg := 0x1000000000044, sqTail := 1, phase := true }
def tRings (r : Ring) : State := { tWith id with rings := [(3, r)] }

/-- A completion. -/
def tDone : Completion := Completion.simple 0 0 0

theorem test_witness_rings :
    pageRing (tRings tRing) (.pf 0) 3 = some (0, 3) ∧ doorbellsOn (tRings tRing) 0 = true ∧ tRing.st = .enabled
      ∧ (15 : Nat) < 2 ^ field tRing.cfg 3 0 ∧ 2 ^ field tRing.cfg 3 0 ≤ (16 : Nat) ∧ bit tRing.cfg 48 = true ∧ tRing.sqHead ≠ tRing.sqTail
      ∧ mayMaster (tRings tRing) 0 tRing.fn = true ∧ (tRings tRing).start.phase ≠ 9
      ∧ (tRing.cqTail + 1) % 2 ^ field tRing.cfg 7 4 ≠ tRing.cqHead
      ∧ (({ tRing with cqTail := 15 }).cqTail + 1) % 2 ^ field tRing.cfg 7 4 = tRing.cqHead
      ∧ 0 + creditLimit (tRings tRing) none < ({ tRings tRing with now := 100000000 }).now
      ∧ ({ tRing with waiting := [(0, tDone)] }).waiting = (0, tDone) :: []
      ∧ ({ tRing with unsigSince := some 0 }).unsigSince = some 0 ∧ 0 < field ({ tRing with cfg := 0x1000010000044 }).cfg 43 28 := by decide +kernel

/-- A ring assigned to the PF and not yet enabled. -/
def tAssigned : Ring := { Ring.start with st := .assigned, cfg := 0x44 }

theorem test_witness_assign :
    pageRing (tRings tAssigned) (.pf 0) 3 = some (0, 3) ∧ bit tAssigned.cfg 48 = false ∧ ringCfgOk tAssigned.fn (0x44 ||| bitOf 48) = true
      ∧ ringCfgOk tAssigned.fn (0x43 ||| bitOf 48) = false ∧ ringCfgOk tAssigned.fn (0xEE ||| bitOf 48) = true ∧ bit tRing.cfg 48 = true
      ∧ Passes (tRings tAssigned) (.pf 0) (.host 0) 0x0A0 ∧ ringOpen (tRings tAssigned) 0 3 = true ∧ vfLocked (tRings tAssigned) 0 0 = false
      ∧ bit (0x1000003 : Word) 24 = true ∧ bit (0x3 : Word) 24 = false ∧ ringOpen (tRings tRing) 0 3 = false
      ∧ Passes (tRings tAssigned) (.pf 0) (.host 0) 0x0A8 := by decide +kernel

/-- An entry of the port-0 PF with its opcode, changed. -/
def tEnt (op : Nat) (f : Entry → Entry) : Dispatched :=
  { id := 1, port := 0, ring := 3, fn := 0,
    entry := f { opcode := op, flags := 0, tag := 0, tenant := 6, session := 9, bolt := 0, inAddr := 0, inLen := 0, outLen := 0, outAddr := 0, arg0 := 0,
                 arg1 := 0, payload := .none } }
def tSub (s : State) (d : Dispatched) : State := { s with dispatched := [d], rings := [(3, tRing)] }

theorem test_witness_admitted : ∀ x ∈ commandRows 1 (tPlan 1) shippedFw, x.2.1 ∉ [0x10] →
    (tSub (tWith id) (tEnt x.2.1 id)).dispatched.find? (fun e => e.id == 1) = some (tEnt x.2.1 id) ∧ (tEnt x.2.1 id).entry.opcode = x.2.1
      ∧ (tSub (tWith id) (tEnt x.2.1 id)).start.restarting = false ∧ (tSub (tWith id) (tEnt x.2.1 id)).start.limp = 0
      ∧ x.2.2 (tSub (tWith id) (tEnt x.2.1 id)) (tEnt x.2.1 id) = true := by decide +kernel

/-- What each way of not acting needs: another opcode, a restart, limp mode, and a function that may not. -/
theorem test_witness_notAdmitted :
    (tEnt 0x02 id).entry.opcode ≠ 0x01 ∧ jobelOpcode 0x01 = true ∧ limpOpcode 0x01 = false
      ∧ fromPf (tWith id) { tEnt 0x01 id with fn := 1 } = false ∧ fromOwner (tWith id) { tEnt 0x04 id with port := 1 } = false
      ∧ fromSession (tWith id) { tEnt 0x09 id with fn := 1 } = false ∧ tRing.st = .enabled ∧ tRing.closing = false ∧ tRing.freeing = false := by
  decide +kernel

/-! ### Tenants, bolts, sessions and jobs -/

/-- Tenant 6 with its keys, and session 9 of it. -/
def tTenant : Tenant := { Tenant.start with st := .active, maxSessions := 2, budget := 1, weight := some { gen := 1, key := 5 } }
def tHost (d : Dispatched) (e : Session) : State :=
  tSub { tWith id with
    tenants := [(6, tTenant)]
    sessions := [(9, e)]
    sets := [2, 3].map fun n => { tenant := 6, set := n, pattern := 1, segs := [], master := [], steps := 0, partSet := false }
    sec := { Security.start with dataKeys := [{ tenant := 6, bolt := 0, entry := { gen := 1, key := 8 }, sessions := 0 }], grants := [(0, 6)] } } d
def tOpen : Session := { Session.start with st := .opened, tenant := 6, pattern := 1, number := 1, key := 8 }

theorem test_witness_tenants :
    Admitted (tHost (tEnt 0x01 id) tOpen) 1 0x01 fromPf (tEnt 0x01 id) ∧ Admitted (tHost (tEnt 0x04 id) tOpen) 1 0x04 fromOwner (tEnt 0x04 id)
      ∧ getBolt (tHost (tEnt 0x04 id) tOpen) 0 = some (tBolt id) ∧ Admitted (tHost (tEnt 0x08 id) tOpen) 1 0x08 fromOwnerVf (tEnt 0x08 id)
      ∧ Admitted (tHost (tEnt 0x09 id) tOpen) 1 0x09 fromSession (tEnt 0x09 id) := by
  unfold Admitted; decide +kernel

theorem test_witness_sessionOpen :
    openRefused (tHost (tEnt 0x08 fun e => { e with arg0 := 0xFFFF00000001 }) tOpen) (tEnt 0x08 fun e => { e with arg0 := 0xFFFF00000001 }) (tBolt id) = none
      ∧ freeSessionNum (tHost (tEnt 0x08 id) tOpen) = some 0 ∧ (dataKey (tHost (tEnt 0x08 id) tOpen) 6 0).isSome = true
      ∧ openRefused (tHost (tEnt 0x08 id) tOpen) (tEnt 0x08 id) (tBolt id) = some 0x38 ∧ (getSession (tHost (tEnt 0x0D id) tOpen) 9).st ≠ .free := by
  decide +kernel

/-- The plaintext of a GENERATE: parameters that keep their ranges, and one token; the second set breaks K. -/
def tParams (k : Nat) : List Byte :=
  natLe 4 0 ++ natLe 4 0x3F800000 ++ natLe 4 0x3F800000 ++ natLe 4 0 ++ natLe 4 0 ++ natLe 4 k ++ natLe 8 0 ++ natLe 4 1
def tGenEnt (ctr : Nat) (bs : List Byte) (nonce : BitVec 96) : Dispatched := tEnt 0x0A fun e =>
  { e with inLen := 52, outLen := 65536, arg0 := 1, arg1 := BitVec.ofNat 64 ctr,
           payload := .box { key := 8, nonce := nonce, aad := jobAad 9 nonce, body := bs } }

theorem test_witness_generate :
    generateEntryOk (tHost (tGenEnt 1 (tParams 1) (jobNonce 1 1 0)) tOpen) (tGenEnt 1 (tParams 1) (jobNonce 1 1 0)) = true
      ∧ openPayload (tHost (tGenEnt 1 (tParams 1) (jobNonce 1 1 0)) tOpen) (tGenEnt 1 (tParams 1) (jobNonce 1 1 0)) = some (tParams 1)
      ∧ samplingOk (tParams 1) = true ∧ samplingOk (tParams 1024) = true ∧ samplingOk (tParams 0) = false
      ∧ entryCounter (tGenEnt 1 (tParams 1) (jobNonce 1 1 0)) = tOpen.counter + 1
      ∧ entryCounter (tGenEnt 2 (tParams 1) (jobNonce 1 2 0)) ≠ tOpen.counter + 1
      ∧ openPayload (tHost (tGenEnt 2 (tParams 1) (jobNonce 1 2 0)) tOpen) (tGenEnt 2 (tParams 1) (jobNonce 1 2 0)) = some (tParams 1)
      ∧ openPayload (tHost (tGenEnt 1 (tParams 1) 0) tOpen) (tGenEnt 1 (tParams 1) 0) = none ∧ generateEntryOk (tHost (tEnt 0x0A id) tOpen) (tEnt 0x0A id) = false
      ∧ tOpen.st = .opened ∧ ({ tOpen with st := .hold }).st ≠ .opened := by decide +kernel

theorem test_witness_abort :
    Admitted (tHost (tEnt 0x0C id) tOpen) 1 0x0C (fun _ _ => true) (tEnt 0x0C id) := by
  unfold Admitted; decide +kernel

theorem test_witness_budget :
    Passes (tHost (tEnt 0x0C id) tOpen) .mgmt .die 0x318 ∧ (getTenant (tHost (tEnt 0x0C id) tOpen) 6).st = .active
      ∧ (getTenant (tHost (tEnt 0x0C id) tOpen) 7).st ≠ .active ∧ (getTenant (tHost (tEnt 0x0C id) tOpen) 6).budget ≠ 0
      ∧ (getTenant (tHost (tEnt 0x0C id) tOpen) 7).budget = 0 := by decide +kernel


/-- The plaintext of a TUNE: 32 bytes of parameters, then one sequence of two tokens. -/
def tTuneBody : List Byte := List.replicate 24 0 ++ natLe 4 1 ++ natLe 4 1 ++ natLe 4 2 ++ natLe 4 7 ++ natLe 4 8
def tTuneEnt : Dispatched := tEnt 0x0B fun e =>
  { e with inLen := 60, arg0 := 0x30002, arg1 := 1, payload := .box { key := 8, nonce := jobNonce 1 1 0, aad := jobAad 9 (jobNonce 1 1 0), body := tTuneBody } }

theorem test_witness_tune :
    Admitted (tHost tTuneEnt tOpen) 1 0x0B fromOwnerVf tTuneEnt ∧ tuneEntryOk (tHost tTuneEnt tOpen) tTuneEnt = true
      ∧ openPayload (tHost tTuneEnt tOpen) tTuneEnt = some tTuneBody ∧ entryCounter tTuneEnt = tOpen.counter + 1
      ∧ (tuneJob tTuneEnt tTuneBody).isSome = true ∧ tuneEntryOk (tHost (tEnt 0x0B id) tOpen) (tEnt 0x0B id) = false := by
  unfold Admitted; decide +kernel

/-- An ABORT that names tag 0 of ring 3; a job of that tag, and an entry of it. -/
def tAbortEnt : Dispatched := tEnt 0x0C fun e => { e with arg0 := 3 }
theorem test_witness_abortFinds :
    ([jobOf { tTuneEnt with id := 2 } .selfTest].find? fun j => j.port == 0 && j.fn == 0 && j.ring == arg0 tAbortEnt 11 0
        && j.tag == BitVec.ofNat 16 (arg0 tAbortEnt 27 12)).isSome = true
      ∧ ([tAbortEnt, { tTuneEnt with id := 2 }].find? fun x => x.id != 1 && x.port == 0 && x.fn == 0 && x.ring == arg0 tAbortEnt 11 0
        && x.entry.tag == BitVec.ofNat 16 (arg0 tAbortEnt 27 12)).isSome = true := by decide +kernel

/-! ### Loads -/

/-- An image header of a kind for a bolt of one panel, with so many chunks and so many bytes. -/
def tHeader (kind chunks entries bytes : Nat) : List Byte :=
  natLe 4 0x4B57494D ++ natLe 2 1 ++ natLe 2 kind ++ natLe 2 6 ++ List.replicate 22 0 ++ natLe 4 chunks ++ natLe 2 entries ++ natLe 2 0 ++ natLe 8 bytes ++ [0x11]
  ++ List.replicate 207 0
def tChunk (h body : List Byte) : Sealed := { key := 5, nonce := 0, aad := h, body := body }

/-- The plaintext of a pattern of one panel without flows. -/
def tPattern : List Byte :=
  natLe 8 (1 + 2 ^ 32 + 2 ^ 36 + 2 ^ 40 + 2 ^ 45) ++ natLe 8 0 ++ natLe 8 (1 + 2 ^ 32 + 64 * 2 ^ 40) ++ natLe 8 (64 + 128 * 2 ^ 32) ++ natLe 8 0
  ++ natLe 8 (64 * 2 ^ 32) ++ natLe 4 144 ++ List.replicate 12 0
  ++ natLe 8 (0x1000 + 64 * 2 ^ 24) ++ natLe 8 (0x2000 + 0x3000 * 2 ^ 24) ++ natLe 8 (64 + 0x4000 * 2 ^ 24) ++ natLe 8 0x10000 ++ natLe 8 0x8000
  ++ natLe 8 (0x1000 + 0x1000 * 2 ^ 24) ++ natLe 8 (0x1000 + 0x1000 * 2 ^ 24) ++ natLe 8 0 ++ List.replicate 16 0 ++ [1] ++ List.replicate 127 0

def tLoadEnt (op : Nat) (f : Entry → Entry) : Dispatched := tEnt op fun e => f { e with payload := .image (tHeader 0 1 1 16) [] }
def tLoad : Load := newLoad (tLoadEnt 0x10 id) 5 0
def tLoadBolt (f : Bolt → Bolt) : State := { tHost (tLoadEnt 0x10 id) tOpen with sessions := [], bolts := [(0, some (tBolt f))] }

theorem test_witness_stage :
    Admitted (tLoadBolt id) 1 0x10 stageFrom (tLoadEnt 0x10 id) ∧ (tBolt id).phase ≠ 3 ∧ (tBolt id).unloadJob = none
      ∧ (getTenant (tLoadBolt id) 6).weight = some { gen := 1, key := 5 } ∧ (getTenant (tLoadBolt id) 6).st = .active
      ∧ (getTenant (tLoadBolt id) 7).weight = none ∧ arg0 (tLoadEnt 0x10 id) 2 2 ≠ 1 ∧ (tBolt id).weights ≠ none
      ∧ (getBolt (failLoad (tLoadBolt fun b => { b with load := some tLoad }) 0 (tBolt fun b => { b with load := some tLoad }) tLoad 0x32 0) 0).isSome = true := by
  unfold Admitted; decide +kernel

theorem test_witness_chunk :
    tLoad.staged = false ∧ tLoad.header ≠ [] ∧ 0 < headerChunks tLoad.header ∧ tLoad.chunks = []
      ∧ (allocLoad { tLoadBolt id with regs := [(regKey .die 0x380, 0xFFFFFFFFFFFFFFFF)] } { tLoad with frames := 1 }).isSome = true
      ∧ (openChunk 5 tLoad.header 0 (tChunk tLoad.header [1])).isSome = true ∧ openChunk 5 tLoad.header 0 (tChunk [] [1]) = none
      ∧ chunkFrom (tLoadBolt id) tLoad none = true ∧ chunkFrom (tLoadBolt id) tLoad (some (3, [])) = false := by decide +kernel

/-- A load from the fabric takes its chunks from its manager; one of an upload meets its tenant ACTIVE, or no longer so. -/
theorem test_witness_fabricChunk :
    chunkFrom tFab { tLoad with fabric := true, manager := 3 } (some (3, [])) = true
      ∧ chunkFrom tFab { tLoad with fabric := true, manager := 3 } none = false
      ∧ (getTenant (tLoadBolt id) 6).st = .active ∧ (getTenant (tLoadBolt id) 7).st ≠ .active := by decide +kernel

theorem test_witness_pattern :
    (match patternOf (tLoadBolt id) 0 (tBolt id) 5 (tHeader 2 1 0 272) [tChunk (tHeader 2 1 0 272) tPattern] with | .ok _ => true | .error _ => false) = true
      ∧ (match patternOf (tLoadBolt id) 0 (tBolt id) 5 (tHeader 2 1 0 271) [tChunk (tHeader 2 1 0 271) tPattern] with | .ok _ => 0 | .error e => e.1) = 0x30
      ∧ (match patternOf (tLoadBolt id) 0 (tBolt id) 5 (tHeader 2 1 0 272) [tChunk [] tPattern] with | .ok _ => 0 | .error e => e.1) = 0x31
      ∧ headerKey (tLoadBolt id) (tHeader 2 1 0 272) = some 5 ∧ headerKey State.reset (tHeader 2 1 0 272) = none
      ∧ sessionsOn (tLoadBolt id) 0 = false ∧ sessionsOn (tHost (tLoadEnt 0x13 id) tOpen) 0 = true
      ∧ (∀ op ∈ [0x11, 0x12, 0x13, 0x14], fromOwner (tLoadBolt id) (tLoadEnt op id) = true) := by decide +kernel

/-- A broadcast whose wait is over: worker 3 has reported, worker 4 has not. -/
def tBcast : Bcast := { bolt := 0, chunks := 2, workers := [3, 4], reports := [(3, [])], waitEnd := some 0, chain := [], again := [], resend := [], sent := 2 }
theorem test_witness_bcast :
    [tBcast].find? (fun b => b.bolt == 0) = some tBcast ∧ tBcast.waitEnd = some 0 ∧ 0 ≤ State.reset.now ∧ tBcast.chain = []
      ∧ State.reset.fab.addr = 0 ∧ (1 : Nat) ≠ State.reset.fab.addr ∧ getBolt (tWith fun b => { b with load := some { tLoad with fabric := true } }) 0
        = some (tBolt fun b => { b with load := some { tLoad with fabric := true } }) ∧ tLoad.staged = false
      ∧ ({ tBcast with waitEnd := none, sent := 1 }).waitEnd = none ∧ (1 : Nat) = ({ tBcast with waitEnd := none, sent := 1 }).sent
      ∧ ({ tBcast with chain := [4], again := [0, 1], resend := [1] }).chain = 4 :: [] ∧ ({ tBcast with resend := [1] }).resend = 1 :: [] := by decide +kernel

/-! ### Owners, keys and attestation -/

def tDoc (body : List Byte) : SignedDoc := { signer := [7], body := body, nonce := 0 }
def tOwned (d : Dispatched) : State :=
  let s := tHost d tOpen
  { s with sec := { s.sec with owner := some [7], nonce := 0, kekReady := true, kekId := 1 }, fab := { s.fab with plan := some (tPlan 1) } }
def tSigned (op : Nat) (p : Payload) : Dispatched := tEnt op fun e => { e with payload := p }

theorem test_witness_owner :
    Admitted (tOwned (tSigned 0x20 (.pubKey [7]))) 1 0x20 fromPf (tSigned 0x20 (.pubKey [7]))
      ∧ (ownerSigned (tOwned (tEnt 0x21 id)) (tSigned 0x21 (.signed (tDoc [8])))).toOption = some [8]
      ∧ (ownerSigned (tOwned (tEnt 0x22 id)) (tSigned 0x22 (.signed (tDoc [])))).toOption = some []
      ∧ (ownerSigned (tOwned (tEnt 0x22 id)) (tSigned 0x22 .none)).toOption = none
      ∧ State.reset.sec.owner ≠ some (tPlan 2).signer ∧ (tOwned (tEnt 0x24 id)).sec.owner = some (tPlan 2).signer ∧ planShapeOk (tPlan 2) = true
      ∧ planShapeOk { tPlan 2 with entries := [] } = false ∧ (tPlan 1).generation ≤ (tPlan 1).generation ∧ (tPlan 1).generation < (tPlan 2).generation
      ∧ (tOwned (tEnt 0x24 id)).fab.plan = some (tPlan 1) := by
  unfold Admitted; decide +kernel

/-- A module whose identity's digest is 0 opens a document for that device. -/
def tUnlock : List Byte := natLe 4 0x4B444247 ++ [1, 0, 0, 0] ++ List.replicate 24 0
def tFused : State :=
  let s := tOwned (tEnt 0x23 id)
  { s with sec := { s.sec with identity := 0, vendorKey := [9] } }
theorem test_witness_unlock :
    (unlockLevel tFused (tSigned 0x23 (.unlock { tDoc tUnlock with signer := [9] } (tDoc tUnlock)))).toOption = some 1
      ∧ (unlockLevel tFused (tSigned 0x23 .none)).toOption = none := by decide +kernel

/-- A key for tenant 6's weights, and one for its data on bolt 0. -/
def tKey (kind bolt : Nat) : Oaep :=
  { kek := 1, label := sha512 (bindingRecord (tOwned (tEnt 0x18 id)) kind bolt 6),
    message := natLe 4 0x4B4B4559 ++ [BitVec.ofNat 8 kind, BitVec.ofNat 8 bolt] ++ natLe 2 6 ++ natLe 8 2 ++ natLe 32 77 }

theorem unwrapKey_of (s : State) (kind bolt tenant : Nat) (ct : Oaep) (hl : ct.label = sha512 (bindingRecord s kind bolt tenant))
    (h : ct.kek = s.sec.kekId ∧ ct.message.length = 48 ∧ bytesNat ct.message 0 4 = 0x4B4B4559 ∧ bytesNat ct.message 4 1 = kind
      ∧ bytesNat ct.message 5 1 = bolt ∧ bytesNat ct.message 6 2 = tenant) : (unwrapKey s kind bolt tenant ct).isSome = true := by
  obtain ⟨h1, h2, h3, h4, h5, h6⟩ := h
  unfold unwrapKey
  rw [if_pos ⟨h1, hl, h2, h3, h4, h5, h6⟩]
  rfl

theorem test_witness_keyFields : ∀ x ∈ [(1, 0xFF), (2, 0)],
    1 = (tOwned (tEnt 0x18 id)).sec.kekId ∧ (tKey x.1 x.2).message.length = 48 ∧ bytesNat (tKey x.1 x.2).message 0 4 = 0x4B4B4559
      ∧ bytesNat (tKey x.1 x.2).message 4 1 = x.1 ∧ bytesNat (tKey x.1 x.2).message 5 1 = x.2 ∧ bytesNat (tKey x.1 x.2).message 6 2 = 6 := by
  decide +kernel

theorem tKey_label (kind bolt : Nat) : (tKey kind bolt).label = sha512 (bindingRecord (tOwned (tEnt 0x18 id)) kind bolt 6) := by
  simp only [tKey]

theorem test_witness_keyOpens (x : Nat × Nat) (h : x ∈ [(1, 0xFF), (2, 0)]) :
    (unwrapKey (tOwned (tEnt 0x18 id)) x.1 x.2 6 (tKey x.1 x.2)).isSome = true :=
  unwrapKey_of _ _ _ _ _ (tKey_label x.1 x.2) (test_witness_keyFields x h)

theorem test_witness_keyChecks : ∀ x ∈ [(1, 0xFF), (2, 0)],
    keyRefused (tOwned (tEnt 0x18 id)) x.1 x.2 6 (some { gen := 2, key := 77 }) = none
      ∧ keyRefused (tOwned (tEnt 0x18 id)) x.1 x.2 6 (some { gen := 1, key := 77 }) = some 0x43 := by decide +kernel

def tGrant : Dispatched := tSigned 0x19 (.gcmTag 8 0 6 0)
def tGranting (d : Dispatched) : State :=
  let s := tOwned d
  { s with bolts := [(0, some (tBolt fun b => { b with tenant := 6 }))] }
theorem test_witness_grant :
    Admitted (tGranting tGrant) 1 0x19 fromOwnerVf tGrant ∧ grantTagOk (tGranting tGrant) tGrant (tBolt fun b => { b with tenant := 6 }) = true
      ∧ grantTagOk (tGranting tGrant) (tEnt 0x1A id) (tBolt fun b => { b with tenant := 6 }) = false ∧ fromOwnerVf (tGranting tGrant) (tEnt 0x1A id) = true
      ∧ State.reset.sec.kekReady = false ∧ ({ State.reset.sec with kekId := 1 }).kekId ≠ 0 ∧ State.reset.start.restarting = false
      ∧ 3 ≤ State.reset.start.phase ∧ State.reset.start.phase ≠ 9
      ∧ fromKey (tGranting tGrant) (tSigned 0x18 (.keyInstall 1 0xFF 6 (tKey 1 0xFF))) = true := by
  unfold Admitted; decide +kernel

/-- A connection at a stage, a stream of virtual function 3 on port 0, and that function locked. -/
def tSpdm (k : Nat) : State :=
  let s := setSpdm State.reset (.doe 0) k 0
  let s := modVf s 0 3 fun v => { v with tdi := .locked, tenant := some 6 }
  { s with sec := { s.sec with ide := [{ port := 0, stream := 1, requester := 3, key := 0, secure := true }] } }
theorem test_witness_spdm :
    (∀ k ∈ [1, 2, 3, 4, 5], spdmOn (tSpdm k) (.doe 0) = true ∧ spdmStage (tSpdm k) (.doe 0) = k) ∧ spdmOn State.reset .mctp = true
      ∧ (tSpdm 3).sec.pufOk = true ∧ ({ State.reset.sec with pufOk := false }).pufOk = false ∧ (chainOf State.reset 0).isSome = true ∧ (measurement State.reset 3).isSome = true ∧ (measurement State.reset 15).isSome = false
      ∧ (tSpdm 5).sec.spdm.find? (fun x => x.via == Via.doe 0) = some { via := .doe 0, stage := 5, keyGen := 0 }
      ∧ findIde (tSpdm 5) 0 1 ≠ none ∧ findIde (tSpdm 5) 0 2 = none
      ∧ (getPort (modPort (tSpdm 5) 0 fun q => { q with up := true, flit := true }) 0).up = true
      ∧ (getVf (tSpdm 5) 0 3).tdi = .locked ∧ (∃ x ∈ (tSpdm 5).sec.ide, x.port = 0 ∧ x.requester = 3 ∧ x.stream ≠ 0 ∧ x.secure = true)
      ∧ (getVf (tSpdm 5) 0 4).tdi = .unlocked ∧ pageExists (modVf (tSpdm 5) 0 4 fun v => { v with tenant := some 6 }) (.tenant 0 4) = true := by decide +kernel

/-! ### Ports, blocks, registers and counters -/

/-- A state with changed headers of panel 0. -/
def tBlk (f : Hdr → Hdr) : State := modHdr State.reset (.panel 0) f

theorem test_witness_ports :
    Passes State.reset (.pf 0) (.host 0) 0x0B0 ∧ Passes State.reset .mgmt (.host 1) 0x0B0
      ∧ (let s := modPort (setReg State.reset .die 0x580 (1 + 0x30A00)) 0 fun q => { q with pair := .live, lastHb := some 0 }
         bit (getReg s .die 0x580) 0 = true ∧ (getPort s 0).pair = .live
           ∧ 0 + field (getReg s .die 0x580) 15 8 * 100000 * field (getReg s .die 0x580) 19 16 ≤ 3000000)
      ∧ (getPort State.reset 0).released = true ∧ (getPort State.reset 1).released = true
      ∧ ¬((getPort State.reset 1).rate = 1 ∧ (getPort State.reset 1).width = 4 ∧ (getPort State.reset 1).flit = false ∧ (getPort State.reset 1).up = true)
      ∧ State.reset.power.aux = true ∧ vfLocked State.reset 0 3 = false := by decide +kernel

theorem test_witness_blocks :
    (∀ p ∈ [PageId.panel 0, .kwath 3, .stack 0], Passes State.reset .mgmt p 0x010 ∧ blkAccepts p = true)
      ∧ blkAccepts .die = false ∧ Passes State.reset .mgmt .die 0x010
      ∧ (getHdr State.reset (.panel 0)).st = .ready ∧ (getHdr State.reset (.panel 0)).ownBolt = 0x3F
      ∧ (getHdr (tBlk fun h => { h with held := true }) (.panel 0)).held = true
      ∧ (∀ st ∈ [BlkSt.off, .draining, .test], (getHdr (tBlk fun h => { h with st := st }) (.panel 0)).st = st)
      ∧ workEnded (tBlk fun h => { h with st := .draining }) (.panel 0) = true
      ∧ workEnded { tBlk fun h => { h with st := .draining } with panels := [(0, { Panel.start with ctxs := [tCtx] })] } (.panel 0) = false
      ∧ pagePowered State.reset (.panel 0) = true ∧ State.reset.st.running = none := by decide +kernel

/-- A clear that passes, and each reason for one not to. -/
theorem test_witness_evtClear :
    Passes State.reset .mgmt (.panel 0) 0x018 ∧ definedEvents (.panel 0) ≠ 0 ∧ pageExists { State.reset with variant := .k32H } (.panel 47) = false
      ∧ pageExists State.reset (.panel 0) = true
      ∧ windowOn { State.reset with start := { State.reset.start with failPcie := 1 } } (.pf 0) = false ∧ windowOn State.reset (.vf 0 3) = true
      ∧ pagePowered State.reset (.panel 0) = true ∧ mayWrite State.reset (.vf 0 3) (.panel 0) 0x018 = false := by decide +kernel

theorem test_witness_reads :
    Passes State.reset .mgmt (.panel 0) 0x018 ∧ Passes State.reset .mgmt (.panel 0) 0x028 ∧ Readable State.reset (.pf 1) (.host 1)
      ∧ Readable (modVf State.reset 0 3 fun v => { v with tenant := some 6 }) (.vf 0 3) (.tenant 0 3)
      ∧ (∀ p ∈ [PageId.panel 0, .seq 0, .die], Readable State.reset .mgmt p) ∧ mayRead State.reset .mgmt .bb = true
      ∧ (∀ p ∈ [PageId.die, .bb, .host 0], mayRead State.reset (.vf 0 3) p = false) := by decide +kernel

/-- Each clear register with a window that passes its gate. -/
theorem test_witness_clears :
    (∀ x ∈ [(PageId.die, 0x1A8), (.die, 0x280), (.die, 0x3C0), (.die, 0x4B8), (.die, 0x570), (.die, 0x630), (.sec, 0x0C0), (.hk, 0x100), (.panel 0, 0x4C0),
        (.att 0, 0x098), (.smp 47, 0x098), (.seq 0, 0x0B0), (.kwath 15, 0x0B8), (.host 1, 0x0E0), (.slice 0 7, 0x098), (.router 0, 0x0A8), (.half 1, 0x0A8),
        (.panel 0, 0x430)], Passes State.reset .mgmt x.1 x.2)
      ∧ pageExists State.reset (.panel 0) = true ∧ (1 : Nat) ≠ 0 ∧ (getCnt State.reset (.panel 0) 0x408 0).count.toNat + 1 < 0xFFFFFFFFFFFF
      ∧ 0xFFFFFFFFFFFF ≤ (getCnt State.reset (.panel 0) 0x408 0).count.toNat + 0xFFFFFFFFFFFF ∧ (getCnt State.reset (.panel 0) 0x408 0).ovf = false := by
  decide +kernel

theorem test_witness_accesses :
    ¬((4 : Nat) = 8 ∧ 0x22 % 8 = 0 ∨ (4 : Nat) = 4 ∧ 0x22 % 4 = 0) ∧ ¬((2 : Nat) = 8 ∧ 0x20 % 8 = 0 ∨ (2 : Nat) = 4 ∧ 0x20 % 4 = 0)
      ∧ windowOn State.reset .mgmt = true ∧ targetOf .mgmt (4096 * pageKey (.panel 0) + 0x22) = .page (.panel 0) 0x22
      ∧ targetOf (.pf 0) (2 ^ 32 + 3 * 4096 + 2) = .ring 3 2 ∧ pageRing (tRings tRing) (.pf 0) 3 = some (0, 3)
      ∧ targetOf .mgmt (4096 * pageKey (.panel 0) + 0x024) = .page (.panel 0) 0x024 ∧ 0x024 / 8 * 8 = 0x020 ∧ Passes State.reset .mgmt (.panel 0) 0x024
      ∧ targetOf .mgmt (4096 * pageKey (.panel 0) + 0x540) = .page (.panel 0) 0x540 ∧ Passes State.reset .mgmt (.panel 0) 0x540
      ∧ mayWrite State.reset (.pf 0) .jobel 0x020 = false ∧ targetOf (.pf 0) (4096 * pageKey .jobel + 0x020) = .page .jobel 0x020
      ∧ Passes State.reset .mgmt (.panel 0) 0x480 ∧ nwCtrlOk (vendorDefault (.panel 0) 0x480 ||| bitOf 32) = true := by decide +kernel

theorem test_witness_absentPage : ∃ p a, targetOf .mgmt a = .page p 0x020 ∧ pageExists { State.reset with variant := .k32H } p = false :=
  ⟨.panel 47, 4096 * pageKey (.panel 47) + 0x020, by decide +kernel, by decide +kernel⟩

/-! ### Power, start, self-test and repair -/

def tPower (f : Power → Power) : State := { State.reset with power := f State.reset.power, now := 100000000 }
def tStart (f : Start → Start) : State := { State.reset with start := f State.reset.start, now := 100000000 }
def tHk (f : Housekeeping → Housekeeping) : State := { State.reset with hk := f State.reset.hk, now := 100000000 }

theorem test_witness_input :
    (tPower fun p => { p with vinMv := 40000 }).power.vinMv ≤ 40000 ∧ (40000 : Nat) < 40001 ∧ (39999 : Nat) < 40000 ∧ 40000 < State.reset.power.vinMv
      ∧ (tPower fun p => { p with above43 := some 0, hotswap := .opened, ovOpen := false }).power.above43 = some 0
      ∧ (62000 : Nat) < 62001 ∧ State.reset.power.hotswap ≠ .opened ∧ (32000 : Nat) < 32001
      ∧ State.reset.power.compute = true ∧ State.reset.start.restarting = false ∧ State.reset.start.limp = 0 ∧ State.reset.power.tripLatch = false
      ∧ State.reset.hk.stops = [] ∧ State.reset.bb.live ≠ [] ∧ State.reset.bb.lastFlushed = none ∧ 0 + 10000 ≤ (tHk id).now ∧ stepsOpen State.reset = false
      ∧ stepsOpen { tRings tRing with bolts := [(0, some (tBolt fun b => { b with steps := [{ tStep 7 with rows := [tRow] }] }))] } = true
      ∧ bit (getReg (setReg State.reset .hk 0x080 (bitOf 40)) .hk 0x080) 40 = true ∧ 0 + 30000000 ≤ (tHk id).now
      ∧ Passes State.reset .mgmt .hk 0x0D0 ∧ State.reset.start.limp ≠ 5 := by decide +kernel

/-- The governor with both rails at their minimums, above, and each duty at its floor and at 1. -/
theorem test_witness_governor :
    compActs State.reset = false ∧ State.reset.start.phase = 7
      ∧ (let b := getReg State.reset .hk 0x0B8
         let f := getReg State.reset .hk 0x0B0
         field b 7 0 ≤ State.reset.power.arrRail ∧ State.reset.power.arrRail ≤ field b 15 8 ∧ field b 23 16 ≤ State.reset.power.logRail
           ∧ State.reset.power.logRail ≤ field b 31 24 ∧ field b 7 0 < field b 15 8 ∧ field b 23 16 < field b 31 24
           ∧ (field f 14 8 < 64 ∨ 64 ≤ field f 14 8) ∧ field f 14 8 < 127 ∧ field f 22 16 < 127)
      ∧ effLimit State.reset * 1000 < effLimit State.reset * 1000 + 1 := by decide +kernel

theorem test_witness_thermal :
    (injected State.reset).length ≤ ([0, 0, 0, 0] : List Int).length ∧ ([] : List Int).length < (injected State.reset).length
      ∧ (tHk fun h => { h with plaus := false }).hk.plaus = false ∧ throttleRate State.reset < 1000000
      ∧ ({ State.reset.power with thermalLimit := 26 }).thermalLimit < 27 ∧ State.reset.hk.stopping = none
      ∧ 0 + 1000000 * field (getReg State.reset .hk 0x080) 47 44 ≤ (tHk id).now := by decide +kernel

def tFind : StartFindings :=
  { pufOk := true, cfgAOk := true, cfgBOk := true, secAOk := true, secBOk := true, vendorOk := true, spareOk0 := true, spareOk1 := true, diode := 1600 }

theorem test_witness_start :
    (tStart fun x => { x with dirty := some 0 }).start.dirty ≠ none
      ∧ (SecArea.shipped ≠ areaNow { State.reset with sec := { State.reset.sec with owner := some [7] } })
      ∧ State.reset.sec.pufOk = true ∧ State.reset.start.secB.gen < State.reset.start.secA.gen ∧ State.reset.start.secA.area = areaNow State.reset
      ∧ (let s1 := freshStart (tStart fun x => { x with phase := 0 })
         secVerifies s1 false s1.start.secA = false ∧ secVerifies s1 false s1.start.secB = false
           ∧ secVerifies s1 true s1.start.secA = true ∧ cfgVerifies s1 true s1.start.cfgA = true)
      ∧ (tStart fun x => { x with phase := 0 }).start.phase = 0 ∧ State.reset.start.fwWriting = none
      ∧ pickCopy true true 1 0 = some false ∧ pickCopy true true 0 1 = some true ∧ pickCopy false true 1 0 = some true ∧ tFind.pufOk = true
      ∧ ([(0, 1), (1, 2)] : List (Nat × Nat)).find? (fun x => x.1 == 0) = some (0, 1)
      ∧ ([(0, 1), (1, 2)] : List (Nat × Nat)).find? (fun x => x.1 == 1) = some (1, 2)
      ∧ Passes (tStart fun x => { x with phase := 9, recState := 1 }) (.pf 0) .die 0x618 ∧ bit (bitOf 32) 32 = true := by decide +kernel

/-- An image of each fault, in the order of the codes. -/
theorem test_witness_firmware :
    fwFault State.reset shippedFw = 0 ∧ fwFault State.reset { shippedFw with headerOk := false, signedByVendor := false } = 1
      ∧ fwFault State.reset { shippedFw with signedByVendor := false, svn := 0 } = 2
      ∧ fwFault (tStart fun x => { x with area := { x.area with minSvn := 2 } }) shippedFw = 3
      ∧ jobelRuns State.reset = true ∧ jobelRuns (tStart fun x => { x with phase := 10, restarting := true }) = false
      ∧ Passes State.reset .mgmt .jobel 0x080 ∧ State.reset.power.protection = []
      ∧ (∀ op ∈ [0x30, 0x31, 0x32, 0x28], fromPf State.reset (tEnt op id) = true) := by decide +kernel

def tStReq : StReq := { kind := 0, target := 0, job := none }
theorem test_witness_selfTest :
    selfTestPlan 1 1 = [(0, 0)] ∧ selfTestPlan 0 1 = [] ∧ (tEnt 0x31 id).entry.outLen < 16 * (selfTestPlan 1 1).length
      ∧ Passes State.reset .mgmt .bb 0x0C8 ∧ targetNamed 50 = false ∧ targetNamed 49 = true ∧ targetNamed 55 = true ∧ kindApplies 3 55 = true
      ∧ tStReq.target < panelsEn State.reset ∧ tStReq.kind ≤ 2 ∧ State.reset.st.queue = [] := by decide +kernel

theorem test_witness_blackBox :
    Passes State.reset .mgmt .bb 0x098 ∧ Passes State.reset .mgmt .bb 0x080 ∧ State.reset.bb.flushing = none
      ∧ (∀ b ∈ [true, false], ({ trigger := 7, slotB := b, recs := [] } : BbFlush).slotB = b)
      ∧ State.reset.bb.live.getLast?.map (fun r => r.seq) = some 0 := by decide +kernel

def tArr : ArrId := { pp := 0, tile := 0, arr := 5 }
def tSwatch (failed : Bool) (referee : Option ArrId) : Swatch :=
  { id := 4, bolt := 0, step := 7, panel := 0, tile := 0, arr := 0, number := 0, checker := tArr, mode := 0, rs := 0, tol := 4, job := tJob,
    inputs := [], lanes := if failed then [Lane.start] else [], ew := 0, failed := failed, checkLanes := [], checkEw := 0, referee := referee }
theorem test_witness_swatch :
    [tSwatch false none].find? (fun w => w.id == 4 && !w.failed) = some (tSwatch false none)
      ∧ [tSwatch true none].find? (fun w => w.id == 4 && w.failed && !w.lanes.isEmpty) = some (tSwatch true none)
      ∧ ([({ arr := tArr, panel := 0, number := 0, ready := true } : Checker)].any fun c =>
          c.ready && c.arr == tArr && c.panel == panelRel 0 (tBolt id) 0 && c.number == 0) = true
      ∧ 4 ∉ (tStep 7).swatches ∧ (getArr (modArr State.reset tArr fun a => { a with st := .programmed }) tArr).st = .programmed
      ∧ (tBolt id).phase = 4 ∧ (tSwatch true (some tArr)).referee = some tArr
      ∧ (tBolt id).lastRotate + 1000000 * (tBolt id).rotateSec ≤ 100000000 * 100000
      ∧ arrAtBoundary State.reset 0 0 0 = true ∧ [(RepairUnit.array 0 0 0, 9)].find? (fun x => x.1 == RepairUnit.array 0 0 0) = some (.array 0 0 0, 9)
      ∧ (repairPairs (tUnit 0 []) (.array 0 0 0) 9).length = 1
      ∧ repairReady (modArr (tUnit 0 []) { physArr (tUnit 0 []) 0 0 0 with arr := 9 } fun a => { a with st := .programmed, src := some (0, 0, 0) })
          (.array 0 0 0) 9 = true
      ∧ mapGet 0 State.reset.ras.unanswered (pageKey (.panel 0)) = 0 := by decide +kernel

/-! ### The package's own limits -/

theorem test_reset_safe : ThermalLimitOk State.reset ∧ LiveRingOk State.reset ∧ SignaturesOk State.reset := by
  unfold ThermalLimitOk LiveRingOk SignaturesOk; decide +kernel

/-- An empty queue is one microsecond of nothing. -/
theorem test_idle : (match step State.reset with | .next t => t.now == State.reset.now + 1 && t.pending.isEmpty | _ => false) = true := by decide +kernel

/-- No row of the table gives its command a word. -/
theorem test_decode : decodeTableWord 0 0 = none ∧ decodeTableWord 32 0xFFFFFFFF = none ∧ (State.reset.withFetchWord 32 5).pending = [] := by decide +kernel

/-! ### Ill-formed commands, one for each check -/

theorem test_wf_refuses : ∀ i ∈ ([.nop 48 0, .nop 0 16, .pleatStep 0 24 0, .pleatStep 0 0 32, .flowFlitArrive 0 256, .adapterSlotLoad 0 4096 0,
      .adapterSlotLoad 0 0 65535, .adapterSlotResident 0 64, .treeLookup 16384, .progQuarterStage { pp := 50, tile := 0, arr := 0 },
      .progRound { pp := 0, tile := 25, arr := 0 }, .progRound { pp := 0, tile := 0, arr := 34 }, .calTileRun 0 25, .eyeSample 128 0 false] : List Instr),
    i.wf = false := by decide +kernel

theorem test_wf_refuses_windows : ∀ i ∈ ([.heartbeat (.pf 2) 0, .heartbeat (.vf 0 0) 0, .heartbeat (.vf 0 256) 0, .heartbeat .mgmt 2, .mgmtReadTimeout (.host 2),
      .mgmtReadTimeout (.half 2), .mgmtReadTimeout (.kwath 16), .mgmtReadTimeout (.stack 4), .mgmtReadTimeout (.slice 0 8),
      .mgmtReadTimeout (.tenant 0 0), .arbWatchdog (.seam 0 15), .arbWatchdog (.dram 0 32), .arbWatchdog (.slice 48 0), .arbWatchdog (.kwath 16)] : List Instr),
    i.wf = false := by decide +kernel

theorem test_wf_refuses_links : ∀ i ∈ ([.flitSend 0 5, .seamParity 2 0, .seamParity 0 15, .kwLaneDown 16 0 true, .kwLaneDown 0 8 true, .fabricSend 0 64 0 0 0 64,
      .messageAck 64 0 0, .messageAck 0 4 0, .planeDown 0 16, .moduleLost 64, .bcastWait 48, .sqTail .mgmt 4096 0, .linkChange 0 16 0 false true,
      .flr 0 256, .lockInterface 0 0, .getVersion (.doe 2), .getCertificate .mctp 8, .getMeasurements .mctp 256, .hkInjected 0 [0, 0, 0, 0, 0],
      .registerWrite .mgmt 0 2 0, .islandAlign (.dram 4) true, .islandAlign (.kwath 16) true, .islandAlign (.pcie 2) true] : List Instr),
    i.wf = false := by decide +kernel

/-- The gauges of an accepted array: four full windows. -/
def tGauges (k n : Nat) : List GaugeSum := List.replicate k { n := n, ex := 0, sum := 0, sq := 0 }

theorem test_wf_refuses_measurements : ∀ i ∈ ([.progComplete { pp := 0, tile := 0, arr := 0 } (tGauges 3 4096),
      .progComplete { pp := 0, tile := 0, arr := 0 } (tGauges 4 4095), .calFitDone 0 0 [{ arr := 34, gauges := tGauges 4 256, countErr := 0, trn := none }],
      .loadChunk 0 0 { src := some (64, []), box := tChunk [] [] }, .loadChunk 0 0 { src := some (3, [64]), box := tChunk [] [] }] : List Instr),
    i.wf = false := by decide +kernel

/-- The same commands at the last number that their ranges hold. -/
theorem test_wf_accepts : ∀ i ∈ ([.nop 47 15, .pleatStep 47 23 31, .flowFlitArrive 47 255, .adapterSlotLoad 47 4095 65534, .treeLookup 16383,
      .progRound { pp := 49, tile := 24, arr := 33 }, .calTileRun 47 24, .heartbeat (.vf 1 255) 1, .mgmtReadTimeout (.slice 47 7), .arbWatchdog (.seam 1 14),
      .progComplete { pp := 49, tile := 24, arr := 33 } (tGauges 4 4096), .loadChunk 47 0 { src := some (63, [63]), box := tChunk [] [] },
      .flitSend 47 4, .fabricSend 47 63 47 255 0 64, .sqTail .mgmt 4095 65535, .getCertificate (.doe 1) 7, .islandAlign (.kwath 15) true] : List Instr),
    i.wf = true := by decide +kernel

end Sys2Proof.Tests
end

/-! SUPPORT. What issue leaves, and bytes that a write of panel SRAM puts down where no line's tag refuses it (R240, R413). -/

namespace Sys2Proof.Machine

variable {s t u : State}

/-! ### Panels under a change of contexts -/

/-- A change of a context leaves its panel but for the contexts. -/
@[simp] theorem getPanel_modCtx {p c : Nat} {f : Ctx → Ctx} :
    getPanel (modCtx s p c f) p =
      { getPanel s p with ctxs := modWhere (fun x : Ctx => x.slot == c) f (getPanel s p).ctxs } :=
  getPanel_modPanel

/-- Issuing leaves every other panel. -/
theorem getPanel_issued_ne {p c op q : Nat} (h : p ≠ q) : getPanel (issued s p c op) q = getPanel s q := by
  unfold issued modCtx
  rw [getPanel_modPanel_ne h]
  cases opQueue p op <;> rfl

/-- Issuing changes no header, register, bolt or job. -/
theorem issued_fields (s : State) (p c op : Nat) :
    (issued s p c op).hdrs = s.hdrs ∧ (issued s p c op).regs = s.regs ∧ (issued s p c op).bolts = s.bolts
    ∧ (issued s p c op).jobs = s.jobs := by
  unfold issued
  cases opQueue p op <;> exact ⟨rfl, rfl, rfl, rfl⟩

/-! ### What changes registers of contexts alone -/

/-- Panel SRAM, headers, registers, bolts and jobs are as they were. -/
def KeepsStores (s t : State) : Prop :=
  (∀ q, (getPanel t q).sram = (getPanel s q).sram) ∧ t.hdrs = s.hdrs ∧ t.regs = s.regs ∧ t.bolts = s.bolts ∧ t.jobs = s.jobs

theorem KeepsStores.trans (h : KeepsStores s t) (k : KeepsStores t u) : KeepsStores s u := by
  obtain ⟨h0, h1, h2, h3, h4⟩ := h
  obtain ⟨k0, k1, k2, k3, k4⟩ := k
  exact ⟨fun q => (k0 q).trans (h0 q), k1.trans h1, k2.trans h2, k3.trans h3, k4.trans h4⟩

/-- A changed context stores nothing. -/
theorem modCtx_keepsStores {p c : Nat} {f : Ctx → Ctx} : KeepsStores s (modCtx s p c f) := by
  refine ⟨fun q => ?_, rfl, rfl, rfl, rfl⟩
  by_cases h : p = q
  · subst h; rw [getPanel_modCtx]
  · unfold modCtx; rw [getPanel_modPanel_ne h]

/-- Issuing stores nothing. -/
theorem issued_keepsStores {p c op : Nat} : KeepsStores s (issued s p c op) := by
  refine ⟨fun q => ?_, issued_fields s p c op⟩
  by_cases h : p = q
  · subst h
    obtain ⟨cs, e⟩ := issued_getPanel s p c op
    rw [e]
  · rw [getPanel_issued_ne h]

/-- The rows 0x00 to 0x08 issue, and their own rules write at most one register of their context (R246). -/
theorem scalarRow_issues {p c op : Nat} {i : Instr} (hop : op ≤ 0x08) (hi : rowOfOpcode p c op = some i) :
    ∃ body : State → Site → Word → Eff, (∀ s, exec i s = .next (issue s p c op body))
      ∧ ∀ u h w, body u h w = .done u ∨ ∃ n v, body u h w = .done (setReg64 u h n v) := by
  interval_cases op <;> cases hi
  · exact ⟨_, fun _ => rfl, fun _ _ _ => .inl rfl⟩
  all_goals exact ⟨_, fun _ => rfl, fun _ _ _ => .inr ⟨_, _, rfl⟩⟩

/-- A ready instruction that writes registers alone stores nothing (R246). -/
theorem scalarRow_keepsStores {p c op : Nat} {i : Instr} {h : Site} {w : Word} (hop : op ≤ 0x08) (hi : rowOfOpcode p c op = some i)
    (r : Ready s p c op h w) (ht : exec i s = .next t) : KeepsStores s t := by
  obtain ⟨body, hexec, hbody⟩ := scalarRow_issues hop hi
  rw [hexec, issue_ready r] at ht
  rcases hbody (issued s p c op) h w with e | ⟨n, v, e⟩ <;> rw [e] at ht <;> cases ht
  · exact issued_keepsStores
  · exact issued_keepsStores.trans modCtx_keepsStores

/-! ### Bytes written to panel SRAM -/

/-- The line of a byte of a range is one of the range's lines. -/
theorem line_mem_linesOf {a i n : Nat} (h : i < n) : (a + i) / 64 ∈ linesOf a n := by
  unfold linesOf
  rw [if_neg (by omega)]
  simp only [List.mem_map, List.mem_range]
  exact ⟨(a + i) / 64 - a / 64, by omega, by omega⟩

/-- Bytes put down one by one, none of them refused, are a write of the bytes. -/
theorem foldl_memSetByte_eq_memWrite {refused : Nat → Bool} {a k : Nat} {bs : List Byte} {m : Mem}
    (h : ∀ i, i < bs.length → refused (k + i) = false) :
    (bs.zipIdx k).foldl (fun m (x : Byte × Nat) => if refused x.2 then m else memSetByte m (a + x.2) x.1) m = memWrite m (a + k) bs := by
  induction bs generalizing k m with
  | nil => rfl
  | cons b bs ih =>
    have h0 : refused k = false := h 0 (by simp)
    have hs : ∀ i, i < bs.length → refused (k + 1 + i) = false := fun i hi => by
      have := h (i + 1) (by simpa using hi)
      rwa [show k + (i + 1) = k + 1 + i by omega] at this
    simp only [List.zipIdx_cons, List.foldl_cons, h0, Bool.false_eq_true, if_false, memWrite]
    exact ih hs

/-- A write that meets no violating line puts down all its bytes (R413). -/
theorem sramPut_sram {q : Panel} {x : SramCtx} {a : Nat} {bs : List Byte} (h : sramViolates q x a bs.length = false) :
    (sramPut q x a bs).sram = memWrite q.sram a bs := by
  refine foldl_memSetByte_eq_memWrite (refused := fun i => tagCheck x (mapGet 0 q.tags ((a + i) / 64)) == .violation) (k := 0) ?_
  intro i hi
  rw [Nat.zero_add]
  simpa using List.any_eq_false.mp h _ (line_mem_linesOf hi)

/-- So does a write in pieces, whatever their marks. -/
theorem sramWrite_sram {q : Panel} {x : SramCtx} {a : Nat} {pieces : List (List Byte × LineMark)}
    (h : sramViolates q x a (pieces.flatMap Prod.fst).length = false) :
    (sramWrite q x a pieces).sram = memWrite q.sram a (pieces.flatMap Prod.fst) :=
  sramPut_sram h

/-- A bolt-level write of an instruction that meets no violating line changes its panel's SRAM and nothing else (R413). -/
theorem writeSram_allowed {h : Site} {a : Nat} {pieces : List (List Byte × LineMark)}
    (hv : sramViolates (getPanel s h.p) h.ctx a (pieces.flatMap Prod.fst).length = false) :
    writeSram s h none a pieces = modPanel s h.p fun q => sramWrite q h.ctx a pieces := by
  simp only [writeSram, hv, Bool.false_eq_true, if_false]

/-! ### LD and ST -/

/-- The address of an LD or ST and its two faults (R246). -/
theorem ldstAddr_eq {h : Site} {w : Word} {a : Nat} (ha : (gReg h.x (g47 w) + (w.setWidth 32).signExtend 64).toNat = a) :
    ldstAddr h w = if a % 8 ≠ 0 then .error 0x03 else if 0x1000000 ≤ a then .error 0x04 else .ok a := by
  subst ha; rfl

/-- LD of a ready context (R246). -/
theorem execLd_ready {p c a : Nat} {h : Site} {w : Word} (r : Ready s p c 0x09 h w)
    (ha : (gReg h.x (g47 w) + (w.setWidth 32).signExtend 64).toNat = a) :
    execLd p c s = .next
      (if a % 8 ≠ 0 then patternFault s p c 0x03 h.x.pc.toNat 0x09
       else if 0x1000000 ≤ a then patternFault s p c 0x04 h.x.pc.toNat 0x09
       else
         let r := readSram (issued s p c 0x09) h none a 8
         modCtx r.1 p c fun x =>
           { x with loads := x.loads ++ [(g51 w, BitVec.ofNat 64 (leNat r.2.bytes), r.2.mark.poison && !r.2.violation)] }) := by
  unfold execLd
  rw [issue_ready r, ldstAddr_eq ha]
  split_ifs <;> rfl

/-- ST of a ready context (R246). -/
theorem execSt_ready {p c a : Nat} {h : Site} {w : Word} (r : Ready s p c 0x0A h w)
    (ha : (gReg h.x (g47 w) + (w.setWidth 32).signExtend 64).toNat = a) :
    execSt p c s = .next
      (if a % 8 ≠ 0 then patternFault s p c 0x03 h.x.pc.toNat 0x0A
       else if 0x1000000 ≤ a then patternFault s p c 0x04 h.x.pc.toNat 0x0A
       else writeSram (issued s p c 0x0A) h none a [(natLe 8 (gReg h.x (g43 w)).toNat, LineMark.clean)]) := by
  unfold execSt
  rw [issue_ready r, ldstAddr_eq ha]
  split_ifs <;> rfl

/-- An issued write that no line's tag refuses puts its bytes into the SRAM of its panel (R413). -/
theorem writeSram_issued {p c op a : Nat} {h : Site} {bs : List Byte} (hp : h.p = p)
    (hv : sramViolates (getPanel s p) h.ctx a bs.length = false) :
    ∃ f : Panel → Panel, writeSram (issued s p c op) h none a [(bs, LineMark.clean)] = modPanel (issued s p c op) p f
      ∧ (f (getPanel (issued s p c op) p)).sram = memWrite (getPanel s p).sram a bs := by
  subst hp
  obtain ⟨cs, e⟩ := issued_getPanel s h.p c op
  have hb : [(bs, LineMark.clean)].flatMap Prod.fst = bs := by simp
  refine ⟨_, writeSram_allowed ?_, ?_⟩
  · rw [hb, e]; exact hv
  · rw [sramWrite_sram, hb, e]
    rw [hb, e]; exact hv

/-- Settles O5: the rows' equations for a ready context give each access, and the laws of a memory write give its bytes. -/
theorem loadsAndStoresOfAContext : Obligations.LoadsAndStoresOfAContext := by
  unfold Obligations.LoadsAndStoresOfAContext
  refine ⟨fun s p c h w => ⟨fun r => execLd_ready r rfl, fun r => execSt_ready r rfl, fun r v bad rest hs hl => ?_⟩,
    fun s p c h w => ⟨fun r h8 hlt hv => ?_, ?_⟩⟩
  · change execLdResult p c s = _
    simp only [execLdResult, hs, hl]
  · rw [← natLe_length 8 (gReg h.x (g43 w)).toNat] at hv
    obtain ⟨f, hwrite, hsram⟩ := writeSram_issued (c := c) (op := 0x0A) (siteOf_spec r.1).1 hv
    obtain ⟨hh, hr, hb, hj⟩ := issued_fields s p c 0x0A
    refine ⟨modPanel (issued s p c 0x0A) p f, (execSt_ready r rfl).trans (congrArg _ ?_), ?_, fun x hx => ?_,
      fun q hq => ?_, hh, hr, hb, hj⟩
    · rw [if_neg (not_not.mpr h8), if_neg (Nat.not_le.mpr hlt)]; exact hwrite
    · rw [getPanel_modPanel, hsram]
      simpa only [natLe_length] using memBytes_memWrite (m := (getPanel s p).sram) (bs := natLe 8 (gReg h.x (g43 w)).toNat)
    · rw [getPanel_modPanel, hsram]
      exact memByte_memWrite_out (by rwa [natLe_length])
    · rw [getPanel_modPanel_ne (Ne.symm hq), getPanel_issued_ne (Ne.symm hq)]
  · intro op i t hop hi r ht
    obtain ⟨hm, hf⟩ := scalarRow_keepsStores hop hi r ht
    exact ⟨fun q x => by rw [hm], hf⟩

end Sys2Proof.Machine

/-! SUPPORT. Which bits, headers and records an event bit's setting changes, and clearing beside setting (R14, R432). -/

namespace Sys2Proof.Machine

variable {s : State}

/-! ### Setting event bits -/

/-- An interrupt leaves the black box. -/
theorem sendMsix_bb {p fn v : Nat} : (sendMsix s p fn v).bb = s.bb := by
  unfold sendMsix; dsimp only; split_ifs <;> simp

theorem notify_bb {p : PageId} : (notify s p).bb = s.bb := by
  have one : ∀ (s : State) (k : Nat), (notifyPort s p k).bb = s.bb := by
    intro s k; unfold notifyPort; dsimp only; split_ifs <;> simp [sendMsix_bb]
  unfold notify; split
  · dsimp only; split_ifs <;> simp [sendMsix_bb]
  · rw [one, one]

/-- A header with an event bit set by the hardware or by a forced write. -/
def Hdr.withEvt (n : Nat) (forced : Bool) (h : Hdr) : Hdr :=
  { h with
    evt := h.evt ||| bitOf n
    forced := if forced then (if bit h.evt n then h.forced else h.forced ||| bitOf n) else h.forced &&& ~~~bitOf n }

/-- Setting a bit changes the page's header as said, whatever interrupt follows. -/
theorem setEvt_hdrs {p : PageId} {n : Nat} {f : Bool} : (setEvt s p n f).hdrs = (modHdr s p (Hdr.withEvt n f)).hdrs := by
  unfold setEvt; dsimp only; split
  · exact notify_hdrs
  · rfl

theorem setEvt_bb {p : PageId} {n : Nat} {f : Bool} : (setEvt s p n f).bb = s.bb := by
  unfold setEvt; dsimp only; split
  · exact notify_bb
  · rfl

theorem getHdr_setEvt {p : PageId} {n : Nat} {f : Bool} : getHdr (setEvt s p n f) p = (getHdr s p).withEvt n f := by
  rw [getHdr_of_hdrs setEvt_hdrs, getHdr_modHdr]

theorem getHdr_setEvt_ne {p q : PageId} {n : Nat} {f : Bool} (h : pageKey p ≠ pageKey q) : getHdr (setEvt s p n f) q = getHdr s q := by
  rw [getHdr_of_hdrs setEvt_hdrs, getHdr_modHdr_ne h]

/-- One bit of a word set or left, then the others. -/
theorem setEvts_cons {p : PageId} {f : Bool} {n : Nat} {ns : List Nat} {w : Word} :
    setEvts s p f (n :: ns) w = setEvts (if bit w n then setEvt s p n f else s) p f ns w := rfl

/-- Setting bits writes no black-box record. -/
theorem setEvts_bb {p : PageId} {f : Bool} {ns : List Nat} {w : Word} : (setEvts s p f ns w).bb = s.bb := by
  induction ns generalizing s with
  | nil => rfl
  | cons n ns ih =>
    rw [setEvts_cons, ih]; split
    · exact setEvt_bb
    · rfl

/-- Setting bits leaves the page's error capture. -/
theorem setEvts_capture {p : PageId} {f : Bool} {ns : List Nat} {w : Word} :
    (getHdr (setEvts s p f ns w) p).capture = (getHdr s p).capture := by
  induction ns generalizing s with
  | nil => rfl
  | cons n ns ih =>
    rw [setEvts_cons, ih]; split
    · rw [getHdr_setEvt]; rfl
    · rfl

/-- Setting bits of a page leaves every other page's header. -/
theorem getHdr_setEvts_ne {p q : PageId} {f : Bool} {ns : List Nat} {w : Word} (h : pageKey p ≠ pageKey q) :
    getHdr (setEvts s p f ns w) q = getHdr s q := by
  induction ns generalizing s with
  | nil => rfl
  | cons n ns ih =>
    rw [setEvts_cons, ih]; split
    · exact getHdr_setEvt_ne h
    · rfl

/-- A bit after some bits of a word are set: as it was, or set by the word (R14, R432). -/
theorem setEvts_evt {p : PageId} {f : Bool} {ns : List Nat} {w : Word} {i : Nat} (hn : ∀ n ∈ ns, n < 64) :
    bit (getHdr (setEvts s p f ns w) p).evt i = (bit (getHdr s p).evt i || decide (i ∈ ns) && bit w i) := by
  induction ns generalizing s with
  | nil => simp [setEvts]
  | cons n ns ih =>
    obtain ⟨h0, hs⟩ := List.forall_mem_cons.mp hn
    rw [setEvts_cons, ih hs]
    by_cases hw : bit w n = true
    · have e : bit (getHdr (setEvt s p n f) p).evt i = (bit (getHdr s p).evt i || decide (i = n)) := by
        rw [getHdr_setEvt, ← bit_bitOf h0, ← bit_or]; rfl
      rw [if_pos hw, e]
      by_cases hi : i = n
      · subst hi; simp [hw]
      · simp [hi]
    · rw [if_neg hw]
      by_cases hi : i = n
      · subst hi; simp [hw]
      · simp [hi]

/-- Setting the bits of an empty word changes nothing. -/
theorem setEvts_zero {p : PageId} {f : Bool} {ns : List Nat} : setEvts s p f ns 0 = s := by
  induction ns with
  | nil => rfl
  | cons n ns ih => rw [setEvts_cons, if_neg (by simp [bit])]; exact ih

/-! ### EVT_STATUS_CLEAR -/

theorem bit_and {a b : Word} {n : Nat} : bit (a &&& b) n = (bit a n && bit b n) := by simp [bit]

/-- The bit of a cleared header, then set: a bit set at the moment of its clear ends set (R14). -/
theorem bit_clear_set {e v r : Word} {i : Nat} (hi : i < 64) :
    (bit (e &&& ~~~(v &&& ~~~r)) i || bit r i) = (bit e i && !bit v i || bit r i) := by
  simp only [bit, BitVec.getLsbD_and, BitVec.getLsbD_not, hi, decide_true, Bool.true_and]
  cases e.getLsbD i <;> cases v.getLsbD i <;> cases r.getLsbD i <;> rfl

/-- EVT_STATUS_CLEAR on a page that is there (R14). -/
theorem execEvtStatusClear_there {w : Window} {p : PageId} {value raisedNow : Word} (h : pageExists s p = true) :
    execEvtStatusClear w p value raisedNow s = .next (setEvts (gated s w p 0x018 value.toNat fun s =>
      clearEvts s p (value &&& ~~~(raisedNow &&& definedEvents p))) p false (List.range 64) (raisedNow &&& definedEvents p)) := by
  simp only [execEvtStatusClear, h, if_true]

/-- EVT_STATUS_CLEAR that passes the gate clears its ones but those set at that moment, and sets these (R14). -/
theorem execEvtStatusClear_passes {w : Window} {p : PageId} {value raisedNow : Word} (h : Passes s w p 0x018) :
    execEvtStatusClear w p value raisedNow s = .next (setEvts (clearEvts s p (value &&& ~~~(raisedNow &&& definedEvents p))) p false
      (List.range 64) (raisedNow &&& definedEvents p)) := by
  rw [execEvtStatusClear_there h.1, gated_of_passes h]

/-- Settles O49: past the gate the clear and the set meet bit by bit; short of it, the gate's own answer stands before the set. -/
theorem clearsNeverLoseAnEvent : Obligations.ClearsNeverLoseAnEvent := by
  unfold Obligations.ClearsNeverLoseAnEvent
  intro s w p value raisedNow r
  refine ⟨fun h => ⟨execEvtStatusClear_passes h, fun hr => ?_⟩, fun h => ?_, fun h => ?_, fun h hw => ?_, fun h hw hp hm => ?_⟩
  · have hr' : raisedNow &&& definedEvents p = 0 := hr
    refine (execEvtStatusClear_passes h).trans ?_
    have hkeep : value &&& ~~~(0 : Word) = value := BitVec.and_allOnes
    rw [hr', setEvts_zero, hkeep]; rfl
  · have hf := (setEvts_only (s := clearEvts s p (value &&& ~~~r)) (p := p) (f := false) (w := r) (ns := List.range 64)).fields
    obtain ⟨-, -, -, -, -, -, hregs, hcounters, -, -, -, -, -, -, -, hjobs, -, -, -, hsessions, -, -, hbolts, hpanels, -⟩ := hf
    refine ⟨_, execEvtStatusClear_passes h, fun i hi => ?_, fun q hq => ?_, ?_, ?_, hcounters, hregs, hpanels, hbolts, hjobs, hsessions⟩
    · rw [setEvts_evt (fun n hn => List.mem_range.mp hn)]
      simp only [List.mem_range, hi, decide_true, Bool.true_and, clearEvts, getHdr_modHdr, bit_clear_set hi]
      rw [bit_and]
    · rw [getHdr_setEvts_ne (Ne.symm hq)]; exact getHdr_modHdr_ne (Ne.symm hq)
    · rw [setEvts_capture, clearEvts, getHdr_modHdr]
    · rw [setEvts_bb, clearEvts]; simp
  · change execEvtStatusClear w p value raisedNow s = _
    simp only [execEvtStatusClear, h, Bool.false_eq_true, if_false, setEvts_zero, gated_of_absent (.inl h)]
  · refine (execEvtStatusClear_there h).trans ?_
    rw [gated_of_absent (.inr hw)]
  · refine (execEvtStatusClear_there h).trans ?_
    rw [gated_of_refused h hw hp hm]

end Sys2Proof.Machine

/-! SUPPORT. The register table after a write, and what an access by address comes to (R11, R13, R429, R433). -/

namespace Sys2Proof.Machine

variable {s : State} {w : Window} {p : PageId} {addr size off : Nat} {value : Word}

/-! ### The register table -/

/-- Another register is read as it was. -/
theorem getReg_setReg_ne {q : PageId} {o : Nat} {v : Word} (h : regKey q o ≠ regKey p off) :
    getReg (setReg s p off v) q o = getReg s q o := by
  simp only [getReg, setReg, mapSet]
  split_ifs
  · exact mapGet_mapDel_ne (Ne.symm h)
  · rw [mapGet_mapPut, if_neg (Ne.symm h)]

/-- A stored register that keeps its ranges takes its writable bits (R13). -/
theorem writeStored_kept {acc raw : Nat} {m v : Word} (hk : isKept p off = true)
    (hok : rwOk s p off (((getReg s p off &&& ~~~m) ||| v) &&& rwMask p off) = true) :
    writeStored s w p off acc m v raw = markDirty (setReg s p off (((getReg s p off &&& ~~~m) ||| v) &&& rwMask p off)) := by
  simp only [writeStored, hok, hk, Bool.not_true, Bool.false_eq_true, if_false, if_true]

/-- A stored register outside its ranges is left, and its page records the write with code 2 (R13, R433). -/
theorem writeStored_outside {acc raw : Nat} {m v : Word}
    (hok : rwOk s p off (((getReg s p off &&& ~~~m) ||| v) &&& rwMask p off) = false) :
    writeStored s w p off acc m v raw = capture s p 2 (winCode w) acc (raw % 2 ^ 32) := by
  simp only [writeStored, hok, Bool.not_false, if_true]

/-- EVT_ENABLE of every page is a stored register (R432). -/
theorem writeReg_evtEnable {acc raw : Nat} {m v : Word} : writeReg s w p 0x020 acc m v raw = writeStored s w p 0x020 acc m v raw := by
  cases p <;> rfl

/-- The credit-wait limit of a panel is stored from 1 to 1,000, and any other is recorded (R37, R433). -/
theorem writeReg_panelLimit {i acc raw : Nat} {m v x : Word} (hx : ((getReg s (.panel i) 0x540 &&& ~~~m) ||| v) &&& 0x3FF = x) :
    writeReg s w (.panel i) 0x540 acc m v raw =
      if 1 ≤ field x 9 0 ∧ field x 9 0 ≤ 1000 then markDirty (setReg s (.panel i) 0x540 x)
      else capture s (.panel i) 2 (winCode w) acc (raw % 2 ^ 32) := by
  subst hx
  split_ifs with hr
  · exact writeStored_kept rfl (decide_eq_true hr)
  · exact writeStored_outside (decide_eq_false hr)

/-! ### Accesses by address -/

/-- The aligned accesses of R11. -/
theorem sizeOk_iff : sizeOk addr size = true ↔ size = 8 ∧ addr % 8 = 0 ∨ size = 4 ∧ addr % 4 = 0 := by simp [sizeOk]

/-- A write of no aligned form is a bad access (R11). -/
theorem execRegisterWrite_unsized (h : sizeOk addr size = false) :
    execRegisterWrite w addr size value s = .next (badAccess s w addr true value) := by
  simp only [execRegisterWrite, h, Bool.not_false, if_true]

/-- An access of no aligned form (R11). -/
theorem execAccessSizeError_unsized {write : Bool} (h : sizeOk addr size = false) :
    execAccessSizeError w addr size write value s = .next (badAccess s w addr write value) := by
  simp only [execAccessSizeError, h, Bool.false_eq_true, if_false]

/-- A bad write is its record. -/
theorem badAccess_write : badAccess s w addr true value = sizeRecord s w addr value.toNat := rfl

/-- A bad read is its record, and returns all ones (R11). -/
theorem badAccess_read : badAccess s w addr false value = { sizeRecord s w addr 0 with lastRead := BitVec.allOnes 64 } := rfl

/-- The page that is accessed records a bad size with code 1 (R11, R433). -/
theorem sizeRecord_page {raw : Nat} (hw : windowOn s w = true) (ht : targetOf w addr = .page p off) (he : pageExists s p = true)
    (hp : pagePowered s p = true) : sizeRecord s w addr raw = capture s p 1 (winCode w) off (raw % 2 ^ 32) := by
  simp only [sizeRecord, hw, ht, he, hp, Bool.not_true, Bool.false_eq_true, if_false, if_true]

/-- The host port page records a bad size on a ring page (R437). -/
theorem sizeRecord_ring {raw n port ring : Nat} (hw : windowOn s w = true) (ht : targetOf w addr = .ring n off)
    (hr : pageRing s w n = some (port, ring)) : sizeRecord s w addr raw = capture s (.host port) 1 (winCode w) off ring := by
  simp only [sizeRecord, hw, ht, hr, Bool.not_true, Bool.false_eq_true, if_false, ringDrop]

/-- An aligned write of a page's register meets the gate (R11, R433). -/
theorem execRegisterWrite_page (h : sizeOk addr size = true) (hw : windowOn s w = true) (ht : targetOf w addr = .page p off) :
    execRegisterWrite w addr size value s = .next (gated s w p off value.toNat fun s =>
      writeReg s w p (off / 8 * 8) off (accessMask addr size) (accessValue addr size value) value.toNat) := by
  simp only [execRegisterWrite, h, hw, ht, Bool.not_true, Bool.false_eq_true, if_false]

/-- Past the gate it acts on the register's addressed bits. -/
theorem execRegisterWrite_passes (h : sizeOk addr size = true) (hw : windowOn s w = true) (ht : targetOf w addr = .page p off)
    (hp : Passes s w p off) : execRegisterWrite w addr size value s =
      .next (writeReg s w p (off / 8 * 8) off (accessMask addr size) (accessValue addr size value) value.toNat) := by
  rw [execRegisterWrite_page h hw ht, gated_of_passes hp]

/-- An aligned read of a page's register returns the register or its half (R11). -/
theorem readAt_page (h : sizeOk addr size = true) (ht : targetOf w addr = .page p off) :
    readAt s w addr size = accessPart addr size (readReg s w p (off / 8 * 8)) := by
  simp only [readAt, h, ht, Bool.not_true, Bool.false_eq_true, if_false]

/-- NW_CTRL with RESET_EST and in its ranges is stored, and every estimate of the panel goes (R108, R109). -/
theorem execResetEst_passes {i : Nat} {u : Word} (hp : Passes s w (.panel i) 0x480) (hok : nwCtrlOk (u ||| bitOf 32) = true) :
    execResetEst w i u s = .next (modPanel (markDirty (setReg s (.panel i) 0x480 ((u ||| bitOf 32) &&& 0xFF0FFF1F))) i
      fun q => { q with est := [] }) := by
  have hb : bit (u ||| bitOf 32) 32 = true := by rw [bit_or, bit_bitOf (by decide)]; simp
  simp only [execResetEst, writeNwCtrl, gated_of_passes hp, hok, hb, Bool.not_true, Bool.false_eq_true, if_false, if_true]

/-- RESET_EST is no bit that NW_CTRL stores (R109). -/
theorem nwCtrl_stores_no_resetEst {u : Word} : (u ||| bitOf 32) &&& 0xFF0FFF1F = u &&& 0xFF0FFF1F := by
  rw [BitVec.and_or_distrib_right]
  simp [bitOf]

/-- Settles O52: the size check and the gate give each refusal, and the register's own write each effect. -/
theorem registerAccessesAct : Obligations.RegisterAccessesAct := by
  unfold Obligations.RegisterAccessesAct
  refine ⟨fun s w addr size value hsz => ?_, fun s w p addr size off value hsz hw ht => ?_⟩
  · have hs : sizeOk addr size = false := by rwa [← Bool.not_eq_true, sizeOk_iff]
    have hwrite : exec (.registerWrite w addr size value) s = _ := execRegisterWrite_unsized hs
    have hbad : ∀ b, exec (.accessSizeError w addr size b value) s = _ := fun b => execAccessSizeError_unsized hs
    refine ⟨fun p off hw ht he hp => ?_, fun n off port ring hw ht hr => ?_, _, hbad false, rfl⟩
    · rw [hwrite, hbad, hbad, badAccess_write, badAccess_read, sizeRecord_page hw ht he hp, sizeRecord_page hw ht he hp]
      exact ⟨rfl, rfl, rfl⟩
    · rw [hwrite, hbad, badAccess_write, sizeRecord_ring hw ht hr]
      exact ⟨rfl, rfl⟩
  · have hs := sizeOk_iff.mpr hsz
    have hgate : exec (.registerWrite w addr size value) s = _ := execRegisterWrite_page hs hw ht
    refine ⟨execRegisterWrite_passes hs hw ht, readAt_page hs ht, fun he hp hm => ?_, fun he => ?_, fun hp ho => ?_, fun i hi ho hp => ?_,
      fun i u hp hok => ?_⟩
    · rw [hgate, gated_of_refused he hw hp hm]
    · rw [hgate, gated_of_absent (.inl he)]
    · rw [hgate, gated_of_passes hp, ho, writeReg_evtEnable, writeStored_kept rfl rfl]
      exact ⟨_, rfl, getReg_setReg, fun q o hq => getReg_setReg_ne hq, rfl, rfl, rfl, rfl, rfl⟩
    · subst hi
      rw [hgate, gated_of_passes hp, ho]
      exact congrArg _ (writeReg_panelLimit rfl)
    · refine ⟨_, execResetEst_passes hp hok, ?_, ?_, rfl, rfl, rfl⟩
      · rw [getPanel_modPanel]
      · exact getReg_setReg.trans nwCtrl_stores_no_resetEst

end Sys2Proof.Machine

/-! SUPPORT. The state that a first start leaves. -/

namespace Sys2Proof.Machine

/-- Settles O60: the tables of a first start are empty, so each entry reads as its start value. -/
theorem resetIsAFirstStart : Obligations.ResetIsAFirstStart := by
  unfold Obligations.ResetIsAFirstStart
  have hlimit : ThermalLimitOk State.reset := by unfold ThermalLimitOk; decide
  have hring : LiveRingOk State.reset := by unfold LiveRingOk; decide
  have hsigs : SignaturesOk State.reset := by unfold SignaturesOk; decide
  exact ⟨hlimit, hring, hsigs, rfl, rfl, rfl, rfl, rfl, rfl, rfl, rfl, rfl, rfl, fun _ _ => rfl, fun _ => ⟨rfl, rfl⟩, fun _ _ _ => rfl⟩

end Sys2Proof.Machine

/-! SUPPORT. When a rank reports its part of a step, and when a step seals (R242, R370). -/

namespace Sys2Proof.Machine

/-! ### A rank's report -/

/-- Another rank reports its own sealed part of a step to rank 0 (R370). -/
def tellRankZero (s : State) (nw : Nat) (step : Word) : State :=
  match addrOfRank s 0 with | some a => sendMsg s (halfOf nw) a 1 (natLe 1 2 ++ natLe 8 step.toNat) | none => s

section

variable {s : State} {nw rank : Nat} {step : Word} {b : Bolt} {t : Step}

variable (hb : getBolt s nw = some b) (ht : findStep b step = some t) (hu : t.sealed = false)

include hb ht

/-- A step whose part is not sealed, or one that a recall covers, does not seal. -/
theorem execSealed_waits (h : t.partSealed = false ∨ recalled b t = true) : execSealed nw step s = .next s := by
  rcases h with h | h <;> simp only [execSealed, hb, ht, h, Bool.not_false, Bool.or_true, Bool.true_or, if_true]

include hu

/-- A rank whose part is ready seals it, and tells rank 0 if it is another (R242, R370). -/
theorem execRankSealReport_ready (hr : rank = b.rank) (hp : t.partSealed = false) (hready : partReady nw b t = true) :
    execRankSealReport nw rank step s = .next
      (let s1 := modStep s nw step fun t => { t with partSealed := true, ranks := t.ranks ++ [rank] }
       if b.rank = 0 then s1 else tellRankZero s1 nw step) := by
  subst hr
  simp only [execRankSealReport, hb, ht, hu, hp, hready, Bool.not_true, Bool.or_self, Bool.false_eq_true, if_false, if_true]
  rfl

/-- A rank whose part is not ready reports nothing. -/
theorem execRankSealReport_unready (hr : rank = b.rank) (hready : partReady nw b t = false) :
    execRankSealReport nw rank step s = .next s := by
  simp only [execRankSealReport, hb, ht, hu, hr, hready, Bool.not_false, Bool.or_true, Bool.false_eq_true, if_false, if_true]

/-- Rank 0 notes the first report of each other rank of the bolt. -/
theorem execRankSealReport_other (hr : rank ≠ b.rank) (h0 : b.rank = 0) (hlt : rank < b.ranks) (hnew : rank ∉ t.ranks) :
    execRankSealReport nw rank step s = .next (modStep s nw step fun t => { t with ranks := t.ranks ++ [rank] }) := by
  have hc : t.ranks.contains rank = false := by simpa using hnew
  simp only [execRankSealReport, hb, ht, hu, if_neg hr, if_pos (And.intro h0 (And.intro hlt hc)), Bool.false_eq_true, if_false]

/-! ### The seal of a step -/

/-- A step that no earlier unsealed one precedes, that every rank has reported to rank 0, and that no recall covers, seals; rank 0 tells
the others (R30, R370). -/
theorem execSealed_seals (hp : t.partSealed = true) (hrec : recalled b t = false)
    (hfirst : ∀ x ∈ b.steps, x.sealed = true ∨ t.seq ≤ x.seq ∨ x.kind = 3 ∨ t.kind = 3)
    (hall : b.rank = 0 → ∀ r, r < max 1 b.ranks → r ∈ t.ranks) :
    execSealed nw step s = .next (sealStep (if b.rank = 0 then tellRanks s nw b 3 step else s) nw b t) := by
  have h1 : (b.steps.all fun x => x.sealed || decide (t.seq ≤ x.seq) || x.kind == 3 || t.kind == 3) = true := by
    simpa [List.all_eq_true, or_assoc] using hfirst
  have h2 : (if b.rank = 0 then (List.range (max 1 b.ranks)).all fun r => t.ranks.contains r else t.partSealed) = true := by
    split
    case isTrue h0 => simpa [List.all_eq_true] using hall h0
    case isFalse => exact hp
  simp only [execSealed, hb, ht, hu, hp, hrec] at h1 h2 ⊢
  rw [h1, h2]
  rfl

end

/-- Settles O20: the report's three cases by the reporting rank, and the seal by the four conditions that the row asks for. -/
theorem stepsSealInOrder : Obligations.StepsSealInOrder := by
  unfold Obligations.StepsSealInOrder
  refine ⟨fun s nw rank step b t hb ht hu => ⟨fun hr h0 hp hready => ?_, fun hr h0 hp hready => ?_, fun hr hready => ?_,
    fun hr h0 hlt hnew => ?_⟩, fun s nw step b t hb ht hu => ⟨fun hp hrec hfirst => ⟨fun h0 hall => ?_, fun h0 => ?_⟩, fun h => ?_⟩⟩
  · exact (execRankSealReport_ready hb ht hu hr hp hready).trans (congrArg _ (if_pos h0))
  · exact (execRankSealReport_ready hb ht hu hr hp hready).trans (congrArg _ (if_neg h0))
  · exact execRankSealReport_unready hb ht hu hr hready
  · exact execRankSealReport_other hb ht hu hr h0 hlt hnew
  · refine (execSealed_seals hb ht hu hp hrec hfirst fun _ => hall).trans ?_
    rw [if_pos h0]
  · refine (execSealed_seals hb ht hu hp hrec hfirst fun h => absurd h h0).trans ?_
    rw [if_neg h0]
  · exact execSealed_waits hb ht h

end Sys2Proof.Machine

/-! SUPPORT. Credits that come back, and waits that last too long: counts of items under way, the error capture of an overflow, and the
stall events of senders and contexts (R31 to R36, R299). -/

namespace Sys2Proof.Machine

variable {s : State} {q r : QueueId} {p c : Nat}

/-! ### Counts of items under way -/

/-- Credits that come back lower their queue's count (R31). -/
@[simp] theorem usedCredits_giveCredit {n : Nat} : usedCredits (giveCredit s q n) q = usedCredits s q - n := mapGet_mapSet_self

/-- They leave every other queue's. -/
theorem usedCredits_giveCredit_ne {n : Nat} (h : queueKey r ≠ queueKey q) : usedCredits (giveCredit s q n) r = usedCredits s r :=
  mapGet_mapSet_ne (Ne.symm h)

/-- Of the state they change the network's counts, waits and stalls alone. -/
theorem giveCredit_eq {n : Nat} : giveCredit s q n = { s with net := { s.net with
    usedCredits := (giveCredit s q n).net.usedCredits, waits := (giveCredit s q n).net.waits, stalls := (giveCredit s q n).net.stalls } } := rfl

theorem execCreditReturn_below (h : usedCredits s q ≠ 0) : execCreditReturn q s = .next (giveCredit s q 1) := by
  unfold execCreditReturn
  rw [if_neg h]

theorem execCreditReturn_full (h : usedCredits s q = 0) : execCreditReturn q s =
    .next (setBlk (raiseEvent s (receiverPage s q) 3 (queueIds q)) (receiverPage s q) .failed false 6) := by
  unfold execCreditReturn
  rw [if_pos h]

/-! ### Waits beyond their limit -/

/-- A queue's sender noted as stalled. -/
def noteStall (s : State) (q : QueueId) : State :=
  { s with net := { s.net with stalls := mapSet false s.net.stalls (queueKey q) true } }

theorem noteStall_stalls : mapGet false (noteStall s q).net.stalls (queueKey q) = true := by
  simp only [noteStall, mapGet_mapSet_self]

/-- A wait beyond its limit that is not yet noted is noted and raised at the sender (R36). -/
theorem execCreditStall_late {deadline : Nat} (hw : mapGet none s.net.waits (queueKey q) = some deadline) (hl : deadline < s.now)
    (hn : mapGet false s.net.stalls (queueKey q) = false) :
    execCreditStall q s = .next (raiseEvent (noteStall s q) (senderPage s q) 4 (queueIds q)) := by
  simp only [execCreditStall, hw, hl, hn, and_self, if_true]
  rfl

/-- One that is noted is not raised again. -/
theorem execCreditStall_noted (hn : mapGet false s.net.stalls (queueKey q) = true) : execCreditStall q s = .next s := by
  unfold execCreditStall
  cases mapGet none s.net.waits (queueKey q) with
  | none => rfl
  | some deadline => simp [hn]

/-- Raising an event leaves every context. -/
@[simp] theorem getCtx_raiseEvent {g : PageId} {n : Nat} {ids : List (Nat × Nat)} : getCtx (raiseEvent s g n ids) p c = getCtx s p c := by
  simp only [getCtx, getPanel, raiseEvent_fields]

/-- The instruction at which a context waits for others, as the stall event names it (R299). -/
def waitOpcode : Wait → Nat
  | .fence _ => 0x60
  | .recv _ _ _ _ => 0x49
  | .sealw => 0x51
  | _ => 0

/-- A context that waits at FENCE, RECV or SEALW beyond the limit is noted and raised (R299). -/
theorem execContextWaitStall_late {x : Ctx} (hx : getCtx s p c = some x) (hn : x.stalled = false) (hl : x.since < s.now)
    (hw : waitOpcode x.wait ≠ 0) : execContextWaitStall p c s =
      .next (raiseEvent (modCtx s p c fun y => { y with stalled := true }) (.seq p) 4 [(4, c), (8, waitOpcode x.wait)]) := by
  unfold execContextWaitStall
  rw [hx]
  refine congrArg Host.Outcome.next (if_pos ⟨hw, ?_, hl⟩)
  rw [hn]
  rfl

/-- Settles O32: the count's law, and what raising an event leaves of the state with the stall noted. -/
theorem creditsComeBackAndStallsAreReported : Obligations.CreditsComeBackAndStallsAreReported := by
  unfold Obligations.CreditsComeBackAndStallsAreReported
  refine ⟨fun s q h => ⟨_, execCreditReturn_below h, usedCredits_giveCredit, fun r hr => usedCredits_giveCredit_ne hr, giveCredit_eq⟩,
    fun s p c q deadline => ⟨fun hw hl hn => ?_, execCreditStall_noted, fun x hx hn hl hw hp => ?_⟩⟩
  · refine ⟨_, execCreditStall_late hw hl hn, ?_⟩
    simp only [raiseEvent_fields]
    exact ⟨noteStall_stalls, rfl, rfl, rfl, rfl, rfl, rfl, fun he => raiseEvent_raised he (by decide)⟩
  · have hop : waitOpcode x.wait ≠ 0 := by
      rcases hw with h | ⟨m, h⟩ | ⟨f, a, n, g, h⟩ <;> simp [h, waitOpcode]
    have hpage : pageExists (modCtx s p c fun y => { y with stalled := true }) (.seq p) = true := decide_eq_true hp
    refine ⟨_, execContextWaitStall_late hx hn hl hop, ?_, raiseEvent_raised hpage (by decide), ?_⟩
    · rw [getCtx_raiseEvent]
      exact getCtx_modCtx hx fun _ => rfl
    · simp only [raiseEvent_fields]
      exact ⟨rfl, rfl, rfl, rfl⟩

/-! ### Bit fields -/

/-- A bit of a field is the word's bit at its place. -/
theorem testBit_field {w : Word} {hi lo i : Nat} : (field w hi lo).testBit i = (decide (i < hi + 1 - lo) && bit w (lo + i)) := by
  simp only [field, Nat.testBit_mod_two_pow, Nat.testBit_shiftRight, bit, BitVec.testBit_toNat]

/-- A bit of a packed register is its first field's, or one of the other fields'. -/
theorem bit_packReg_cons {lo w v n : Nat} {fs : List (Nat × Nat × Nat)} : bit (packReg ((lo, w, v) :: fs)) n =
    (decide (n < 64) && (decide (lo ≤ n) && (decide (n - lo < w) && v.testBit (n - lo))) || bit (packReg fs) n) := by
  simp only [packReg, bit_or]
  simp only [bit, BitVec.getLsbD_ofNat, Nat.testBit_mul_two_pow, Nat.testBit_mod_two_pow]

/-- The MISSED bit of an error capture is none of its detail's (R433). -/
theorem field_detail_missed {w : Word} : field (w ||| bitOf 63) 55 24 = field w 55 24 := by
  refine Nat.eq_of_testBit_eq fun i => ?_
  rw [testBit_field, testBit_field, bit_or, bit_bitOf (by decide)]
  by_cases h : i < 32
  · have hi : ¬ 24 + i = 63 := by omega
    simp [hi]
  · simp [h]

/-- The detail of an error capture as it was packed (R433). -/
theorem field_detail_packReg {code win off detail : Nat} :
    field (packReg [(0, 8, code), (8, 3, win), (12, 12, off), (24, 32, detail)]) 55 24 = detail % 2 ^ 32 := by
  refine Nat.eq_of_testBit_eq fun i => ?_
  rw [testBit_field, Nat.testBit_mod_two_pow]
  by_cases h : i < 32
  · have h0 : ¬ 24 + i - 0 < 8 := by omega
    have h1 : ¬ 24 + i - 8 < 3 := by omega
    have h2 : ¬ 24 + i - 12 < 12 := by omega
    have h3 : 24 + i < 64 := by omega
    simp only [bit_packReg_cons, h, h0, h1, h2, h3]
    simp [packReg, bit, h]
  · simp [h]

/-- Identifiers put together take no more bits than their widths. -/
theorem packIds_lt {ids : List (Nat × Nat)} : packIds ids < 2 ^ (ids.map Prod.fst).sum := by
  induction ids with
  | nil => exact Nat.one_pos
  | cons x ids ih =>
    obtain ⟨w, v⟩ := x
    have hv : v % 2 ^ w < 2 ^ w := Nat.mod_lt _ (Nat.two_pow_pos w)
    calc packIds ((w, v) :: ids) = v % 2 ^ w + 2 ^ w * packIds ids := rfl
      _ < 2 ^ w + 2 ^ w * packIds ids := by omega
      _ = 2 ^ w * (packIds ids + 1) := by ring
      _ ≤ 2 ^ w * 2 ^ (ids.map Prod.fst).sum := Nat.mul_le_mul_left _ ih
      _ = 2 ^ (((w, v) :: ids).map Prod.fst).sum := by rw [List.map_cons, List.sum_cons, pow_add]

/-- A queue's name in an event takes 30 bits. -/
theorem packIds_queueIds_lt : packIds (queueIds q) < 2 ^ 32 := by
  have hw : ((queueIds q).map Prod.fst).sum = 30 := by cases q <;> rfl
  exact lt_of_lt_of_le packIds_lt (by rw [hw]; decide)

/-! ### The error capture of an event -/

variable {g : PageId}

/-- A header that takes an error record, or marks the record it holds as MISSED (R433). -/
def Hdr.captured (code win off detail : Nat) (h : Hdr) : Hdr :=
  if h.captureHeld then { h with capture := h.capture ||| bitOf 63 }
  else Hdr.withEvt 1 false
    { h with captureHeld := true, capture := packReg [(0, 8, code), (8, 3, win), (12, 12, off), (24, 32, detail)] }

theorem getHdr_capture {code win off detail : Nat} :
    getHdr (capture s g code win off detail) g = (getHdr s g).captured code win off detail := by
  unfold capture Hdr.captured
  split
  · exact getHdr_modHdr
  · rw [getHdr_setEvt, getHdr_of_hdrs bbRecord_hdrs, getHdr_modHdr]

/-- The header of a page that raises an event. -/
theorem getHdr_raiseEvent {n : Nat} {ids : List (Nat × Nat)} (h : pageExists s g = true) : getHdr (raiseEvent s g n ids) g =
    ((getHdr s g).captured (0x10 + n) 7 0 (packIds ids % 2 ^ 32)).withEvt n false := by
  simp only [raiseEvent, h, Bool.not_true, Bool.false_eq_true, if_false]
  rw [getHdr_setEvt, getHdr_of_hdrs bbRecord_hdrs, getHdr_capture]

/-- An event of a page without an unread record leaves its identifiers in the capture (R433, R434). -/
theorem raiseEvent_detail {n : Nat} {ids : List (Nat × Nat)} (h : pageExists s g = true) (hc : (getHdr s g).captureHeld = false) :
    field (getHdr (raiseEvent s g n ids) g).capture 55 24 = packIds ids % 2 ^ 32 ∧ (getHdr (raiseEvent s g n ids) g).captureHeld = true := by
  rw [getHdr_raiseEvent h]
  simp only [Hdr.captured, hc, Bool.false_eq_true, if_false]
  exact ⟨field_detail_packReg.trans (Nat.mod_mod _ _), rfl⟩

/-- An event of a page with an unread record leaves the record's detail. -/
theorem raiseEvent_keeps_detail {n : Nat} {ids : List (Nat × Nat)} (hc : (getHdr s g).captureHeld = true) :
    field (getHdr (raiseEvent s g n ids) g).capture 55 24 = field (getHdr s g).capture 55 24 := by
  by_cases h : pageExists s g = true
  · rw [getHdr_raiseEvent h]
    simp only [Hdr.captured, hc, if_true]
    exact field_detail_missed
  · simp only [raiseEvent, h, Bool.not_false, if_true]

/-! ### A block that fails -/

/-- A block's state change sets the state, and keeps the page's events and the detail of an unread record (R430, R433). -/
theorem setBlk_hdr {st : BlkSt} {held : Bool} {cause : Nat} :
    (getHdr (setBlk s g st held cause) g).st = st
    ∧ (∀ n, Raised s g n → Raised (setBlk s g st held cause) g n)
    ∧ ((getHdr s g).captureHeld = true →
        field (getHdr (setBlk s g st held cause) g).capture 55 24 = field (getHdr s g).capture 55 24) := by
  unfold setBlk
  extract_lets h s1 r s2
  split
  case isTrue e => exact ⟨e.1, fun _ hn => hn, fun _ => rfl⟩
  case isFalse =>
    have e : getHdr s2 g = { h with st := st, held := held, cause := BitVec.ofNat 8 cause, gen := h.gen + 1 } := by
      have e2 : s2.hdrs = s1.hdrs := by unfold s2; split <;> rfl
      rw [getHdr_of_hdrs e2]; exact getHdr_modHdr
    clear_value s2
    obtain ⟨hevt, hst, -⟩ := raiseEvent_grown (s := s2) (p := g) (q := g) (n := 0) (ids := [])
    refine ⟨by rw [hst, e], fun n hn => hevt n (by rw [e]; exact hn), fun hc => ?_⟩
    rw [raiseEvent_keeps_detail (by rw [e]; exact hc), e]

/-- Settles O31: the event captures the queue's name, and the failure that follows it keeps the event, its capture and the count. -/
theorem creditOverflowFailsTheBlock : Obligations.CreditOverflowFailsTheBlock := by
  unfold Obligations.CreditOverflowFailsTheBlock
  intro s q h0 hpage
  obtain ⟨hst, hevt, hdetail⟩ := setBlk_hdr (s := raiseEvent s (receiverPage s q) 3 (queueIds q)) (g := receiverPage s q)
    (st := .failed) (held := false) (cause := 6)
  refine ⟨_, execCreditReturn_full h0, hst, hevt 3 (raiseEvent_raised hpage (by decide)), fun hc => ?_, ?_⟩
  · obtain ⟨hids, hheld⟩ := raiseEvent_detail (n := 3) (ids := queueIds q) hpage hc
    rw [hdetail hheld, hids, Nat.mod_eq_of_lt packIds_queueIds_lt]
  · simpa only [usedCredits, setBlk_fields, raiseEvent_fields] using h0

end Sys2Proof.Machine

/-! SUPPORT. What the sequencer does with a context's next instruction short of its own rules: bad fetches, reserved opcodes and bits,
and missing registers and credits (R236, R240, R243, R244); and the evaluations (R248 to R251). -/

namespace Sys2Proof.Machine

variable {s : State} {p c op : Nat} {h : Site} {w : Word}

/-- Every row of the opcode table issues, with its own rules for a ready instruction (R245). -/
theorem rowOfOpcode_issues {i : Instr} (hi : rowOfOpcode p c op = some i) :
    ∃ body : State → Site → Word → Eff, ∀ s, exec i s = .next (issue s p c op body) := by
  unfold rowOfOpcode at hi
  split at hi <;> cases hi <;> exact ⟨_, fun _ => rfl⟩

/-! ### A context that is first to issue -/

section

variable {body : State → Site → Word → Eff} (hs : siteOf s p c = some h) (hw : h.x.wait = .none)
  (hf : firstToIssue s p h.e h.x = true)

include hs hw hf

/-- A fetch outside the code region is a fault at the address fetched (R236). -/
theorem issue_outside (hc : inCode h.e h.x.pc.toNat = false) :
    issue s p c op body = patternFault s p c 0x04 h.x.pc.toNat 0 := by
  simp [issue, hs, hw, hf, hc]

variable (hc : inCode h.e h.x.pc.toNat = true)

include hc

/-- A poisoned line stops the context's step (R381). -/
theorem issue_poisoned (hl : linePoison (getPanel s p) h.x.pc.toNat = true) :
    issue s p c op body = poisonStop s p c (h.x.pc.toNat / 64) := by
  simp [issue, hs, hw, hf, hc, hl]

variable (hl : linePoison (getPanel s p) h.x.pc.toNat = false)

include hl

/-- A reserved opcode is a fault (R243, R245). -/
theorem issue_reservedOpcode (ho : opFormat (opOf (fetchWord (getPanel s p) h.x)) = none) :
    issue s p c op body = patternFault s p c 0x01 h.x.pc.toNat (opOf (fetchWord (getPanel s p) h.x)) := by
  simp [issue, hs, hw, hf, hc, hl, ho]

variable (hfetch : fetchWord (getPanel s p) h.x = w) (ho : opOf w = op)

include hfetch ho

/-- The row's own opcode with another format than its own, or with a reserved bit set, is a fault (R243, R246). -/
theorem issue_badFields {f : Nat} (hform : opFormat op = some f) (hbad : fmtOf w ≠ f ∨ reservedSet op f w = true) :
    issue s p c op body = patternFault s p c 0x02 h.x.pc.toNat op := by
  subst ho
  simp [issue, hs, hw, hf, hc, hl, hfetch, hform, hbad]

variable (hform : opFormat op = some (fmtOf w)) (hres : reservedSet op (fmtOf w) w = false)

include hform hres

/-- An instruction that waits for a register, or behind a foreign run of its unit, changes nothing (R240). -/
theorem issue_unready (hbusy : regsReady h.x w = false ∨ unitFree s p op = false) : issue s p c op body = s := by
  subst ho
  simp [issue, hs, hw, hf, hc, hl, hfetch, hform, hres, hbusy]

/-- An instruction that finds a queue without a credit waits on it and does nothing else (R31, R32). -/
theorem issue_noCredit (hr : regsReady h.x w = true) (hu : unitFree s p op = true) {k : QueueId}
    (hk : (opQueues s p op).find? (fun q => !creditFree s q) = some k) : issue s p c op body = beginWait s k := by
  subst ho
  simp [issue, hs, hw, hf, hc, hl, hfetch, hform, hres, hr, hu, hk]

end

/-- Settles O7: every row issues, and issue asks the fetch, the word, the registers and the credits in this order. -/
theorem badFetchesAndMissingCreditsDoNotIssue : Obligations.BadFetchesAndMissingCreditsDoNotIssue := by
  unfold Obligations.BadFetchesAndMissingCreditsDoNotIssue
  refine ⟨fun s p c op i h hi hs hw hf => ?_, fun s p c op i h hi hs hw hf hc hl => ?_⟩
  all_goals
    obtain ⟨body, hexec⟩ := rowOfOpcode_issues hi
    intro w
    rw [hexec]
  · refine ⟨fun hc => ?_, fun hc hl => ?_, fun hc hl => ⟨fun ho => ?_, fun f ho hform hbad => ?_⟩⟩
    · rw [issue_outside hs hw hf hc]
    · rw [issue_poisoned hs hw hf hc hl]
    · rw [issue_reservedOpcode hs hw hf hc hl ho]
    · rw [issue_badFields hs hw hf hc hl rfl ho hform hbad]
  · intro ho hform hres
    refine ⟨fun hbusy => ?_, fun k hr hu hk => ?_⟩
    · rw [issue_unready hs hw hf hc hl rfl ho hform hres hbusy]
    · rw [issue_noCredit hs hw hf hc hl rfl ho hform hres hr hu hk]

/-! ### EVALD, EVALX and EVALT -/

/-- What an evaluation with a descriptor d and a count n comes to: the fault of its descriptor, the wait for the wide lane, the layer's
exact-mode shadow, or its commands to the hems (R107, R221, R249 to R251, R278). -/
def evalOutcome (s : State) (p c op : Nat) (h : Site) (mode : Nat) (d : List Word) (n : Nat) : State :=
  match evalFault (issued s p c op) h mode n d with
  | some e => patternFault s p c e h.x.pc.toNat op
  | none =>
    if evalTier h d = true ∧ creditFree (issued s p c op) (.unitCmd p .wide) = false then beginWait s (.unitCmd p .wide)
    else match shadowAt h mode d with
    | some a => modCtx (giveCredit (issued s p c op) (.unitCmd p .hem) 1) p c fun x => { x with pc := BitVec.ofNat 24 a }
    | none => evalStart (issued s p c op) h mode n d

/-- The three evaluations share their rules; each has its mode. -/
theorem issue_evalBody {mode n : Nat} {d : List Word} (r : Ready s p c op h w) (D : DescribedBy s p h w evalReserved d n) :
    issue s p c op (evalBody mode) = evalOutcome s p c op h mode d n := by
  obtain ⟨rfl, rfl, -⟩ := siteOf_spec r.1
  rw [issue_ready r, evalBody, withDesc_described r D, evalOutcome]
  cases evalFault (issued s h.p h.x.slot op) h mode n d with
  | some e => rfl
  | none =>
    dsimp only
    by_cases hwide : evalTier h d = true ∧ creditFree (issued s h.p h.x.slot op) (.unitCmd h.p .wide) = false
    · have hb : (evalTier h d && !creditFree (issued s h.p h.x.slot op) (.unitCmd h.p .wide)) = true := by simp [hwide]
      rw [if_pos hwide, if_pos hb]
    · have hb : ¬ (evalTier h d && !creditFree (issued s h.p h.x.slot op) (.unitCmd h.p .wide)) = true := by simpa using hwide
      rw [if_neg hwide, if_neg hb]
      cases shadowAt h mode d <;> rfl

/-- Settles O8: the three rows issue the evaluation's body, each in its mode. -/
theorem evaluationsStart : Obligations.EvaluationsStart := by
  unfold Obligations.EvaluationsStart
  intro s p c h w d n D answer
  exact ⟨fun r => congrArg _ (issue_evalBody r D), fun r => congrArg _ (issue_evalBody r D), fun r => congrArg _ (issue_evalBody r D)⟩

end Sys2Proof.Machine

/-! SUPPORT. When an array's step runs, waits or is released, and what a bobbin takes next (R44, R46, R94, R122, R253, R254). -/

namespace Sys2Proof.Machine

variable {s : State} {p tile arr : Nat} {j : EvalJob} {rest : List EvalJob}

/-! ### What loading a pleat leaves of the arrays -/

theorem claimAll_arrays {ids : List Nat} {st : Nat} : (claimAll s ids st).arrays = s.arrays := by
  unfold claimAll
  induction ids generalizing s with
  | nil => rfl
  | cons i ids ih => exact ih

theorem boltTagFault_arrays {k : Word} : (boltTagFault s p k).arrays = s.arrays := by
  unfold boltTagFault
  split
  · rfl
  · rw [claimAll_arrays]; simp

theorem noteBlocks_arrays {pin : PleatIn} : (noteBlocks s p tile arr j pin).arrays = s.arrays := by
  simp only [noteBlocks]
  split_ifs <;> simp [boltTagFault_arrays]

/-- Taking credits changes the network alone. -/
theorem takeCredits_arrays {q : QueueId} {n : Nat} : (takeCredits s q n).arrays = s.arrays := rfl

/-- Loading a pleat's digits changes no array and no repair. -/
theorem loadPleat_arrays : (loadPleat s p tile arr j).arrays = s.arrays := by
  simp only [loadPleat, noteBlocks_arrays, modHem_fields, takeCredits_arrays]

/-- Nor the array that stands behind a position. -/
theorem loadPleat_getArr : getArr (loadPleat s p tile arr j) (physArr (loadPleat s p tile arr j) p tile arr) =
    getArr s (physArr s p tile arr) := by
  simp only [getArr, physArr, arrAt, physTile, physPanel, loadPleat_arrays]

/-! ### PLEAT_STEP -/

theorem mayStep_iff : mayStep s p tile arr j = true ↔
    (getHem s p tile arr).results.length < 2 ∧ j.mode ≤ 2 ∧ (j.phase ≠ 0 ∨ calHolds s p tile = false) := by
  simp [mayStep, and_assoc]

theorem mustRelease_iff : mustRelease s p tile arr = true ↔
    s.arrays.failedPos.contains (posKey p tile arr) = true ∨ (getHem s p tile arr).released = true := by
  simp only [mustRelease, Bool.or_eq_true]

theorem stepBuffered_programmed {pin : PleatIn} (hx : (getArr s (physArr s p tile arr)).st = .programmed) :
    stepBuffered s p tile arr j pin = runPleat s p tile arr j pin := if_pos hx

theorem stepBuffered_unprogrammed {pin : PleatIn} (hx : (getArr s (physArr s p tile arr)).st ≠ .programmed) :
    stepBuffered s p tile arr j pin = s := if_neg hx

section

variable (hj : (getHem s p tile arr).jobs = j :: rest)

include hj

/-- A step that may not start changes nothing. -/
theorem execPleatStep_held (hm : mayStep s p tile arr j = false) : execPleatStep p tile arr s = .next s := by
  simp only [execPleatStep, hj, hm, Bool.not_false, if_true]

/-- A step with its digits in the buffer, at an array that is not programmed and has not failed, changes nothing (R46). -/
theorem execPleatStep_unprogrammed (hr : mustRelease s p tile arr = false) (hb : (getHem s p tile arr).buf.isSome = true)
    (hx : (getArr s (physArr s p tile arr)).st ≠ .programmed) : execPleatStep p tile arr s = .next s := by
  obtain ⟨b, hb⟩ := Option.isSome_iff_exists.mp hb
  simp only [execPleatStep, hj, hr, hb, stepBuffered_unprogrammed hx, Bool.false_eq_true, if_false, ite_self]

variable (hm : mayStep s p tile arr j = true)

include hm

/-- A step whose position or programming has failed is released with poison (R46). -/
theorem execPleatStep_releases (hr : mustRelease s p tile arr = true) :
    execPleatStep p tile arr s = .next (releaseStep s p tile arr j) := by
  simp only [execPleatStep, hj, hm, hr, Bool.not_true, Bool.false_eq_true, if_false, if_true]

variable (hr : mustRelease s p tile arr = false)

include hr

/-- A step with its digits in the buffer runs on its programmed array (R44). -/
theorem execPleatStep_runs {pin : PleatIn} {lines : Nat} (hb : (getHem s p tile arr).buf = some (pin, lines))
    (hx : (getArr s (physArr s p tile arr)).st = .programmed) :
    execPleatStep p tile arr s = .next (runPleat s p tile arr j pin) := by
  simp only [execPleatStep, hj, hm, hr, hb, stepBuffered_programmed hx, Bool.not_true, Bool.false_eq_true, if_false]

variable (hb : (getHem s p tile arr).buf = none)

include hb

/-- A pleat whose lines find their credits is loaded first (R31, R44). -/
theorem execPleatStep_loads (hcr : creditsFree s (.tileIn p tile) (linesOfPleat j) = true) : execPleatStep p tile arr s =
    .next (stepBuffered (loadPleat s p tile arr j) p tile arr j (pleatOf s p j)) := by
  simp only [execPleatStep, hj, hm, hr, hb, hcr, Bool.not_true, Bool.false_eq_true, if_false, if_true]

/-- One whose lines do not waits for them (R31, R297). -/
theorem execPleatStep_waits (hcr : creditsFree s (.tileIn p tile) (linesOfPleat j) = false) : execPleatStep p tile arr s =
    .next (beginWait s (.tileIn p tile)) := by
  simp only [execPleatStep, hj, hm, hr, hb, hcr, Bool.not_true, Bool.false_eq_true, if_false]

end

/-! ### BOBBIN_ADD -/

/-- A bobbin whose last drain waits for its credits adds nothing (R31). -/
theorem execBobbinAdd_waits (h : drainsWait s p tile arr = true) : execBobbinAdd p tile arr s = .next s := by
  simp only [execBobbinAdd, h, if_true]

/-- A bobbin adds its oldest result (R94). -/
theorem execBobbinAdd_adds {r : HemRes} {more : List HemRes} (h : drainsWait s p tile arr = false)
    (hr : (getHem s p tile arr).results = r :: more) : execBobbinAdd p tile arr s = .next (addResult s p tile arr r more) := by
  simp only [execBobbinAdd, h, hr, Bool.false_eq_true, if_false]

/-- Without a result, what waited behind the evaluations has its turn (R253, R254). -/
theorem execBobbinAdd_turn (h : drainsWait s p tile arr = false) (hr : (getHem s p tile arr).results = []) :
    execBobbinAdd p tile arr s = .next (queuedTurn s p tile arr) := by
  simp only [execBobbinAdd, h, hr, Bool.false_eq_true, if_false]

/-- A promotion in its turn (R253). -/
theorem queuedTurn_promotes (hj : (getHem s p tile arr).jobs = j :: rest) (hm : j.mode = 4) : queuedTurn s p tile arr =
    decCmd (modHem s p tile arr fun m => { m.promote with jobs := rest }) p j.cmd 1 := by
  simp only [queuedTurn, hj, hm, if_true]

/-- A drain in its turn (R254). -/
theorem queuedTurn_drains {k : EvalJob} (hj : (getHem s p tile arr).jobs = j :: rest) (hm : j.mode = 3)
    (hk : (getHem s p tile arr).holding = some k) : queuedTurn s p tile arr =
    drainArr (modHem s p tile arr fun m => { m with jobs := rest, holding := none }) p tile arr { k with cmd := j.cmd } := by
  simp only [queuedTurn, hj, hm, hk, Nat.reduceEqDiff, if_false, if_true]

/-- Settles O13: whether the step may start and must be released, then its buffer and credits; the bobbin's results, then its turn. -/
theorem pleatsStepWaitAndBobbinsAdd : Obligations.PleatsStepWaitAndBobbinsAdd := by
  unfold Obligations.PleatsStepWaitAndBobbinsAdd
  refine ⟨fun s p tile arr => ⟨fun j rest hj hlen hmode hcal => ?_, fun r rest hd hr => ?_, fun j rest hd hr hj =>
    ⟨fun hm => ?_, fun k hm hk => ?_⟩⟩, fun s p tile arr hd => execBobbinAdd_waits hd, fun s p tile arr j rest hj hwait => ?_⟩
  · have hm : mayStep s p tile arr j = true := mayStep_iff.mpr ⟨hlen, hmode, hcal⟩
    refine ⟨fun hfail => execPleatStep_releases hj hm (mustRelease_iff.mpr hfail), fun pin lines hok hb hx => ?_,
      fun hok hb hcr hx => ?_, fun hok hb hcr hx => ?_, fun hok hb hcr => ?_⟩
    all_goals
      have hr : mustRelease s p tile arr = false := by
        rw [← Bool.not_eq_true, mustRelease_iff]; exact hok
    · exact execPleatStep_runs hj hm hr hb hx
    · refine (execPleatStep_loads hj hm hr hb hcr).trans ?_
      rw [stepBuffered_programmed (by rwa [loadPleat_getArr])]
    · refine (execPleatStep_loads hj hm hr hb hcr).trans ?_
      rw [stepBuffered_unprogrammed (by rwa [loadPleat_getArr])]
    · exact execPleatStep_waits hj hm hr hb hcr
  · refine (execBobbinAdd_adds hd hr).trans ?_
    unfold addResult
    cases r.endSel <;> rfl
  · exact (execBobbinAdd_turn hd hr).trans (congrArg _ (queuedTurn_promotes hj hm))
  · exact (execBobbinAdd_turn hd hr).trans (congrArg _ (queuedTurn_drains hj hm hk))
  · rcases hwait with hfull | ⟨hphase, hcal⟩ | ⟨hpos, hrel, hb, hx⟩
    · refine execPleatStep_held hj ?_
      rw [← Bool.not_eq_true, mayStep_iff]; omega
    · refine execPleatStep_held hj ?_
      rw [← Bool.not_eq_true, mayStep_iff]; simp [hphase, hcal]
    · refine execPleatStep_unprogrammed hj ?_ hb hx
      rw [← Bool.not_eq_true, mustRelease_iff, hpos, hrel]; decide

end Sys2Proof.Machine

/-! SUPPORT. Which foreign run, partial or flit a panel takes next (R149, R269, R293, R298, R316). -/

namespace Sys2Proof.Machine

variable {s : State} {p dir flow i : Nat}

/-- A change of a panel is what it makes of that panel. -/
theorem modPanel_congr {f g : Panel → Panel} (h : f (getPanel s p) = g (getPanel s p)) : modPanel s p f = modPanel s p g := by
  simp only [getPanel] at h
  simp only [modPanel, mapMod, h]

/-! ### Foreign runs and partials -/

/-- The runs that reached a unit first, served: their partials leave for the home panel, and a range never written is the home context's
fault (R149, R162, R269). -/
def serveFirst (s : State) (p : Nat) (r : RemoteJob) (more : List RemoteJob) (rest : List (List RemoteJob)) : State :=
  let s1 := modPanel s p fun q => { q with remote := rest }
  let a := runSegs s1 p { tenant := (getSession s r.session).tenant, pat := patTenant s r.home, row := true } (r :: more)
  if a.stat = .unwritten then
    match (getPanel a.s r.home).ctxs.find? fun x => x.step == r.step with
    | some x => patternFault a.s r.home x.slot 0x0C x.pc.toNat (if r.back.isSome then 0x42 else 0x40)
    | none => a.s
  else a.parts.foldl (fun t x => sendLoad t p r.home 1 (x.bytes r.d) r.step r.gen (.part x)) a.s

theorem execRemoteRun_first {r : RemoteJob} {more : List RemoteJob} {rest : List (List RemoteJob)}
    (h : (getPanel s p).remote = (r :: more) :: rest) : execRemoteRun p 0 s = .next (serveFirst s p r more rest) := by
  have herase : modPanel s p (fun q => { q with remote := q.remote.eraseIdx 0 }) = modPanel s p fun q => { q with remote := rest } :=
    modPanel_congr (by rw [h]; rfl)
  simp only [execRemoteRun, h, List.getElem?_cons_zero, ne_eq, not_true_eq_false, if_false, herase]
  rfl

/-- Runs that came later wait (R269). -/
theorem execRemoteRun_later (hi : i ≠ 0) : execRemoteRun p i s = .next s := by
  unfold execRemoteRun
  cases (getPanel s p).remote[i]? with
  | none => rfl
  | some rs => exact congrArg _ (if_pos hi)

/-- A partial that has come home is taken (R148). -/
theorem execPartialFold_takes {x : PartMsg} (h : (getPanel s p).parts[i]? = some x) : execPartialFold p i s =
    .next (takePart (modPanel s p fun q => { q with parts := q.parts.eraseIdx i }) p x) := by
  simp only [execPartialFold, h]

/-! ### Flits -/

/-- A link sends the flit that its order picks, and its turn moves on (R293, R316). -/
theorem execFlitSend_sends {f : QFlit} {fromOpenStitch : Bool} (hd : dir < 4) (h : linkPick s p dir = some (f, fromOpenStitch)) :
    execFlitSend p dir s = .next (moveFlit (modPanel s p fun q =>
      { q with rr := if fromOpenStitch then mapSet 0 (mapSet 4 q.rr (8 * dir + f.flit.vc) f.inp) (8 * dir + 4) f.flit.vc
                     else mapSet 4 q.rr (8 * dir + f.flit.vc) f.inp }) p f) := by
  simp only [execFlitSend, Nat.not_le.mpr hd, h, if_false]

/-- A link without a flit to send waits on the queues that its flits lack (R36). -/
theorem execFlitSend_waits (hd : dir < 4) (h : linkPick s p dir = none) :
    execFlitSend p dir s = .next ((linkWaits s p dir).foldl beginWait s) := by
  simp only [execFlitSend, Nat.not_le.mpr hd, h, if_false]

/-- The first flit of a flow that has reached its only receiver's router (R298). -/
def arrived (s : State) (p flow : Nat) : Option QFlit :=
  (routerHeads (getPanel s p)).find? fun f => f.flit.flow == flow && ((branches s p f.flit).all fun b => b.1 == 4)

/-- A wait that begins changes no sender's credits. -/
theorem creditFree_beginWait {k q : QueueId} : creditFree (beginWait s k) q = creditFree s q := by
  unfold beginWait
  split <;> rfl

/-- Waits begun one after the other, each where a credit is missing, begin where a credit was missing at first. -/
theorem foldl_beginWait_lacking {ks : List QueueId} : ks.foldl (fun s k => if creditFree s k then s else beginWait s k) s =
    (ks.filter fun k => !creditFree s k).foldl beginWait s := by
  induction ks generalizing s with
  | nil => rfl
  | cons k ks ih =>
    rw [List.foldl_cons, ih, List.filter_cons]
    by_cases hk : creditFree s k = true
    · simp only [hk, if_true, Bool.not_true, Bool.false_eq_true, if_false]
    · simp only [hk, Bool.false_eq_true, if_false, Bool.not_false, if_true, List.foldl_cons, creditFree_beginWait]

/-- A flit that has come to its receiver's router enters the ring when it is ready, and else waits on the queues that it lacks (R36, R298). -/
theorem execFlowFlitArrive_arrived {f : QFlit} (h : arrived s p flow = some f) : execFlowFlitArrive p flow s = .next
    (if flitReady s p f then moveFlit s p f else ((flitQueues s p f).filter fun k => !creditFree s k).foldl beginWait s) := by
  unfold arrived at h
  simp only [execFlowFlitArrive, h, foldl_beginWait_lacking]

/-- Settles O17: the first of a panel's foreign runs, a partial, a link's pick and an arrived flit, each by its row's equation. -/
theorem remoteRunsPartialsAndFlitsMove : Obligations.RemoteRunsPartialsAndFlitsMove := by
  unfold Obligations.RemoteRunsPartialsAndFlitsMove
  refine ⟨fun s p => ⟨fun r more rest h => execRemoteRun_first h, fun i hi => execRemoteRun_later hi, fun i x h => execPartialFold_takes h⟩,
    fun s p => ⟨fun dir f o hd h => execFlitSend_sends hd h, fun dir hd h => execFlitSend_waits hd h, fun flow f h =>
      ⟨fun hready => ?_, fun hready => ?_⟩⟩⟩
  · exact (execFlowFlitArrive_arrived h).trans (congrArg _ (if_pos hready))
  · exact (execFlowFlitArrive_arrived h).trans (congrArg _ (if_neg (ne_true_of_eq_false hready)))

end Sys2Proof.Machine

/-! SUPPORT. Where a lead may form a step (R34, R237), and the step of the block itself (R36). -/

namespace Sys2Proof.Machine

variable {s : State} {nw slot : Nat} {b : Bolt} {pat : Pattern}

/-- What keeps a bolt's lead from forming any step: another rank's lead, a bolt that does not serve, panels that take no work, an orderly
stop, or no free batch table slot in the window (R34, R237). -/
def NoStepHere (s : State) (nw : Nat) (b : Bolt) (pat : Pattern) : Prop :=
  b.rank ≠ 0 ∨ b.stopped = true ∨ serving b = false ∨ panelsServe s nw b = false ∨ s.hk.stopping.isSome = true
    ∨ batchSlot s nw b pat.window = none

section

variable (hb : getBolt s nw = some b) (hpat : b.pat = some pat)

include hb hpat

theorem execStepForm_nothing (h : NoStepHere s nw b pat) : execStepForm nw s = .next s := by
  simp only [execStepForm, hb, hpat]
  split
  case isTrue => rfl
  case isFalse hmay =>
    have hslot : batchSlot s nw b pat.window = none := by
      unfold NoStepHere at h
      tauto
    rw [hslot]

variable (hrank : b.rank = 0) (hstop : b.stopped = false) (hserve : serving b = true) (hpanels : panelsServe s nw b = true)
  (hhk : s.hk.stopping = none) (hslot : batchSlot s nw b pat.window = some slot)

include hrank hstop hserve hpanels hhk hslot

/-- A lead that may form a step, with no recall in progress, forms one of its ready jobs (R237). -/
theorem execStepForm_ready (hrec : b.recalling = none) :
    execStepForm nw s = .next (formReady s nw b slot (min 1024 pat.rowLimit)) := by
  simp [execStepForm, hb, hpat, hrank, hstop, hserve, hpanels, hhk, hslot, hrec]

/-- With a recall that waits for recomputation alone, it forms a RECOMPUTE step (R237). -/
theorem execStepForm_recompute {r : Recall} (hrec : b.recalling = some r) (hw : r.waiting = []) (hv : r.verdicts = []) :
    execStepForm nw s = .next (formRecompute s nw b slot (min 1024 pat.rowLimit) r) := by
  simp [execStepForm, hb, hpat, hrank, hstop, hserve, hpanels, hhk, hslot, hrec, hw, hv]

end

/-- Settles O18: what keeps a lead from forming a step, and the step that it forms where nothing does. -/
theorem leadsFormStepsWhereTheyMay : Obligations.LeadsFormStepsWhereTheyMay := by
  unfold Obligations.LeadsFormStepsWhereTheyMay
  refine ⟨fun s nw slot b pat hb hpat hrank hstop hserve hpanels hhk hslot => ⟨fun hrec => ?_, fun r hrec hw hv => ?_⟩,
    fun s nw b pat hb hpat h => execStepForm_nothing hb hpat h⟩
  · exact execStepForm_ready hb hpat hrank hstop hserve hpanels hhk hslot hrec
  · exact execStepForm_recompute hb hpat hrank hstop hserve hpanels hhk hslot hrec hw hv

/-! ### The block's step -/

/-- A step runs the front of the queue on the rest. -/
theorem step_of_cons {c : Instr} {q : List Instr} (h : s.pending = c :: q) : step s = exec c (s.withPending q) := by
  unfold step
  rw [h]

/-- With no command waiting a microsecond passes (R36). -/
theorem step_of_nil (h : s.pending = []) : step s = .next (tick s) := by
  unfold step
  rw [h]

/-- Settles O1: a step is its queue's case. -/
theorem stepsRunTheQueue : Obligations.StepsRunTheQueue :=
  ⟨fun _ _ _ h => step_of_cons h, fun _ h => step_of_nil h⟩

end Sys2Proof.Machine

/-! SUPPORT. What a clear write and a count leave of each counter, and of the rest of the state (R78, R109, R435). -/

namespace Sys2Proof.Machine

variable {s t : State} {p : PageId} {w : Window} {clear off tile n k : Nat} {ks : List Nat}

/-! ### Clear writes -/

/-- A read of a map from which entries are dropped by their keys. -/
theorem mapGet_filter_key {V : Type} {d : V} {m : List (Nat × V)} {f : Nat → Bool} :
    mapGet d (m.filter fun kv => f kv.1) k = if f k = true then mapGet d m k else d := by
  induction m with
  | nil => simp [mapGet]
  | cons e m ih =>
    obtain ⟨x, v⟩ := e
    by_cases hx : x = k
    · subst hx
      by_cases hf : f x = true <;> simp [hf, mapGet, ih]
    · by_cases hf : f x = true <;> simp [hf, hx, mapGet, ih]

/-- The state with the counters of some keys at zero. -/
def dropCounters (s : State) (ks : List Nat) : State := { s with counters := s.counters.filter fun kv => !ks.contains kv.1 }

theorem dropCounters_counters : mapGet Counter.zero (dropCounters s ks).counters k =
    if k ∈ ks then Counter.zero else mapGet Counter.zero s.counters k := by
  simp only [dropCounters]
  rw [mapGet_filter_key (f := fun x => !ks.contains x)]
  by_cases h : k ∈ ks <;> simp [h]

theorem dropCounters_append {ls : List Nat} : dropCounters s (ks ++ ls) = dropCounters (dropCounters s ks) ls := by
  simp only [dropCounters, List.filter_filter, List.contains_append, Bool.not_or, Bool.and_comm]

/-- The keys of a run of counters, for each of some tiles. -/
def runKeys (p : PageId) (first n : Nat) (tiles : List Nat) : List Nat :=
  (List.range n).flatMap fun i => tiles.map fun t => cntKey p (first + 8 * i) t

theorem mem_runKeys {first : Nat} {tiles : List Nat} :
    k ∈ runKeys p first n tiles ↔ ∃ i < n, ∃ t ∈ tiles, cntKey p (first + 8 * i) t = k := by
  simp [runKeys]

theorem clearRun_eq {first : Nat} {tiles : List Nat} : clearRun s p first n tiles = dropCounters s (runKeys p first n tiles) := rfl

/-- The keys of the counters that a page's clear register at an offset clears (R435). -/
def clearKeys (p : PageId) (clear : Nat) : List Nat :=
  ((cntRuns p).filter fun r => r.2.2 == clear).flatMap fun r => runKeys p r.1 r.2.1 [0]

theorem mem_clearKeys : k ∈ clearKeys p clear ↔ ∃ first n i, (first, n, clear) ∈ cntRuns p ∧ i < n ∧ k = cntKey p (first + 8 * i) 0 := by
  simp only [clearKeys, List.mem_flatMap, List.mem_filter, mem_runKeys, beq_iff_eq, List.mem_singleton, exists_eq_left]
  constructor
  · rintro ⟨⟨first, n, c⟩, ⟨hr, rfl⟩, i, hi, rfl⟩
    exact ⟨first, n, i, hr, hi, rfl⟩
  · rintro ⟨first, n, i, hr, hi, rfl⟩
    exact ⟨(first, n, clear), ⟨hr, rfl⟩, i, hi, rfl⟩

theorem foldl_clearRun {rs : List (Nat × Nat × Nat)} :
    rs.foldl (fun s r => clearRun s p r.1 r.2.1 [0]) s = dropCounters s (rs.flatMap fun r => runKeys p r.1 r.2.1 [0]) := by
  induction rs generalizing s with
  | nil => simp [dropCounters]
  | cons r rs ih => rw [List.foldl_cons, ih, clearRun_eq, List.flatMap_cons, dropCounters_append]

/-- An accepted clear write of a page's run (R78, R435). -/
theorem cntClear_passes (h : Passes s w p clear) : cntClear s w p clear = countClear (dropCounters s (clearKeys p clear)) p := by
  rw [cntClear, gated_of_passes h, foldl_clearRun]
  rfl

/-- The state's counters of some keys at zero, one more clear counted at the page, and nothing else changed (R78, R435). -/
def Cleared (s t : State) (p : PageId) (ks : List Nat) : Prop :=
  (∀ k, mapGet Counter.zero t.counters k = if k ∈ ks then Counter.zero else mapGet Counter.zero s.counters k)
  ∧ (getHdr t p).clears = (getHdr s p).clears + 1 ∧ t = { s with hdrs := t.hdrs, counters := t.counters }

theorem cleared_countClear : Cleared s (countClear (dropCounters s ks) p) p ks := by
  refine ⟨fun k => dropCounters_counters, ?_, rfl⟩
  rw [countClear, getHdr_modHdr]
  rfl

/-- What a clear register at an offset of a page comes to: its runs at zero, every other counter as it was. -/
theorem Cleared.runs (h : Cleared s t p (clearKeys p clear)) :
    (∀ first n, (first, n, clear) ∈ cntRuns p → ∀ i, i < n → getCnt t p (first + 8 * i) 0 = Counter.zero)
    ∧ (∀ k, (∀ first n i, (first, n, clear) ∈ cntRuns p → i < n → k ≠ cntKey p (first + 8 * i) 0) →
        mapGet Counter.zero t.counters k = mapGet Counter.zero s.counters k)
    ∧ (getHdr t p).clears = (getHdr s p).clears + 1 ∧ t = { s with hdrs := t.hdrs, counters := t.counters } := by
  obtain ⟨hc, hrest⟩ := h
  refine ⟨fun first n hr i hi => ?_, fun k hk => ?_, hrest⟩
  · exact (hc _).trans (if_pos (mem_clearKeys.mpr ⟨first, n, i, hr, hi, rfl⟩))
  · refine (hc k).trans (if_neg fun hm => ?_)
    obtain ⟨first, n, i, hr, hi, e⟩ := mem_clearKeys.mp hm
    exact hk first n i hr hi e

/-- CLEAR_TILE clears the five HEM counters of the selected tile (R78). -/
theorem execClearTile_passes {i : Nat} (h : Passes s w (.panel i) 0x430) : execClearTile w i s =
    .next (countClear (dropCounters s (runKeys (.panel i) 0x408 5 [field (getReg s (.panel i) 0x400) 4 0])) (.panel i)) := by
  rw [execClearTile, gated_of_passes h, clearRun_eq]

/-- CLEAR_ALL clears those of every tile (R78). -/
theorem execClearAll_passes {i : Nat} (h : Passes s w (.panel i) 0x430) : execClearAll w i s =
    .next (countClear (dropCounters s (runKeys (.panel i) 0x408 5 (List.range 24))) (.panel i)) := by
  rw [execClearAll, gated_of_passes h, clearRun_eq]

/-- A HEM counter's key tells its tile (R77). -/
theorem cntKey_tile {o o' tile' : Nat} (h : tile < 32) (h' : tile' < 32) (e : cntKey p o tile = cntKey p o' tile') : tile = tile' := by
  unfold cntKey at e
  omega

/-! ### Counting -/

/-- The count after n more stops at its highest value (R78). -/
theorem cntAdd_count {c : Counter} : (cntAdd c n).count.toNat = min 0xFFFFFFFFFFFF (c.count.toNat + n) := by
  unfold cntAdd cntMax
  split
  case isTrue h => rw [BitVec.toNat_ofNat, Nat.mod_eq_of_lt (by omega), Nat.min_eq_right h.le]
  case isFalse h => rw [Nat.min_eq_left (by omega)]; rfl

/-- OVF is set by the count that reaches the highest value, and stays (R78). -/
theorem cntAdd_ovf {c : Counter} : (cntAdd c n).ovf = true ↔ c.ovf = true ∨ 0xFFFFFFFFFFFF ≤ c.count.toNat + n := by
  unfold cntAdd cntMax
  split
  case isTrue h => simp [Nat.not_le.mpr h]
  case isFalse h => simp [Nat.not_lt.mp h]

/-- Every counter's event is one of the page's 64. -/
theorem cntEvent_lt : cntEvent p off < 64 := by
  unfold cntEvent
  split
  case h_1 => split_ifs <;> decide
  case h_2 => split_ifs <;> decide
  all_goals decide

/-- The state with a counter n higher. -/
def counted (s : State) (p : PageId) (off tile n : Nat) : State :=
  { s with counters := mapMod Counter.zero s.counters (cntKey p off tile) fun c => cntAdd c n }

theorem getCnt_counted : getCnt (counted s p off tile n) p off tile = cntAdd (getCnt s p off tile) n :=
  mapGet_mapMod_self (f := fun c => cntAdd c n)

/-- It leaves every other counter. -/
theorem counted_other (h : k ≠ cntKey p off tile) :
    mapGet Counter.zero (counted s p off tile n).counters k = mapGet Counter.zero s.counters k :=
  mapGet_mapMod_ne (f := fun c => cntAdd c n) (Ne.symm h)

/-- Counting at a page that is there: the count, and the event of a saturation (R78). -/
theorem bumpTile_eq (hp : pageExists s p = true) (hn : n ≠ 0) : bumpTile s p off tile n =
    if ((cntAdd (getCnt s p off tile) n).ovf && !(getCnt s p off tile).ovf) = true then
      raiseEvent (counted s p off tile n) p (cntEvent p off) []
    else counted s p off tile n := by
  have hgo : ¬ (n = 0 ∨ (!pageExists s p) = true) := by simp [hn, hp]
  rw [bumpTile, bumpIds, if_neg hgo]
  rfl

theorem bumpTile_counters (hp : pageExists s p = true) (hn : n ≠ 0) :
    (bumpTile s p off tile n).counters = (counted s p off tile n).counters := by
  rw [bumpTile_eq hp hn]
  split
  · simp only [raiseEvent_fields]
  · rfl

/-- The count that saturates a counter raises its page's event (R78, R80). -/
theorem bumpTile_raises (hp : pageExists s p = true) (hn : n ≠ 0) (hmax : 0xFFFFFFFFFFFF ≤ (getCnt s p off tile).count.toNat + n)
    (hovf : (getCnt s p off tile).ovf = false) : Raised (bumpTile s p off tile n) p (cntEvent p off) := by
  have hsat : ((cntAdd (getCnt s p off tile) n).ovf && !(getCnt s p off tile).ovf) = true := by
    rw [cntAdd_ovf.mpr (.inr hmax), hovf]; rfl
  rw [bumpTile_eq hp hn, if_pos hsat]
  exact raiseEvent_raised hp cntEvent_lt

/-- Any other count changes the counters alone. -/
theorem bumpTile_quiet (hp : pageExists s p = true) (hn : n ≠ 0)
    (h : (getCnt s p off tile).count.toNat + n < 0xFFFFFFFFFFFF ∨ (getCnt s p off tile).ovf = true) :
    bumpTile s p off tile n = counted s p off tile n := by
  rw [bumpTile_eq hp hn, if_neg]
  rw [Bool.and_eq_true, cntAdd_ovf, Bool.not_eq_true']
  rintro ⟨hsat | hsat, hclear⟩
  · exact absurd hsat (by simp [hclear])
  · rcases h with h | h
    · omega
    · exact absurd h (by simp [hclear])

/-- Settles O51: a clear write drops its keys' counters, and a count is one changed counter with the event of its saturation. -/
theorem countersClearAndSaturate : Obligations.CountersClearAndSaturate := by
  unfold Obligations.CountersClearAndSaturate
  refine ⟨fun s w => ?_, fun s p off tile n hp hn => ?_⟩
  · intro cleared
    have run : ∀ {p clear c}, exec c s = .next (cntClear s w p clear) → cleared p clear c := fun {p clear c} hc hpass =>
      ⟨_, hc.trans (congrArg _ (cntClear_passes hpass)), cleared_countClear.runs⟩
    refine ⟨run rfl, run rfl, run rfl, run rfl, run rfl, run rfl, run rfl, run rfl,
      fun p k => ⟨run rfl, run rfl, run rfl, run rfl, run rfl, run rfl, run rfl, run rfl, run rfl⟩, fun p hpass => ?_⟩
    intro sel
    have hsel : sel < 32 := Nat.mod_lt _ (by decide)
    obtain ⟨hone, hclears, hshape⟩ := cleared_countClear (s := s) (p := .panel p) (ks := runKeys (.panel p) 0x408 5 [sel])
    obtain ⟨hall, hclears', hshape'⟩ := cleared_countClear (s := s) (p := .panel p) (ks := runKeys (.panel p) 0x408 5 (List.range 24))
    refine ⟨⟨_, execClearTile_passes hpass, fun i hi => ?_, fun tile i ht hne hi => ?_, hclears, hshape⟩,
      ⟨_, execClearAll_passes hpass, fun tile i ht hi => ?_, hclears', hshape'⟩⟩
    · exact (hone _).trans (if_pos (mem_runKeys.mpr ⟨i, hi, sel, List.mem_singleton_self sel, rfl⟩))
    · refine (hone _).trans (if_neg fun hm => ?_)
      obtain ⟨j, -, u, hu, e⟩ := mem_runKeys.mp hm
      rw [List.mem_singleton.mp hu] at e
      exact hne (cntKey_tile hsel ht e).symm
    · exact (hall _).trans (if_pos (mem_runKeys.mpr ⟨i, hi, tile, List.mem_range.mpr ht, rfl⟩))
  · intro c t
    have ht : t.counters = (counted s p off tile n).counters := bumpTile_counters hp hn
    have hc : getCnt t p off tile = cntAdd c n := by
      rw [getCnt, ht]; exact getCnt_counted
    refine ⟨?_, ?_, bumpTile_raises hp hn, fun h => ?_, fun k hk => ?_⟩
    · rw [hc, cntAdd_count]
    · rw [hc, cntAdd_ovf]
    · unfold t; rw [bumpTile_quiet hp hn h]; rfl
    · rw [ht]; exact counted_other hk

end Sys2Proof.Machine

/-! SUPPORT. Physical arrays under a change of one, the admission of the request whose turn it is, and programming in quarters, rows and
rounds up to its end (R67 to R72, R126, R224, R415). -/

namespace Sys2Proof.Machine

variable {s t : State} {a : ArrId} {r : ProgReq}

/-! ### A changed array -/

theorem getArr_of_arrs (h : t.arrays.arrs = s.arrays.arrs) : getArr t a = getArr s a := by unfold getArr; rw [h]

/-- The state with an array's entry put in its table. -/
def putArr (s : State) (a : ArrId) (x : Arr) : State :=
  { s with arrays := { s.arrays with arrs := mapSet Arr.start s.arrays.arrs (arrKey a) x } }

theorem getArr_putArr {x : Arr} : getArr (putArr s a x) a = x := mapGet_mapSet_self

/-- A changed array is read as changed. -/
@[simp] theorem getArr_modArr {f : Arr → Arr} : getArr (modArr s a f) a = f (getArr s a) := by
  unfold modArr
  dsimp only
  split <;> exact getArr_putArr

/-- A changed array leaves the requests that wait, and every store but the arrays' and what waits for its commit. -/
@[simp] theorem modArr_fields {f : Arr → Arr} :
    (modArr s a f).arrays.waiting = s.arrays.waiting ∧ (modArr s a f).freeCtr = s.freeCtr ∧ (modArr s a f).hdrs = s.hdrs
    ∧ (modArr s a f).regs = s.regs ∧ (modArr s a f).jobs = s.jobs ∧ (modArr s a f).panels = s.panels
    ∧ (modArr s a f).bolts = s.bolts := by
  unfold modArr
  dsimp only
  split <;> exact ⟨rfl, rfl, rfl, rfl, rfl, rfl, rfl⟩

/-! ### Admission -/

/-- Which request is considered: the first that may start, those of the first class before the others (R70). -/
def nextRequest (s : State) : Option ProgReq :=
  (s.arrays.waiting.filter firstClass ++ s.arrays.waiting.filter fun r => !firstClass r).find? (admissible s)

/-- While the rail has no room for one array more, every request waits (R70). -/
theorem admitNext_full (h : nextRequest s = some r) (hfull : progLimit s < (activeArrs s + 1) * 2) : admitNext s = s := by
  unfold nextRequest at h
  simp only [admitNext, h, Nat.not_le.mpr hfull, if_false]

/-- With room, the request's array enters programming (R70). -/
theorem admitNext_room (h : nextRequest s = some r) (hroom : (activeArrs s + 1) * 2 ≤ progLimit s) : admitNext s = startProg s r := by
  unfold nextRequest at h
  simp only [admitNext, h, hroom, if_true]

/-- A request taken out of those that wait. -/
def dequeued (s : State) (r : ProgReq) : State := { s with arrays := { s.arrays with waiting := s.arrays.waiting.erase r } }

/-- An admitted request waits no longer, its array programs from row 0, and of the rest calibrations and bolts alone change (R67, R122). -/
theorem startProg_shape : ∃ f cal bolts,
    (∀ x : Arr, (f x).st = .programming ∧ (f x).req = some r ∧ (f x).row = 0 ∧ (f x).round = 0)
    ∧ startProg s r =
      let t := modArr (dequeued s r) r.target f
      { t with arrays := { t.arrays with cal := cal }, bolts := bolts } := by
  unfold startProg
  dsimp only
  split <;> exact ⟨_, _, _, fun x => ⟨rfl, rfl, rfl, rfl⟩, rfl⟩

/-- Its request waits no longer, its array is at row 0, and no header, register, job or panel changes. -/
theorem startProg_starts :
    let t := startProg s r
    (getArr t r.target).st = .programming ∧ (getArr t r.target).req = some r ∧ (getArr t r.target).row = 0
    ∧ (getArr t r.target).round = 0 ∧ t.arrays.waiting = s.arrays.waiting.erase r
    ∧ t.hdrs = s.hdrs ∧ t.regs = s.regs ∧ t.jobs = s.jobs ∧ t.panels = s.panels := by
  obtain ⟨f, cal, bolts, hf, hshape⟩ := startProg_shape (s := s) (r := r)
  obtain ⟨hst, hreq, hrow, hround⟩ := hf (getArr (dequeued s r) r.target)
  obtain ⟨hw, -, hh, hr, hj, hp, -⟩ := modArr_fields (s := dequeued s r) (a := r.target) (f := f)
  have harr : getArr (startProg s r) r.target = f (getArr (dequeued s r) r.target) := by
    rw [hshape]; exact getArr_modArr
  dsimp only
  rw [harr, hshape]
  exact ⟨hst, hreq, hrow, hround, hw, hh, hr, hj, hp⟩

/-- Whether no fit of an array's tile waits for its swap (R126). -/
def fitTaken (s : State) (a : ArrId) : Bool := match calTileOf s a with | some (p, t) => (getCal s p t).stage != 3 | none => true

theorem fitTaken_iff : fitTaken s a = true ↔ ∀ p t, calTileOf s a = some (p, t) → (getCal s p t).stage ≠ 3 := by
  unfold fitTaken
  rcases calTileOf s a with _ | ⟨p, t⟩ <;> simp

theorem admissible_eq : admissible s r = ((getArr s r.target).st != .programming && (r.kind == .zeroise ||
    ((getArr s r.target).st != .zeroisePending && !(s.arrays.waiting.any fun q => q.kind == .zeroise && q.target == r.target)
      && arrFree s r.target && sourceReady s r && fitTaken s r.target))) := rfl

/-- When an array may be programmed with a block: the conditions of R67, R126, R224 and R415. -/
theorem admissible_iff (h : r.kind ≠ .zeroise) : admissible s r = true ↔
    (getArr s r.target).st ≠ .programming ∧ (getArr s r.target).st ≠ .zeroisePending
    ∧ (∀ q ∈ s.arrays.waiting, q.kind = .zeroise → q.target ≠ r.target) ∧ arrFree s r.target = true ∧ sourceReady s r = true
    ∧ fitTaken s r.target = true := by
  rw [admissible_eq]
  simp [h, and_assoc]

/-- Settles O28: the rail's room decides for the first admissible request, which enters programming at row 0. -/
theorem admissionKeepsTheRailLimit : Obligations.AdmissionKeepsTheRailLimit := by
  unfold Obligations.AdmissionKeepsTheRailLimit
  intro s
  refine ⟨fun h => ?_, fun hrun hrails => ?_, fun r h => ⟨admitNext_full h, fun hroom => ?_⟩, fun r hk h => ?_⟩
  · have : (s.start.restarting || !s.power.compute) = true := by simpa using h
    exact congrArg _ (if_pos this)
  · have : ¬ (s.start.restarting || !s.power.compute) = true := by simp [hrun, hrails]
    exact congrArg _ (if_neg this)
  · dsimp only
    rw [admitNext_room h hroom]
    exact startProg_starts
  · obtain ⟨hst, hzp, hzero, hfree, hsrc, hcal⟩ := (admissible_iff hk).mp h
    exact ⟨hst, hzp, hfree, hsrc, fun q hq ht hz => hzero q hq hz ht, fitTaken_iff.mp hcal⟩

/-! ### Requests and quarters -/

/-- A request for an array that may take one waits for admission (R67). -/
theorem execProgRequest_taken (hf : arrFree s r.target = true) (hp : (getArr s r.target).st ≠ .programming)
    (hret : (getArr s r.target).st ≠ .retired ∨ r.kind = .zeroise) : execProgRequest r s = .next (requestProg s r) :=
  congrArg _ (if_pos (by simpa [hf, hp] using hret))

/-- The wait for the input buffer of an array's tile over (R36, R297). -/
def buffered (s : State) (a : ArrId) : State := match tileBuffer s a with | some q => endWait s q | none => s

/-- A wait that ends changes the network alone. -/
theorem buffered_fields : (buffered s a).arrays = s.arrays ∧ (buffered s a).hdrs = s.hdrs ∧ (buffered s a).regs = s.regs
    ∧ (buffered s a).panels = s.panels ∧ (buffered s a).freeCtr = s.freeCtr := by
  unfold buffered
  split <;> exact ⟨rfl, rfl, rfl, rfl, rfl⟩

/-- An array with its next quarter staged (R67). -/
def Arr.staged (x : Arr) : Arr := { x with quarter := x.quarter + 1 }

section

variable (hreq : (getArr s a).req = some r) (hst : (getArr s a).st = .programming)

include hreq hst

section

variable (hk : r.kind ≠ .zeroise) (hq : (getArr s a).quarter < 4) (hrow : (getArr s a).row = 256 * (getArr s a).quarter)
  (hsrc : sourceReady s r = true)

include hk hq hrow hsrc

/-- A quarter whose lines find a credit is staged (R67). -/
theorem execProgQuarterStage_stages (hcr : ∀ q, tileBuffer s a = some q → creditFree s q = true) :
    execProgQuarterStage a s = .next (modArr (buffered s a) a Arr.staged) := by
  simp only [execProgQuarterStage, hreq, hst, hq, hrow, hsrc, ne_eq, hk, not_false_eq_true, and_self, if_true, buffered]
  cases hb : tileBuffer s a with
  | none => rfl
  | some q => simp only [hcr q hb, if_true]; rfl

/-- One without a credit waits for it (R31, R36). -/
theorem execProgQuarterStage_waits {q : QueueId} (hb : tileBuffer s a = some q) (hcr : creditFree s q = false) :
    execProgQuarterStage a s = .next (beginWait s q) := by
  simp only [execProgQuarterStage, hreq, hst, hq, hrow, hsrc, ne_eq, hk, not_false_eq_true, and_self, if_true, hb, hcr,
    Bool.false_eq_true, if_false]

end

/-! ### Rounds -/

/-- The bytes of a request's source block (R224). -/
def blockImage (s : State) (r : ProgReq) : List Byte :=
  match getBolt s r.bolt with | some b => (blockLevels b r.panel r.number).getD [] | none => []

/-- The levels that an array's row is to hold (R68). -/
def rowGoal (s : State) (a : ArrId) (r : ProgReq) : List Int := rowTargets (blockImage s r) r (getArr s a).row

/-- The reading before a round's pulse: the last round's, or one of its own in a row's first round (R68). -/
def readBefore (s : State) (a : ArrId) (r : ProgReq) : List Int :=
  if (getArr s a).cells = [] then verifyReads s.freeCtr (rowGoal s a r).length else (getArr s a).cells

/-- The free values drawn up to the pulse. -/
def ctrBefore (s : State) (a : ArrId) (r : ProgReq) : Nat :=
  if (getArr s a).cells = [] then s.freeCtr + (rowGoal s a r).length else s.freeCtr

/-- The reading after a round's pulse, and the free values drawn up to it (R68). -/
def readAfter (s : State) (a : ArrId) (r : ProgReq) : List Int := verifyReads (ctrBefore s a r) (rowGoal s a r).length

/-- The array after a round that leaves cells outside their windows: the pulses of the round, 50 mV further in the next (R68). -/
def Arr.pulsed (tgt before after : List Int) (win : Int) (x : Arr) : Arr :=
  { x with
    round := x.round + 1
    cells := after
    pulses := roundPulses tgt before win x.setMv x.rstMv
    setMv := min (x.setMv + 50) 1850
    rstMv := min (x.rstMv + 50) 1950 }

variable (hrow : (getArr s a).row < (if r.kind = .zeroise then 1024 else 256 * (getArr s a).quarter))

include hrow

/-- A round of a row that is not yet written. -/
theorem execProgRound_eq : execProgRound a s = .next
    (let tgt := rowGoal s a r
     let out := outside tgt (readAfter s a r) (progWindow r)
     let read := { s with freeCtr := ctrBefore s a r + tgt.length }
     if (outside tgt (readBefore s a r) (progWindow r)).1 = 0 then endRow { s with freeCtr := ctrBefore s a r } a r (0, 0)
     else if out.1 = 0 ∨ 15 ≤ (getArr s a).round then endRow read a r out
     else modArr read a (Arr.pulsed tgt (readBefore s a r) (readAfter s a r) (progWindow r))) := by
  have hgo : ¬ ((getArr s a).st ≠ .programming ∨ (if r.kind = .zeroise then 1024 else 256 * (getArr s a).quarter) ≤ (getArr s a).row) := by
    simpa [hst] using hrow
  simp only [execProgRound, hreq, if_neg hgo, List.isEmpty_iff]
  rfl

variable (hbad : (outside (rowGoal s a r) (readBefore s a r) (progWindow r)).1 ≠ 0)

/-- A row with every cell inside its window before the pulse ends without one (R68). -/
theorem execProgRound_inside (hok : (outside (rowGoal s a r) (readBefore s a r) (progWindow r)).1 = 0) :
    execProgRound a s = .next (endRow { s with freeCtr := ctrBefore s a r } a r (0, 0)) :=
  (execProgRound_eq hreq hst hrow).trans (congrArg _ (if_pos hok))

include hbad

/-- A row ends with every cell inside its window after the pulse, or with its sixteenth round (R68). -/
theorem execProgRound_ends (hend : (outside (rowGoal s a r) (readAfter s a r) (progWindow r)).1 = 0 ∨ 15 ≤ (getArr s a).round) :
    execProgRound a s = .next (endRow { s with freeCtr := ctrBefore s a r + (rowGoal s a r).length } a r
      (outside (rowGoal s a r) (readAfter s a r) (progWindow r))) :=
  (execProgRound_eq hreq hst hrow).trans (congrArg _ ((if_neg hbad).trans (if_pos hend)))

/-- Else another round follows (R68). -/
theorem execProgRound_pulses (hmore : ¬ ((outside (rowGoal s a r) (readAfter s a r) (progWindow r)).1 = 0 ∨ 15 ≤ (getArr s a).round)) :
    execProgRound a s = .next (modArr { s with freeCtr := ctrBefore s a r + (rowGoal s a r).length } a
      (Arr.pulsed (rowGoal s a r) (readBefore s a r) (readAfter s a r) (progWindow r))) :=
  (execProgRound_eq hreq hst hrow).trans (congrArg _ ((if_neg hbad).trans (if_neg hmore)))

end

/-! ### The end of a row -/

/-- An array with its row's last reading counted and the next row begun (R68, R69). -/
def Arr.rowEnded (out : Nat × Nat) (x : Arr) : Arr :=
  { x with
    row := x.row + 1
    round := 0
    cells := []
    setMv := 1100
    rstMv := 1200
    pulses := []
    near := x.near + (out.1 - out.2)
    far := x.far + out.2 }

/-- An array with the margin test of a quarter counted (R69). -/
def Arr.tested (m : Bool × Nat × Nat) (x : Arr) : Arr :=
  { x with
    marginBad := x.marginBad || !m.1
    marginSq := x.marginSq + m.2.1
    marginN := x.marginN + m.2.2 }

/-- The state with free values drawn. -/
def drawn (s : State) (n : Nat) : State := { s with freeCtr := s.freeCtr + n }

theorem getArr_drawn {n : Nat} : getArr (drawn s n) a = getArr s a := rfl

theorem drawn_fields {n : Nat} : (drawn s n).hdrs = s.hdrs ∧ (drawn s n).regs = s.regs ∧ (drawn s n).panels = s.panels
    ∧ (drawn s n).jobs = s.jobs := ⟨rfl, rfl, rfl, rfl⟩

variable {out : Nat × Nat}

/-- The end of a row, by whether the quarter's margin test follows. -/
theorem endRow_eq : endRow s a r out =
    (let s1 := modArr s a (Arr.rowEnded out)
     if (r.kind != .zeroise && (getArr s1 a).row % 256 == 0) = true then
       modArr (drawn s1 (marginTest r.exact s1.freeCtr).2.2) a (Arr.tested (marginTest r.exact s1.freeCtr))
     else s1) := by
  unfold endRow
  generalize marginTest = m
  rfl

/-- The last row of a quarter is followed by the quarter's margin test (R69). -/
theorem endRow_quarter (hk : r.kind ≠ .zeroise) (hrow : ((getArr s a).row + 1) % 256 = 0) : endRow s a r out =
    modArr (drawn (modArr s a (Arr.rowEnded out)) (marginTest r.exact s.freeCtr).2.2) a
      (Arr.tested (marginTest r.exact s.freeCtr)) := by
  have hctr : (modArr s a (Arr.rowEnded out)).freeCtr = s.freeCtr := by simp only [modArr_fields]
  have htest : (r.kind != .zeroise && (getArr (modArr s a (Arr.rowEnded out)) a).row % 256 == 0) = true := by
    simp [hk, Arr.rowEnded, hrow]
  rw [endRow_eq]
  dsimp only
  rw [if_pos htest, hctr]

/-- Any other row, and any of a zeroisation, has none (R69, R72). -/
theorem endRow_plain (h : r.kind = .zeroise ∨ ((getArr s a).row + 1) % 256 ≠ 0) :
    endRow s a r out = modArr s a (Arr.rowEnded out) := by
  refine endRow_eq.trans (if_neg ?_)
  rcases h with h | h <;> simp [h, Arr.rowEnded]

theorem getArr_endRow_quarter (hk : r.kind ≠ .zeroise) (hrow : ((getArr s a).row + 1) % 256 = 0) :
    getArr (endRow s a r out) a = Arr.tested (marginTest r.exact s.freeCtr) (Arr.rowEnded out (getArr s a)) := by
  rw [endRow_quarter hk hrow, getArr_modArr, getArr_drawn, getArr_modArr]

theorem getArr_endRow_plain (h : r.kind = .zeroise ∨ ((getArr s a).row + 1) % 256 ≠ 0) :
    getArr (endRow s a r out) a = Arr.rowEnded out (getArr s a) := by
  rw [endRow_plain h, getArr_modArr]

/-- The end of a row changes no header, register, panel or job. -/
theorem endRow_fields : (endRow s a r out).hdrs = s.hdrs ∧ (endRow s a r out).regs = s.regs ∧ (endRow s a r out).panels = s.panels
    ∧ (endRow s a r out).jobs = s.jobs := by
  rw [endRow_eq]
  dsimp only
  split <;> simp only [modArr_fields, drawn_fields, and_self]

/-- Every row's end begins the next row and counts the cells left outside their windows (R68, R69). -/
theorem endRow_counts : (getArr (endRow s a r out) a).row = (getArr s a).row + 1 ∧ (getArr (endRow s a r out) a).round = 0
    ∧ (getArr (endRow s a r out) a).near = (getArr s a).near + (out.1 - out.2)
    ∧ (getArr (endRow s a r out) a).far = (getArr s a).far + out.2 := by
  by_cases h : r.kind = .zeroise ∨ ((getArr s a).row + 1) % 256 ≠ 0
  · rw [getArr_endRow_plain h]
    exact ⟨rfl, rfl, rfl, rfl⟩
  · obtain ⟨hk, hrow⟩ := not_or.mp h
    rw [getArr_endRow_quarter hk (not_not.mp hrow)]
    exact ⟨rfl, rfl, rfl, rfl⟩

/-! ### The end of programming -/

/-- An array at level 0, without a block: RETIRED when it is spent (R72, R129). -/
def Arr.zeroed (x : Arr) : Arr :=
  { x with
    st := if x.spent then .retired else .zeroised
    exact := false
    exactOk := false
    image := []
    holder := none
    req := none
    cells := []
    src := none }

/-- An array whose zeroisation is to be done again (R72). -/
def Arr.zeroiseAgain (x : Arr) : Arr := { x with st := .zeroisePending, req := none, cells := [], src := none }

/-- PROG_FAIL at the panel of an array's position, where it has one (R80). -/
def progFail (s : State) (a : ArrId) (r : ProgReq) : State :=
  match eventPos s a r with | some (p, t, i) => raiseEvent s (.panel p) 19 [(5, t), (5, i)] | none => s

section

variable {gs : List GaugeSum} {ok : Bool} (hreq : (getArr s a).req = some r) (hst : (getArr s a).st = .programming)
  (hrow : (getArr s a).row = 1024)

include hreq hst hrow

/-- A block that is written: refused beyond the limits, else accepted as soon as its swap may happen (R67, R69). -/
theorem execProgComplete_written (hk : r.kind ≠ .zeroise) : execProgComplete a gs s = .next
    (if acceptable (getArr s a) r = false then rejectArr s a (getArr s a) r
     else if swapReady s a r = true then acceptArr s a r gs else s) := by
  simp only [execProgComplete, hreq, hst, hrow, hk, ne_eq, not_true_eq_false, or_self, if_false, Bool.not_eq_true']

/-- A zeroisation with every cell at level 0 is counted, and its array is zeroised (R72). -/
theorem execZeroisation_done (hk : r.kind = .zeroise) (hok : ok = true) (hn : (getArr s a).near = 0) (hf : (getArr s a).far = 0) :
    execZeroisation a ok s = .next (pumpLoads (arrayDone (bump (modArr s a Arr.zeroed) .sec 0x0B8) a false)) := by
  simp only [execZeroisation, hreq, hst, hrow, hk, hok, hn, hf, ne_eq, not_true_eq_false, or_self, if_false, Nat.add_zero, beq_self_eq_true,
    Bool.and_self, if_true]
  rfl

/-- One that has failed is to be done again, and raises PROG_FAIL (R72, R80). -/
theorem execZeroisation_failed (hk : r.kind = .zeroise) (hbad : ok = false ∨ (getArr s a).near ≠ 0 ∨ (getArr s a).far ≠ 0) :
    execZeroisation a ok s = .next (progFail (queueZero (modArr s a Arr.zeroiseAgain) a) a r) := by
  have hno : ¬ (ok && (getArr s a).near + (getArr s a).far == 0) = true := by
    cases ok <;> simp at hbad ⊢
    omega
  simp only [execZeroisation, hreq, hst, hrow, hk, ne_eq, not_true_eq_false, or_self, if_false, if_neg hno]
  rfl

end

/-- Settles O29: a request, a quarter, a round, a row's end and an array's end, each by its row's equation. -/
theorem programmingRequestsRoundsAndEnds : Obligations.ProgrammingRequestsRoundsAndEnds := by
  unfold Obligations.ProgrammingRequestsRoundsAndEnds
  refine ⟨fun s r a => ⟨execProgRequest_taken, fun hreq hst hk hq hrow hsrc =>
      ⟨fun hcr => ?_, fun q hb hcr => execProgQuarterStage_waits hreq hst hk hq hrow hsrc hb hcr⟩⟩,
    fun s a r hreq hst hrow => ⟨execProgRound_inside hreq hst hrow, fun hbad hend => execProgRound_ends hreq hst hrow hbad hend,
      fun hbad hout hround => execProgRound_pulses hreq hst hrow hbad (not_or.mpr ⟨hout, Nat.not_le.mpr hround⟩)⟩,
    fun s a r out => ?_, fun s a r gs ok hreq hst hrow => ?_⟩
  · obtain ⟨harrays, hh, hr, hp, hc⟩ := buffered_fields (s := s) (a := a)
    obtain ⟨-, kc, kh, kr, -, kp, -⟩ := modArr_fields (s := buffered s a) (a := a) (f := Arr.staged)
    have harr : getArr (modArr (buffered s a) a Arr.staged) a = (getArr s a).staged :=
      getArr_modArr.trans (congrArg _ (getArr_of_arrs (congrArg _ harrays)))
    refine ⟨_, execProgQuarterStage_stages hreq hst hk hq hrow hsrc hcr, ?_, ?_, ?_, kh.trans hh, kr.trans hr, kp.trans hp, kc.trans hc⟩
    all_goals rw [harr]
    · rfl
    · rfl
    · exact hst
  · obtain ⟨hrow, hround, hnear, hfar⟩ := endRow_counts (s := s) (a := a) (r := r) (out := out)
    obtain ⟨hh, hr, hp, hj⟩ := endRow_fields (s := s) (a := a) (r := r) (out := out)
    refine ⟨hrow, hround, hnear, hfar, fun hk hlast => ?_, fun h => ?_, hh, hr, hp, hj⟩
    · rw [getArr_endRow_quarter hk hlast]; rfl
    · rw [getArr_endRow_plain h, endRow_plain h]
      exact ⟨rfl, by simp only [modArr_fields]⟩
  · refine ⟨fun hk hacc => ?_, fun hk hacc hswap => ?_, fun hk hacc hswap => ?_, execZeroisation_done hreq hst hrow,
      execZeroisation_failed hreq hst hrow⟩
    all_goals rw [show exec (.progComplete a gs) s = _ from execProgComplete_written hreq hst hrow hk]
    · rw [if_pos hacc]
    · rw [if_neg (ne_false_of_eq_true hacc), if_pos hswap]
    · rw [if_neg (ne_false_of_eq_true hacc), if_neg (ne_true_of_eq_false hswap)]

end Sys2Proof.Machine

/-! SUPPORT. What a bobbin's lanes hold once a result is taken (R88, R94, R95). -/

namespace Sys2Proof.Machine

variable {h : HemArr} {r : HemRes} {ls : List Lane} {xs : List Int}

/-! ### Lists taken together -/

theorem zipW_eq_zipWith {α β γ : Type} {f : α → β → γ} {as : List α} {bs : List β} : zipW f as bs = List.zipWith f as bs := by
  induction as generalizing bs with
  | nil => rfl
  | cons a as ih =>
    cases bs with
    | nil => rfl
    | cons b bs => exact congrArg (f a b :: ·) ih

theorem mem_zipW {α β γ : Type} {f : α → β → γ} {as : List α} {bs : List β} {c : γ} :
    c ∈ zipW f as bs ↔ ∃ x ∈ as.zip bs, f x.1 x.2 = c := by
  rw [zipW_eq_zipWith, ← List.map_uncurry_zip_eq_zipWith, List.mem_map]
  rfl

/-! ### Poison marks -/

/-- Lanes with the poison of a result's output blocks (R53, R89). -/
def markPoison (r : HemRes) (ls : List Lane) : List Lane :=
  ls.zipIdx.map fun x => if nth false r.poison (x.2 / 32) then { x.1 with poison := true } else x.1

/-- What of a lane is not its poison, the marks leave. -/
theorem map_markPoison {β : Type} {g : Lane → β} (hg : ∀ l : Lane, g { l with poison := true } = g l) :
    (markPoison r ls).map g = ls.map g := by
  calc (markPoison r ls).map g = ls.zipIdx.map (g ∘ Prod.fst) := by
        rw [markPoison, List.map_map]
        refine List.map_congr_left fun x _ => ?_
        dsimp only [Function.comp]
        split
        · exact hg _
        · rfl
    _ = ls.map g := by rw [← List.map_map, List.zipIdx_map_fst]

/-! ### Runs -/

/-- A run between -524,288 and 524,287 (R94). -/
abbrev FitsRun (n : Int) : Prop := -524288 ≤ n ∧ n ≤ 524287

/-- Marking takes no run out of its range. -/
theorem markPoison_fits (hfit : ∀ l ∈ ls, FitsRun l.n) : ∀ l ∈ markPoison r ls, FitsRun l.n := by
  have hmap : (markPoison r ls).map Lane.n = ls.map Lane.n := map_markPoison fun _ => rfl
  intro l hl
  have hn : l.n ∈ ls.map Lane.n := hmap ▸ List.mem_map_of_mem hl
  obtain ⟨k, hk, hkn⟩ := List.mem_map.mp hn
  exact hkn ▸ hfit k hk

/-- Lanes with a result's values added to their runs, and its flags. -/
def addValues (ls : List Lane) (r : HemRes) : List Lane :=
  zipW (fun l (x : Int × Bool) => { l with n := l.n + x.1, flag := l.flag || x.2 }) ls (r.xs.zip r.flags)

/-- The sums fit when they fit for each lane beside its value. -/
theorem addValues_fits (hsum : ∀ x ∈ ls.zip r.xs, FitsRun (x.1.n + x.2)) : ∀ l ∈ addValues ls r, FitsRun l.n := by
  intro l hl
  obtain ⟨⟨k, x, f⟩, hmem, rfl⟩ := mem_zipW.mp hl
  refine hsum (k, x) ?_
  obtain ⟨i, hi⟩ := List.mem_iff_getElem?.mp hmem
  obtain ⟨hk, hxf⟩ := List.getElem?_zip_eq_some.mp hi
  obtain ⟨hx, -⟩ := List.getElem?_zip_eq_some.mp hxf
  exact List.mem_iff_getElem?.mpr ⟨i, List.getElem?_zip_eq_some.mpr ⟨hk, hx⟩⟩

/-- Whether a result's values take some lane's run outside 20 bits (R94). -/
def leavesRun (ls : List Lane) (xs : List Int) : Bool :=
  (zipW (fun l x => decide (l.n + x < -524288 ∨ 524287 < l.n + x)) ls xs).any id

theorem leavesRun_false (hl : leavesRun ls xs = false) : ∀ x ∈ ls.zip xs, FitsRun (x.1.n + x.2) := by
  intro x hx
  have hout := List.any_eq_false.mp hl _ (mem_zipW.mpr ⟨x, hx, rfl⟩)
  simp only [id, decide_eq_true_eq, not_or, Int.not_lt] at hout
  exact hout

/-- The array as a result that is not zero finds it: promoted where its run may not take the result (R94, R95). -/
def HemArr.opened (h : HemArr) (r : HemRes) : HemArr :=
  let h0 := { h with lanes := h.lanesOf r.xs.length }
  if h0.run && (decide (r.ep ≠ h0.er) || (r.firstPhase && decide (16 ≤ h0.np)) || leavesRun h0.lanes r.xs) then h0.promote else h0

theorem take_of_nonzero (hz : r.zero = false) : (h.take r).lanes = markPoison r (addValues (h.opened r).lanes r) := by
  simp only [HemArr.take, hz, Bool.false_eq_true, if_false]
  rfl

theorem take_of_zero (hz : r.zero = true) : h.take r = { h with
    lanes := markPoison r (h.lanesOf r.xs.length), fed := h.fed ++ [r], uncal := h.uncal || r.uncal, satIn := h.satIn || r.satIn } := by
  simp only [HemArr.take, hz, if_true]
  rfl

/-- A promotion leaves every run at zero (R95). -/
theorem promote_run (hrun : h.run = true) : ∀ l ∈ h.promote.lanes, l.n = 0 := by
  intro l hl
  simp only [HemArr.promote, hrun, Bool.not_true, Bool.false_eq_true, if_false, List.mem_map] at hl
  obtain ⟨k, -, rfl⟩ := hl
  rfl

/-- What holds of every run and of 0 holds of the lanes taken, whether they are the array's own or cleared for another shape. -/
theorem lanesOf_runs {P : Int → Prop} {n : Nat} (h0 : P 0) (hl : ∀ l ∈ h.lanes, P l.n) : ∀ l ∈ h.lanesOf n, P l.n := by
  unfold HemArr.lanesOf
  split
  · exact hl
  · intro l hmem
    rw [List.eq_of_mem_replicate hmem]
    exact h0

/-- A result is added to runs that are at zero, or to runs that it does not take outside 20 bits. -/
theorem opened_runs (hclosed : h.run = false → ∀ l ∈ h.lanes, l.n = 0) :
    (∀ l ∈ (h.opened r).lanes, l.n = 0) ∨ leavesRun (h.opened r).lanes r.xs = false := by
  unfold HemArr.opened
  extract_lets h0
  cases hrun : h0.run with
  | false => exact .inl (lanesOf_runs (P := (· = 0)) rfl (hclosed hrun))
  | true =>
    split
    case isTrue => exact .inl (promote_run hrun)
    case isFalse hstay =>
      simp only [Bool.true_and, Bool.or_eq_true, not_or, Bool.not_eq_true] at hstay
      exact .inr hstay.2

/-- Every value that is added leaves its run within 20 bits. -/
theorem opened_sums_fit (hclosed : h.run = false → ∀ l ∈ h.lanes, l.n = 0) (hxs : ∀ x ∈ r.xs, FitsRun x) :
    ∀ x ∈ (h.opened r).lanes.zip r.xs, FitsRun (x.1.n + x.2) := by
  rcases opened_runs hclosed with hzero | hstay
  · intro x hx
    obtain ⟨hl, hv⟩ := List.of_mem_zip hx
    rw [hzero _ hl, Int.zero_add]
    exact hxs _ hv
  · exact leavesRun_false hstay

/-- Settles O14: a zero result only marks; any other is added to runs just promoted, at zero, or checked to stay in range. -/
theorem runsStayWithinTwentyBits : Obligations.RunsStayWithinTwentyBits := by
  unfold Obligations.RunsStayWithinTwentyBits
  refine ⟨fun h r hruns hclosed hxs => ?_, fun h r hz hlen => ?_⟩
  · cases hz : r.zero with
    | true =>
      rw [take_of_zero hz]
      exact markPoison_fits (lanesOf_runs (by decide) hruns)
    | false =>
      rw [take_of_nonzero hz]
      exact markPoison_fits (addValues_fits (opened_sums_fit hclosed hxs))
  · rw [take_of_zero hz, HemArr.lanesOf, if_pos hlen]
    exact ⟨rfl, rfl, rfl, rfl, rfl, map_markPoison fun _ => rfl⟩

end Sys2Proof.Machine

/-! SUPPORT. The order in which a register adds its contributions, whatever the order of their arrival (R98, R99). -/

namespace Sys2Proof.Machine

/-! ### Sorting -/

section

variable {α κ : Type} {lt : α → α → Bool} {xs ys : List α}

theorem insertBy_eq_orderedInsert {x : α} : insertBy lt x xs = xs.orderedInsert (fun a b => lt a b = true) x := by
  induction xs with
  | nil => rfl
  | cons y ys ih => rw [insertBy, ih]; rfl

/-- The model's sort is the library's insertion sort. -/
theorem sortBy_eq_insertionSort : sortBy lt xs = xs.insertionSort fun a b => (!lt b a) = true := by
  induction xs with
  | nil => rfl
  | cons x xs ih => rw [sortBy, insertBy_eq_orderedInsert, ih]; rfl

variable [LinearOrder κ] {key : α → κ} (hlt : ∀ a b, lt a b = true ↔ key a < key b)

include hlt

/-- Sorting by a key puts the keys in order. -/
theorem sortBy_pairwise : (sortBy lt xs).Pairwise fun a b => key a ≤ key b := by
  have hle : ∀ a b, (!lt b a) = true ↔ key a ≤ key b := fun a b => by
    rw [Bool.not_eq_true', ← Bool.not_eq_true, hlt, not_lt]
  have htotal : Std.Total fun a b => (!lt b a) = true := ⟨fun a b => by simpa only [hle] using le_total (key a) (key b)⟩
  have htrans : IsTrans α fun a b => (!lt b a) = true := ⟨fun a b c => by simpa only [hle] using le_trans⟩
  rw [sortBy_eq_insertionSort]
  exact (List.pairwise_insertionSort _ xs).imp fun h => (hle _ _).mp h

/-- Lists of the same elements, told apart by their keys, are sorted into one list. -/
theorem sortBy_eq_of_perm (hperm : xs.Perm ys) (hkey : ∀ a ∈ ys, ∀ b ∈ ys, key a = key b → a = b) : sortBy lt xs = sortBy lt ys := by
  have hx : (sortBy lt xs).Perm xs := sortBy_eq_insertionSort ▸ List.perm_insertionSort _ xs
  have hy : (sortBy lt ys).Perm ys := sortBy_eq_insertionSort ▸ List.perm_insertionSort _ ys
  refine List.Perm.eq_of_pairwise (fun a b ha hb hab hba => ?_) (sortBy_pairwise hlt) (sortBy_pairwise hlt) ((hx.trans hperm).trans hy.symm)
  exact hkey a ((hx.trans hperm).mem_iff.mp ha) b (hy.mem_iff.mp hb) (le_antisymm hab hba)

end

/-! ### Contributions -/

/-- A contribution's place in the order of R98: rank, panel, tile, array. -/
def contribKey (c : Contrib) : Nat ×ₗ Nat ×ₗ Nat ×ₗ Nat := toLex (c.rank, toLex (c.panel, toLex (c.tile, c.arr)))

theorem contribLt_iff (a b : Contrib) : contribLt a b = true ↔ contribKey a < contribKey b := by
  simp only [contribLt, contribKey, Prod.Lex.toLex_lt_toLex]
  split_ifs <;> simp only [decide_eq_true_eq] <;> omega

/-- Settles O15: contributions told apart by their place in the order are sorted into one list, and the register adds that list. -/
theorem reductionIgnoresArrivalOrder : Obligations.ReductionIgnoresArrivalOrder := by
  unfold Obligations.ReductionIgnoresArrivalOrder
  intro r held scales poison hperm happart
  have hkey : ∀ a ∈ r.held, ∀ b ∈ r.held, contribKey a = contribKey b → a = b := by
    intro a ha b hb hab
    by_contra hne
    have hsymm : Std.Symm fun a b => contribLt a b = true ∨ contribLt b a = true := ⟨fun _ _ => Or.symm⟩
    have hlt := happart.forall ha hb hne
    simp only [contribLt_iff, hab, lt_irrefl, or_self] at hlt
  unfold finishReg
  rw [sortBy_eq_of_perm contribLt_iff hperm hkey]

end Sys2Proof.Machine

/-! SUPPORT. Where a contribution arrives, when a norm sample may be tested, and what testing one leaves (R98, R106, R107, R256). -/

namespace Sys2Proof.Machine

variable {s : State} {p i nw : Nat} {b : Bolt} {n : NormSample}

/-! ### Contributions -/

/-- A closed register answers with the fault of R256, one that expects more holds the contribution, and the last one finishes it. -/
theorem contribArrive_eq {d : Contrib} : contribArrive s p d =
    let r := mapGet RedReg.start (getPanel s p).regs d.reg
    let held := { r with held := r.held ++ [d] }
    if r.isOpen = false then decCmd (closedFault s p d.step d.cmd) p d.cmd 1
    else if r.held.length + 1 < r.contrib then modPanel (decCmd s p d.cmd 1) p fun q => { q with regs := mapSet RedReg.start q.regs d.reg held }
    else regFinish (decCmd s p d.cmd 1) p d.reg held := by
  extract_lets r held
  cases hopen : r.isOpen <;> simp only [contribArrive, held, r, hopen, List.length_append, List.length_singleton] <;> rfl

/-- A contribution of the panel's own bobbins gives its reduction credit back and arrives. -/
theorem execReductionContribution_drain {d : Contrib} (h : (getPanel s p).drains[i]? = some d) :
    execReductionContribution p (.drain i) s = .next (pumpDrains (contribArrive
      (giveCredit (modPanel s p fun q => { q with drains := q.drains.eraseIdx i }) (.drains p d.tile) 1) p d) p) := by
  simp only [execReductionContribution, h]

/-! ### When a sample may be tested -/

/-- The layer and space of a sample. -/
def NormSample.key (n : NormSample) : Nat := n.layer + 256 * b2n n.grad

/-- An earlier step may still enter a sample of the same layer and space before this one (R106). -/
def sampleWaits (s : State) (p : Nat) (b : Bolt) (n : NormSample) : Bool :=
  (b.steps.any fun t => !t.sealed && decide (t.seq < n.step) && !t.reported.contains p && !t.entered.contains (p, n.key))
    || (getPanel s p).samples.any fun m => m.layer == n.layer && m.grad == n.grad && decide (m.step < n.step)

theorem sampleWaits_eq_false_iff : sampleWaits s p b n = false ↔
    (∀ t ∈ b.steps, t.sealed = false → t.seq < n.step → p ∈ t.reported ∨ (p, n.key) ∈ t.entered)
      ∧ (∀ m ∈ (getPanel s p).samples, m.layer = n.layer → m.grad = n.grad → ¬ m.step < n.step) := by
  simp [sampleWaits, or_iff_not_imp_left]

theorem execNormSample_eq (hn : (getPanel s p).samples[i]? = some n) (hb : boltOfPanel s p = some (nw, b)) : execNormSample p i s =
    .next (if sampleWaits s p b n then s else nwEnter (modPanel s p fun q => { q with samples := q.samples.eraseIdx i }) p nw b n) := by
  simp only [execNormSample, hn, hb]
  rfl

/-! ### A sample that is tested -/

/-- A changed step leaves every panel. -/
theorem modStep_panels {seq : Word} {f : Step → Step} : (modStep s nw seq f).panels = s.panels := rfl

/-- It leaves every header. -/
theorem modStep_hdrs {seq : Word} {f : Step → Step} : (modStep s nw seq f).hdrs = s.hdrs := rfl

/-- Claims change no header. -/
theorem claimAll_hdrs {ids : List Nat} {st : Nat} : (claimAll s ids st).hdrs = s.hdrs := by
  unfold claimAll
  induction ids generalizing s with
  | nil => rfl
  | cons i ids ih => exact ih

/-- A sample that does not jump moves the estimate of its layer and space (R106). -/
theorem nwEnter_est (hjump : nwJump (nwCtrl s p) (nwEst s p n.layer n.grad).1 (nwEst s p n.layer n.grad).2 n.r = false) :
    mapGet ((0 : F32), (0 : BitVec 16)) (getPanel (nwEnter s p nw b n) p).est n.key =
      nwUpdate (nwCtrl s p) (nwEst s p n.layer n.grad).1 (nwEst s p n.layer n.grad).2 n.r := by
  simp only [nwEnter, nwEnterFor, hjump, Bool.not_false, if_true]
  rw [getPanel, modStep_panels, ← getPanel, getPanel_modPanel]
  exact mapGet_mapSet_self

/-- R108: the action asks for the layer's exact-mode shadow, which the pattern does not have. -/
def lacksShadow (s : State) (p : Nat) (b : Bolt) (n : NormSample) : Bool :=
  !n.grad && (if n.grad then field (nwCtrl s p) 4 3 else field (nwCtrl s p) 2 1) == 1 && !hasShadow b n.layer

/-- Of the headers, a jumping sample changes what its latching does; the action of its space follows without another event (R107). -/
theorem nwEnter_hdrs (hjump : nwJump (nwCtrl s p) (nwEst s p n.layer n.grad).1 (nwEst s p n.layer n.grad).2 n.r = true) :
    (nwEnter s p nw b n).hdrs = (nwLatch s p n (lacksShadow s p b n)).hdrs := by
  simp only [nwEnter, nwEnterFor, lacksShadow, hjump, Bool.not_true, Bool.false_eq_true, if_false]
  split_ifs <;> simp only [modStep_hdrs, claimAll_hdrs]

/-- A latched sample raises NORM_JUMP (R107). -/
theorem nwLatch_raised {noShadow : Bool} (hp : p < panelsEn s) : Raised (nwLatch s p n noShadow) (.panel p) 23 := by
  unfold nwLatch
  refine raiseEvent_raised ?_ (by decide)
  simp only [pageExists, panelsEn, bbRecord_fields, bumpFor_fields, modPanel_fields]
  exact decide_eq_true hp

/-- Settles O16: a register's three answers, the two reasons for a sample to wait, and the test's two outcomes. -/
theorem contributionsAndSamplesArrive : Obligations.ContributionsAndSamplesArrive := by
  unfold Obligations.ContributionsAndSamplesArrive
  refine ⟨fun s p i => ?_, fun s p nw b n => ⟨fun hcalm _ => nwEnter_est hcalm, fun hjump hp => ?_⟩⟩
  · intro arrive
    have harrive : ∀ s0 d, arrive s0 d = contribArrive s0 p d := fun _ _ => contribArrive_eq.symm
    clear_value arrive
    refine ⟨fun d hd => ?_, fun c => ?_, fun n nw b hn hb => ⟨fun hclear => ?_, fun hheld => ?_⟩⟩
    · rw [harrive]
      exact execReductionContribution_drain hd
    · rw [harrive]
      rfl
    · refine (execNormSample_eq hn hb).trans ?_
      rw [sampleWaits_eq_false_iff.mpr hclear]
      rfl
    · refine (execNormSample_eq hn hb).trans ?_
      rw [if_pos (Bool.eq_true_of_not_eq_false fun hw => hheld (sampleWaits_eq_false_iff.mp hw))]
  · rw [Raised, getHdr_of_hdrs (nwEnter_hdrs hjump)]
    exact nwLatch_raised hp

end Sys2Proof.Machine

/-! SUPPORT. A tile's calibration run stage by stage, what asks for runs, and the eye monitors of the Kwath lanes (R115, R121 to R125,
R130, R132, R134). -/

namespace Sys2Proof.Machine

variable {s : State} {p tile : Nat}

/-! ### A run's start and its measuring (R122 steps 1 to 5) -/

section

variable (hrun : s.start.restarting = false) (hrails : s.power.compute = true) (htile : (p, tile) ∈ allTiles s)

include hrun hrails htile

/-- A run that has stopped the tile's pleats goes on at their boundary. -/
theorem execCalTileRun_stopping (hstage : (getCal s p tile).stage = 5) : execCalTileRun p tile s =
    .next (if tileAtBoundary s p tile then calLatch s p tile else s) := by
  simp only [execCalTileRun, hrun, hrails, List.contains_iff_mem.mpr htile, hstage, Bool.not_true, Bool.or_self, Bool.false_eq_true,
    if_false, if_true]

/-- The lowest eligible tile of a panel without another in steps 2 to 4 starts its run. -/
theorem execCalTileRun_starts (hfree : ∀ t, t < 25 → calHolds s p t = false) (hlow : ∀ t, t < tile → calEligible s p t = false)
    (helig : calEligible s p tile = true) (ht : tile < 25) :
    execCalTileRun p tile s = .next (if tileAtBoundary s p tile then calLatch (calStart s p tile) p tile else calStart s p tile) := by
  have hstage : (getCal s p tile).stage ≠ 5 := fun h => by
    have hholds := hfree tile ht
    simp [calHolds, h] at hholds
  have hbusy : ((List.range 25).any fun t => calHolds s p t) = false := by simpa using hfree
  have hlower : ((List.range tile).any fun t => calEligible s p t) = false := by simpa using hlow
  simp only [execCalTileRun, hrun, hrails, List.contains_iff_mem.mpr htile, if_neg hstage, hbusy, hlower, helig, Bool.not_true,
    Bool.or_self, Bool.false_eq_true, if_false]

end

/-- The arrays of a tile that its run measures: those neither PROGRAMMING nor RETIRED (R122 step 3). -/
def calMeasurable (s : State) (p tile : Nat) : List Nat :=
  (List.range 34).filter fun n =>
    let st := (getArr s { pp := (calTile s p tile).1, tile := (calTile s p tile).2, arr := n }).st
    st != .programming && st != .retired

theorem calMeasurable_usable {n : Nat} (h : n ∈ calMeasurable s p tile) :
    (getArr s { pp := (calTile s p tile).1, tile := (calTile s p tile).2, arr := n }).st ≠ .programming
    ∧ (getArr s { pp := (calTile s p tile).1, tile := (calTile s p tile).2, arr := n }).st ≠ .retired := by
  simpa using (List.mem_filter.mp h).2

/-- A request that is taken back leaves the run in progress (R124). -/
theorem calUnpend_run : (getCal (calUnpend s p tile) p tile).stage = (getCal s p tile).stage
    ∧ (getCal (calUnpend s p tile) p tile).temp = (getCal s p tile).temp
    ∧ (getCal (calUnpend s p tile) p tile).measured = (getCal s p tile).measured := by
  rw [calUnpend, getCal_modCal]
  split <;> exact ⟨rfl, rfl, rfl⟩

/-- Measuring starts with the diode's temperature as CAL_TEMP (R122 step 3). -/
theorem calLatch_run : (getCal (calLatch s p tile) p tile).stage = 1 ∧ (getCal (calLatch s p tile) p tile).temp = s.arrays.diode
    ∧ (getCal (calLatch s p tile) p tile).measured = calMeasurable s p tile := by
  unfold calLatch
  extract_lets id ms s1
  have hs1 : getCal s1 p tile = { getCal s p tile with stage := 1, temp := s.arrays.diode, measured := calMeasurable s p tile } :=
    getCal_modCal
  split
  · rw [hs1]; exact ⟨rfl, rfl, rfl⟩
  · obtain ⟨hstage, htemp, hmeas⟩ := calUnpend_run (s := s1) (p := p) (tile := tile)
    rw [hstage, htemp, hmeas, hs1]
    exact ⟨rfl, rfl, rfl⟩

/-- The pleats resume when the tile is measured (R122 step 5). -/
theorem execCalMeasureDone_measuring (h : (getCal s p tile).stage = 1) :
    execCalMeasureDone p tile s = .next (modCal s p tile fun c => { c with stage := 2 }) := congrArg _ (if_pos h)

/-! ### The fits and their swap (R122 steps 6 and 7, R125) -/

variable {fits : List CalFit}

theorem execCalFitDone_fitting (h : (getCal s p tile).stage = 2) : execCalFitDone p tile fits s = .next (calShadow s p tile fits) :=
  congrArg _ (if_pos h)

theorem calShadow_stage : (getCal (calShadow s p tile fits) p tile).stage = 3 := by rw [calShadow, getCal_modCal]

/-- The fits in shadow storage are those of arrays that the run has measured. -/
theorem calShadow_measured {x : Nat × Nat × Nat} (hx : x ∈ (getCal (calShadow s p tile fits) p tile).shadow) :
    x.1 ∈ (getCal s p tile).measured := by
  rw [calShadow, getCal_modCal] at hx
  obtain ⟨f, hf, rfl⟩ := List.mem_map.mp hx
  exact List.contains_iff_mem.mp (List.mem_filter.mp hf).2

/-- A changed array leaves every tile's calibration. -/
@[simp] theorem getCal_modArr {a : ArrId} {f : Arr → Arr} : getCal (modArr s a f) p tile = getCal s p tile := by
  unfold modArr
  dsimp only
  split <;> rfl

/-- So do changes of several. -/
theorem getCal_foldl_modArr {ns : List Nat} {a : Nat → ArrId} {f : State → Nat → Arr → Arr} :
    getCal (ns.foldl (fun s n => modArr s (a n) (f s n)) s) p tile = getCal s p tile := by
  induction ns generalizing s with
  | nil => rfl
  | cons n ns ih => exact ih.trans getCal_modArr

/-- Corrections that come into force end the run under a new generation, at the CAL_TEMP that it latched (R122 step 7, R125). -/
theorem swapIn_run : (getCal (swapIn s p tile) p tile).gen = (getCal s p tile).gen + 1
    ∧ (getCal (swapIn s p tile) p tile).temp = (getCal s p tile).temp ∧ (getCal (swapIn s p tile) p tile).stage = 0 := by
  unfold swapIn
  extract_lets id fs ns s1
  have hs1 : getCal s1 p tile = getCal s p tile := getCal_foldl_modArr
  rw [getCal_modCal, hs1]
  exact ⟨rfl, rfl, rfl⟩

/-- Inside a pleat the corrections wait (R125). -/
theorem execCalSwap_waits (h : tileAtBoundary s p tile = false) : execCalSwap p tile s = .next s := congrArg _ (if_pos (.inr h))

/-- At a pleat boundary they come into force, the triggers are judged, and then each measured array (R122). -/
theorem execCalSwap_swaps (hstage : (getCal s p tile).stage = 3) (h : tileAtBoundary s p tile = true) :
    execCalSwap p tile s = .next ((swapFits s p tile).foldl
      (fun t x => judgeArray t { pp := (calTile s p tile).1, tile := (calTile s p tile).2, arr := x.1 } x)
      (swapJudge (swapIn s p tile) p tile)) :=
  congrArg _ (if_neg (not_or.mpr ⟨not_not.mpr hstage, ne_false_of_eq_true h⟩))

/-! ### What asks for runs (R115, R121, R134) -/

theorem progDue_iff : progDue s p tile = true ↔ ∃ t ∈ (getCal s p tile).due, t ≤ s.now := by simp [progDue]

/-- A programming run that is due is triggered (R115). -/
theorem execCalProgTimer_due (h : progDue s p tile = true) : execCalProgTimer p tile s = .next (autoTrigger s [(p, tile)] 3 0) :=
  congrArg _ (if_pos h)

theorem execCalProgTimer_early (h : ¬ progDue s p tile = true) : execCalProgTimer p tile s = .next s := congrArg _ (if_neg h)

/-- The fallback, once its time has come, asks for a run of every tile (R121). -/
theorem execCalFallbackTick_due (hf : s.arrays.fallback = true)
    (hdue : ∀ t, s.arrays.lastFallback = some t → t + max 1000000 (minGap s) ≤ s.now) :
    execCalFallbackTick s = .next
      ((allTiles s).foldl (fun s x => calPend s x.1 x.2 5) { s with arrays := { s.arrays with lastFallback := some s.now } }) := by
  unfold execCalFallbackTick
  cases hl : s.arrays.lastFallback with
  | none => simp [hf]
  | some t => simp [hf, hdue t hl]

/-! ### Eye samples (R132) -/

variable {lane width warn : Nat} {retuned : Bool} {l : KwLane}

/-- A lane with a sampled width: shown, kept as the least where it is, and a low mark that goes at 50 mUI above EYE_WARN (R132, R135). -/
def KwLane.eyed (warn width : Nat) (retuned : Bool) (l : KwLane) : KwLane :=
  { l with
    eye := satNat 0xFFFF width
    eyeMin := if !l.sampled ∨ width < l.eyeMin then satNat 0xFFFF width else l.eyeMin
    sampled := true
    retunes := if retuned then (if l.retunes = 0xFFFF then l.retunes else l.retunes + 1) else l.retunes
    eyeLow := if decide (width < warn) then true else if warn + 50 < width then false else l.eyeLow }

/-- A width within the register is shown as it is, and is the least where it is the first or below the least so far (R132). -/
theorem KwLane.eyed_widths (h : width < 0xFFFF) : (l.eyed warn width retuned).eye = width
    ∧ (l.eyed warn width retuned).eyeMin = if l.sampled = false ∨ width < l.eyeMin then width else l.eyeMin := by
  have hsat : satNat 0xFFFF width = width := if_neg h.not_gt
  simp only [KwLane.eyed, hsat, Bool.not_eq_true', and_self]

/-- A sample without a retune leaves RETUNES (R132). -/
theorem KwLane.eyed_retunes (h : retuned = false) : (l.eyed warn width retuned).retunes = l.retunes := by
  simp [KwLane.eyed, h]

/-- The state with a sample noted at its lane. -/
def noteEye (s : State) (lane width : Nat) (retuned : Bool) : State :=
  modLane s (lane / 8) (lane % 8) (KwLane.eyed (eyeWarn s) width retuned)

/-- A sample is noted at its lane, and EYE_LOW follows the first width below EYE_WARN (R132). -/
theorem execEyeSample_eq : execEyeSample lane width retuned s = .next
    (if width < eyeWarn s ∧ (getLane s (lane / 8) (lane % 8)).eyeLow = false then
      raiseEvent (noteEye s lane width retuned) .die 34 [(7, lane)]
    else noteEye s lane width retuned) := by
  refine congrArg Host.Outcome.next (if_congr ?_ rfl rfl)
  rw [Bool.and_eq_true, decide_eq_true_iff, Bool.not_eq_true']

/-- What a sample leaves, whether or not it raises EYE_LOW: the lane as noted, every register and every port. -/
theorem execEyeSample_noted : ∃ t, execEyeSample lane width retuned s = .next t
    ∧ getLane t (lane / 8) (lane % 8) = (getLane s (lane / 8) (lane % 8)).eyed (eyeWarn s) width retuned
    ∧ (width < eyeWarn s → (getLane s (lane / 8) (lane % 8)).eyeLow = false → Raised t .die 34)
    ∧ ((eyeWarn s ≤ width ∨ (getLane s (lane / 8) (lane % 8)).eyeLow = true) → t.hdrs = s.hdrs ∧ t.bb = s.bb)
    ∧ t.regs = s.regs ∧ t.fab.ports = s.fab.ports := by
  refine ⟨_, execEyeSample_eq, ?_⟩
  have hlane : getLane (noteEye s lane width retuned) (lane / 8) (lane % 8) =
      (getLane s (lane / 8) (lane % 8)).eyed (eyeWarn s) width retuned := getLane_modLane
  split
  case isTrue h =>
    obtain ⟨hlow, hnew⟩ := h
    refine ⟨?_, fun _ _ => raiseEvent_raised rfl (by decide), fun hno => ?_, ?_⟩
    · rw [← hlane]; simp only [getLane, raiseEvent_fields]
    · rcases hno with hwide | hold
      · exact absurd hlow hwide.not_gt
      · simp [hnew] at hold
    · simp only [raiseEvent_fields]; exact ⟨rfl, rfl⟩
  case isFalse h => exact ⟨hlane, fun hlow hnew => absurd ⟨hlow, hnew⟩ h, fun _ => ⟨rfl, rfl⟩, rfl, rfl⟩

/-- Settles O30: the run's stages in their order, then what asks for runs, and a sample as its lane notes it. -/
theorem calibrationRunsAndTriggers : Obligations.CalibrationRunsAndTriggers := by
  unfold Obligations.CalibrationRunsAndTriggers
  refine ⟨fun s p tile => ⟨fun hrun hrails htile => ⟨execCalTileRun_stopping hrun hrails htile,
      execCalTileRun_starts hrun hrails htile⟩, ?_, execCalMeasureDone_measuring,
      fun fits h => ⟨execCalFitDone_fitting h, calShadow_stage, fun x => calShadow_measured⟩, fun _ => execCalSwap_waits,
      fun hstage h => ⟨swapIn_run, execCalSwap_swaps hstage h⟩⟩,
    fun s w p tile panel => ⟨fun h => execCalProgTimer_due (progDue_iff.mpr h), fun h => execCalProgTimer_early fun hdue => ?_,
      execCalFallbackTick_due, fun h => congrArg _ (gated_of_passes h), fun h => congrArg _ (gated_of_passes h)⟩,
    fun s lane width retuned => ?_⟩
  · obtain ⟨hstage, htemp, hmeas⟩ := calLatch_run (s := s) (p := p) (tile := tile)
    exact ⟨hstage, htemp, fun n hn => calMeasurable_usable (hmeas ▸ hn)⟩
  · obtain ⟨t, ht, hle⟩ := progDue_iff.mp hdue
    exact absurd hle (h t ht).not_ge
  · intro l hwidth
    obtain ⟨t, hexec, hlane, hrest⟩ := execEyeSample_noted (s := s) (lane := lane) (width := width) (retuned := retuned)
    obtain ⟨heye, hmin⟩ := KwLane.eyed_widths (l := l) (warn := eyeWarn s) (retuned := retuned) hwidth
    refine ⟨t, hexec, ?_⟩
    rw [hlane]
    exact ⟨heye, hmin, rfl, KwLane.eyed_retunes, hrest⟩

end Sys2Proof.Machine

/-! SUPPORT. The tree of shared ranges: what the walker's lookup and publication come to for a session that asks for them, which nodes leave the
tree, and what a rebuild recounts (R166, R167, R172, R173, R175, R176). -/

namespace Sys2Proof.Machine

variable {s : State} {n range : Nat} {b : Bolt} {pat : Pattern}

/-! ### TREE_LOOKUP (R172) -/

/-- A job whose session asks for a lookup before its first row: LOOKUP is 1, the walker is on, and nothing of the session stands yet. -/
def AsksLookup (s : State) (n : Nat) (j : Job) (g : GenJob) : Prop :=
  (getSession s n).lookup = true ∧ treeOn s = true ∧ (getSession s n).log = [] ∧ (getSession s n).path = [] ∧ g.carry = none ∧ j.ready ≠ none

/-- The job of a session that asks for a lookup skips the whole ranges that the walk from its scope's root finds (R172). -/
theorem execTreeLookup_walks {j : Job} {g : GenJob} {r : Nat} (hb : getBolt s (getSession s n).bolt = some b) (hpat : b.pat = some pat)
    (hg : genOf s n = some (j, g)) (hr : rootOf s (getSession s n) = some r) (hask : AsksLookup s n j g)
    (htpp : sessionTpp b pat = 32 * (getNode s r).tpp32) :
    let w := walkTree pat n (32 * (getNode s r).tpp32) g.prompt 1024 s r 0
    execTreeLookup n s = .next (if w.2 = 0 then s else sharePrompt w.1 n j g (w.2 * (32 * (getNode s r).tpp32))) := by
  obtain ⟨hlookup, hon, hlog, hpath, hcarry, hready⟩ := hask
  have hsome : j.ready.isNone = false := Option.isNone_eq_false_iff.mpr (Option.isSome_iff_ne_none.mpr hready)
  intro w
  simp only [execTreeLookup, hb, hpat, hg, hr, hlookup, hon, hlog, hpath, hcarry, hsome, List.isEmpty_nil, Option.isSome_none, Bool.not_true,
    Bool.or_self, Bool.false_eq_true, if_false, htpp, ne_eq, not_true_eq_false]
  rfl

/-! ### TREE_PUBLISH (R173) -/

/-- The page table entries of a range of a session, one for each layer and KV head (R171). -/
def rangeKeys (pat : Pattern) (n range : Nat) : List Nat := (layerHeads pat).map fun x => pteKey n x.1 x.2 range

/-- A session that publishes and whose range is the next one under its path: sealed to its end, and full in every layer and head (R173). -/
def RangeReady (s : State) (n range : Nat) (b : Bolt) (pat : Pattern) : Prop :=
  (getSession s n).st ≠ .free ∧ (getSession s n).publish = true ∧ treeOn s = true ∧ b.tpp ≠ 0 ∧ (getSession s n).path.length = range
  ∧ (range + 1) * b.tpp ≤ (getSession s n).sealedLen - (getSession s n).carry.toList.length
  ∧ ∀ k ∈ rangeKeys pat n range, (getPte s k).present = true ∧ (getPte s k).tree = false ∧ (getPage s (getPte s k).frame).valid = b.tpp

/-- The tokens of a session's range, as its log holds them. -/
def rangeTokens (e : Session) (range tpp : Nat) : List (BitVec 32) := ((e.log.drop (range * tpp)).take tpp).map Prod.fst

/-- What the walker does with a ready range under a node: the switch to the child that holds the same tokens, at a step boundary of the
session, or a new child (R173). -/
def publishUnder (s1 : State) (pat : Pattern) (b : Bolt) (e : Session) (n range parent : Nat) : State :=
  match matchChild s1 parent (rangeTokens e range b.tpp) with
  | some c => if atBoundary s1 e.bolt b n then switchRange s1 pat n range c (rangeKeys pat n range) else s1
  | none => insertRange s1 n range parent b.tpp (rangeKeys pat n range) (rangeTokens e range b.tpp)

section

variable (hb : getBolt s (getSession s n).bolt = some b) (hpat : b.pat = some pat) (hrange : RangeReady s n range b pat)

include hb hpat hrange

/-- A ready range needs the root of its session's scope; without a frame for one it stays the session's own (R167, R173). -/
theorem execTreePublish_ready : execTreePublish n range s = .next
    (match ensureRoot s (getSession s n) b.tpp with
     | none => noFrame s
     | some (s1, r) => if (getNode s1 r).tpp32 ≠ b.tpp / 32 then s1
        else publishUnder s1 pat b (getSession s n) n range (lastOr r (getSession s n).path)) := by
  obtain ⟨hst, hpub, hon, htpp, hpath, hsealed, hkeys⟩ := hrange
  have hfull : (((layerHeads pat).map fun x => pteKey n x.1 x.2 range).all fun k =>
      (getPte s k).present && !(getPte s k).tree && (getPage s (getPte s k).frame).valid == b.tpp) = true := by
    rw [List.all_eq_true]
    intro k hk
    obtain ⟨hpresent, htree, hvalid⟩ := hkeys k hk
    simp [hpresent, htree, hvalid]
  simp only [execTreePublish, hb, hpat]
  rw [if_neg]
  · rfl
  · cases hc : (getSession s n).carry <;> rw [hc] at hsealed <;> simpa [hst, hpub, hon, htpp, hpath, hfull] using hsealed

theorem execTreePublish_noFrame (hroot : ensureRoot s (getSession s n) b.tpp = none) :
    execTreePublish n range s = .next (raiseEvent s .die 36 []) := by
  rw [execTreePublish_ready hb hpat hrange, hroot]
  rfl

theorem execTreePublish_under {s1 : State} {r : Nat} (hroot : ensureRoot s (getSession s n) b.tpp = some (s1, r))
    (htpp : (getNode s1 r).tpp32 = b.tpp / 32) :
    execTreePublish n range s = .next (publishUnder s1 pat b (getSession s n) n range (lastOr r (getSession s n).path)) := by
  rw [execTreePublish_ready hb hpat hrange, hroot]
  exact congrArg _ (if_neg (not_not.mpr htpp))

end

/-! ### TREE_DROP and TREE_REBUILD (R166, R175, R176) -/

/-- A node is held while a path may hold it: it has a count, or one that has saturated (R175, R176). -/
def Node.held (d : Node) : Bool := d.count != 0 || d.sat

theorem Node.held_iff {d : Node} : d.held = true ↔ d.count ≠ 0 ∨ d.sat = true := by simp [Node.held]

theorem execTreeDrop_eq {node : Nat} : execTreeDrop node s = .next
    (if s.kv.rebuilding = true ∨ (getNode s node).live = false ∨ ∃ m ∈ subtree s 1024 node, (getNode s m).held = true then s
     else dropNodes s node) := by
  refine congrArg Host.Outcome.next (if_congr ?_ rfl rfl)
  simp only [Bool.or_eq_true, Bool.not_eq_true', List.any_eq_true, or_assoc, Node.held]

/-- The state whose nodes are counted from the paths of its live sessions, with no saturated count and no retain (R175). -/
def recounted (s : State) : State :=
  { s with kv := { s.kv with
    nodes := s.kv.nodes.map fun kv => (kv.1, { kv.2 with count := BitVec.ofNat 16 (satNat 0xFFFF (pathCount s kv.1)), sat := false })
    retains := [] } }

theorem execTreeRebuild_passes {w : Window} (h : Passes s w .die 0x218) (hoff : s.kv.rebuilding = false) :
    execTreeRebuild w s = .next (raiseEvent (recounted s) .die 38 []) := by
  simp only [execTreeRebuild, gated_of_passes h, hoff, Bool.false_eq_true, if_false, recounted]

theorem satNat_eq_min {limit v : Nat} : satNat limit v = min limit v := by
  unfold satNat; split <;> omega

/-- A recounted node has the number of the sessions whose paths hold it, and no SAT. -/
theorem recounted_node {kv : Nat × Node} (h : kv ∈ (recounted s).kv.nodes) :
    kv.2.sat = false ∧ kv.2.count = BitVec.ofNat 16 (min 0xFFFF (pathCount s kv.1)) := by
  obtain ⟨old, -, rfl⟩ := List.mem_map.mp h
  exact ⟨rfl, congrArg (BitVec.ofNat 16) satNat_eq_min⟩

/-- Settles O25: a lookup's walk, a publication under the session's deepest node or without a root, and a drop by what holds the subtree. -/
theorem treeSharesPublishesDropsAndRebuilds : Obligations.TreeSharesPublishesDropsAndRebuilds := by
  unfold Obligations.TreeSharesPublishesDropsAndRebuilds
  refine ⟨fun s n b pat hb hpat => ⟨fun j g r hg hr hlookup hon hlog hpath hcarry hready htpp => ?_, fun range s1 r hst hpub hon h0 hpath
      hsealed => ?_, fun range hst hpub hon h0 hpath hsealed hkeys hroot => ?_⟩,
    fun s node w => ⟨fun h => ?_, fun hlive hfree hoff => ?_, fun hpass hoff => ?_⟩⟩
  · exact execTreeLookup_walks hb hpat hg hr ⟨hlookup, hon, hlog, hpath, hcarry, hready⟩ htpp
  · intro keys hkeys hroot htpp
    exact execTreePublish_under hb hpat ⟨hst, hpub, hon, h0, hpath, hsealed, hkeys⟩ hroot htpp
  · exact execTreePublish_noFrame hb hpat ⟨hst, hpub, hon, h0, hpath, hsealed, hkeys⟩ hroot
  · refine execTreeDrop_eq.trans (congrArg _ (if_pos ?_))
    rcases h with hdead | ⟨m, hm, hheld⟩ | hbusy
    · exact .inr (.inl hdead)
    · exact .inr (.inr ⟨m, hm, Node.held_iff.mpr hheld⟩)
    · exact .inl hbusy
  · refine execTreeDrop_eq.trans (congrArg _ (if_neg ?_))
    rintro (hbusy | hdead | ⟨m, hm, hheld⟩)
    · simp [hoff] at hbusy
    · simp [hlive] at hdead
    · obtain ⟨hcount, hsat⟩ := hfree m hm
      simp [Node.held, hcount, hsat] at hheld
  · refine ⟨_, execTreeRebuild_passes hpass hoff, ?_⟩
    simp only [raiseEvent_fields]
    exact ⟨rfl, raiseEvent_raised rfl (by decide), fun kv hkv => recounted_node hkv, rfl, rfl, rfl, rfl, rfl⟩

end Sys2Proof.Machine

/-! SUPPORT. The row instructions of attention and of the samplers: what a ready one with its descriptor comes to, by its faults and its
rows (R138, R155, R162, R268, R270, R276, R277). -/

namespace Sys2Proof.Machine

variable {s : State} {p c op n : Nat} {h : Site} {w : Word} {d : List Word}

/-! ### ATTN, KVW and ATTB -/

section

variable (faults : Site → AttDesc → Nat → List (Option Nat)) (run : State → Site → AttDesc → Nat → State × Bool)

/-- The rules that the attention instructions share, each with its own faults and rows: the first fault of the descriptor, else the rows,
which find a range that was never written or not (R162). -/
def attBody (t : State) (h : Site) (w : Word) : Eff :=
  withDesc t h w attReserved fun d n =>
    match firstFault (faults h (attDesc d) n) with
    | some code => .fault code
    | none => if (run t h (attDesc d) n).2 then .fault 0x0C else .done (run t h (attDesc d) n).1

/-- What a ready attention instruction comes to with a descriptor d and a count n. -/
def attOutcome (s : State) (p c op : Nat) (h : Site) (d : List Word) (n : Nat) : State :=
  match firstFault (faults h (attDesc d) n) with
  | some code => patternFault s p c code h.x.pc.toNat op
  | none =>
    if (run (issued s p c op) h (attDesc d) n).2 then patternFault s p c 0x0C h.x.pc.toNat op
    else (run (issued s p c op) h (attDesc d) n).1

theorem issue_attBody (r : Ready s p c op h w) (D : DescribedBy s p h w attReserved d n) :
    issue s p c op (attBody faults run) = attOutcome faults run s p c op h d n := by
  rw [issue_ready r, attBody, withDesc_described r D, attOutcome]
  cases firstFault (faults h (attDesc d) n) with
  | some code => rfl
  | none => cases hrun : (run (issued s p c op) h (attDesc d) n).2 <;> rfl

end

/-! ### SAMPLE and SMERGE -/

/-- The candidates of a SAMPLE's rows reach the lead's samplers, which draw what they can (R276). -/
def sampleRun (t : State) (p c : Nat) (h : Site) (v : VecDesc) (n : Nat) : State :=
  settleMerges ((List.range n).foldl (fun t i => sampleRow t h v i) (enterCmd t p c 0x58 0)) h.nw

theorem execSample_ready (r : Ready s p c 0x58 h w) (D : DescribedBy s p h w vecReserved d n)
    (hok : firstFault (sampleFaults h (vecDesc d) n) = none) :
    execSample p c s = .next (sampleRun (issued s p c 0x58) p c h (vecDesc d) n) := by
  rw [execSample, issue_ready r, withDesc_described r D, hok]
  rfl

theorem execSmerge_ready (r : Ready s p c 0x59 h w) (D : DescribedBy s p h w vecReserved d n)
    (hok : firstFault (smergeFaults h (vecDesc d) n) = none) :
    execSmerge p c s = .next (smergeRun (issued s p c 0x59) h (vecDesc d) n) := by
  rw [execSmerge, issue_ready r, withDesc_described r D, hok]

/-- Settles O10: the attention rows issue their shared rules, each with its faults and rows; the samplers' rows have no fault left. -/
theorem rowInstructionsRunRowByRow : Obligations.RowInstructionsRunRowByRow := by
  unfold Obligations.RowInstructionsRunRowByRow
  intro s p c h w d n attend
  refine ⟨fun D => ⟨fun r => ?_, fun r => ?_, fun r => ?_⟩, fun D => ⟨fun r => execSample_ready r D, fun r => execSmerge_ready r D⟩⟩
  · exact congrArg _ (issue_attBody attnFaults attnRun r D)
  · exact congrArg _ (issue_attBody kvwFaults kvwRun r D)
  · exact congrArg _ (issue_attBody attbFaults attbRun r D)

end Sys2Proof.Machine

/-! SUPPORT. Errors of memory: what an uncorrectable one in panel SRAM leaves, the rewrite of a poisoned line, and the bucket table
(R157, R379, R381, R382). -/

namespace Sys2Proof.Machine

variable {s : State} {p addr : Nat}

/-! ### MEM_UNCORRECTABLE (R382) -/

/-- A line of a panel takes poison, and nothing else of the panel changes. -/
def poisonLine (s : State) (p line : Nat) : State :=
  modPanel s p fun q => { q with marks := mapMod LineMark.clean q.marks line fun m => { m with poison := true } }

theorem poisonLine_poisons : linePoison (getPanel (poisonLine s p (addr / 64)) p) addr = true := by
  rw [poisonLine, getPanel_modPanel, linePoison, mapGet_mapMod_self]

theorem poisonLine_sram {line q : Nat} : (getPanel (poisonLine s p line) q).sram = (getPanel s q).sram := by
  by_cases h : p = q
  · subst h; rw [poisonLine, getPanel_modPanel]
  · rw [poisonLine, getPanel_modPanel_ne h]

/-- What every uncorrectable error leaves besides its place: only counters, records and events change. -/
theorem memRecord_fields {cls id : Nat} {logical : Option (Nat × Nat × Nat)} :
    (memRecord s cls logical id).panels = s.panels ∧ (memRecord s cls logical id).sessions = s.sessions
    ∧ (memRecord s cls logical id).regs = s.regs ∧ (memRecord s cls logical id).jobs = s.jobs := by
  simp only [memRecord, writeSig_fields, raiseEvent_fields, bumpFor_fields, and_self]

/-- It is raised on the die page, and the signature that follows keeps the event (R382, R387). -/
theorem memRecord_raised {cls id : Nat} {logical : Option (Nat × Nat × Nat)} : Raised (memRecord s cls logical id) .die 61 := by
  obtain ⟨hkeeps, -⟩ := writeSig_grown (s := raiseEvent (bumpFor s .die 0x560 [(64, id)]) .die 61 [(64, id)]) (q := .die)
    (i := { SigInfo.plain cls 5 0 with logical := logical })
  exact hkeeps 61 (raiseEvent_raised rfl (by decide))

/-- No panel changes beyond the place itself. -/
theorem getPanel_memRecord {cls id q : Nat} {logical : Option (Nat × Nat × Nat)} :
    getPanel (memRecord s cls logical id) q = getPanel s q := by
  unfold getPanel
  rw [memRecord_fields.1]

/-- An error in the SRAM of a panel that is there poisons its line (R379, R382). -/
theorem execMemUncorrectable_sram (hp : p < panelsEn s) (ha : addr < sramSize) :
    execMemUncorrectable (.sram p addr) s = .next (memRecord (poisonLine s p (addr / 64)) 3 (some (p, 0, 0)) addr) :=
  congrArg Host.Outcome.next (if_neg (not_or.mpr ⟨hp.not_ge, ha.not_ge⟩))

/-! ### POISON_REPAIRED (R381) -/

/-- A line of a panel's image in the pattern copy. -/
def imageLine (img : List Byte) (line : Nat) : List Byte := (img.drop (64 * line)).take 64

/-- A poisoned line whose image reaches it is rewritten from there, without its poison; Jobel records it. -/
theorem execPoisonRepaired_rewrites {nw : Nat} {b : Bolt} {pat : Pattern} (hb : boltOfPanel s p = some (nw, b)) (hpat : b.pat = some pat)
    (hpoison : linePoison (getPanel s p) addr = true)
    (himg : 64 * (addr / 64) + 64 ≤ (nth [] pat.images (panelRel nw b p)).length) :
    execPoisonRepaired p addr s = .next
      (let t := modPanel s p fun q =>
        { q with
          sram := memWrite q.sram (64 * (addr / 64)) (imageLine (nth [] pat.images (panelRel nw b p)) (addr / 64))
          marks := mapSet LineMark.clean q.marks (addr / 64) LineMark.clean }
       bbRecord { t with ras := { t.ras with rewrites := t.ras.rewrites.filter fun x => x != (p, addr / 64) } } .jobel 0x121
        (natLe 4 (64 * (addr / 64)))) := by
  have hshort : decide ((nth [] pat.images (panelRel nw b p)).length < 64 * (addr / 64) + 64) = false := decide_eq_false himg.not_gt
  unfold linePoison at hpoison
  simp only [execPoisonRepaired, hb, hpat, hpoison, hshort, Bool.not_true, Bool.or_self, Bool.false_eq_true, if_false, imageLine]

/-! ### BUCKET_LOAD (R157) -/

/-- A load that passes the gate takes the table that the registers hold where it keeps R157, and is recorded where it does not. -/
theorem execBucketLoad_passes {w : Window} (h : Passes s w .die 0x218) : execBucketLoad w s = .next
    (if bucketsOk (bucketRegs s) = true then markDirty { s with kv := { s.kv with buckets := (bucketRegs s).takeWhile fun x => x.1 != 0 } }
     else capture s .die 2 (winCode w) 0x218 2) :=
  congrArg _ (gated_of_passes h)

/-- Settles O26: the error's line and its record, a scrub without bad places, the line's rewrite, and the table past the gate. -/
theorem memoryErrorsPoisonAndBucketsLoad : Obligations.MemoryErrorsPoisonAndBucketsLoad := by
  unfold Obligations.MemoryErrorsPoisonAndBucketsLoad
  refine ⟨fun s p addr => ⟨fun hp ha => ?_, fun corrected => rfl, fun nw b pat hb hpat hpoison himg => ?_⟩, fun s w h => ?_⟩
  · obtain ⟨-, hsessions, hregs, hjobs⟩ := memRecord_fields (s := poisonLine s p (addr / 64)) (cls := 3)
      (logical := some (p, 0, 0)) (id := addr)
    refine ⟨_, execMemUncorrectable_sram hp ha, ?_, memRecord_raised, fun q => ?_, hsessions, hregs, hjobs⟩
    · rw [getPanel_memRecord]; exact poisonLine_poisons
    · rw [getPanel_memRecord]; exact poisonLine_sram
  · exact execPoisonRepaired_rewrites hb hpat hpoison himg
  · exact execBucketLoad_passes h

end Sys2Proof.Machine

/-! SUPPORT. The commands of tenants, bolts, sessions and retains that their functions may submit: what each answers, and what it leaves
(R174, R180 to R186, R216, R408, R409, R448, R450). -/

namespace Sys2Proof.Machine

variable {s : State} {id : Nat} {d : Dispatched}

/-! ### Tenants and bolts (R180, R181, R448) -/

/-- TENANT_CREATE asks for an owner, a session limit in its range and a FREE slot (R180). -/
theorem execTenantCreate_admitted (h : Admitted s id 0x01 fromPf d) : execTenantCreate id s = .next
    (if s.sec.owner = none then finishEntry s d 0x24 0
     else if arg0 d 14 0 = 0 ∨ 16384 < arg0 d 14 0 then finishEntry s d 0x21 0
     else if (getTenant s d.entry.tenant).st ≠ .free then finishEntry s d 0x23 0
     else finishEntry (makeTenant s d.entry.tenant (arg0 d 14 0)) d 0 0) := by
  rw [execTenantCreate, command_of_admitted h]
  exact congrArg _ (if_congr Option.isNone_iff_eq_none rfl rfl)

/-- BOLT_CREATE asks for a free rectangle of enabled panels (R448). -/
theorem execBoltCreate_admitted (h : Admitted s id 0x03 fromPf d) : execBoltCreate id s = .next
    (let nw := arg0 d 5 0
     let cols := arg0 d 9 6
     let rows := arg0 d 13 10
     let ps := rectPanels nw cols rows
     if rectFree s nw cols rows = false then finishEntry s d 0x2A 0
     else finishEntry (tagRouters (ownPanels (setBolt s nw (some (newBolt cols rows d.port))) ps d.port nw 0) ps nw) d 0 0) := by
  rw [execBoltCreate, command_of_admitted h]
  exact congrArg _ (if_congr (Bool.not_eq_true' _).to_iff rfl rfl)

/-- BOLT_REMOVE asks for a bolt that holds nothing (R448). -/
theorem execBoltRemove_admitted {b : Bolt} (h : Admitted s id 0x04 fromOwner d) (hb : getBolt s d.entry.bolt = some b) :
    execBoltRemove id s = .next
      (if b.phase ≠ 0 then finishEntry s d 0x2B 0 else finishEntry (dropBolt s d.entry.bolt b) d 0 0) := by
  simp only [execBoltRemove, command_of_admitted h, hb]

/-- Whether a job works on a bolt. -/
theorem any_boltOfJob_iff {nw : Nat} : (s.jobs.any fun j => boltOfJob s j == some nw) = true ↔ ∃ j ∈ s.jobs, boltOfJob s j = some nw := by
  simp only [List.any_eq_true, beq_iff_eq]

/-- BOLT_TRANSFER asks for a bolt without jobs and a LIVE port to take it (R448). -/
theorem execBoltTransfer_admitted (h : Admitted s id 0x05 fromOwner d) :
    execBoltTransfer id s = .next
      (if (∃ j ∈ s.jobs, boltOfJob s j = some d.entry.bolt) then finishEntry s d 0x2B 0
       else if (getPort s (1 - d.port)).pair ≠ .live then finishEntry s d 0x2D 0
       else finishEntry (passBolts s (fun n _ => n == d.entry.bolt) (1 - d.port)) d 0 0) := by
  rw [execBoltTransfer, command_of_admitted h]
  exact congrArg _ (if_congr any_boltOfJob_iff rfl rfl)

/-! ### Sessions (R182 to R186, R408) -/

/-- The session that an entry opens under a data key: numbered next under the key (R182, R408). -/
def openedSession (d : Dispatched) (k : DataKey) : Session :=
  { Session.start with
    st := .opened, tenant := d.entry.tenant, bolt := d.entry.bolt, pattern := arg0 d 31 0, aset := arg0 d 47 32,
    pin := arg0 d 48 48 == 1, lookup := arg0 d 49 49 == 1, publish := arg0 d 50 50 == 1, countPrompt := arg0 d 51 51 == 1,
    port := d.port, number := k.sessions + 1, key := k.entry.key }

/-- A tenant with one more session. -/
def Tenant.addSession (e : Tenant) : Tenant := { e with sessions := e.sessions + 1 }

/-- A session opens: its tenant and its data key count it (R182, R408). -/
def openSession (s : State) (d : Dispatched) (n : Nat) (k : DataKey) : State :=
  let s1 := modTenant (modSession s n fun _ => openedSession d k) d.entry.tenant Tenant.addSession
  let mine (x : DataKey) : Bool := x.tenant == d.entry.tenant && x.bolt == d.entry.bolt
  { s1 with sec := { s1.sec with
    dataKeys := modWhere mine (fun x => { x with sessions := x.sessions + 1 }) s1.sec.dataKeys } }

section

variable {b : Bolt} (h : Admitted s id 0x08 fromOwnerVf d) (hb : getBolt s d.entry.bolt = some b)

include h hb

/-- An open that no rule refuses takes the lowest FREE session. -/
theorem execSessionOpen_opens {n : Nat} {k : DataKey} (hok : openRefused s d b = none) (hn : freeSessionNum s = some n)
    (hk : dataKey s d.entry.tenant d.entry.bolt = some k) :
    execSessionOpen id s = .next (finishEntry (openSession s d n k) d 0 n) := by
  simp only [execSessionOpen, command_of_admitted h, hb, hok, hn, hk]
  rfl

/-- A refused one is answered with its status and raises SESSION_REFUSED (R182). -/
theorem execSessionOpen_refused {st : Nat} (hno : openRefused s d b = some st) :
    execSessionOpen id s = .next (finishEntry (raiseEvent s .die 42 [(12, d.entry.tenant)]) d st 0) := by
  simp only [execSessionOpen, command_of_admitted h, hb, hno, Option.getD_some]

end

/-- An answer changes no session. -/
@[simp] theorem getSession_finishEntry {st det m : Nat} : getSession (finishEntry s d st det) m = getSession s m := by
  simp only [getSession, finishEntry_fields]

/-- An answer changes no tenant. -/
@[simp] theorem getTenant_finishEntry {st det m : Nat} : getTenant (finishEntry s d st det) m = getTenant s m := by
  simp only [getTenant, finishEntry_fields]

section

variable {n m : Nat} {k : DataKey}

theorem getSession_openSession : getSession (openSession s d n k) n = openedSession d k :=
  getSession_modSession (f := fun _ => openedSession d k)

theorem getSession_openSession_ne (h : m ≠ n) : getSession (openSession s d n k) m = getSession s m :=
  getSession_modSession_ne (f := fun _ => openedSession d k) h.symm

theorem getTenant_openSession : getTenant (openSession s d n k) d.entry.tenant = (getTenant s d.entry.tenant).addSession :=
  getTenant_modTenant (s := modSession s n fun _ => openedSession d k) (f := Tenant.addSession)

theorem getTenant_openSession_ne (h : m ≠ d.entry.tenant) : getTenant (openSession s d n k) m = getTenant s m :=
  getTenant_modTenant_ne (s := modSession s n fun _ => openedSession d k) (f := Tenant.addSession) h.symm

end

/-! ### Retains (R174) -/

/-- A retain counts each node of its session's path once more, and is kept. -/
theorem execPrefixRetain_admitted (h : Admitted s id 0x0D fromSession d) (hst : (getSession s d.entry.session).st ≠ .free) :
    execPrefixRetain id s = .next
      (let t := (getSession s d.entry.session).path.foldl incNode s
       finishEntry { t with kv := { t.kv with retains := t.kv.retains ++ [(getSession s d.entry.session).path] } } d 0 0) := by
  rw [execPrefixRetain, command_of_admitted h]
  exact congrArg _ (if_neg hst)

section

variable (h : Admitted s id 0x0E fromSession d) (hst : (getSession s d.entry.session).st ≠ .free)

include h hst

/-- A release gives up the retained path that it finds, counting each of its nodes once less. -/
theorem execPrefixRelease_found {r : List Nat} (hr : retainedPath s (getSession s d.entry.session).path = some r) :
    execPrefixRelease id s = .next
      (let t := r.foldl decNode s
       finishEntry { t with kv := { t.kv with retains := t.kv.retains.erase r } } d 0 0) := by
  simp only [execPrefixRelease, command_of_admitted h, if_neg hst, hr]

/-- One that finds none is answered and changes nothing. -/
theorem execPrefixRelease_none (hr : retainedPath s (getSession s d.entry.session).path = none) :
    execPrefixRelease id s = .next (finishEntry s d 0 0) := by
  simp only [execPrefixRelease, command_of_admitted h, if_neg hst, hr]

end

/-- The longer of the path chosen so far and a retained one, where the session's begins with the latter. -/
def longer (path : List Nat) (o : Option (List Nat)) (r : List Nat) : Option (List Nat) :=
  if r.isPrefixOf path && (match o with | some q => decide (q.length ≤ r.length) | none => true) then some r else o

/-- What a choice among some paths says: a longest one that the session's begins with, or that it begins with none. -/
def LongestPrefix (path : List Nat) (rs : List (List Nat)) : Option (List Nat) → Prop
  | some r => r ∈ rs ∧ r <+: path ∧ ∀ q ∈ rs, q <+: path → q.length ≤ r.length
  | none => ∀ q ∈ rs, ¬ q <+: path

section

variable {path r : List Nat} {rs : List (List Nat)} {o : Option (List Nat)}

/-- The choice takes a path that the session's begins with and that is at least as long as the one chosen so far. -/
theorem longer_eq : longer path o r = if r <+: path ∧ ∀ q ∈ o, q.length ≤ r.length then some r else o := by
  unfold longer
  refine if_congr ?_ rfl rfl
  cases o <;> simp

/-- A choice stays one with one more path to choose from. -/
theorem LongestPrefix.concat (h : LongestPrefix path rs o) : LongestPrefix path (rs ++ [r]) (longer path o r) := by
  rw [longer_eq]
  split
  case isTrue htake =>
    obtain ⟨hr, hle⟩ := htake
    refine ⟨by simp, hr, List.forall_mem_append.mpr ⟨fun q hq hqp => ?_, by simp⟩⟩
    cases o with
    | none => exact absurd hqp (h q hq)
    | some p =>
      obtain ⟨-, -, hmax⟩ := h
      exact (hmax q hq hqp).trans (hle p rfl)
  case isFalse hkeep =>
    cases o with
    | none => exact List.forall_mem_append.mpr ⟨h, by simpa using hkeep⟩
    | some p =>
      obtain ⟨hmem, hpre, hmax⟩ := h
      have hshort : r <+: path → r.length < p.length := by simpa using hkeep
      exact ⟨List.mem_append_left _ hmem, hpre, List.forall_mem_append.mpr ⟨hmax, by simpa using fun hr => (hshort hr).le⟩⟩

theorem longestPrefix_foldl : LongestPrefix path rs (rs.foldl (longer path) none) := by
  induction rs using List.reverseRecOn with
  | nil => simp [LongestPrefix]
  | append_singleton rs r ih =>
    rw [List.foldl_append]
    exact ih.concat

end

/-- A release gives up a longest retained path that its session's begins with (R174). -/
theorem retainedPath_longest {path : List Nat} : LongestPrefix path s.kv.retains (retainedPath s path) := longestPrefix_foldl

/-- Settles O41: each admitted entry by its command's equation, the opened session field by field, and the retained path by its choice. -/
theorem tenantsBoltsAndSessionsComeAndGo : Obligations.TenantsBoltsAndSessionsComeAndGo := by
  unfold Obligations.TenantsBoltsAndSessionsComeAndGo
  refine ⟨fun s id d => ⟨execTenantCreate_admitted, fun h => congrArg _ (command_of_admitted h), execBoltCreate_admitted,
      fun b h hb => execBoltRemove_admitted h hb, fun h => execBoltTransfer_admitted h, fun h => congrArg _ (command_of_admitted h)⟩,
    fun s id d => ⟨fun b n k h hb hok hn hk => ?_, fun b st h hb hno => execSessionOpen_refused h hb hno,
      fun h => congrArg _ (command_of_admitted h), execPrefixRetain_admitted, fun h hst => ?_⟩,
    fun s path r hr => ?_⟩
  · refine ⟨_, execSessionOpen_opens h hb hok hn hk, ?_⟩
    simp only [getSession_finishEntry, getTenant_finishEntry, finishEntry_fields]
    exact ⟨getSession_openSession, congrArg Tenant.sessions getTenant_openSession, fun m => getSession_openSession_ne,
      fun m => getTenant_openSession_ne, rfl, rfl, rfl, rfl, rfl, rfl⟩
  · cases hr : retainedPath s (getSession s d.entry.session).path with
    | some r => exact execPrefixRelease_found h hst hr
    | none => exact execPrefixRelease_none h hst hr
  · have hlongest : LongestPrefix path s.kv.retains (some r) := hr ▸ retainedPath_longest
    exact hlongest

end Sys2Proof.Machine

/-! SUPPORT. The entries that a command answers without acting, the checks that come before it, and what an answer leaves at its ring
(R182, R440, R443, R447, R488, R492). -/

namespace Sys2Proof.Machine

variable {s : State} {id op : Nat} {d : Dispatched}

/-! ### What a command of a ring asks first -/

/-- Every row of the ring commands is a command with its opcode and its functions. -/
theorem exec_commandRow {plan : Plan} {image : FwImage} : ∀ x ∈ commandRows id plan image,
    ∃ act, exec x.1 s = .next (command s id x.2.1 x.2.2 act) := by
  simp only [commandRows, List.cons_append, List.nil_append, List.forall_mem_cons, List.not_mem_nil, false_imp_iff, implies_true, and_true]
  and_intros <;> exact ⟨_, rfl⟩

section

variable {may : State → Dispatched → Bool} {act : State → Dispatched → State} (hd : s.dispatched.find? (fun e => e.id == id) = some d)

include hd

/-- An entry of another opcode is not this command's. -/
theorem command_of_other (h : d.entry.opcode ≠ op) : command s id op may act = s := by
  simp only [command, hd]
  exact if_pos (.inl h)

/-- A command that needs Jobel waits while Jobel restarts (R488). -/
theorem command_of_restarting (hr : s.start.restarting = true) (hj : jobelOpcode op = true) : command s id op may act = s := by
  simp only [command, hd]
  exact if_pos (.inr ⟨hr, hj⟩)

/-- Limp mode answers ENTRY_INVALID to a command that it does not accept (R492). -/
theorem command_of_limp (ho : d.entry.opcode = op) (hr : s.start.restarting = false) (hl : s.start.limp ≠ 0) (hn : limpOpcode op = false) :
    command s id op may act = finishEntry (refusedOpen s d) d 0x21 0 := by
  have hruns : ¬ (d.entry.opcode ≠ op ∨ (s.start.restarting = true ∧ jobelOpcode op = true)) := by simp [ho, hr]
  simp only [command, hd, if_neg hruns]
  exact if_pos ⟨hl, hn⟩

end

/-- A refusal of any entry but an open raises nothing. -/
theorem refusedOpen_other (h : d.entry.opcode ≠ 0x08) : refusedOpen s d = s := if_neg h

/-! ### An answer -/

section

variable {port ring k status detail : Nat} {c : Completion}

/-- A changed ring leaves the others. -/
theorem modRing_otherRings {f : Ring → Ring} (h : k ≠ port * 4096 + ring) :
    mapGet Ring.start (modRing s port ring f).rings k = mapGet Ring.start s.rings k :=
  mapGet_mapMod_ne (d := Ring.start) (m := s.rings) h.symm

/-- A completion that waits at a ring leaves the others. -/
theorem queueCompletion_otherRings (h : k ≠ port * 4096 + ring) :
    mapGet Ring.start (queueCompletion s port ring c).rings k = mapGet Ring.start s.rings k := by
  unfold queueCompletion
  split
  · exact modRing_otherRings h
  · rfl

/-- Settling a ring leaves the others. -/
theorem settleRing_otherRings (h : k ≠ port * 4096 + ring) :
    mapGet Ring.start (settleRing s port ring).rings k = mapGet Ring.start s.rings k := by
  unfold settleRing
  dsimp only
  split_ifs <;> simp only [modRing_otherRings h]

/-- A ring that nobody closes or frees does not settle. -/
theorem settleRing_kept (hc : (getRing s port ring).closing = false) (hf : (getRing s port ring).freeing = false) :
    settleRing s port ring = s := by
  simp only [settleRing, hc, hf, Bool.false_and, Bool.false_eq_true, if_false, ite_self]

/-- An answer takes its entry away (R443). -/
theorem finishEntry_dispatched : (finishEntry s d status detail).dispatched = s.dispatched.filter fun e => e.id != d.id := by
  obtain ⟨rs, h⟩ := finishEntry_eq (s := s) (d := d) (st := status) (det := detail)
  rw [h]

/-- It changes its ring and the dispatched entries alone. -/
theorem finishEntry_only : finishEntry s d status detail =
    { s with dispatched := (finishEntry s d status detail).dispatched, rings := (finishEntry s d status detail).rings } := by
  obtain ⟨rs, h⟩ := finishEntry_eq (s := s) (d := d) (st := status) (det := detail)
  rw [h]

theorem finishEntry_otherRings (h : k ≠ d.port * 4096 + d.ring) :
    mapGet Ring.start (finishEntry s d status detail).rings k = mapGet Ring.start s.rings k :=
  (settleRing_otherRings h).trans (queueCompletion_otherRings h)

/-- The completion comes last among those that wait at an open ring (R443). -/
theorem getRing_finishEntry (hst : (getRing s d.port d.ring).st = .enabled) (hc : (getRing s d.port d.ring).closing = false)
    (hf : (getRing s d.port d.ring).freeing = false) : getRing (finishEntry s d status detail) d.port d.ring =
      { getRing s d.port d.ring with waiting :=
          (getRing s d.port d.ring).waiting ++ [(s.now, Completion.simple status d.entry.tag (BitVec.ofNat 32 detail))] } := by
  let s1 : State := { s with dispatched := s.dispatched.filter fun x => x.id != d.id }
  have hqueued (c : Completion) : getRing (queueCompletion s1 d.port d.ring c) d.port d.ring =
      { getRing s d.port d.ring with waiting := (getRing s d.port d.ring).waiting ++ [(s.now, c)] } := by
    have hopen : (getRing s1 d.port d.ring).st = .enabled := hst
    rw [queueCompletion, if_pos hopen, getRing_modRing]
    rfl
  unfold finishEntry
  rw [settleRing_kept (by rw [hqueued]; exact hc) (by rw [hqueued]; exact hf), hqueued]

end

/-- Settles O40: the checks of a command in their order, for every row of the table, and what an answer leaves. -/
theorem entriesAreAdmittedAndAnswered : Obligations.EntriesAreAdmittedAndAnswered := by
  unfold Obligations.EntriesAreAdmittedAndAnswered
  refine fun s id plan image d => ⟨fun x hx hd => ?_, fun status detail => ⟨finishEntry_dispatched, finishEntry_only,
    fun k => finishEntry_otherRings, getRing_finishEntry⟩⟩
  obtain ⟨act, hrow⟩ := exec_commandRow (s := s) x hx
  rw [hrow]
  refine ⟨fun ho => congrArg _ (command_of_other hd ho), fun _ hr hj => congrArg _ (command_of_restarting hd hr hj),
    fun ho hr hl hn => congrArg _ (command_of_limp hd ho hr hl hn), fun ho hr hl hmay => congrArg _ ?_,
    fun hne ho => refusedOpen_other (ho ▸ hne), fun ho => if_pos ho⟩
  exact command_of_not_owner hd ho (by simp [hr]) (by simp [hl]) hmay

end Sys2Proof.Machine

/-! SUPPORT. Which claim a job's arbiter admits, and adapter slots that load and become resident (R189, R190, R202, R203). -/

namespace Sys2Proof.Machine

variable {s t u : State}

/-! ### JOB_STATUS_CLAIM (R202, R203) -/

section

variable {cs : List Nat}

/-- COMPLETED wins against every other claim. -/
theorem winner_of_completed (h : 0 ∈ cs) : winner cs = some 0 := if_pos (List.contains_iff_mem.mpr h)

/-- Without it the first device-ended status wins, and without that the first claim. -/
theorem winner_of_uncompleted (h : 0 ∉ cs) : winner cs = (cs.find? fun c => decide (0x10 ≤ c)).or cs.head? := by
  rw [winner, if_neg (mt List.contains_iff_mem.mp h)]
  cases cs.find? fun c => decide (0x10 ≤ c) <;> rfl

/-- A device-ended status wins where COMPLETED does not wait. -/
theorem winner_of_deviceEnded (h : 0 ∉ cs) (hdev : ∃ c ∈ cs, 0x10 ≤ c) : ∃ c ∈ cs, winner cs = some c ∧ 0x10 ≤ c := by
  have hfound : (cs.find? fun c => decide (0x10 ≤ c)).isSome = true := by simpa using hdev
  obtain ⟨c, hc⟩ := Option.isSome_iff_exists.mp hfound
  exact ⟨c, List.mem_of_find?_eq_some hc, by rw [winner_of_uncompleted h, hc, Option.some_or], by simpa using List.find?_some hc⟩

/-- The winner is one of the claims, and there is one wherever a claim waits. -/
theorem winner_mem (h : cs ≠ []) : ∃ c ∈ cs, winner cs = some c := by
  by_cases h0 : 0 ∈ cs
  · exact ⟨0, h0, winner_of_completed h0⟩
  by_cases hdev : ∃ c ∈ cs, 0x10 ≤ c
  · obtain ⟨c, hc, hwin, -⟩ := winner_of_deviceEnded h0 hdev
    exact ⟨c, hc, hwin⟩
  · have hnone : cs.find? (fun c => decide (0x10 ≤ c)) = none := by simpa using hdev
    refine ⟨cs.head h, List.head_mem h, ?_⟩
    rw [winner_of_uncompleted h0, hnone, Option.none_or, List.head?_eq_some_head h]

theorem winner_eq_none_iff : winner cs = none ↔ cs = [] := by
  refine ⟨fun hnone => by_contra fun h => ?_, fun h => h ▸ rfl⟩
  obtain ⟨c, -, hwin⟩ := winner_mem h
  rw [hnone] at hwin
  cases hwin

end

/-- The admitted claim ends its job, and the job's other claims are gone. -/
theorem execJobStatusClaim_admits {job st : Nat} (h : winner ((s.claims.filter fun c => c.1 == job).map Prod.snd) = some st) :
    execJobStatusClaim job s = .next (pumpLoads (endJob { s with claims := s.claims.filter fun c => c.1 != job } job st 0)) := by
  rw [execJobStatusClaim, h]

/-- Settles O21: the arbiter's order, and the job that ends with the claim admitted. -/
theorem claimsEndTheirJob : Obligations.ClaimsEndTheirJob := by
  unfold Obligations.ClaimsEndTheirJob
  exact ⟨fun cs => ⟨winner_of_completed, winner_of_deviceEnded, fun h _ _ => winner_mem h, winner_eq_none_iff⟩,
    fun s job st => execJobStatusClaim_admits⟩

/-! ### Changes of panels alone -/

/-- Nothing but panels differs. -/
def OnlyPanels (s t : State) : Prop := t = { s with panels := t.panels }

theorem OnlyPanels.refl : OnlyPanels s s := rfl

theorem OnlyPanels.trans (h : OnlyPanels s t) (k : OnlyPanels t u) : OnlyPanels s u := by
  unfold OnlyPanels at *
  rw [k, h]

theorem modPanel_onlyPanels {p : Nat} {f : Panel → Panel} : OnlyPanels s (modPanel s p f) := rfl

/-- Changes of one panel after another. -/
theorem OnlyPanels.foldl {α : Type} {xs : List α} {f : State → α → State} (h : ∀ s x, OnlyPanels s (f s x)) :
    OnlyPanels s (xs.foldl f s) :=
  List.foldlRecOn xs f .refl fun t ht x _ => ht.trans (h t x)

/-- What such changes leave. -/
theorem OnlyPanels.fields (h : OnlyPanels s t) :
    t.bolts = s.bolts ∧ t.hdrs = s.hdrs ∧ t.regs = s.regs ∧ t.jobs = s.jobs ∧ t.sessions = s.sessions := by
  rw [h]
  exact ⟨rfl, rfl, rfl, rfl, rfl⟩

theorem getBolt_of_onlyPanels {nw : Nat} (h : OnlyPanels s t) : getBolt t nw = getBolt s nw := by
  obtain ⟨hbolts, -⟩ := h.fields
  simp only [getBolt, hbolts]

/-! ### ADAPTER_SLOT_LOAD (R189 steps 1 and 2, R190) -/

variable {nw tenant set k slot : Nat} {b : Bolt} {pat : Pattern}

/-- The parts of an adapter slot are cleared on every panel of a bolt. -/
def clearSlot (s : State) (nw : Nat) (b : Bolt) (pat : Pattern) (k : Nat) : State :=
  (boltPanels nw b).foldl (fun s p =>
    match panelEntry nw b p with
    | some e => modPanel s p fun q => sramFree q (e.adapterBase + k * pat.slotBytes) pat.slotBytes
    | none => s) s

theorem clearSlot_onlyPanels : OnlyPanels s (clearSlot s nw b pat k) := by
  refine OnlyPanels.foldl fun s p => ?_
  split
  · exact modPanel_onlyPanels
  · exact .refl

/-- A bolt whose slot begins to load a set. -/
def Bolt.loadingSlot (k tenant set : Nat) (b : Bolt) : Bolt :=
  { b with slots := mapSet AdSlot.start b.slots k { st := 1, tenant := tenant, set := set, lastUse := b.nextStep.toNat } }

theorem loadingSlot_slot : mapGet AdSlot.start (b.loadingSlot k tenant set).slots k =
    { st := 1, tenant := tenant, set := set, lastUse := b.nextStep.toNat } := by
  rw [Bolt.loadingSlot, mapGet_mapSet_self]

/-- A wanted set that is stored, and that no slot holds as it stands, begins to load into the slot that is chosen. -/
theorem execAdapterSlotLoad_loads (hb : getBolt s nw = some b) (hpat : b.pat = some pat) (hw : (tenant, set) ∈ b.wanted)
    (hstored : ∃ a ∈ s.sets, a.tenant = tenant ∧ a.set = set)
    (hidle : ∀ x ∈ b.slots, x.2.st ≠ 0 → x.2.stale = false → x.2.tenant = tenant → x.2.set ≠ set)
    (hk : chooseSlot s nw b pat.slots = some k) : execAdapterSlotLoad nw tenant set s =
      .next (clearSlot (modBolt (endWait s (.adapterSlots nw)) nw (Bolt.loadingSlot k tenant set)) nw b pat k) := by
  have hwanted : b.wanted.contains (tenant, set) = true := List.contains_iff_mem.mpr hw
  have hknown : (s.sets.any fun a => a.tenant == tenant && a.set == set) = true := by simpa [List.any_eq_true] using hstored
  have hbusy : (b.slots.any fun x => x.2.st != 0 && !x.2.stale && x.2.tenant == tenant && x.2.set == set) = false := by
    simpa [List.any_eq_false] using hidle
  simp only [execAdapterSlotLoad, hb, hpat, hwanted, hknown, hbusy, hk, Bool.not_true, Bool.or_self, Bool.false_eq_true, if_false]
  rfl

/-! ### ADAPTER_SLOT_RESIDENT (R189 steps 3 and 4) -/

/-- Every panel of a bolt takes its part of a set into a slot, each line tagged for the slot's tenant. -/
def fillSlot (s : State) (nw : Nat) (b : Bolt) (pat : Pattern) (slot : Nat) (segs : List (Nat × List Byte)) : State :=
  (boltPanels nw b).foldl (fun s p =>
    match panelEntry nw b p with
    | none => s
    | some e =>
      let tenant := (mapGet AdSlot.start b.slots slot).tenant
      let base := e.adapterBase + slot * pat.slotBytes
      let part := match segs.find? fun g => g.1 == panelRel nw b p with | some g => g.2.take pat.slotBytes | none => []
      modPanel s p fun q =>
        let q1 := { q with tags := (linesOf base pat.slotBytes).foldl (fun m l => mapSet (0 : BitVec 14) m l (tenantTag tenant)) q.tags }
        sramWrite q1 { tenant := tenant, pat := b.tenant, row := false } base [(part, LineMark.clean)]) s

theorem fillSlot_onlyPanels {segs : List (Nat × List Byte)} : OnlyPanels s (fillSlot s nw b pat slot segs) := by
  refine OnlyPanels.foldl fun s p => ?_
  split
  · exact .refl
  · exact modPanel_onlyPanels

/-- A bolt with a slot resident, whose set is wanted no more. -/
def Bolt.residentSlot (slot : Nat) (a : AdSlot) (b : Bolt) : Bolt :=
  { b with slots := mapSet AdSlot.start b.slots slot { a with st := 2 }, wanted := b.wanted.filter fun x => x != (a.tenant, a.set) }

theorem residentSlot_slot {a : AdSlot} : mapGet AdSlot.start (b.residentSlot slot a).slots slot = { a with st := 2 } := by
  rw [Bolt.residentSlot, mapGet_mapSet_self]

theorem residentSlot_wanted {a : AdSlot} : (a.tenant, a.set) ∉ (b.residentSlot slot a).wanted := by simp [Bolt.residentSlot]

/-- A slot that loads a stored set becomes resident, and the steps that have waited start. -/
theorem execAdapterSlotResident_arrived {x : AdapterSet} (hb : getBolt s nw = some b) (hpat : b.pat = some pat)
    (hst : (mapGet AdSlot.start b.slots slot).st = 1)
    (hset : s.sets.find? (fun x => x.tenant == (mapGet AdSlot.start b.slots slot).tenant && x.set == (mapGet AdSlot.start b.slots slot).set)
      = some x) :
    execAdapterSlotResident nw slot s = .next (startHeld
      (modBolt (fillSlot s nw b pat slot x.segs) nw (Bolt.residentSlot slot (mapGet AdSlot.start b.slots slot))) nw) := by
  simp only [execAdapterSlotResident, hb, hpat, hset]
  exact congrArg _ (if_neg (not_not.mpr hst))

/-- A step that waits for no set does not start again. -/
theorem startStep_unheld {x : Step} (h : x.held = none) : startStep s nw x = s := by
  unfold startStep
  rw [h]
  cases getBolt s nw <;> rfl

/-- Where no step of a bolt waits, none starts. -/
theorem startHeld_of_unheld (hb : getBolt s nw = some b) (h : ∀ x ∈ b.steps, x.held = none) : startHeld s nw = s := by
  simp only [startHeld, hb]
  split
  · rfl
  · exact List.foldlRecOn (motive := (· = s)) b.steps _ rfl fun t ht x hx => (startStep_unheld (h x hx)).trans ht

/-- Settles O24: the bolt's slot in the two states, and the panels as all else that a load or an arrival changes. -/
theorem adapterSlotsLoad : Obligations.AdapterSlotsLoad := by
  unfold Obligations.AdapterSlotsLoad
  refine fun s nw b pat hb hpat => ⟨fun tenant set k hw hstored hidle hk => ?_, fun slot x hst hset => ?_⟩
  · let s1 := modBolt (endWait s (.adapterSlots nw)) nw (Bolt.loadingSlot k tenant set)
    have hclear : OnlyPanels s1 (clearSlot s1 nw b pat k) := clearSlot_onlyPanels
    have hb1 : getBolt s1 nw = some (b.loadingSlot k tenant set) := getBolt_modBolt.trans (congrArg (Option.map _) hb)
    obtain ⟨-, hkept⟩ := hclear.fields
    exact ⟨_, execAdapterSlotLoad_loads hb hpat hw hstored hidle hk,
      ⟨_, (getBolt_of_onlyPanels hclear).trans hb1, loadingSlot_slot, rfl, rfl⟩, hkept⟩
  · let a := mapGet AdSlot.start b.slots slot
    let s1 := fillSlot s nw b pat slot x.segs
    have hfill : OnlyPanels s s1 := fillSlot_onlyPanels
    have hb1 : getBolt (modBolt s1 nw (Bolt.residentSlot slot a)) nw = some (b.residentSlot slot a) :=
      getBolt_modBolt.trans (congrArg (Option.map _) ((getBolt_of_onlyPanels hfill).trans hb))
    obtain ⟨-, hkept⟩ := hfill.fields
    exact ⟨_, execAdapterSlotResident_arrived hb hpat hst hset, startHeld_of_unheld (b := b.residentSlot slot a) hb1,
      ⟨_, hb1, residentSlot_slot, residentSlot_wanted⟩, hkept⟩

end Sys2Proof.Machine

/-! SUPPORT. Jobs that start, jobs and entries that are aborted, budgets that are refilled, and tokens that are reserved (R191 to R195,
R202, R205, R408, R441, R442). -/

namespace Sys2Proof.Machine

variable {s t u : State} {id : Nat} {d : Dispatched}

/-! ### The payload's checks (R408) -/

/-- The state of an entry's session once its job counter has advanced. -/
def advanceCounter (s : State) (d : Dispatched) : State :=
  modSession s d.entry.session fun e => { e with counter := entryCounter d }

section

variable {act : State → List Byte → State} {p : List Byte}

/-- A payload whose tag fails is counted, raised and answered. -/
theorem withPayload_unopened (h : openPayload s d = none) : withPayload s d act =
    finishEntry (raiseEvent (bumpFor s .sec 0x0A8 [(14, d.entry.session)]) .sec 18 [(14, d.entry.session)]) d 0x29 0 := by
  rw [withPayload, h]

/-- One whose counter is not the next is answered. -/
theorem withPayload_miscounted (h : openPayload s d = some p) (hc : entryCounter d ≠ (getSession s d.entry.session).counter + 1) :
    withPayload s d act = finishEntry s d 0x28 0 := by
  rw [withPayload, h]
  exact if_pos hc

/-- Past both the counter advances, and the command takes the plaintext. -/
theorem withPayload_opened (h : openPayload s d = some p) (hc : entryCounter d = (getSession s d.entry.session).counter + 1) :
    withPayload s d act = act (advanceCounter s d) p := by
  rw [withPayload, h]
  exact if_neg (not_not.mpr hc)

end

/-! ### GENERATE (R195, R441) -/

/-- What a generation job does once its session is known to take it. -/
def startGenerate (s : State) (d : Dispatched) (p : List Byte) : State :=
  let n := d.entry.session
  let e := getSession s n
  let j := { jobOf d (.gen (genJob s d p)) with tenant := e.tenant, bolt := e.bolt, ready := some s.now }
  let s1 := runSession (startJob s d j) n d.id
  let s2 := if bytesNat p 0x16 1 % 2 = 1 then modSession s1 n fun e => { e with counts := [] } else s1
  if d.entry.flags.getLsbD 1 then resend s2 d else s2

section

variable (h : Admitted s id 0x0A fromSession d)

include h

theorem execGenerate_badEntry (hok : generateEntryOk s d = false) : execGenerate id s = .next (finishEntry s d 0x21 0) := by
  simp only [execGenerate, command_of_admitted h, hok, Bool.not_false, if_true]

variable (hok : generateEntryOk s d = true)

include hok

/-- An entry that is right goes on to its payload. -/
theorem execGenerate_payload : execGenerate id s = .next (withPayload s d fun s p =>
    if !samplingOk p then finishEntry s d 0x27 0
    else if (getSession s d.entry.session).st ≠ .opened then finishEntry s d 0x26 0 else startGenerate s d p) := by
  simp only [execGenerate, command_of_admitted h, hok, Bool.not_true, Bool.false_eq_true, if_false]
  rfl

/-- The parameters are read, and then the session's state, once the counter has advanced. -/
theorem execGenerate_opened {p : List Byte} (hp : openPayload s d = some p)
    (hc : entryCounter d = (getSession s d.entry.session).counter + 1) : execGenerate id s = .next
      (if samplingOk p = false then finishEntry (advanceCounter s d) d 0x27 0
       else if (getSession s d.entry.session).st ≠ .opened then finishEntry (advanceCounter s d) d 0x26 0
       else startGenerate (advanceCounter s d) d p) := by
  rw [execGenerate_payload h hok, withPayload_opened hp hc, advanceCounter, getSession_modSession]
  exact congrArg _ (if_congr (Bool.not_eq_true' _).to_iff rfl rfl)

end

/-! ### TUNE (R199, R442) -/

section

variable (h : Admitted s id 0x0B fromOwnerVf d)

include h

theorem execTune_badEntry (hok : tuneEntryOk s d = false) : execTune id s = .next (finishEntry s d 0x21 0) := by
  simp only [execTune, command_of_admitted h, hok, Bool.not_false, if_true]

/-- A tuning job within its limits takes its OPENED session. -/
theorem execTune_starts {p : List Byte} {j : TuneJob} (hok : tuneEntryOk s d = true) (hp : openPayload s d = some p)
    (hc : entryCounter d = (getSession s d.entry.session).counter + 1) (hj : tuneJob d p = some j)
    (hst : (getSession s d.entry.session).st = .opened) : execTune id s = .next
      (runSession (startJob (advanceCounter s d) d { jobOf d (.tune j) with ready := some s.now }) d.entry.session d.id) := by
  simp only [execTune, command_of_admitted h, hok, Bool.not_true, Bool.false_eq_true, if_false, withPayload_opened hp hc, hj]
  refine congrArg _ (if_neg ?_)
  rw [advanceCounter, getSession_modSession]
  exact not_not.mpr hst

end

/-! ### ABORT (R202 to R204) -/

/-- Whether a job or an entry of a function, ring and tag is the one that an ABORT names. -/
def abortNames (d : Dispatched) (port fn ring : Nat) (tag : BitVec 16) : Bool :=
  port == d.port && fn == d.fn && ring == arg0 d 11 0 && tag == BitVec.ofNat 16 (arg0 d 27 12)

section

variable (h : Admitted s id 0x0C (fun _ _ => true) d)

include h

/-- ABORT of a job answers SUCCESS where it won, and ABORT_LATE where another claim stood. -/
theorem execAbort_job {j : Job} (hj : s.jobs.find? (fun j => abortNames d j.port j.fn j.ring j.tag) = some j) :
    execAbort id s = .next (pumpLoads (finishEntry (abortJob s j).1 d (if (abortJob s j).2 = true then 0 else 2) 0)) := by
  unfold abortNames at hj
  simp only [execAbort, command_of_admitted h, hj]

/-- An entry that has not run is answered ABORTED. -/
theorem execAbort_entry {x : Dispatched} (hj : s.jobs.find? (fun j => abortNames d j.port j.fn j.ring j.tag) = none)
    (hx : s.dispatched.find? (fun x => x.id != d.id && abortNames d x.port x.fn x.ring x.entry.tag) = some x) :
    execAbort id s = .next (finishEntry (finishEntry s x 1 0) d 0 0) := by
  unfold abortNames at hj hx
  simp only [execAbort, command_of_admitted h, hj, hx]

end

/-! ### TEN_REFILL (R191, R193, R205) -/

section

variable {w : Window} {v : Word} (h : Passes s w .die 0x318)

include h

/-- A refill of a tenant that is not ACTIVE is dropped and recorded. -/
theorem execTenRefill_dropped (hst : (getTenant s (field (getReg s .die 0x300) 11 0)).st ≠ .active) :
    execTenRefill w v s = .next (capture s .die 2 (winCode w) 0x318 (v.toNat % 2 ^ 32)) := by
  rw [execTenRefill, gated_of_passes h]
  exact congrArg _ (if_pos hst)

/-- One of an ACTIVE tenant sets its budget or adds to it, and tries its held sessions. -/
theorem execTenRefill_active (hst : (getTenant s (field (getReg s .die 0x300) 11 0)).st = .active) :
    execTenRefill w v s = .next
      (let t := field (getReg s .die 0x300) 11 0
       let s1 := budgetLow (modTenant s t fun e =>
         { e with budget := BitVec.ofNat 32 (if bit v 32 = true then field v 31 0 else min 0xFFFFFFFF (e.budget.toNat + field v 31 0)) }) t
         (getTenant s t).budget
       if (getTenant s1 t).budget = 0 then s1 else (heldSessions s1 t).foldl (fun s n => wakeSession s t n) s1) := by
  rw [execTenRefill, gated_of_passes h]
  simp only [satNat_eq_min]
  exact congrArg _ (if_neg (not_not.mpr hst))

end

/-! ### Reservations (R191, R194) -/

section

variable {n : Nat}

/-- Only the marks that a tenant's budget leaves on it, and events, may differ. -/
def OnlyMarks (n : Nat) (s t : State) : Prop :=
  (getTenant t n).budget = (getTenant s n).budget ∧ (∀ m, m ≠ n → getTenant t m = getTenant s m)
    ∧ t.sessions = s.sessions ∧ t.jobs = s.jobs ∧ t.regs = s.regs ∧ t.bolts = s.bolts

theorem OnlyMarks.refl : OnlyMarks n s s := ⟨rfl, fun _ _ => rfl, rfl, rfl, rfl, rfl⟩

theorem OnlyMarks.trans (h : OnlyMarks n s t) (k : OnlyMarks n t u) : OnlyMarks n s u := by
  obtain ⟨hbudget, hothers, hsessions, hjobs, hregs, hbolts⟩ := h
  obtain ⟨kbudget, kothers, ksessions, kjobs, kregs, kbolts⟩ := k
  exact ⟨kbudget.trans hbudget, fun m hm => (kothers m hm).trans (hothers m hm), ksessions.trans hsessions, kjobs.trans hjobs,
    kregs.trans hregs, kbolts.trans hbolts⟩

theorem modTenant_onlyMarks {f : Tenant → Tenant} (hf : ∀ e, (f e).budget = e.budget) : OnlyMarks n s (modTenant s n f) :=
  ⟨by rw [getTenant_modTenant, hf], fun _ hm => getTenant_modTenant_ne hm.symm, rfl, rfl, rfl, rfl⟩

theorem OnlyEvents.onlyMarks (h : OnlyEvents s t) : OnlyMarks n s t := by
  rw [h.eq]
  exact .refl

/-- Events of a tenant at its functions' pages are events alone. -/
theorem tenantEvent_only {e : Nat} : OnlyEvents s (tenantEvent s n e) := by
  refine List.foldlRecOn (motive := OnlyEvents s) s.vfs _ .refl fun t ht kv _ => ?_
  split
  · exact ht.trans raiseEvent_only
  · exact ht

/-- A budget's marks follow it (R194). -/
theorem budgetLow_onlyMarks {old : BitVec 32} : OnlyMarks n s (budgetLow s n old) := by
  have hclear : OnlyMarks n s (if (getTenant s n).budget = 0 then s else modTenant s n fun e => { e with zeroSent := false }) := by
    split
    · exact .refl
    · exact modTenant_onlyMarks fun _ => rfl
  unfold budgetLow
  dsimp only
  split
  · exact modTenant_onlyMarks fun _ => rfl
  · split
    · exact hclear
    · refine (hclear.trans ?_).trans (raiseEvent_only.trans tenantEvent_only).onlyMarks
      exact modTenant_onlyMarks fun _ => rfl

theorem reserveToken_empty (h : (getTenant s n).budget = 0) : reserveToken s n = none := if_pos h

/-- A reservation takes one token, from that tenant alone (R191). -/
theorem reserveToken_spends (h : (getTenant s n).budget ≠ 0) : ∃ u, reserveToken s n = some u
    ∧ (getTenant u n).budget = (getTenant s n).budget - 1 ∧ (∀ m, m ≠ n → getTenant u m = getTenant s m)
    ∧ u.sessions = s.sessions ∧ u.jobs = s.jobs ∧ u.regs = s.regs ∧ u.bolts = s.bolts := by
  obtain ⟨hbudget, hothers, hkept⟩ := budgetLow_onlyMarks (n := n) (old := (getTenant s n).budget)
    (s := modTenant s n fun e => { e with budget := e.budget - 1 })
  exact ⟨_, if_neg h, by rw [hbudget, getTenant_modTenant], fun m hm => (hothers m hm).trans (getTenant_modTenant_ne hm.symm), hkept⟩

end

/-- Settles O42: each admitted entry by the first check that fails or by its start, the refill past the gate, and a reservation's token. -/
theorem jobsStartAbortAndSpend : Obligations.JobsStartAbortAndSpend := by
  unfold Obligations.JobsStartAbortAndSpend
  refine ⟨fun s id d => ⟨fun h => ⟨execGenerate_badEntry h, fun hok hp => ?_, fun p hok hp => ⟨fun hc => ?_, fun hc hs => ?_,
      fun hc hs hst => ?_, fun hc hs hst => ?_⟩⟩,
      fun h => ⟨execTune_badEntry h, fun p j => execTune_starts h⟩,
      fun h => ⟨fun j => execAbort_job h, fun x => execAbort_entry h⟩⟩,
    fun s w v n => ⟨fun h => ⟨execTenRefill_dropped h, execTenRefill_active h⟩, reserveToken_empty, reserveToken_spends⟩⟩
  · exact (execGenerate_payload h hok).trans (congrArg _ (withPayload_unopened hp))
  · exact (execGenerate_payload h hok).trans (congrArg _ (withPayload_miscounted hp hc))
  · exact (execGenerate_opened h hok hp hc).trans (congrArg _ (if_pos hs))
  · refine (execGenerate_opened h hok hp hc).trans (congrArg _ ?_)
    rw [hs]
    exact if_pos hst
  · refine (execGenerate_opened h hok hp hc).trans (congrArg _ ?_)
    rw [hs, if_neg (by decide), if_neg (not_not.mpr hst), startGenerate, advanceCounter, getSession_modSession]
    rfl

end Sys2Proof.Machine

/-! SUPPORT. Messages that modules send to each other, loads that are staged, fed, committed and cancelled, patterns and unloads, and the
broadcast of an image (R207, R213 to R215, R228 to R231, R286, R411). -/

namespace Sys2Proof.Machine

variable {s t u : State} {nw idx addr : Nat} {c : Sealed}

/-! ### Sending changes the links, the credits and the broadcasts alone (R337, R340) -/

/-- Nothing but credits, messages under way, broadcasts and what is posted differs. -/
def OnlySends (s t : State) : Prop :=
  t = { s with net := t.net, out := t.out, fab := { s.fab with
    ports := t.fab.ports, unacked := t.fab.unacked, txSeq := t.fab.txSeq, packets := t.fab.packets, bcasts := t.fab.bcasts,
    relays := t.fab.relays } }

theorem OnlySends.refl : OnlySends s s := rfl

theorem OnlySends.trans (h : OnlySends s t) (k : OnlySends t u) : OnlySends s u := by
  unfold OnlySends at *
  rw [k, h]

/-- Sending one thing after another. -/
theorem OnlySends.foldl {α : Type} {xs : List α} {f : State → α → State} (h : ∀ s x, OnlySends s (f s x)) : OnlySends s (xs.foldl f s) :=
  List.foldlRecOn xs f .refl fun t ht x _ => ht.trans (h t x)

theorem getBolt_of_onlySends (h : OnlySends s t) : getBolt t nw = getBolt s nw := by
  rw [h]
  rfl

/-- Whom a load takes chunks from is a matter of the rack's addresses and ranks. -/
theorem chunkFrom_of_onlySends {l : Load} {src : Option (Nat × List Nat)} (h : OnlySends s t) : chunkFrom t l src = chunkFrom s l src := by
  rw [h]
  rfl

/-- The frames that are free are a matter of the bolts, the sets and the region's size. -/
theorem allocLoad_of_onlySends {l : Load} (h : OnlySends s t) : allocLoad t l = allocLoad s l := by
  rw [h]
  rfl

theorem modKw_onlySends {plane : Nat} {f : KwPort → KwPort} : OnlySends s (modKw s plane f) := rfl

theorem takeCredits_onlySends {q : QueueId} {n : Nat} : OnlySends s (takeCredits s q n) := rfl

/-- Packets that are counted and a message that is posted. -/
theorem emit_onlySends {n : Nat} {o : Out} : OnlySends s (emit { s with fab := { s.fab with packets := n } } o) := rfl

theorem beginWait_onlySends {q : QueueId} : OnlySends s (beginWait s q) := by
  unfold beginWait
  split
  · exact .refl
  · rfl

theorem pumpTx_onlySends {plane : Nat} {acc : State × List KwTx} {m : KwTx} : OnlySends acc.1 (pumpTx plane acc m).1 := by
  unfold pumpTx
  dsimp only
  split
  · exact .refl
  split
  · exact (takeCredits_onlySends.trans modKw_onlySends).trans beginWait_onlySends
  · exact (takeCredits_onlySends.trans modKw_onlySends).trans emit_onlySends

theorem pumpKw_onlySends {plane : Nat} : OnlySends s (pumpKw s plane) := by
  have hsent : OnlySends s ((getKw s plane).txQueue.foldl (pumpTx plane) (s, [])).1 :=
    List.foldlRecOn (motive := fun a : State × List KwTx => OnlySends s a.1) _ _ .refl fun _ ha _ _ => ha.trans pumpTx_onlySends
  exact hsent.trans modKw_onlySends

theorem transmit_onlySends {plane dst vc : Nat} {seq : BitVec 32} {data : List Byte} : OnlySends s (transmit s plane dst vc seq data) :=
  modKw_onlySends.trans pumpKw_onlySends

theorem sendMsg_onlySends {half dst vc : Nat} {data : List Byte} : OnlySends s (sendMsg s half dst vc data) := by
  unfold sendMsg
  dsimp only
  split
  · refine OnlySends.trans ?_ transmit_onlySends
    rfl
  · rfl

theorem multicast_onlySends {data : List Byte} : OnlySends s (multicast s idx data) := by
  unfold multicast
  dsimp only
  split
  · exact .refl
  split
  · exact transmit_onlySends
  · exact .refl

/-! ### Chunks that move on (R229 to R231) -/

theorem bcastChunk_onlySends : OnlySends s (bcastChunk s nw idx c) := by
  unfold bcastChunk
  dsimp only
  split
  · exact .refl
  split
  · split
    · exact .refl
    · exact multicast_onlySends.trans rfl
  split
  · split
    · exact sendMsg_onlySends.trans rfl
    · exact .refl
  · exact .refl

theorem forwardChunk_onlySends {next : List Nat} : OnlySends s (forwardChunk s nw idx next c) := by
  cases next with
  | nil => exact .refl
  | cons a rest => exact sendMsg_onlySends.trans rfl

/-- Before it takes a chunk, a module only sends. -/
theorem relayChunk_onlySends {src : Option (Nat × List Nat)} : OnlySends s (relayChunk s nw idx src c) := by
  unfold relayChunk
  split
  · exact bcastChunk_onlySends
  split
  · exact forwardChunk_onlySends
  · exact .refl

section

variable {m : Bcast} (hm : s.fab.bcasts.find? (fun m => m.bolt == nw) = some m)

include hm

/-- The manager multicasts the next chunk, and waits for reports behind the last one. -/
theorem bcastChunk_multicasts (hwait : m.waitEnd = none) (hidx : idx = m.sent) : bcastChunk s nw idx c =
    (let t := multicast s idx (chunkMsg idx [] c)
     { t with fab := { t.fab with bcasts := modWhere (fun x => x.bolt == nw) (fun x =>
       { x with
         sent := idx + 1
         waitEnd := if m.chunks ≤ idx + 1 then some (s.now + 1000 * field (getReg s .die 0x388) 15 8) else none }) t.fab.bcasts } }) := by
  simp only [bcastChunk, hm, hwait, hidx, Option.isNone_none, if_true, not_true, ne_eq, if_false, dieReg]

/-- In the fall-back it reads the next chunk that is missed again, for the first worker of the chain. -/
theorem bcastChunk_resends {t0 a : Nat} {next more : List Nat} (hwait : m.waitEnd = some t0) (hchain : m.chain = a :: next)
    (hresend : m.resend = idx :: more) : bcastChunk s nw idx c =
    (let t := sendMsg s 0 a 2 (chunkMsg idx next c)
     { t with fab := { t.fab with bcasts := modWhere (fun x => x.bolt == nw) (fun x => { x with resend := more }) t.fab.bcasts } }) := by
  simp only [bcastChunk, hm, hwait, hchain, hresend, Option.isNone_some, Bool.false_eq_true, if_true, if_false]

end

/-! ### Chunks that a load takes (R207, R213, R214) -/

section

variable {b : Bolt} {l : Load} {src : Option (Nat × List Nat)} (hb : getBolt s nw = some b) (hl : b.load = some l)

include hb hl

/-- A chunk from elsewhere than a load expects is not taken. -/
theorem loadChunk_unexpected (hfrom : chunkFrom s l src = false) : loadChunk s nw idx src c = s := by
  simp only [loadChunk, hb, hl, hfrom, Bool.not_false, Bool.or_true, if_true]

/-- A chunk that a load with its header lacks is taken, once the load has its frames. -/
theorem loadChunk_takes {l1 : Load} (hst : l.staged = false) (hfrom : chunkFrom s l src = true) (hheader : l.header ≠ [])
    (hidx : idx < headerChunks l.header) (hnew : ∀ x ∈ l.chunks, x.idx ≠ idx) (halloc : allocLoad s l = some l1) :
    loadChunk s nw idx src c = takeChunk s nw idx b l1 c := by
  have hawaited : ¬(headerChunks l.header ≤ idx ∨ (l.chunks.any fun x => x.idx == idx) = true) := by simpa [hidx] using hnew
  simp only [loadChunk, hb, hl, hst, hfrom, List.isEmpty_eq_false_iff.mpr hheader, halloc, if_neg hawaited, Bool.not_true, Bool.or_self,
    Bool.false_eq_true, if_false]

theorem execLoadChunk_unexpected (hfrom : chunkFrom s l src = false) :
    execLoadChunk nw idx { src := src, box := c } s = .next (relayChunk s nw idx src c) :=
  congrArg _ (loadChunk_unexpected ((getBolt_of_onlySends relayChunk_onlySends).trans hb) hl
    ((chunkFrom_of_onlySends relayChunk_onlySends).trans hfrom))

theorem execLoadChunk_takes {l1 : Load} (hst : l.staged = false) (hfrom : chunkFrom s l src = true) (hheader : l.header ≠ [])
    (hidx : idx < headerChunks l.header) (hnew : ∀ x ∈ l.chunks, x.idx ≠ idx) (halloc : allocLoad s l = some l1) :
    execLoadChunk nw idx { src := src, box := c } s = .next (takeChunk (relayChunk s nw idx src c) nw idx b l1 c) :=
  congrArg _ (loadChunk_takes ((getBolt_of_onlySends relayChunk_onlySends).trans hb) hl hst
    ((chunkFrom_of_onlySends relayChunk_onlySends).trans hfrom) hheader hidx hnew ((allocLoad_of_onlySends relayChunk_onlySends).trans halloc))

end

/-! ### LOAD_STAGE, LOAD_COMMIT and LOAD_CANCEL (R213, R215) -/

section

variable {id : Nat} {d : Dispatched} {b b1 : Bolt}

/-- A load that is refused: the event with the chunk behind it, and the answer. -/
def refuseLoad (s : State) (d : Dispatched) (status chunk : Nat) : State :=
  finishEntry (raiseEvent s .die 45 [(6, d.entry.bolt), (32, chunk)]) d status 0

theorem busy_of_unloadJob (h : b.phase = 3 ∨ b.unloadJob ≠ none) : b.phase = 3 ∨ b.unloadJob.isSome = true :=
  h.imp_right Option.isSome_iff_ne_none.mpr

theorem not_busy (hphase : b.phase ≠ 3) (hunload : b.unloadJob = none) : ¬(b.phase = 3 ∨ b.unloadJob.isSome = true) := by
  simp [hphase, hunload]

/-- The load before one that supersedes it has ended. -/
def supersede (s : State) (nw : Nat) (b : Bolt) : State :=
  match b.load with
  | some l => failLoad s nw b l 0x32 0
  | none => s

/-- What a command does to the bolt as the load before has left it. -/
def onSuperseded (s : State) (nw : Nat) (b : Bolt) (act : State → Bolt → State) : State :=
  match getBolt (supersede s nw b) nw with
  | none => supersede s nw b
  | some b1 => act (supersede s nw b) b1

theorem onSuperseded_of_bolt {act : State → Bolt → State} (hb1 : getBolt (supersede s nw b) nw = some b1) :
    onSuperseded s nw b act = act (supersede s nw b) b1 := by
  simp only [onSuperseded, hb1]

/-- A load begins on a bolt that has none: one armed for the fabric waits for its header, any other brings it. -/
def beginStage (s : State) (d : Dispatched) (key : BitVec 256) (b : Bolt) : State :=
  let nw := d.entry.bolt
  let l := newLoad d key b.phase
  let b2 := setPhase { b with load := some l } 1
  let t := startBcast (startJob (setBolt s nw (some b2)) d (jobOf d .load)) nw d
  if l.fabric then t else headerCome t nw b2 l

variable (hb : getBolt s d.entry.bolt = some b)

include hb

section

variable (h : Admitted s id 0x10 stageFrom d)

include h

theorem execLoadStage_busy (hbusy : b.phase = 3 ∨ b.unloadJob ≠ none) : execLoadStage id s = .next (refuseLoad s d 0x2B 0) := by
  simp only [execLoadStage, command_of_admitted h, hb]
  exact congrArg _ (if_pos (busy_of_unloadJob hbusy))

variable (hphase : b.phase ≠ 3) (hunload : b.unloadJob = none)

include hphase hunload

theorem execLoadStage_noKey (hno : (getTenant s d.entry.tenant).weight = none ∨ (getTenant s d.entry.tenant).st ≠ .active) :
    execLoadStage id s = .next (refuseLoad s d 0x23 0) := by
  simp only [execLoadStage, command_of_admitted h, hb, if_neg (not_busy hphase hunload)]
  cases hk : (getTenant s d.entry.tenant).weight with
  | none => rfl
  | some k => exact congrArg _ (if_pos (hno.resolve_left (by simp [hk])))

theorem execLoadStage_starts {k : KeyEntry} (hk : (getTenant s d.entry.tenant).weight = some k)
    (hact : (getTenant s d.entry.tenant).st = .active) (hreload : arg0 d 2 2 = 1 → b.weights ≠ none)
    (hb1 : getBolt (supersede s d.entry.bolt b) d.entry.bolt = some b1) :
    execLoadStage id s = .next (beginStage (supersede s d.entry.bolt b) d k.key b1) := by
  have hheld : ¬(arg0 d 2 2 = 1 ∧ b.weights.isNone = true) := by simpa using hreload
  simp only [execLoadStage, command_of_admitted h, hb, if_neg (not_busy hphase hunload), hk, hact, if_neg hheld, ne_eq, not_true, if_false]
  exact congrArg _ (onSuperseded_of_bolt (act := fun s b => beginStage s d k.key b) hb1)

end

/-- A staged load begins its commit; any other is answered. -/
theorem execLoadCommit_admitted (h : Admitted s id 0x11 fromOwner d) : execLoadCommit id s = .next
    (match b.load with
     | none => finishEntry s d 0x21 0
     | some l =>
       if l.staged = true ∧ l.committing = false then
         pumpBolt (modBolt (startJob s d (jobOf d .load)) d.entry.bolt fun b =>
           { b with load := some { l with committing := true, commitJob := some d.id } }) d.entry.bolt
       else finishEntry s d 0x21 0) := by
  simp only [execLoadCommit, command_of_admitted h, hb]
  cases b.load with
  | none => rfl
  | some l =>
    have hidle : (!l.staged || l.committing) = true ↔ ¬(l.staged = true ∧ l.committing = false) := by
      cases l.staged <;> cases l.committing <;> decide
    exact congrArg _ ((if_congr hidle rfl rfl).trans (ite_not _ _ _))

/-- A load that no commit has taken up ends. -/
theorem execLoadCancel_admitted (h : Admitted s id 0x12 fromOwner d) : execLoadCancel id s = .next
    (match b.load with
     | none => finishEntry s d 0x02 0
     | some l => if b.phase = 3 then finishEntry s d 0x02 0 else finishEntry (failLoad s d.entry.bolt b l 1 0) d 0 0) := by
  cases hl : b.load <;> simp only [execLoadCancel, command_of_admitted h, hb, hl]

/-! ### LOAD_PATTERN (R207, R286) -/

section

variable (h : Admitted s id 0x13 fromOwner d)

include h

theorem execLoadPattern_inUse (hon : sessionsOn s d.entry.bolt = true) : execLoadPattern id s = .next (refuseLoad s d 0x37 0) := by
  simp only [execLoadPattern, command_of_admitted h, hb]
  exact congrArg _ (if_pos hon)

variable {header : List Byte} {cs : List Sealed} (hoff : sessionsOn s d.entry.bolt = false)
  (hw : (getTenant s d.entry.tenant).weight ≠ none) (hact : (getTenant s d.entry.tenant).st = .active)
  (hp : d.entry.payload = .image header cs)

include hoff hw hact hp

/-- For a tenant that may load, the image comes to what its key and its checks make of it. -/
theorem execLoadPattern_image : execLoadPattern id s = .next
    (match headerKey s header with
     | none => refuseLoad s d 0x23 0
     | some k =>
       match patternOf s d.entry.bolt b k header cs with
       | .error e => refuseLoad (if e.1 = 0x31 then bumpFor s .die 0x3A0 [(6, d.entry.bolt), (32, e.2)] else s) d e.1 e.2
       | .ok (r, imgs, sp) => finishEntry (raiseEvent
           (installPattern { s with freeCtr := s.freeCtr + 3 + 65536 } d.entry.bolt b (headerTenant header) r sp imgs)
           .die 44 [(6, d.entry.bolt), (32, 0)]) d 0 0) := by
  obtain ⟨k, hk⟩ := Option.ne_none_iff_exists'.mp hw
  simp only [execLoadPattern, command_of_admitted h, hb, hoff, hk, hact, hp, Bool.false_eq_true, ne_eq, not_true, if_false]
  rfl

theorem execLoadPattern_noKey (hkey : headerKey s header = none) : execLoadPattern id s = .next (refuseLoad s d 0x23 0) := by
  rw [execLoadPattern_image hb h hoff hw hact hp, hkey]

variable {k : BitVec 256} (hkey : headerKey s header = some k)

include hkey

theorem execLoadPattern_refused {e chunk : Nat} (herr : patternOf s d.entry.bolt b k header cs = .error (e, chunk)) :
    execLoadPattern id s = .next
      (refuseLoad (if e = 0x31 then bumpFor s .die 0x3A0 [(6, d.entry.bolt), (32, chunk)] else s) d e chunk) := by
  rw [execLoadPattern_image hb h hoff hw hact hp, hkey]
  simp only [herr]

theorem execLoadPattern_installs {r : PatRead} {imgs : List (List Byte)} {sp : Nat × Nat}
    (hok : patternOf s d.entry.bolt b k header cs = .ok (r, imgs, sp)) : execLoadPattern id s = .next (finishEntry (raiseEvent
      (installPattern { s with freeCtr := s.freeCtr + 3 + 65536 } d.entry.bolt b (headerTenant header) r sp imgs)
      .die 44 [(6, d.entry.bolt), (32, 0)]) d 0 0) := by
  rw [execLoadPattern_image hb h hoff hw hact hp, hkey]
  simp only [hok]

end

/-! ### UNLOAD (R411) -/

section

variable (h : Admitted s id 0x14 fromOwner d)

include h

theorem execUnload_inUse (hon : sessionsOn s d.entry.bolt = true) : execUnload id s = .next (finishEntry s d 0x37 0) := by
  simp only [execUnload, command_of_admitted h, hb]
  exact congrArg _ (if_pos hon)

variable (hoff : sessionsOn s d.entry.bolt = false)

include hoff

theorem execUnload_busy (hbusy : b.phase = 3 ∨ b.unloadJob ≠ none) : execUnload id s = .next (finishEntry s d 0x2B 0) := by
  simp only [execUnload, command_of_admitted h, hb, hoff, Bool.false_eq_true, if_false]
  exact congrArg _ (if_pos (busy_of_unloadJob hbusy))

theorem execUnload_starts (hphase : b.phase ≠ 3) (hunload : b.unloadJob = none)
    (hb1 : getBolt (supersede s d.entry.bolt b) d.entry.bolt = some b1) : execUnload id s = .next
      (unloadBolt (startJob (supersede s d.entry.bolt b) d (jobOf d .load)) d.entry.bolt b1 id) := by
  simp only [execUnload, command_of_admitted h, hb, hoff, if_neg (not_busy hphase hunload), Bool.false_eq_true, if_false]
  exact congrArg _ (onSuperseded_of_bolt (act := fun s b => unloadBolt (startJob s d (jobOf d .load)) d.entry.bolt b id) hb1)

end

end

/-! ### The manager's broadcast (R229, R230) -/

/-- A broadcast with a worker's latest report; one of the chain that misses nothing leaves it. -/
def Bcast.reported (addr : Nat) (missing : List Nat) (b : Bcast) : Bcast :=
  if addr ∈ b.workers then
    { b with
      reports := (b.reports.filter fun r => r.1 != addr) ++ [(addr, missing)]
      chain := if missing = [] then b.chain.filter fun a => a != addr else b.chain }
  else b

/-- A broadcast without a worker that does not answer: a new first worker of the chain needs all that it was to be sent. -/
def Bcast.dropped (addr : Nat) (b : Bcast) : Bcast :=
  { b with
    chain := b.chain.filter fun a => a != addr
    resend := if b.chain.head? = some addr then b.again else b.resend
    workers := if addr ∈ b.chain then b.workers.filter fun a => a != addr else b.workers }

theorem execBcastReport_eq {bolt : Nat} {missing : List Nat} :
    execBcastReport bolt addr missing s = .next (modBcast s bolt (Bcast.reported addr missing)) := by
  unfold execBcastReport Bcast.reported
  simp only [List.contains_iff_mem, List.isEmpty_iff]

/-- Whether a worker has not reported. -/
def Bcast.lacking (b : Bcast) (a : Nat) : Bool := !(b.reports.any fun r => r.1 == a)

/-- The workers that miss chunks or have not reported, in their rank order. -/
def Bcast.behind (b : Bcast) : List Nat := b.workers.filter fun a => b.lacking a || b.reports.any fun r => r.1 == a && !r.2.isEmpty

/-- The chunks that they miss, or all of them where a report is lacking. -/
def Bcast.missed (b : Bcast) : List Nat :=
  if b.behind.any b.lacking then List.range b.chunks
  else (List.range b.chunks).filter fun i => (b.reports.flatMap fun r => if b.behind.contains r.1 then r.2 else []).contains i

/-- When the wait is over, the workers behind form the chain. -/
theorem execBcastWait_over {bolt t0 : Nat} {b : Bcast} (hm : s.fab.bcasts.find? (fun b => b.bolt == bolt) = some b)
    (hwait : b.waitEnd = some t0) (hover : t0 ≤ s.now) (hchain : b.chain = []) : execBcastWait bolt s = .next
      (let t := modBcast s bolt fun x => { x with chain := b.behind, again := b.missed, resend := b.missed }
       if b.behind = [] then t else raiseEvent (bumpFor t .die 0x3B8 [(6, bolt)]) .die 47 [(6, bolt)]) := by
  have hdue : ¬(s.now < t0 ∨ (!b.chain.isEmpty) = true) := by simpa [hchain] using hover
  simp only [execBcastWait, hm, hwait, if_neg hdue]
  exact congrArg _ (if_congr List.isEmpty_iff rfl rfl)

/-! ### CHAIN_TIMEOUT (R230) -/

section

variable {bolt : Nat}

theorem modBcast_onlySends {f : Bcast → Bcast} : OnlySends s (modBcast s bolt f) := rfl

theorem skipNext_onlySends : OnlySends s (skipNext s bolt addr) := by
  unfold skipNext
  dsimp only
  split
  · exact .refl
  split
  · refine OnlySends.trans ?_ (OnlySends.foldl fun _ _ => sendMsg_onlySends)
    rfl
  · rfl

/-- The rack without a worker that does not answer. -/
def dropWorker (s : State) (bolt addr : Nat) : State := skipNext (modBcast s bolt (Bcast.dropped addr)) bolt addr

theorem dropWorker_onlySends : OnlySends s (dropWorker s bolt addr) := modBcast_onlySends.trans skipNext_onlySends

/-- A load armed for the fabric ends where its source is lost. -/
def loseSource (s : State) (bolt : Nat) : State :=
  match getBolt s bolt with
  | none => s
  | some b =>
    match b.load with
    | none => s
    | some l => if l.fabric && !l.staged then failLoad s bolt b l 0x35 0 else s

theorem loseSource_of_load {b : Bolt} {l : Load} (hb : getBolt s bolt = some b) (hl : b.load = some l) (hfab : l.fabric = true)
    (hst : l.staged = false) : loseSource s bolt = failLoad s bolt b l 0x35 0 := by
  simp only [loseSource, hb, hl, hfab, hst, Bool.not_false, Bool.and_self, if_true]

theorem execChainTimeout_eq : execChainTimeout bolt addr s = .next
    (if addr ≠ s.fab.addr then dropWorker s bolt addr else loseSource (dropWorker s bolt addr) bolt) := by
  unfold execChainTimeout dropWorker Bcast.dropped
  simp only [List.contains_iff_mem]
  rfl

theorem execChainTimeout_other (h : addr ≠ s.fab.addr) : execChainTimeout bolt addr s = .next (dropWorker s bolt addr) :=
  execChainTimeout_eq.trans (congrArg _ (if_pos h))

/-- On the worker that is dropped its load ends. -/
theorem execChainTimeout_self {b : Bolt} {l : Load} (h : addr = s.fab.addr) (hb : getBolt s bolt = some b) (hl : b.load = some l)
    (hfab : l.fabric = true) (hst : l.staged = false) :
    execChainTimeout bolt addr s = .next (failLoad (dropWorker s bolt addr) bolt b l 0x35 0) :=
  execChainTimeout_eq.trans (congrArg _ ((if_neg (not_not.mpr h)).trans
    (loseSource_of_load ((getBolt_of_onlySends dropWorker_onlySends).trans hb) hl hfab hst)))

end

/-- Settles O43: each admitted command by its first check that fails or by its start, a chunk past the sending that leaves its load as it
stood, and the manager's broadcast. -/
theorem loadsPatternsAndBroadcasts : Obligations.LoadsPatternsAndBroadcasts := by
  unfold Obligations.LoadsPatternsAndBroadcasts
  refine ⟨fun s id d b hb => ⟨?stage, execLoadCommit_admitted hb, execLoadCancel_admitted hb, ?chunk⟩,
    fun s nw idx a next c m hm => ⟨bcastChunk_multicasts hm, fun t0 more => bcastChunk_resends hm⟩,
    fun s id d b hb => ⟨?pattern, ?unload⟩,
    fun s bolt addr => ⟨fun missing => execBcastReport_eq, fun b t0 => execBcastWait_over, execChainTimeout_other,
      fun b l => execChainTimeout_self⟩⟩
  case stage =>
    exact fun h => ⟨execLoadStage_busy hb h, execLoadStage_noKey hb h,
      fun k b1 hphase hunload hk hact hreload hb1 => (execLoadStage_starts hb h hphase hunload hk hact hreload hb1).trans
        (congrArg _ (if_congr beq_iff_eq rfl rfl))⟩
  case chunk =>
    exact fun l idx src c hl hst => ⟨execLoadChunk_unexpected hb hl, fun l1 => execLoadChunk_takes hb hl hst⟩
  case pattern =>
    exact fun h => ⟨execLoadPattern_inUse hb h, fun header cs hoff hw hact hp => ⟨execLoadPattern_noKey hb h hoff hw hact hp,
      fun k e chunk hkey => execLoadPattern_refused hb h hoff hw hact hp hkey,
      fun k r imgs sp hkey => execLoadPattern_installs hb h hoff hw hact hp hkey⟩⟩
  case unload =>
    exact fun h => ⟨execUnload_inUse hb h, execUnload_busy hb h, fun b1 hoff hphase hunload => execUnload_starts hb h hoff hphase hunload⟩

end Sys2Proof.Machine

/-! SUPPORT. What a ready instruction comes to, by what its own rules say; the rows that write one register and the branches (R239, R246). -/

namespace Sys2Proof.Machine

variable {s t : State} {p c op : Nat} {h : Site} {w : Word} {body : State → Site → Word → Eff}

/-! ### What a ready instruction comes to -/

/-- A ready instruction that its own rules run leaves the state that they leave. -/
theorem issue_done (r : Ready s p c op h w) (hb : body (issued s p c op) h w = .done t) : issue s p c op body = t := by
  rw [issue_ready r, hb]

/-- A ready instruction that its own rules fault reaches no unit (R280). -/
theorem issue_fault {code : Nat} (r : Ready s p c op h w) (hb : body (issued s p c op) h w = .fault code) :
    issue s p c op body = patternFault s p c code h.x.pc.toNat op := by
  rw [issue_ready r, hb]

/-- An instruction of the sequencer's own takes no credit (R236). -/
theorem issued_of_noQueue (hq : opQueue p op = none) : issued s p c op = modCtx s p c Ctx.advanced := by
  simp only [issued, hq]

/-- What a ready instruction of the sequencer's own does to its context is one change of it with the program counter's. -/
theorem modCtx_issued {g : Ctx → Ctx} (r : Ready s p c op h w) (hq : opQueue p op = none) :
    modCtx (issued s p c op) p c g = modCtx s p c fun x => g x.advanced := by
  obtain ⟨-, -, hx⟩ := siteOf_spec r.1
  rw [issued_of_noQueue hq]
  exact modCtx_modCtx hx fun _ => rfl

/-! ### Registers of a context -/

/-- A register after a write of one: g0 reads as zero whatever is written to it (R239). -/
theorem gReg_gSet {x : Ctx} {n m : Nat} {v : Word} : gReg (gSet x n v) m = if m = 0 then 0 else if m = n then v else gReg x m := by
  by_cases hm : m = 0
  · simp only [gReg, hm, if_true]
  by_cases hn : n = 0
  · simp only [gSet, hn, if_true, hm, if_false]
  · simp only [gReg, gSet, hn, hm, if_false, mapGet_mapSet, eq_comm (a := n)]

/-- A row that writes its result to g[GD] does nothing else (R246). -/
theorem issue_scalar {f : Site → Word → Word} (r : Ready s p c op h w) (hq : opQueue p op = none) :
    issue s p c op (scalar f) = modCtx s p c fun x => gSet x.advanced (g51 w) (f h w) := by
  obtain ⟨hp, hslot, -⟩ := siteOf_spec r.1
  refine issue_done r ?_
  rw [scalar, setReg64, hp, hslot, modCtx_issued r hq]

/-- IMM32 as the upper half of a word (R246). -/
theorem ofNat_immOf_upper : BitVec.ofNat 64 (immOf w * 2 ^ 32) = w <<< 32 := by
  refine BitVec.eq_of_toNat_eq ?_
  simp only [immOf, field, BitVec.toNat_ofNat, BitVec.toNat_shiftLeft, Nat.shiftLeft_eq, Nat.shiftRight_zero]
  omega

/-- Settles O3: each row's own rule writes one register, and a register file reads what was written. -/
theorem scalarInstructionsWriteTheirRegister : Obligations.ScalarInstructionsWriteTheirRegister := by
  unfold Obligations.ScalarInstructionsWriteTheirRegister
  refine ⟨fun s p c h w => ⟨fun r => ?nop, fun r => ?ldi, fun r => ?ldih, fun r => ?addi, fun r => ?add, fun r => ?sub, fun r => ?muli,
    fun r => ?shli, fun r => ?andi⟩, fun x n m v => gReg_gSet⟩
  case nop => exact congrArg _ (issue_done r (congrArg _ (issued_of_noQueue rfl)))
  case ldih =>
    refine congrArg _ ((issue_scalar r rfl).trans ?_)
    rw [ofNat_immOf_upper]
  all_goals exact congrArg _ (issue_scalar r rfl)

/-! ### Branches -/

/-- Where a branch goes when it is taken (R246). -/
def branchTarget (h : Site) (w : Word) : Nat := ((h.x.pc.setWidth 64) + 8 * (w.setWidth 32).signExtend 64).toNat

theorem branchTo_notTaken : branchTo t h w false = .done t := rfl

theorem branchTo_taken : branchTo t h w true = if inCode h.e (branchTarget h w)
    then .done (modCtx t h.p h.x.slot fun x => { x with pc := BitVec.ofNat 24 (branchTarget h w) }) else .fault 0x04 := by
  simp only [branchTo, branchTarget, offOf, BitVec.ofNat_toNat]
  cases inCode h.e (((h.x.pc.setWidth 64) + 8 * (w.setWidth 32).signExtend 64).toNat) <;> rfl

/-- A ready branch that leaves its context changed by g goes to the next instruction, or to its target where that is code, or is the RANGE
fault at the branch (R246). -/
theorem issue_branch {g : Ctx → Ctx} {taken : Bool} (r : Ready s p c op h w) (hg : ∀ x, (g x).slot = x.slot)
    (hb : body (issued s p c op) h w = branchTo (modCtx s p c g) h w taken) : issue s p c op body =
      if taken = false then modCtx s p c g
      else if inCode h.e (branchTarget h w) then modCtx s p c fun x => { g x with pc := BitVec.ofNat 24 (branchTarget h w) }
      else patternFault s p c 0x04 h.x.pc.toNat op := by
  obtain ⟨hp, hslot, hx⟩ := siteOf_spec r.1
  cases taken with
  | false => exact issue_done r (hb.trans branchTo_notTaken)
  | true =>
    rw [branchTo_taken, hp, hslot, modCtx_modCtx hx hg] at hb
    rw [if_neg (by decide)]
    by_cases hin : inCode h.e (branchTarget h w) = true
    · rw [if_pos hin] at hb ⊢
      exact issue_done r hb
    · rw [if_neg hin] at hb ⊢
      exact issue_fault r hb

/-- Settles O4: each branch is taken by its own test, LOOP after its decrement. -/
theorem branchesMoveTheProgramCounter : Obligations.BranchesMoveTheProgramCounter := by
  unfold Obligations.BranchesMoveTheProgramCounter
  intro s p c h w a target jump v
  refine ⟨fun r => ?bz, fun r => ?bnz, fun r => ?loop⟩
  case bz =>
    refine congrArg _ ((issue_branch (g := Ctx.advanced) (taken := a == 0) r (fun _ => rfl) ?_).trans ?_)
    · rw [issued_of_noQueue rfl]; rfl
    · exact if_congr (by simp) rfl rfl
  case bnz =>
    refine congrArg _ ((issue_branch (g := Ctx.advanced) (taken := a != 0) r (fun _ => rfl) ?_).trans ?_)
    · rw [issued_of_noQueue rfl]; rfl
    · exact if_congr (by simp) rfl rfl
  case loop =>
    obtain ⟨hp, hslot, -⟩ := siteOf_spec r.1
    refine congrArg _ ((issue_branch (g := fun x => gSet x.advanced (g47 w) v) (taken := v != 0) r (fun x => ?_) ?_).trans ?_)
    · unfold gSet; split_ifs <;> rfl
    · rw [← modCtx_issued (g := fun x => gSet x (g47 w) v) r rfl, ← hp, ← hslot]; rfl
    · exact if_congr (by simp) rfl rfl

end Sys2Proof.Machine

/-! SUPPORT. The rows that make a context wait, and the ends of their waits: END, FENCE, SEALW, CALL and its reply, and a command's completion
(R242, R245, R275, R278, R279). -/

namespace Sys2Proof.Machine

variable {s : State} {p c op : Nat} {h : Site} {w : Word}

/-! ### Credits and panels of an issued command -/

/-- An item sent counts (R31). -/
@[simp] theorem usedCredits_takeCredits {q : QueueId} {n : Nat} : usedCredits (takeCredits s q n) q = usedCredits s q + n := mapGet_mapSet_self

/-- An issued command leaves everything of its panel but the contexts, as read by any part of the panel. -/
theorem issued_panel {α : Type} {f : Panel → α} (hf : ∀ q cs, f { q with ctxs := cs } = f q) :
    f (getPanel (issued s p c op) p) = f (getPanel s p) := by
  obtain ⟨cs, e⟩ := issued_getPanel s p c op
  rw [e, hf]

@[simp] theorem issued_nextCmd : (getPanel (issued s p c op) p).nextCmd = (getPanel s p).nextCmd := issued_panel fun _ _ => rfl

@[simp] theorem issued_calls : (getPanel (issued s p c op) p).calls = (getPanel s p).calls := issued_panel fun _ _ => rfl

/-- A command that enters its unit's queue changes the panels alone (R245). -/
theorem enterCmd_onlyPanels {left : Nat} : OnlyPanels s (enterCmd s p c op left) := by
  unfold enterCmd enterUnit
  split
  · exact .refl
  · exact modPanel_onlyPanels

/-- Changes of panels leave every sender's credits. -/
theorem usedCredits_of_onlyPanels {t : State} {q : QueueId} (ht : OnlyPanels s t) : usedCredits t q = usedCredits s q := by
  rw [ht]
  rfl

/-- It is no call of its panel's core. -/
theorem enterCmd_calls {left : Nat} : (getPanel (enterCmd s p c op left) p).calls = (getPanel s p).calls := by
  unfold enterCmd enterUnit
  split
  · rfl
  · rw [getPanel_modPanel]

/-! ### END, FENCE and SEALW -/

theorem execEndProg_ready (r : Ready s p c 0x0F h w) : execEndProg p c s = .next
    (settleCtx (modCtx s p c fun x => { x.advanced with wait := .ended }) p c) := by
  obtain ⟨-, hslot, -⟩ := siteOf_spec r.1
  refine congrArg _ (issue_done r ?_)
  rw [hslot, modCtx_issued r rfl]

theorem execFence_ready (r : Ready s p c 0x60 h w) : execFence p c s = .next
    (settleCtx (modCtx s p c fun x =>
      { x.advanced with wait := .fence (field w 31 0), since := s.now + creditLimit s (some p), stalled := false }) p c) := by
  refine congrArg _ (issue_done r ?_)
  rw [modCtx_issued r rfl]
  rfl

/-- In a sealed tail SEALW has nothing to wait for (R275). -/
theorem execSealw_tail (r : Ready s p c 0x51 h w) (ht : h.x.tail = true) : execSealw p c s = .next (modCtx s p c Ctx.advanced) := by
  refine congrArg _ (issue_done r ?_)
  rw [if_pos ht, issued_of_noQueue rfl]

/-- A context that waits for its step's seal from now on, its part reported (R275). -/
def Ctx.sealing (s : State) (p : Nat) (x : Ctx) : Ctx :=
  { x with wait := .sealw, since := s.now + creditLimit s (some p), stalled := false, reported := true }

theorem execSealw_waits (r : Ready s p c 0x51 h w) (ht : h.x.tail = false) : execSealw p c s = .next
    (if h.x.reported then modCtx s p c fun x => x.advanced.sealing s p
     else reportPart (modCtx s p c fun x => x.advanced.sealing s p) h.nw p h.x.step) := by
  refine congrArg _ (issue_done r ?_)
  rw [if_neg (by simp [ht]), modCtx_issued r rfl]
  rfl

/-! ### CALL and its reply -/

/-- A call of a context joins the core's calls (R279). -/
def sendCall (s : State) (p c gd : Nat) (k : CallRec) : State :=
  modPanel (modCtx (enterCmd s p c 0x61 1) p c fun x => { x with calls := x.calls ++ [gd] }) p fun q => { q with calls := q.calls ++ [k] }

theorem sendCall_calls {gd : Nat} {k : CallRec} : (getPanel (sendCall s p c gd k) p).calls = (getPanel s p).calls ++ [k] := by
  rw [sendCall, getPanel_modPanel, getPanel_modCtx]
  exact congrArg (· ++ [k]) enterCmd_calls

theorem sendCall_onlyPanels {gd : Nat} {k : CallRec} : OnlyPanels s (sendCall s p c gd k) :=
  (enterCmd_onlyPanels.trans modPanel_onlyPanels).trans modPanel_onlyPanels

/-- The call of a CALL (R279). -/
def callOf (s : State) (p c : Nat) (h : Site) (w : Word) : CallRec :=
  { ctx := c, step := h.x.step, fn := field w 15 0, arg := gReg h.x (g47 w), gd := g51 w, cmd := (getPanel s p).nextCmd }

theorem execCall_ready (r : Ready s p c 0x61 h w) : execCall p c s = .next (sendCall (issued s p c 0x61) p c (g51 w) (callOf s p c h w)) := by
  refine congrArg _ (issue_done r ?_)
  rw [issued_nextCmd]
  rfl

theorem usedCredits_issuedCall : usedCredits (issued s p c 0x61) (.coreCall p) = usedCredits s (.coreCall p) + 1 := usedCredits_takeCredits

/-- The core answers the oldest call (R279). -/
theorem execCallReply_answers {k : CallRec} {rest : List CallRec} {reply : Word} (hk : (getPanel s p).calls = k :: rest) :
    execCallReply p reply s = .next
      (settleCtx (modCtx (modPanel s p fun q => { q with calls := rest }) p k.ctx fun x =>
        gSet { x with calls := x.calls.erase k.gd, cmds := x.cmds.filter fun y => y.id != k.cmd } k.gd reply) p k.ctx) := by
  simp only [execCallReply, hk]

/-- A command whose work is done leaves its context's tracker (R245). -/
theorem execUnitCommandComplete_done {id : Nat} {x : Ctx}
    (hx : (getPanel s p).ctxs.find? (fun x => x.cmds.any fun k => k.id == id && k.left == 0) = some x) :
    execUnitCommandComplete p id s = .next
      (settleCtx (modCtx s p x.slot fun x => { x with cmds := x.cmds.filter fun k => k.id != id }) p x.slot) := by
  simp only [execUnitCommandComplete, hx]

/-- Settles O6: each row by its own equation, and a call by what sending it leaves. -/
theorem controlInstructionsSetTheWait : Obligations.ControlInstructionsSetTheWait := by
  unfold Obligations.ControlInstructionsSetTheWait
  intro s p c h w
  refine ⟨execEndProg_ready, execFence_ready, execSealw_tail, execSealw_waits, fun r => ?call, fun k rest reply => execCallReply_answers,
    fun id x => execUnitCommandComplete_done⟩
  case call =>
    obtain ⟨hh, hr, hb, -⟩ := issued_fields s p c 0x61
    obtain ⟨hb', hh', hr', -⟩ := (sendCall_onlyPanels (s := issued s p c 0x61) (p := p) (c := c) (gd := g51 w) (k := callOf s p c h w)).fields
    refine ⟨_, execCall_ready r, ?_, ?_, hh'.trans hh, hr'.trans hr, hb'.trans hb⟩
    · rw [sendCall_calls, issued_calls]; rfl
    · rw [usedCredits_of_onlyPanels sendCall_onlyPanels, usedCredits_issuedCall]

end Sys2Proof.Machine

/-! SUPPORT. The vector instructions, the moves, messages and reductions, and the pattern faults of their operands (R247, R253 to R255, R258 to
R265, R271 to R273, R280). -/

namespace Sys2Proof.Machine

variable {s : State} {p c op n : Nat} {h : Site} {w : Word} {d : List Word} {e : Nat}

/-! ### Vector instructions -/

section

variable (faults : Site → VecDesc → Nat → List (Option Nat)) (one : State → Site → VecDesc → Nat → State)

/-- What a vector instruction with a descriptor d and a count n comes to: its first fault, or its vectors one after the other (R257). -/
def vecOutcome (s : State) (p c op : Nat) (h : Site) (d : List Word) (n : Nat) : State :=
  match firstFault (faults h (vecDesc d) n) with
  | some code => patternFault s p c code h.x.pc.toNat op
  | none => (List.range n).foldl (fun t i => one t h (vecDesc d) i) (enterCmd (issued s p c op) p c op 0)

theorem vecInstr_ready (r : Ready s p c op h w) (D : DescribedBy s p h w vecReserved d n) :
    vecInstr s p c op faults one = .next (vecOutcome faults one s p c op h d n) := by
  unfold vecInstr
  refine congrArg _ ?_
  cases hf : firstFault (faults h (vecDesc d) n) with
  | none => rw [vecOutcome, hf]; exact issue_done r (by simp only [withDesc_described r D, hf])
  | some code => rw [vecOutcome, hf]; exact issue_fault r (by simp only [withDesc_described r D, hf])

end

/-- Settles O9: the seven rows share the vector instruction's rules, each with its own faults and function. -/
theorem vectorInstructionsRunVectorByVector : Obligations.VectorInstructionsRunVectorByVector := by
  unfold Obligations.VectorInstructionsRunVectorByVector
  intro s p c h w d n D answer
  exact ⟨fun r => vecInstr_ready actFaults actOne r D, fun r => vecInstr_ready cvtFaults cvtOne r D,
    fun r => vecInstr_ready wmvFaults wmvOne r D, fun r => vecInstr_ready wewFaults wewOne r D,
    fun r => vecInstr_ready wnormFaults wnormOne r D, fun r => vecInstr_ready wlookFaults wlookOne r D,
    fun r => vecInstr_ready wadFaults wadOne r D⟩

/-! ### What the rules of an issued instruction read of its panel -/

@[simp] theorem issued_getHem {tile arr : Nat} : getHem (issued s p c op) p tile arr = getHem s p tile arr :=
  issued_panel (f := fun q => mapGet HemArr.start q.hems (tile * 32 + arr)) fun _ _ => rfl

@[simp] theorem issued_promoteCount {sites : List (Option (Bool × Nat × Nat × Bool))} :
    promoteCount (issued s p c op) p sites = promoteCount s p sites := by
  simp only [promoteCount, issued_getHem]

@[simp] theorem issued_willHoldAt {x : Option (Bool × Nat × Nat × Bool)} : willHoldAt (issued s p c op) p x = willHoldAt s p x := by
  cases x <;> simp only [willHoldAt, issued_getHem]

@[simp] theorem issued_drainCount {sites : List (Option (Bool × Nat × Nat × Bool))} :
    drainCount (issued s p c op) p sites = drainCount s p sites := by
  simp only [drainCount, issued_willHoldAt]

@[simp] theorem issued_redFault : redFault (issued s p c op) p w d = redFault s p w d := by
  have hregs : (getPanel (issued s p c op) p).regs = (getPanel s p).regs := issued_panel fun _ _ => rfl
  simp only [redFault, hregs]

/-! ### MOVE and TACK -/

theorem execMove_runs (r : Ready s p c 0x10 h w) (hok : moveFault h w = none) :
    execMove p c s = .next (moveRun (enterCmd (issued s p c 0x10) p c 0x10 0) h w) :=
  congrArg _ (issue_done r (by rw [hok]))

theorem execMove_faults (r : Ready s p c 0x10 h w) (hbad : moveFault h w = some e) :
    execMove p c s = .next (patternFault s p c e h.x.pc.toNat 0x10) :=
  congrArg _ (issue_fault r (by rw [hbad]))

theorem execTack_runs (r : Ready s p c 0x50 h w) (hok : tackFault h w = none) :
    execTack p c s = .next (tackRun (enterCmd (issued s p c 0x50) p c 0x50 0) h w) :=
  congrArg _ (issue_done r (by rw [hok]))

theorem execTack_faults (r : Ready s p c 0x50 h w) (hbad : tackFault h w = some e) :
    execTack p c s = .next (patternFault s p c e h.x.pc.toNat 0x50) :=
  congrArg _ (issue_fault r (by rw [hbad]))

/-! ### BPROM and BDRAIN -/

/-- Whether some block of a range is placed nowhere. -/
theorem any_isNone_iff {α : Type} {xs : List (Option α)} : (xs.any fun x => x.isNone) = true ↔ none ∈ xs := by
  simp only [List.any_eq_true, Option.isNone_iff_eq_none, exists_eq_right]

/-- Whether some block of a range is not one that an EVAL leaves holding (R254). -/
theorem any_notHolding_iff {sites : List (Option (Bool × Nat × Nat × Bool))} :
    (sites.any fun x => (willHoldAt s p x).isNone) = true ↔ ∃ x ∈ sites, willHoldAt s p x = none := by
  simp only [List.any_eq_true, Option.isNone_iff_eq_none]

theorem execBprom_runs (r : Ready s p c 0x28 h w) (hok : none ∉ rangeSites h w) : execBprom p c s = .next
    ((rangeSites h w).foldl (fun t x => promoteBlock (getPanel s p).nextCmd h.x.step h.b.gen t p x)
      (enterCmd (issued s p c 0x28) p c 0x28 (promoteCount s p (rangeSites h w)))) := by
  refine congrArg _ (issue_done r ?_)
  rw [if_neg (by rwa [any_isNone_iff]), issued_nextCmd, issued_promoteCount]

theorem execBprom_faults (r : Ready s p c 0x28 h w) (hbad : none ∈ rangeSites h w) :
    execBprom p c s = .next (patternFault s p c 0x08 h.x.pc.toNat 0x28) :=
  congrArg _ (issue_fault r (if_pos (any_isNone_iff.mpr hbad)))

/-- A block that an EVAL leaves holding is placed. -/
theorem none_not_mem_of_holding {sites : List (Option (Bool × Nat × Nat × Bool))} (hok : ∀ x ∈ sites, willHoldAt s p x ≠ none) :
    none ∉ sites := fun hnone => hok none hnone rfl

theorem execBdrain_runs (r : Ready s p c 0x29 h w) (hok : ∀ x ∈ rangeSites h w, willHoldAt s p x ≠ none) : execBdrain p c s = .next
    ((rangeSites h w).foldl (fun t x => drainBlock (getPanel s p).nextCmd t p x)
      (enterCmd (issued s p c 0x29) p c 0x29 (drainCount s p (rangeSites h w)))) := by
  refine congrArg _ (issue_done r ?_)
  rw [if_neg (any_isNone_iff.not.mpr (none_not_mem_of_holding hok)), if_neg, issued_nextCmd, issued_drainCount]
  simpa only [issued_willHoldAt, any_notHolding_iff, not_exists, not_and] using hok

theorem execBdrain_unplaced (r : Ready s p c 0x29 h w) (hbad : none ∈ rangeSites h w) :
    execBdrain p c s = .next (patternFault s p c 0x08 h.x.pc.toNat 0x29) :=
  congrArg _ (issue_fault r (if_pos (any_isNone_iff.mpr hbad)))

theorem execBdrain_notHolding (r : Ready s p c 0x29 h w) (hplaced : none ∉ rangeSites h w)
    (hbad : ∃ x ∈ rangeSites h w, willHoldAt s p x = none) :
    execBdrain p c s = .next (patternFault s p c 0x06 h.x.pc.toNat 0x29) := by
  refine congrArg _ (issue_fault r ?_)
  rw [if_neg (any_isNone_iff.not.mpr hplaced), if_pos]
  simpa only [issued_willHoldAt, any_notHolding_iff] using hbad

/-! ### REDOPEN -/

theorem execRedopen_opens (r : Ready s p c 0x2C h w) (D : DescribedBy s p h w redReserved d n) (hok : redFault s p w d = none) :
    execRedopen p c s = .next (redOpen (issued s p c 0x2C) h d) := by
  obtain ⟨hp, -, -⟩ := siteOf_spec r.1
  refine congrArg _ (issue_done r ?_)
  rw [withDesc_described r D, hp, issued_redFault, hok]

theorem execRedopen_faults (r : Ready s p c 0x2C h w) (D : DescribedBy s p h w redReserved d n) (hbad : redFault s p w d = some e) :
    execRedopen p c s = .next (patternFault s p c e h.x.pc.toNat 0x2C) := by
  obtain ⟨hp, -, -⟩ := siteOf_spec r.1
  refine congrArg _ (issue_fault r ?_)
  rw [withDesc_described r D, hp, issued_redFault, hbad]

/-! ### SEND and RECV -/

section

variable {f : Flow}

theorem execSend_noFlow (r : Ready s p c 0x48 h w) (hf : instrFlow h w = none) :
    execSend p c s = .next (patternFault s p c 0x0D h.x.pc.toNat 0x48) :=
  congrArg _ (issue_fault r (by rw [hf]))

theorem execSend_sends (r : Ready s p c 0x48 h w) (hf : instrFlow h w = some f) (hok : sendFault h w f = none) :
    execSend p c s = .next (sendRun (issued s p c 0x48) h w f) :=
  congrArg _ (issue_done r (by simp only [hf, hok]))

theorem execSend_faults (r : Ready s p c 0x48 h w) (hf : instrFlow h w = some f) (hbad : sendFault h w f = some e) :
    execSend p c s = .next (patternFault s p c e h.x.pc.toNat 0x48) :=
  congrArg _ (issue_fault r (by simp only [hf, hbad]))

theorem execRecv_noFlow (r : Ready s p c 0x49 h w) (hf : instrFlow h w = none) :
    execRecv p c s = .next (patternFault s p c 0x0D h.x.pc.toNat 0x49) :=
  congrArg _ (issue_fault r (by rw [hf]))

theorem execRecv_waits (r : Ready s p c 0x49 h w) (hf : instrFlow h w = some f) (hok : recvFault h w = none) :
    execRecv p c s = .next (recvRun (issued s p c 0x49) h w f) :=
  congrArg _ (issue_done r (by simp only [hf, hok]))

theorem execRecv_faults (r : Ready s p c 0x49 h w) (hf : instrFlow h w = some f) (hbad : recvFault h w = some e) :
    execRecv p c s = .next (patternFault s p c e h.x.pc.toNat 0x49) :=
  congrArg _ (issue_fault r (by simp only [hf, hbad]))

end

/-- Settles O11: each row by its equation on sound operands. -/
theorem movesMessagesAndReductionsStart : Obligations.MovesMessagesAndReductionsStart := by
  unfold Obligations.MovesMessagesAndReductionsStart
  intro s p c h w
  exact ⟨execMove_runs, execTack_runs, fun r hok => execBprom_runs r fun hnone => hok none hnone rfl, execBdrain_runs,
    fun d n => execRedopen_opens, fun f => execSend_sends, fun f => execRecv_waits⟩

/-! ### Descriptors outside panel SRAM and the samplers' faults -/

theorem execSample_faults (r : Ready s p c 0x58 h w) (D : DescribedBy s p h w vecReserved d n)
    (hbad : firstFault (sampleFaults h (vecDesc d) n) = some e) : execSample p c s = .next (patternFault s p c e h.x.pc.toNat 0x58) :=
  congrArg _ (issue_fault r (by rw [withDesc_described r D, hbad]))

theorem execSmerge_faults (r : Ready s p c 0x59 h w) (D : DescribedBy s p h w vecReserved d n)
    (hbad : firstFault (smergeFaults h (vecDesc d) n) = some e) : execSmerge p c s = .next (patternFault s p c e h.x.pc.toNat 0x59) :=
  congrArg _ (issue_fault r (by rw [withDesc_described r D, hbad]))

/-- The opcodes of format 2 (R245). -/
theorem mem_of_opFormat_two (hf : opFormat op = some 2) :
    op ∈ [0x20, 0x21, 0x22, 0x2C, 0x30, 0x31, 0x38, 0x39, 0x3A, 0x3B, 0x3C, 0x40, 0x41, 0x42, 0x58, 0x59] := by
  unfold opFormat at hf
  split_ifs at hf with h0 h1 h3 h4 h5 h2 <;> cases hf
  exact h2

/-- A row of format 2 issues, and asks for its descriptor before everything else (R244). -/
theorem descriptorRow_issues {i : Instr} (hf : opFormat op = some 2) (hi : rowOfOpcode p c op = some i) :
    ∃ (reserved : List Word → Bool) (body : State → Site → Word → List Word → Nat → Eff),
      ∀ s, exec i s = .next (issue s p c op fun t h w => withDesc t h w reserved (body t h w)) := by
  have hop := mem_of_opFormat_two hf
  fin_cases hop <;> cases hi <;> exact ⟨_, _, fun _ => rfl⟩

/-- A descriptor that lies at no multiple of 64, or past panel SRAM, is a fault of every row of format 2 (R244, R246). -/
theorem descriptorRow_outside {i : Instr} (hf : opFormat op = some 2) (hi : rowOfOpcode p c op = some i) (r : Ready s p c op h w)
    (ha : (gReg h.x (g51 w) + offOf w).toNat % 64 ≠ 0 ∨ sramSize ≤ (gReg h.x (g51 w) + offOf w).toNat) : exec i s = .next
      (patternFault s p c (if (gReg h.x (g51 w) + offOf w).toNat % 64 ≠ 0 then 0x03 else 0x04) h.x.pc.toNat op) := by
  obtain ⟨reserved, body, hexec⟩ := descriptorRow_issues hf hi
  exact (hexec s).trans (congrArg _ (issue_fault r (withDesc_outside ha)))

/-- Settles O12: each row's equation on the operands that break a rule, and the descriptor's own rules for every row that has one. -/
theorem unsoundOperandsAreFaults : Obligations.UnsoundOperandsAreFaults := by
  unfold Obligations.UnsoundOperandsAreFaults
  intro s p c h w e fault
  refine ⟨execMove_faults, execTack_faults, execBprom_faults, execBdrain_unplaced, execBdrain_notHolding, fun d n => execRedopen_faults,
    execSend_noFlow, fun f => execSend_faults, execRecv_noFlow, fun f => execRecv_faults,
    fun d n D => ⟨fun r => execSample_faults r D, fun r => execSmerge_faults r D⟩, fun he ha op i hf hi r => ?_⟩
  subst he
  exact descriptorRow_outside hf hi r ha

end Sys2Proof.Machine

/-! SUPPORT. Batch tables that reach a panel, and steps that another rank's lead takes (R239, R369, R371). -/

namespace Sys2Proof.Machine

variable {s : State} {nw p c slot : Nat} {b : Bolt} {pat : Pattern} {t batch : Batch} {gen : BitVec 32} {rest : List (Nat × Batch × BitVec 32)}
  {e : PanelEntry}

section

variable (hq : (getPanel s p).batches = (c, t, gen) :: rest) (hb : boltOfPanel s p = some (nw, b)) (hpat : b.pat = some pat)
  (he : panelEntry nw b p = some e)

include hq hb hpat he

/-- A stale batch table is discarded (R371). -/
theorem execBatchTableReceive_stale (hstale : staleAt s p t.step gen = true) :
    execBatchTableReceive p s = .next (modPanel s p fun q => { q with batches := rest }) := by
  simp only [execBatchTableReceive, hq, hb, hpat, he, hstale, if_true]

/-- A batch table within the window starts its step's context (R239). -/
theorem execBatchTableReceive_starts (hstale : staleAt s p t.step gen = false) (hroom : (getPanel s p).ctxs.length < pat.window) :
    execBatchTableReceive p s = .next (startCtx (modStep (modPanel s p fun q => { q with batches := rest }) nw t.step fun k =>
      { k with toSend := k.toSend.filter fun x => x != p }) p e pat.rowLimit c t none) := by
  simp only [execBatchTableReceive, hq, hb, hpat, he, hstale, Nat.not_le.mpr hroom, Bool.false_eq_true, if_false]

end

/-- The step that another rank's lead makes of rank 0's batch (R369). -/
def spanStep (nw : Nat) (b : Bolt) (batch : Batch) : Step := { newStep nw b batch.step batch.kind [] [] with rows := batch.rows }

/-- Another rank's lead runs a step that it does not hold yet under the number that rank 0 gave it (R369). -/
theorem execSpanBatchReceive_takes (hb : getBolt s nw = some b) (hpat : b.pat = some pat) (hrank : b.rank ≠ 0) (hserve : serving b = true)
    (hnew : ∀ x ∈ b.steps, x.seq ≠ batch.step) (hslot : batchSlot s nw b pat.window = some slot) :
    execSpanBatchReceive nw batch s = .next (sendStep (modBolt s nw fun x =>
      { x with steps := x.steps ++ [spanStep nw b batch], nextStep := batch.step + 1 }) nw b slot (spanStep nw b batch)) := by
  have hany : (b.steps.any fun x => x.seq == batch.step) = false := by simpa using hnew
  simp only [execSpanBatchReceive, hb, hpat, hrank, hserve, hany, hslot, Bool.true_eq_false, Bool.false_eq_true, or_self, if_false]
  rfl

/-- Settles O19: a table's two answers at its panel, and the step that a rank other than 0 takes. -/
theorem batchTablesStartContexts : Obligations.BatchTablesStartContexts := by
  unfold Obligations.BatchTablesStartContexts
  exact fun s nw b pat => ⟨fun p c t gen rest e hq hb hpat he =>
      ⟨execBatchTableReceive_stale hq hb hpat he, execBatchTableReceive_starts hq hb hpat he⟩,
    fun batch slot hb hpat hrank hserve hnew hslot => execSpanBatchReceive_takes hb hpat hrank hserve hnew hslot⟩

end Sys2Proof.Machine

/-! SUPPORT. Arbiters: a request that joins, an item that ends, gives up or keeps a tenure, and the watchdog over the holder
(R306 to R313). -/

namespace Sys2Proof.Machine

variable {s : State} {r r0 : ResId} {q : ArbReq} {who items moved last : Nat} {c0 next : Bool}

/-! ### Requests and items (R306, R309, R310) -/

/-- An arbiter with a request posted behind all that it has seen (R306). -/
def Arbiter.post (a : Arbiter) (q : ArbReq) : Arbiter :=
  { a with waiting := a.waiting ++ [{ q with arrived := a.arrivals }], arrivals := a.arrivals + 1 }

/-- A request that has moved nothing yet (R306). -/
def freshRequest (r : ResId) (who items : Nat) (c0 : Bool) : ArbReq :=
  { who := who, class0 := resClass0 r who c0, items := items, progress := 0, arrived := 0, hint := 0 }

/-- A request with one more item moved (R306). -/
def ArbReq.advance (q : ArbReq) : ArbReq := { q with progress := q.progress + 1 }

/-- A revoked tenure is counted at a slice (R309). -/
def countRevoke (s : State) (r : ResId) (q : ArbReq) : State :=
  match r with
  | .slice p k => bumpFor s (.slice p k) 0x088 [(16, q.who), (16, q.progress + 1)]
  | _ => s

/-- Whether a requester is no port of a slice (R304); at any other resource every requester may ask. -/
def noPort (r : ResId) (who : Nat) : Bool :=
  match r with
  | .slice _ _ => decide (31 ≤ who)
  | _ => false

theorem noPort_eq_false (h : ∀ p k, r = .slice p k → who < 31) : noPort r who = false := by
  cases r with
  | slice p k => exact decide_eq_false (h p k rfl).not_ge
  | seam _ _ => rfl
  | dram _ _ => rfl
  | kwath _ => rfl

/-- A request joins the resource that serves it, and is granted at once when nobody holds it (R306). -/
theorem execArbRequest_joins (hr : resSteer s r0 = r) (hexists : resExists s r = true) (hitems : items ≠ 0)
    (hwho : ∀ p k, r = .slice p k → who < 31) : execArbRequest r0 who items c0 s = .next
      (if (getArb s r).holder.isSome then setArb s r (arbHints ((getArb s r).post (freshRequest r who items c0)))
       else arbGrant s r ((getArb s r).post (freshRequest r who items c0))) := by
  subst hr
  have hserves : ¬(!resExists s (resSteer s r0) || items == 0 || noPort (resSteer s r0) who) = true := by
    simp [hexists, hitems, noPort_eq_false hwho]
  exact congrArg Host.Outcome.next (if_neg hserves)

/-- The last item of a request frees the resource for the next one (R306). -/
theorem execArbItemDone_ends (h : (getArb s r).holder = some (q, moved, last)) (hend : q.items ≤ q.progress + 1) :
    execArbItemDone r next s = .next (arbGrant s r { getArb s r with holder := none }) := by
  simp only [execArbItemDone, h, if_pos hend]

/-- A revoked tenure is counted and goes behind the waiting requests before the next grant (R309, log entry 66). -/
theorem execArbItemDone_revoked (h : (getArb s r).holder = some (q, moved, last)) (hmore : ¬q.items ≤ q.progress + 1)
    (hrevoke : arbRevoke r (getArb s r) q (moved + 1) = true) : execArbItemDone r next s = .next
      (arbGrant (countRevoke s r q) r { (getArb s r).post q.advance with holder := none }) := by
  simp only [execArbItemDone, h, if_neg hmore, hrevoke, if_true]
  rfl

/-- Without a credit for its next item the holder is posted behind the grant that follows (R306, log entry 240). -/
theorem execArbItemDone_noCredit (h : (getArb s r).holder = some (q, moved, last)) (hmore : ¬q.items ≤ q.progress + 1)
    (hkeep : ¬arbRevoke r (getArb s r) q (moved + 1) = true) : execArbItemDone r false s = .next
      (arbPost (arbGrant s r { getArb s r with holder := none }) r q.advance) := by
  simp only [execArbItemDone, h, if_neg hmore, if_neg hkeep]
  rfl

/-- With one it goes on, and has moved something now (R306, R313). -/
theorem execArbItemDone_goesOn (h : (getArb s r).holder = some (q, moved, last)) (hmore : ¬q.items ≤ q.progress + 1)
    (hkeep : ¬arbRevoke r (getArb s r) q (moved + 1) = true) : execArbItemDone r true s = .next
      (setArb s r { getArb s r with holder := some (q.advance, moved + 1, s.now) }) := by
  simp only [execArbItemDone, h, if_neg hmore, if_neg hkeep]
  rfl

/-- A resource that nobody holds is granted to the next request that waits (R310). -/
theorem execArbItemDone_unheld (h : (getArb s r).holder = none) :
    execArbItemDone r next s = .next (if (getArb s r).waiting = [] then s else arbGrant s r (getArb s r)) := by
  simp only [execArbItemDone, h, List.isEmpty_iff]

/-! ### The watchdog (R313) -/

/-- An arbiter without its holder, who is fenced (R313). -/
def Arbiter.fence (a : Arbiter) (who : Nat) : Arbiter :=
  { a with holder := none, fenced := if a.fenced.contains who then a.fenced else a.fenced ++ [who] }

/-- The trip on a holder: the next grant without it, then the count and the event (R313). -/
def tripArb (s : State) (r : ResId) (q : ArbReq) : State :=
  raiseEvent (bumpFor (arbGrant s r ((getArb s r).fence q.who)) (arbTrip r).1 (arbTrip r).2.1 [(16, q.who), (16, q.progress)])
    (arbTrip r).1 (arbTrip r).2.2 [(16, q.who), (16, q.progress)]

/-- A holder beyond the limit trips, and its unit is declared FAILED where it is a unit of a page (R313). -/
theorem execArbWatchdog_trips (h : (getArb s r).holder = some (q, moved, last)) (hlate : last + resLimit s r < s.now) :
    execArbWatchdog r s = .next (match arbUnit r q.who with
      | some u => failUnit (tripArb s r q) u.1 7 7 u.2
      | none => tripArb s r q) := by
  simp only [execArbWatchdog, h, if_neg (Nat.not_le.mpr hlate)]
  rfl

/-- One within the limit is left alone. -/
theorem execArbWatchdog_within (h : (getArb s r).holder = some (q, moved, last)) (hwithin : s.now ≤ last + resLimit s r) :
    execArbWatchdog r s = .next s := by
  simp only [execArbWatchdog, h, if_pos hwithin]

/-- Settles O33: a request's equation, an item's equation for each end that it can have, and the watchdog's two answers. -/
theorem arbitersServe : Obligations.ArbitersServe := by
  unfold Obligations.ArbitersServe
  refine fun s r => ⟨fun r0 who items c0 => execArbRequest_joins, fun q moved last next h => ?_, fun next => execArbItemDone_unheld,
    fun q moved last => execArbWatchdog_trips, fun q moved last => execArbWatchdog_within⟩
  change execArbItemDone r next s = _
  split_ifs with hend hrevoke hcredit
  · exact execArbItemDone_ends h hend
  · exact execArbItemDone_revoked h hend hrevoke
  · subst hcredit; exact execArbItemDone_noCredit h hend hrevoke
  · rw [Bool.not_eq_false] at hcredit; subst hcredit; exact execArbItemDone_goesOn h hend hrevoke

end Sys2Proof.Machine

/-! SUPPORT. Lanes that go down and come up again: the parity of the seam's lanes, and lock, codewords and retraining of Kwath's
(R324, R334, R351). -/

namespace Sys2Proof.Machine

variable {s : State} {half lane port : Nat} {lost : Bool}

/-! ### Seam lanes (R324) -/

/-- The sending half's lanes. -/
def seamHalf (s : State) (half : Nat) : SeamHalf := if half = 0 then s.net.seam0 else s.net.seam1

/-- A changed half is read as changed. -/
@[simp] theorem seamHalf_modSeam {f : SeamHalf → SeamHalf} : seamHalf (modSeam s half f) half = f (seamHalf s half) := by
  by_cases h : half = 0 <;> simp [seamHalf, modSeam, h]

/-- A change of one half leaves the other's lanes. -/
theorem modSeam_other {f : SeamHalf → SeamHalf} : if half = 0 then (modSeam s half f).net.seam1 = s.net.seam1
    else (modSeam s half f).net.seam0 = s.net.seam0 := by
  by_cases h : half = 0 <;> simp [modSeam, h]

/-- A change of a half's lanes changes the network alone. -/
@[simp] theorem modSeam_fields {f : SeamHalf → SeamHalf} : (modSeam s half f).panels = s.panels
    ∧ (modSeam s half f).bolts = s.bolts ∧ (modSeam s half f).jobs = s.jobs ∧ (modSeam s half f).regs = s.regs :=
  ⟨rfl, rfl, rfl, rfl⟩

/-- The mismatches of a lane within the last millisecond, the one that falls now among them (R324). -/
def seamMismatches (s : State) (half lane : Nat) : List Nat :=
  (mapGet [] (seamHalf s half).errors lane).filter (fun t => decide (s.now ≤ t + 1000)) ++ [s.now]

/-- A mismatch counted on the receiving half (R324). -/
def countMismatch (s : State) (half lane : Nat) : State := bumpFor s (.half (1 - half)) 0x090 [(16, lane)]

/-- A half with a lane out of service (R324). -/
def SeamHalf.takeOut (lane : Nat) (x : SeamHalf) : SeamHalf :=
  { x with lanesUp := x.lanesUp &&& ~~~(BitVec.ofNat 15 (2 ^ lane)), errors := mapDel x.errors lane }

theorem SeamHalf.takeOut_down {x : SeamHalf} : (x.takeOut lane).lanesUp.getLsbD lane = false := by
  simp only [takeOut, BitVec.getLsbD_and, BitVec.getLsbD_not, BitVec.getLsbD_ofNat, Nat.testBit_two_pow_self]
  by_cases h : lane < 15 <;> simp [h]

/-- The state with a lane of the seam out of service, its event raised and its signature written (R324). -/
def seamLaneDown (s : State) (half lane : Nat) : State :=
  writeSig (raiseEvent (modSeam (countMismatch s half lane) half (SeamHalf.takeOut lane)) (.half half) 16 [(16, lane)])
    { SigInfo.plain 5 6 0 with lane := some lane }

/-- Of the network a lane's fall changes its half's lanes alone. -/
theorem seamLaneDown_net : (seamLaneDown s half lane).net = (modSeam s half (SeamHalf.takeOut lane)).net := by
  simp only [seamLaneDown, countMismatch, writeSig_fields, raiseEvent_fields, modSeam, bumpFor_fields]

/-- The event stands on the sending half (R324). -/
theorem seamLaneDown_raised (h : half < 2) : Raised (seamLaneDown s half lane) (.half half) 16 := by
  obtain ⟨hevt, -⟩ := writeSig_grown
    (s := raiseEvent (modSeam (countMismatch s half lane) half (SeamHalf.takeOut lane)) (.half half) 16 [(16, lane)])
    (q := .half half) (i := { SigInfo.plain 5 6 0 with lane := some lane })
  exact hevt 16 (raiseEvent_raised (decide_eq_true h) (by decide))

/-- Panels, bolts, jobs and registers stay. -/
theorem seamLaneDown_fields : (seamLaneDown s half lane).panels = s.panels ∧ (seamLaneDown s half lane).bolts = s.bolts
    ∧ (seamLaneDown s half lane).jobs = s.jobs ∧ (seamLaneDown s half lane).regs = s.regs := by
  simp only [seamLaneDown, countMismatch, writeSig_fields, raiseEvent_fields, modSeam_fields, bumpFor_fields, and_self]

/-- A mismatch on a lane that is up is counted and noted, and the sixteenth of a millisecond takes the lane out (R324). -/
theorem execSeamParity_up (hhalf : half < 2) (hlane : lane < 15) (hup : (seamHalf s half).lanesUp.getLsbD lane = true) :
    execSeamParity half lane s = .next
      (if (seamMismatches s half lane).length < 16 then modSeam (countMismatch s half lane) half fun x =>
        { x with errors := mapSet [] x.errors lane (seamMismatches s half lane) }
       else seamLaneDown s half lane) := by
  have hserves : ¬(2 ≤ half ∨ 15 ≤ lane ∨ (!(seamHalf s half).lanesUp.getLsbD lane) = true) := by simp [hhalf, hlane, hup]
  exact congrArg Host.Outcome.next (if_neg hserves)

/-! ### Lanes of a Kwath port (R334, R351) -/

/-- A lane that goes down at a time (R334). -/
def KwLane.fall (now : Nat) (x : KwLane) : KwLane := { x with up := false, errors := [], lastTry := some now }

/-- A lane out of service, with its event, its signature and the traffic re-shaped around it (R351). -/
def dropLane (s : State) (port lane : Nat) : State :=
  reshape (writeSig (raiseEvent (modLane s port lane (KwLane.fall s.now)) (.kwath port) 16 [(4, port), (3, lane)])
    { SigInfo.plain 6 6 0 with lane := some lane }) (0, port, lane)

/-- A lane that loses lock or fails too often goes down, and with its last lane the port (R334, R351). -/
theorem execKwLaneDown_falls {t : State} (hup : (getLane s port lane).up = true)
    (hbad : lost = true ∨ laneBad s (getLane s port lane) = true) (ht : dropLane s port lane = t) :
    execKwLaneDown port lane lost s = .next (if kwPortUp t port then t else downPlane t t.fab.addr port) := by
  have hfalls : ¬(!(getLane s port lane).up || !(lost || laneBad s (getLane s port lane))) = true := by
    rcases hbad with h | h <;> simp [hup, h]
  unfold execKwLaneDown
  refine congrArg Host.Outcome.next ?_
  extract_lets x s1 s2 sig s3 s4
  have hs4 : s4 = t := ht
  rw [if_neg hfalls, hs4]

/-- A lane that is down does not go down again. -/
theorem execKwLaneDown_down (hdown : (getLane s port lane).up = false) : execKwLaneDown port lane lost s = .next s := by
  refine congrArg Host.Outcome.next (if_pos ?_)
  rw [hdown]; rfl

/-- A lane that has just been retrained, with or without success (R334). -/
def KwLane.retrain (now : Nat) (ok : Bool) (x : KwLane) : KwLane := { x with lastTry := some now, up := ok, errors := [] }

/-- Whether ten seconds have passed since a lane's last try (R334). -/
def tryDue (now : Nat) (lastTry : Option Nat) : Bool :=
  match lastTry with
  | none => true
  | some t => decide (t + 10000000 ≤ now)

theorem tryDue_of_passed {now : Nat} {lastTry : Option Nat} (h : ∀ t, lastTry = some t → t + 10000000 ≤ now) :
    tryDue now lastTry = true := by
  cases lastTry with
  | none => rfl
  | some t => exact decide_eq_true (h t rfl)

/-- A lane that is down tries, while the lasers are on and ten seconds after its last try; with success its fault is reversed, and a
port that was down with it joins again (R334). -/
theorem execKwLaneRetrain_tries {ok : Bool} (hdown : (getLane s port lane).up = false) (hlasers : s.fab.lasers = true)
    (hdue : ∀ t, (getLane s port lane).lastTry = some t → t + 10000000 ≤ s.now) :
    execKwLaneRetrain port lane ok s = .next
      (if ok = false then modLane s port lane (KwLane.retrain s.now ok)
       else if kwPortUp s port then unshape (modLane s port lane (KwLane.retrain s.now ok)) (0, port, lane)
       else portJoined (unshape (modLane s port lane (KwLane.retrain s.now ok)) (0, port, lane)) port) := by
  have htries : ¬((getLane s port lane).up || !s.fab.lasers || !tryDue s.now (getLane s port lane).lastTry) = true := by
    simp [hdown, hlasers, tryDue_of_passed hdue]
  refine (congrArg Host.Outcome.next (if_neg htries)).trans ?_
  cases ok <;> rfl

/-- An uncorrectable codeword of a lane that is up is noted against it and counted (R334). -/
theorem execUncorrectableCodeword_up (hup : (getLane s port lane).up = true) : execUncorrectableCodeword port lane s = .next
    (bumpFor (modLane s port lane fun x => { x with errors := (x.errors.filter fun t => decide (s.now < t + 1000000)) ++ [s.now] })
      (.kwath port) 0x088 [(3, lane)]) := by
  refine congrArg Host.Outcome.next (if_neg ?_)
  simp [hup]

/-- Settles O34: a mismatch's one equation and what the lane's fall leaves, then each event of a Kwath lane by its equation. -/
theorem lanesGoDownAndRetrain : Obligations.LanesGoDownAndRetrain := by
  unfold Obligations.LanesGoDownAndRetrain
  refine ⟨fun s half lane hhalf hlane hup => ⟨fun hfew => ?_, fun hmany => ?_⟩, fun s port lane =>
    ⟨fun lost hup hbad => execKwLaneDown_falls hup hbad rfl, fun lost => execKwLaneDown_down, fun hdown hlasers hdue => ⟨?_, ?_⟩,
      execUncorrectableCodeword_up⟩⟩
  · exact (execSeamParity_up hhalf hlane hup).trans (congrArg _ (if_pos hfew))
  · refine ⟨_, (execSeamParity_up hhalf hlane hup).trans (congrArg _ (if_neg hmany.not_gt)), ?_, seamLaneDown_raised hhalf, ?_,
      seamLaneDown_fields⟩
    · rw [seamLaneDown_net]
      change (seamHalf (modSeam s half (SeamHalf.takeOut lane)) half).lanesUp.getLsbD lane = false
      rw [seamHalf_modSeam]
      exact SeamHalf.takeOut_down
    · rw [seamLaneDown_net]
      exact modSeam_other
  · exact (execKwLaneRetrain_tries hdown hlasers hdue).trans (congrArg _ (if_pos rfl))
  · exact (execKwLaneRetrain_tries hdown hlasers hdue).trans (congrArg _ (if_neg (by decide)))

end Sys2Proof.Machine

/-! SUPPORT. The Kwath fabric's flits and messages: order and replay of flits, sends and receipts of messages, posted buffers and
acknowledgements (R336 to R342). -/

namespace Sys2Proof.Machine

variable {s : State} {port p : Nat}

/-! ### Flits in LSEQ order and replays (R336 to R338) -/

/-- A flit held at its port in place of a copy with its LSEQ (R337). -/
def holdFlit (f : KwFlit) (k : KwPort) : KwPort := { k with rxHeld := (k.rxHeld.filter fun x => x.lseq != f.lseq) ++ [f] }

section

variable (hup : kwPortUp s port = true) (hdebug : s.sec.debug = 0)

include hup hdebug

/-- A flit not yet passed on is held; the next one in sequence lets what is complete through, and one beyond a gap asks once (R337, R338). -/
theorem execKwFlitReceive_holds {f : KwFlit} (hahead : (f.lseq - (getKw s port).rxSeq).toNat < 32768) :
    execKwFlitReceive port f s = .next
      (if f.lseq = (getKw s port).rxSeq then drainFlits (modKw s port (holdFlit f)) port ((getKw s port).rxHeld.length + 1)
       else if (getKw s port).asking then modKw s port (holdFlit f)
       else emit (modKw (modKw s port (holdFlit f)) port fun k => { k with asking := true }) (.kwReplayAsk port (getKw s port).rxSeq)) := by
  have htakes : ¬(!kwPortUp s port || s.sec.debug != 0 || decide (32768 ≤ (f.lseq - (getKw s port).rxSeq).toNat)) = true := by
    simp [hup, hdebug, hahead, -BitVec.toNat_sub]
  have hnext : (f.lseq - (getKw s port).rxSeq).toNat = 0 ↔ f.lseq = (getKw s port).rxSeq := by bv_omega
  refine (congrArg Host.Outcome.next (if_neg htakes)).trans ?_
  simp only [hnext]
  rfl

variable {lseq : BitVec 16} (hlseq : lseq ≠ (getKw s port).txSeq)

include hlseq

/-- A request for a flit that has left is answered from the flits held, or takes the port's plane down (R338). -/
theorem execKwReplayRequest_asked : execKwReplayRequest port lseq s = .next
    (if ((getKw s port).txSeq - lseq).toNat ≤ 2048 ∧ ((getKw s port).txSeq - lseq).toNat ≤ (getKw s port).txCount then
      emit (bumpFor s (.kwath port) 0x090 [(4, port)]) (.kwFlits port lseq ((getKw s port).txSeq - 1))
     else downPlane s s.fab.addr port) := by
  have hback : ((getKw s port).txSeq - lseq).toNat ≠ 0 := by bv_omega
  have hasked : ¬(!kwPortUp s port || s.sec.debug != 0 || ((getKw s port).txSeq - lseq).toNat == 0) = true := by
    simp [hup, hdebug, hback, -BitVec.toNat_sub]
  exact congrArg Host.Outcome.next (if_neg hasked)

end

/-! ### Messages (R340 to R342) -/

/-- A panel's sound send descriptor while the module holds a key: a multiple of 64 bytes up to 1 MiB, inside panel SRAM (R341, R354). -/
def SoundSend (s : State) (flow addr len : Nat) : Prop :=
  0 < len ∧ len % 64 = 0 ∧ len ≤ 0x100000 ∧ flow ≤ 255 ∧ addr + len ≤ sramSize ∧ s.fab.key ≠ none

/-- The header of a message to a panel (R341). -/
def msgHeader (b : Bolt) (dstPanel flow : Nat) (poison : Bool) : List Byte :=
  natLe 2 dstPanel ++ natLe 2 flow ++ natLe 2 b.tenant ++ natLe 4 (match b.pat with | some t => t.pattern | none => 0)
    ++ [BitVec.ofNat 8 (b2n poison)]

/-- A sound descriptor passes every check of the row (R341, R354). -/
theorem SoundSend.passes {flow addr len : Nat} (h : SoundSend s flow addr len) :
    ¬(len = 0 ∨ len % 64 ≠ 0 ∨ 0x100000 < len ∨ 255 < flow ∨ sramSize < addr + len ∨ s.fab.key.isNone = true) := by
  obtain ⟨hpos, hlines, hlen, hflow, haddr, hkey⟩ := h
  simp [hpos.ne', hlines, hlen, hflow, haddr, hkey]

section

variable {dstRank dstPanel flow addr len nw a : Nat} {b : Bolt} (hb : boltOfPanel s p = some (nw, b))
  (hsound : SoundSend s flow addr len) (ha : addrOfRank s dstRank = some a)

include hb hsound ha

/-- A sound send to a module that is lost ends the jobs that need it (R342). -/
theorem execFabricSend_lost (hlost : a ∈ s.fab.lostMods) :
    execFabricSend p dstRank dstPanel flow addr len s = .next (peerLost s nw) := by
  simp only [execFabricSend, hb, if_neg hsound.passes, ha, if_pos (List.contains_iff_mem.mpr hlost)]

/-- A sound send of lines that the bolt may read leaves for its rank's module in fabric VC 1 (R340, R341). -/
theorem execFabricSend_sends (hthere : a ∉ s.fab.lostMods)
    (hread : (sramRead (getPanel s p) (boltCtx s p) addr len).violation = false) :
    execFabricSend p dstRank dstPanel flow addr len s = .next
      (sendMsg s (halfOf p) a 1 (msgHeader b dstPanel flow (sramRead (getPanel s p) (boltCtx s p) addr len).mark.poison
        ++ (sramRead (getPanel s p) (boltCtx s p) addr len).bytes)) := by
  simp only [execFabricSend, hb, if_neg hsound.passes, ha, if_neg (mt List.contains_iff_mem.mp hthere), hread, Bool.false_eq_true,
    if_false]
  rfl

end

/-- The acknowledgement of a message (R340). -/
def ackMsg (s : State) (m : FabMsg) : State := sendControl s m.src (natLe 1 m.vc ++ natLe 4 m.seq.toNat)

/-- A message held until those before it have come (R340). -/
def holdMsg (s : State) (m : FabMsg) : State := { s with fab := { s.fab with early := s.fab.early ++ [m] } }

/-- Every message of a module that is not fenced is acknowledged; one delivered or held already is not taken again, and any other is held
and lets what is complete through (R340). -/
theorem execFabricMessageReceive_heard {m : FabMsg} (hheard : m.src ∉ s.fab.fencedMods) (hdebug : s.sec.debug = 0) :
    execFabricMessageReceive m s = .next
    (if 2147483648 ≤ (m.seq - mapGet (0 : BitVec 32) s.fab.rxSeq (m.src * 4 + m.vc)).toNat ∨ m ∈ (ackMsg s m).fab.early then ackMsg s m
     else drainEarly (holdMsg (ackMsg s m) m) (m.src * 4 + m.vc) ((ackMsg s m).fab.early.length + 1)) := by
  have hhears : ¬(s.fab.fencedMods.contains m.src = true ∨ s.sec.debug ≠ 0) := by simp [hheard, hdebug]
  refine (congrArg Host.Outcome.next (if_neg hhears)).trans ?_
  simp only [List.contains_iff_mem]
  rfl

/-- A buffer posted inside panel SRAM takes the next message of its flow (R341). -/
theorem execReceiveBufferPost_posts {flow addr len : Nat} (hb : boltOfPanel s p ≠ none) (hflow : flow ≤ 255) (haddr : addr + len ≤ sramSize) :
    execReceiveBufferPost p flow addr len s = .next
      (serveBuffer (modPanel s p fun q => { q with rxBufs := q.rxBufs ++ [{ flow := flow, addr := addr, len := len }] }) p flow) := by
  have hsound : ¬((boltOfPanel s p).isNone = true ∨ 255 < flow ∨ sramSize < addr + len) := by
    simp [hb, hflow, haddr]
  exact congrArg Host.Outcome.next (if_neg hsound)

/-- Settles O35: a flit's and a replay request's one equation each, then each event of a message by its equation. -/
theorem fabricFlitsAndMessages : Obligations.FabricFlitsAndMessages := by
  unfold Obligations.FabricFlitsAndMessages
  refine ⟨fun s port hup hdebug => ⟨fun f => execKwFlitReceive_holds hup hdebug, fun lseq hlseq => ⟨fun hheld hsent => ?_, fun hbeyond => ?_⟩⟩,
    fun s => ⟨fun p dstRank dstPanel flow addr len nw b a hb hpos hlines hlen hflow haddr hkey ha hthere =>
        execFabricSend_sends hb ⟨hpos, hlines, hlen, hflow, haddr, hkey⟩ ha hthere,
      fun p dstRank dstPanel flow addr len nw b a hb hpos hlines hlen hflow haddr hkey ha =>
        execFabricSend_lost hb ⟨hpos, hlines, hlen, hflow, haddr, hkey⟩ ha,
      fun m hheard hdebug => ⟨fun hahead hnew => ?_, fun hdelivered => ?_⟩,
      fun p flow addr len => execReceiveBufferPost_posts, fun dst vc seq => rfl⟩⟩
  · exact (execKwReplayRequest_asked hup hdebug hlseq).trans (congrArg _ (if_pos ⟨hheld, hsent⟩))
  · exact (execKwReplayRequest_asked hup hdebug hlseq).trans (congrArg _ (if_neg (by omega)))
  · exact (execFabricMessageReceive_heard hheard hdebug).trans (congrArg _ (if_neg (not_or.mpr ⟨hahead.not_ge, hnew⟩)))
  · exact (execFabricMessageReceive_heard hheard hdebug).trans (congrArg _ (if_pos (.inl hdelivered)))

end Sys2Proof.Machine

/-! SUPPORT. The members of the Kwath fabric: heartbeats, the lost manager, and lost modules (R344 to R347, R351). -/

namespace Sys2Proof.Machine

variable {s : State}

/-! ### Heartbeats and the manager's loss (R344, R347) -/

/-- Whether a manager's heartbeat is due (R344). -/
def hbDue (s : State) : Bool :=
  match s.fab.lastHb with
  | none => true
  | some t => decide (t + hbUs s ≤ s.now)

theorem hbDue_of_passed (h : ∀ t, s.fab.lastHb = some t → t + hbUs s ≤ s.now) : hbDue s = true := by
  unfold hbDue
  split
  · rfl
  · next t ht => exact decide_eq_true (h t ht)

/-- A module sends heartbeats while it is a manager in service with debug locked, when one is due (R344). -/
theorem execHeartbeatSend_eq : execHeartbeatSend s = .next
    (if s.fab.role ≠ 2 ∨ s.fab.st < 4 ∨ s.sec.debug ≠ 0 ∨ hbDue s = false then s
     else (admitted s).foldl (fun s a => sendControl s a [1]) { s with fab := { s.fab with lastHb := some s.now } }) := rfl

theorem execHeartbeatSend_due (hrole : s.fab.role = 2) (hserve : 4 ≤ s.fab.st) (hdebug : s.sec.debug = 0)
    (hdue : ∀ t, s.fab.lastHb = some t → t + hbUs s ≤ s.now) : execHeartbeatSend s = .next
      ((admitted s).foldl (fun s a => sendControl s a [1]) { s with fab := { s.fab with lastHb := some s.now } }) := by
  refine execHeartbeatSend_eq.trans (congrArg _ (if_neg ?_))
  simp [hrole, hserve, hdebug, hbDue_of_passed hdue]

/-- The address of the manager that the plan names, 0 where none does (R345). -/
def plannedManager (s : State) : Nat :=
  match s.fab.plan with
  | some p => (match p.entries.find? fun e => e.role == 1 with | some e => e.addr | none => 0)
  | none => 0

/-- The state with the manager forgotten and traffic re-shaped for its loss (R347, R351). -/
def dropManager (s : State) : State :=
  reshape { s with fab := { s.fab with lastHb := none, hellos := s.fab.hellos.filter fun m => m.addr != plannedManager s } }
    (4, plannedManager s, 0)

/-- A worker in service that has missed three heartbeats declares the manager lost, and the standby takes its place (R347). -/
theorem execManagerLost_missed {t : Nat} (hhb : s.fab.lastHb = some t) (hmissed : t + 3 * hbUs s ≤ s.now)
    (hrole : s.fab.role = 1 ∨ s.fab.role = 3) (hserve : 4 ≤ s.fab.st) : execManagerLost s = .next
      (if s.fab.role = 3 then manage (setRole (dropManager s) 2) else setRole (dropManager s) 1) := by
  have hlost : ¬((s.fab.role ≠ 1 ∧ s.fab.role ≠ 3) ∨ s.fab.st < 4 ∨ s.now < t + 3 * hbUs s) := by omega
  simp only [execManagerLost, hhb, if_neg hlost]
  rfl

theorem execManagerLost_outOfService (hout : s.fab.st < 4) : execManagerLost s = .next s := by
  unfold execManagerLost
  split
  · rfl
  · exact congrArg _ (if_pos (.inr (.inl hout)))

/-! ### Lost modules (R342, R351) -/

/-- The state with a module neither sent to nor waited for, and traffic re-shaped for its loss (R351). -/
def dropModule (s : State) (addr : Nat) : State :=
  reshape { s with fab := { s.fab with
    lostMods := s.fab.lostMods ++ [addr]
    hellos := s.fab.hellos.filter fun m => m.addr != addr
    unacked := s.fab.unacked.filter fun m => m.dst != addr
    peers := s.fab.peers.map fun x => if x.addr = addr then { x with planes := 0 } else x } } (3, addr, 0)

/-- The state with the jobs ended that wait on a rank (R342). -/
def endSpans (s : State) (rank : Nat) : State :=
  (boltList s).foldl (fun u x => if 1 < x.2.ranks ∧ rank < x.2.ranks then peerLost u x.1 else u) s

/-- Another module that is newly lost is dropped, the jobs that wait on it end, and a manager darns its rank (R342, R351). -/
theorem execModuleLost_drops {addr : Nat} (hfab : s.fab.roleInForce ≠ 0) (hother : addr ≠ s.fab.addr) (hnew : addr ∉ s.fab.lostMods) :
    execModuleLost addr s = .next
      (if (endSpans (dropModule s addr) (peerOf s addr).rank).fab.role = 2 then manage (endSpans (dropModule s addr) (peerOf s addr).rank)
       else endSpans (dropModule s addr) (peerOf s addr).rank) := by
  have hloses : ¬(s.fab.roleInForce = 0 ∨ addr = s.fab.addr ∨ s.fab.lostMods.contains addr = true) := by simp [hfab, hother, hnew]
  exact congrArg Host.Outcome.next (if_neg hloses)

/-- Settles O36: each row's equation under what the event asks for, and the two rows that rest out of service. -/
theorem fabricMembersComeAndGo : Obligations.FabricMembersComeAndGo := by
  unfold Obligations.FabricMembersComeAndGo
  refine fun s => ⟨execHeartbeatSend_due, fun t => execManagerLost_missed, fun addr plane hfab => congrArg _ (if_neg hfab),
    fun addr => execModuleLost_drops, fun c hc hout => ?_⟩
  simp only [List.mem_cons, List.not_mem_nil, or_false] at hc
  obtain rfl | rfl := hc
  · exact execHeartbeatSend_eq.trans (congrArg _ (if_pos (.inr (.inl hout))))
  · exact execManagerLost_outOfService hout

end Sys2Proof.Machine

/-! SUPPORT. Discovery, the plan and the fabric key: HELLOs, the wait of discovery, keys and epochs, and plans of other modules
(R344 to R350, R354, R355). -/

namespace Sys2Proof.Machine

variable {s : State}

/-! ### HELLOs (R346, R348, R350) -/

/-- The state with a HELLO collected: its sender is heard again, and a manager in service that hears a newcomer waits anew (R348, R351). -/
def collectHello (s : State) (m : HelloMsg) : State :=
  { s with fab := { s.fab with
    hellos := (s.fab.hellos.filter fun x => x.addr != m.addr) ++ [m]
    lostMods := s.fab.lostMods.filter fun a => a != m.addr
    discSince := if s.fab.role = 2 ∧ 4 ≤ s.fab.st ∧ newcomer s m = true then some s.now else s.fab.discSince } }

/-- The generation of the plan in force, 0 where there is none (R345). -/
def planGeneration (s : State) : BitVec 16 := match s.fab.plan with | some p => p.generation | none => 0

/-- Whether a HELLO comes from a second manager (R346). -/
def secondManager (s : State) (m : HelloMsg) : Prop := s.fab.role = 2 ∧ m.role = 2 ∧ m.sigOk = true

section

variable {m : HelloMsg} (hfab : s.fab.roleInForce ≠ 0)

include hfab

/-- A HELLO that names this module's own digest says which address each of its ports sees (R348). -/
theorem execHello_own (hown : m.digest = ownDigest s) : execHello m s = .next
    (m.seen.foldl (fun v x => modKw v x.1 fun k => { k with addrSeen := x.2, mismatch := x.2 != majority m.seen m.addr })
      { s with fab := { s.fab with addr := majority m.seen m.addr } }) :=
  congrArg _ ((if_neg hfab).trans (if_pos hown))

variable (hother : m.digest ≠ ownDigest s)

include hother

theorem execHello_collects (hsingle : ¬ secondManager s m) : execHello m s = .next (collectHello s m) :=
  congrArg _ ((if_neg hfab).trans ((if_neg hother).trans (if_neg hsingle)))

/-- Of two managers the one of lower plan generation, or of higher address, becomes a worker (R346). -/
theorem execHello_secondManager (hsecond : secondManager s m) : execHello m s = .next
    (if planGeneration s < m.planGen ∨ (planGeneration s = m.planGen ∧ m.addr < s.fab.addr) then setRole (collectHello s m) 1
     else raiseEvent (collectHello s m) .die 53 [(2, 2)]) :=
  congrArg _ ((if_neg hfab).trans ((if_neg hother).trans (if_pos hsecond)))

end

/-- A manager's newcomer alone starts the wait. -/
theorem collectHello_manager {m : HelloMsg} (hrole : s.fab.role = 2) : collectHello s m =
    { s with fab := { s.fab with
      hellos := (s.fab.hellos.filter fun x => x.addr != m.addr) ++ [m]
      lostMods := s.fab.lostMods.filter fun a => a != m.addr
      discSince := if 4 ≤ s.fab.st ∧ newcomer s m = true then some s.now else s.fab.discSince } } := by
  simp only [collectHello, hrole, true_and]

/-- Once the wait is over the manager compares what it has heard with the plan (R348). -/
theorem execDiscWait_over {t : Nat} (hwait : s.fab.discSince = some t) (hrole : s.fab.role = 2) (hover : t + discWaitUs s ≤ s.now) :
    execDiscWait s = .next (manage s) := by
  simp only [execDiscWait, hwait, hrole, hover, and_self, if_true]

/-! ### Keys and epochs (R354, R355) -/

/-- The state under a fabric key that has arrived, the one before kept (R354, R355). -/
def takeKey (s : State) (epoch : BitVec 8) (ct : Oaep) : State :=
  { s with fab := { s.fab with
    prevKey := s.fab.key
    key := some (BitVec.ofNat 256 (leNat ct.message))
    epoch := epoch
    packets := 0
    keyed := admitted s ++ [s.fab.addr] } }

/-- A key that opens under this module's key takes force, and messages that wait for one leave (R348, R354). -/
theorem execFabricKeyReceive_opens {epoch : BitVec 8} {ct : Oaep} {t : State} (hfab : s.fab.roleInForce ≠ 0) (hdebug : s.sec.debug = 0)
    (hready : s.sec.kekReady = true) (hkek : ct.kek = s.sec.kekId) (hlen : ct.message.length = 32) (ht : takeKey s epoch ct = t) :
    execFabricKeyReceive epoch ct s = .next
      (resendMsgs { t with fab := { t.fab with st := if t.fab.faults.isEmpty && !planDegraded t then 4 else 5 } } fun m => m.plane == 16) := by
  have hopens : ¬(s.fab.roleInForce = 0 ∨ s.sec.debug ≠ 0 ∨ s.sec.kekReady = false ∨ ct.kek ≠ s.sec.kekId ∨ ct.message.length ≠ 32) := by
    simp [hfab, hdebug, hready, hkek, hlen]
  subst ht
  exact congrArg Host.Outcome.next (if_neg hopens)

section

variable {sender : Nat} (hserve : 4 ≤ s.fab.st)

include hserve

/-- A request to a manager in service, of another module or for its own spent key, brings a new epoch (R355). -/
theorem execEpochRequest_manager (hrole : s.fab.role = 2) (hspent : sender ≠ s.fab.addr ∨ keyLife s ≤ s.fab.packets) :
    execEpochRequest sender s = .next (newEpoch s) :=
  congrArg _ ((if_neg (by omega)).trans (if_pos hrole))

/-- A worker whose key is spent asks the manager that the plan names (R355). -/
theorem execEpochRequest_worker {p : Plan} {e : PlanEntry} (hrole : s.fab.role ≠ 2) (hspent : keyLife s ≤ s.fab.packets)
    (hplan : s.fab.plan = some p) (hmgr : p.entries.find? (fun e => e.role == 1) = some e) :
    execEpochRequest s.fab.addr s = .next (sendControl s e.addr [2]) := by
  simp only [execEpochRequest, hserve.not_gt, hspent.not_gt, and_false, or_false, if_false, if_neg hrole, if_true, hplan, hmgr]

end

/-! ### Plans of other modules (R345, R349, R350) -/

/-- The state under another module's plan and what it found out about the modules (R349, R350). -/
def takePlan (s : State) (m : PlanMsg) : State :=
  healFaults (adoptPeers { s with fab := { s.fab with plan := some m.plan, role := plannedRole s m.plan } } m.peers false)

/-- Whether a plan is older than the one in force (R345). -/
def planSuperseded (s : State) (t : Plan) : Bool :=
  match s.fab.plan with
  | some p => decide (t.generation < p.generation)
  | none => false

theorem planSuperseded_of_newest {t : Plan} (h : ∀ p, s.fab.plan = some p → p.generation ≤ t.generation) : planSuperseded s t = false := by
  unfold planSuperseded
  split
  · next p hp => exact decide_eq_false (BitVec.not_lt.mpr (h p hp))
  · rfl

section

variable {m : PlanMsg} (hfab : s.fab.roleInForce ≠ 0)

include hfab

/-- A plan that the owner has not signed is refused and counted on the port that brought it (R345). -/
theorem execPlanStateReceive_unsigned (hsigner : s.sec.owner ≠ some m.plan.signer) : execPlanStateReceive m s = .next
    (raiseEvent (bumpFor s (.kwath m.port) 0x0B0 [(4, m.port)]) .die 54 [(4, m.port)]) :=
  congrArg _ ((if_neg hfab).trans (if_pos hsigner))

/-- The owner's plan that is not older than the one in force takes its place, and a module in discovery waits for its key (R348 to R350). -/
theorem execPlanStateReceive_signed {t : State} (hsigner : s.sec.owner = some m.plan.signer) (hnewest : planSuperseded s m.plan = false)
    (ht : takePlan s m = t) : execPlanStateReceive m s = .next
      (settleFab { t with fab := { t.fab with st := if t.fab.st = 2 ∨ t.fab.st = 1 then 3 else t.fab.st, lastHb := some t.now } }) := by
  have hcurrent : ¬ planSuperseded s m.plan = true := by simp [hnewest]
  subst ht
  exact congrArg Host.Outcome.next ((if_neg hfab).trans ((if_neg (not_not.mpr hsigner)).trans (if_neg hcurrent)))

end

/-- Settles O37: each row's equation under what the event asks for, a second manager's HELLO apart from every other. -/
theorem fabricPlanKeysAndEpochs : Obligations.FabricPlanKeysAndEpochs := by
  unfold Obligations.FabricPlanKeysAndEpochs
  refine fun s => ⟨fun m hfab hother hsingle => execHello_collects hfab hother ?_, fun m hfab hother hrole hmrole hsig => ?_,
    fun m => execHello_own, fun t => execDiscWait_over,
    fun epoch ct hfab hdebug hready hkek hlen => execFabricKeyReceive_opens hfab hdebug hready hkek hlen rfl,
    fun sender => execEpochRequest_manager, fun p e hserve => execEpochRequest_worker hserve, fun m => execPlanStateReceive_unsigned,
    fun m hfab hsigner hnewest => execPlanStateReceive_signed hfab hsigner (planSuperseded_of_newest hnewest) rfl⟩
  · rintro ⟨hrole, hmrole, hsig⟩
    simp [hrole, hmrole, hsig] at hsingle
  · rw [← collectHello_manager hrole]
    exact execHello_secondManager hfab hother ⟨hrole, hmrole, hsig⟩

end Sys2Proof.Machine

/-! SUPPORT. Commands that the owner signs: the owner key, its release, debug unlock and the fabric plan
(R345, R395, R396, R419, R420). -/

namespace Sys2Proof.Machine

variable {s : State} {id : Nat} {d : Dispatched}

/-! ### Signed commands and their refusal (R395, R396) -/

/-- A new owner key changes the owner and the retained area's mark alone (R395, R477). -/
@[simp] theorem setOwnerKey_fields {k : Option (List Byte)} : (setOwnerKey s k).sec = { s.sec with owner := k }
    ∧ (setOwnerKey s k).regs = s.regs ∧ (setOwnerKey s k).kv = s.kv :=
  ⟨rfl, rfl, rfl⟩

/-- A refusal draws a new nonce. -/
theorem signedRefused_nonce {status : Nat} : (signedRefused s d status).sec.nonce = Config.random64 s.freeCtr := by
  simp only [signedRefused, finishEntry_fields, raiseEvent_fields, bumpFor_fields, newNonce, drawFree_fields]

/-- Events stand after the entry that raised them is answered. -/
theorem raised_finishEntry {p : PageId} {n st det : Nat} (h : Raised s p n) : Raised (finishEntry s d st det) p n := by
  rwa [Raised, getHdr_of_hdrs (s := s) (by simp only [finishEntry_fields])]

/-- A refusal raises its event (R423). -/
theorem signedRefused_raised {status : Nat} : Raised (signedRefused s d status) .sec 19 :=
  raised_finishEntry (raiseEvent_raised rfl (by decide))

/-! ### The owner key (R395) -/

theorem execClaim_admitted {k : List Byte} (h : Admitted s id 0x20 fromPf d) (hk : d.entry.payload = .pubKey k) : execClaim id s = .next
    (if s.sec.owner = none then finishEntry (setOwnerKey s (some k)) d 0 0 else finishEntry s d 0x21 0) := by
  simp only [execClaim, command_of_admitted h, hk]
  cases s.sec.owner <;> rfl

section

variable (h : Admitted s id 0x21 fromPf d)

include h

theorem execTransfer_refused {e : Nat} (hbad : ownerSigned s d = .error e) : execTransfer id s = .next (signedRefused s d e) := by
  simp only [execTransfer, command_of_admitted h, hbad]

theorem execTransfer_signed {k : List Byte} (hok : ownerSigned s d = .ok k) (hk : k ≠ []) : execTransfer id s = .next
    (finishEntry (setOwnerKey (newNonce s) (some k)) d 0 0) := by
  simp only [execTransfer, command_of_admitted h, hok, List.isEmpty_eq_false_iff.mpr hk, Bool.false_eq_true, if_false]

end

/-- The module with every job ended, every tenant removed and every bolt that is not yet being unloaded sent to UNLOAD (R395). -/
def emptied (s : State) (job : Nat) : State :=
  let s1 := removeTenants (endEverything s 0x1B)
  (boltList s1).foldl (fun s x =>
    match getBolt s x.1 with
    | some b => if b.unloadJob.isSome then s else unloadBolt s x.1 b job
    | none => s) s1

/-- The module without its owner, its K registers and every bucket but the vendor's (R395). -/
def disowned (s : State) : State :=
  setOwnerKey { s with
    regs := s.regs.filter fun kv => !keptKey kv.1
    kv := { s.kv with buckets := vendorBuckets } } none

theorem disowned_regs : ∀ kv ∈ (disowned s).regs, keptKey kv.1 = false := by
  intro kv hkv
  simpa using (List.mem_filter.mp hkv).2

section

variable (h : Admitted s id 0x22 fromPf d)

include h

theorem execRelease_refused {e : Nat} (hbad : ownerSigned s d = .error e) : execRelease id s = .next (signedRefused s d e) := by
  simp only [execRelease, command_of_admitted h, hbad]

theorem execRelease_signed (hok : ownerSigned s d = .ok []) : execRelease id s = .next
    (finishEntry (disowned (emptied (newNonce s) d.id)) d 0 0) := by
  refine congrArg Host.Outcome.next ((command_of_admitted h).trans ?_)
  rw [hok]
  extract_lets s1 s2
  have hs2 : s2 = emptied (newNonce s) d.id := rfl
  clear_value s2
  rw [← hs2]
  rfl

end

/-! ### Debug unlock (R419, R420) -/

/-- What a change establishes on every panel holds of each panel changed, however often. -/
theorem getPanel_modPanels {P : Panel → Prop} {ps : List Nat} {f : Panel → Panel} {p : Nat} (hf : ∀ q, P (f q))
    (hp : p ∈ ps ∨ P (getPanel s p)) : P (getPanel (modPanels s ps f) p) := by
  induction ps generalizing s with
  | nil => exact hp.resolve_left List.not_mem_nil
  | cons q ps ih =>
    refine ih ?_
    by_cases hq : q = p
    · subst hq; right; rw [getPanel_modPanel]; exact hf _
    · rw [getPanel_modPanel_ne hq]
      exact hp.imp_left fun h => (List.mem_cons.mp h).resolve_left (Ne.symm hq)

/-- The module with its jobs, tenants and panels emptied for debug (R420). -/
def quiesced (s : State) : State :=
  let s1 := removeTenants (endEverything s 0x1A)
  modPanels (dropSramPages s1 (List.range (panelsEn s))) (List.range (panelsEn s)) clearPanel

theorem quiesced_sram {p : Nat} (hp : p < panelsEn s) : (getPanel (quiesced s) p).sram = [] :=
  getPanel_modPanels (P := fun q => q.sram = []) (fun _ => rfl) (.inl (List.mem_range.mpr hp))

/-- The emptied module with the tenants' keys and patterns erased and debug at a level (R420). -/
def unlocked (s : State) (level : Nat) : State :=
  let u := quiesced s
  { u with
    sec := { u.sec with dataKeys := [], grants := [], kekReady := false, kekId := 0, debug := level }
    fab := { u.fab with key := none, prevKey := none, keyed := [], st := if u.fab.st = 0 then 0 else 3 }
    ras := { u.ras with swatches := [], rewrites := [] }
    bolts := u.bolts.map fun kv => (kv.1, kv.2.map fun b => unbindBolt u kv.1 b) }

/-- An unlock raises its event and records it after everything is erased (R420). -/
theorem unlock_eq {level : Nat} : unlock s level =
    bbRecord (raiseEvent (unlocked s level) .sec 20 [(2, level)]) .sec 0x122 [BitVec.ofNat 8 level] := rfl

theorem unlock_raised {level : Nat} : Raised (unlock s level) .sec 20 := by
  rw [unlock_eq, Raised, getHdr_of_hdrs bbRecord_hdrs]
  exact raiseEvent_raised rfl (by decide)

/-- The event and its record leave what the unlock erased. -/
theorem unlock_fields {level : Nat} : (unlock s level).sec = (unlocked s level).sec ∧ (unlock s level).fab = (unlocked s level).fab
    ∧ (unlock s level).panels = (unlocked s level).panels := by
  simp only [unlock_eq, bbRecord_fields, raiseEvent_fields, and_self]

section

variable (h : Admitted s id 0x23 fromPf d)

include h

theorem execDebugUnlock_refused {e : Nat} (hbad : unlockLevel s d = .error e) : execDebugUnlock id s = .next (signedRefused s d e) := by
  simp only [execDebugUnlock, command_of_admitted h, hbad]

theorem execDebugUnlock_signed {level : Nat} (hok : unlockLevel s d = .ok level) : execDebugUnlock id s = .next
    (finishEntry (unlock (newNonce s) level) d 0 0) := by
  simp only [execDebugUnlock, command_of_admitted h, hok]

end

/-! ### The fabric plan (R345) -/

/-- Whether a plan is not newer than the one in force (R345). -/
def planStale (s : State) (plan : Plan) : Bool :=
  match s.fab.plan with
  | some p => decide (plan.generation ≤ p.generation)
  | none => false

theorem planStale_of_older {plan p : Plan} (hp : s.fab.plan = some p) (h : plan.generation ≤ p.generation) : planStale s plan = true := by
  rw [planStale, hp]
  exact decide_eq_true h

theorem planStale_of_newer {plan : Plan} (h : ∀ p, s.fab.plan = some p → p.generation < plan.generation) : planStale s plan = false := by
  unfold planStale
  split
  · next p hp => exact decide_eq_false (BitVec.not_le.mpr (h p hp))
  · rfl

/-- A plan is checked for its signer, its form and its age, in this order (R345). -/
theorem execPlanLoad_admitted {plan : Plan} (h : Admitted s id 0x24 fromPf d) : execPlanLoad id plan s = .next
    (if s.sec.owner ≠ some plan.signer then finishEntry (raiseEvent s .die 54 []) d 0x2E 0
     else if planShapeOk plan = false then finishEntry s d 0x3A 0
     else if planStale s plan = true then finishEntry s d 0x2F 0
     else finishEntry (loadPlan s plan) d 0 0) := by
  simp only [execPlanLoad, command_of_admitted h, Bool.not_eq_true']
  rfl

/-- The owner's plan that keeps its form is taken unless it is stale (R345). -/
theorem execPlanLoad_sound {plan : Plan} (h : Admitted s id 0x24 fromPf d) (hsigner : s.sec.owner = some plan.signer)
    (hform : planShapeOk plan = true) : execPlanLoad id plan s = .next
      (if planStale s plan = true then finishEntry s d 0x2F 0 else finishEntry (loadPlan s plan) d 0 0) :=
  (execPlanLoad_admitted h).trans (congrArg _ ((if_neg (not_not.mpr hsigner)).trans (if_neg (Bool.not_eq_false _ ▸ hform))))

/-- Settles O44: each command refused or signed, with what a release and an unlock leave, and a plan's checks in their order. -/
theorem ownersSignTheirCommands : Obligations.OwnersSignTheirCommands := by
  unfold Obligations.OwnersSignTheirCommands
  refine fun s id d => ⟨fun h k => execClaim_admitted h,
    fun h => ⟨fun e => execTransfer_refused h, fun k => execTransfer_signed h⟩,
    fun h => ⟨fun e => execRelease_refused h, fun hok => ⟨_, execRelease_signed h hok, ?_⟩⟩,
    fun h => ⟨fun e => execDebugUnlock_refused h, fun level hok => ⟨_, execDebugUnlock_signed h hok, ?_⟩⟩,
    fun plan h => ⟨fun hsigner => ?_, fun hsigner hform => ?_, fun p hsigner hform hp hold => ?_, fun hsigner hform hnew => ?_⟩,
    fun status => ⟨signedRefused_nonce, signedRefused_raised⟩⟩
  · simp only [finishEntry_fields]
    exact ⟨rfl, rfl, disowned_regs⟩
  · simp only [getPanel, finishEntry_fields, unlock_fields]
    exact ⟨rfl, rfl, rfl, rfl, rfl, rfl, raised_finishEntry unlock_raised, fun p => quiesced_sram (s := newNonce s)⟩
  · exact (execPlanLoad_admitted h).trans (congrArg _ (if_pos hsigner))
  · exact (execPlanLoad_admitted h).trans (congrArg _ ((if_neg (not_not.mpr hsigner)).trans (if_pos hform)))
  · exact (execPlanLoad_sound h hsigner hform).trans (congrArg _ (if_pos (planStale_of_older hp hold)))
  · exact (execPlanLoad_sound h hsigner hform).trans (congrArg _ (if_neg (Bool.eq_false_iff.mp (planStale_of_newer hnew))))

end Sys2Proof.Machine

/-! SUPPORT. What no command takes from a state: the queue behind it stays, and the thermal limit, the black box's ring and the list of
signatures stay in their bounds. One lemma for each function of the model that answers a state, in the order of the model; its proof term
has the shape of the function. -/

namespace Sys2Proof.Machine

/-- What no command takes from a state: the queue behind it stays as it is, and a state within its bounds stays within them. -/
structure Keeps (s t : State) : Prop where
  queue : t.pending = s.pending
  limit : ThermalLimitOk s → ThermalLimitOk t
  ring : LiveRingOk s → LiveRingOk t
  signatures : SignaturesOk s → SignaturesOk t

namespace Keeps
variable {o s t : State}

theorem refl : Keeps o o := ⟨rfl, id, id, id⟩

/-- A change that moves the thermal limit within its bounds, or makes the ring or the list no longer than it was or may be. -/
theorem within (h : Keeps o s) (hq : t.pending = s.pending)
    (hl : t.power.thermalLimit = s.power.thermalLimit ∨ (ThermalLimitOk s → ThermalLimitOk t)) (hr : t.bb.live.length ≤ s.bb.live.length)
    (hs : t.ras.sigs.length ≤ s.ras.sigs.length ∨ SignaturesOk t) : Keeps o t := by
  refine ⟨hq.trans h.queue, fun k => ?_, fun k => hr.trans (h.ring k), fun k => hs.elim (·.trans (h.signatures k)) id⟩
  have hk := h.limit k
  rcases hl with e | e
  · unfold ThermalLimitOk at *; rwa [e]
  · exact e hk

/-- A change that leaves the queue and what the bounds speak of. -/
theorem frame (h : Keeps o s)
    (e : (t.pending, t.power.thermalLimit, t.bb.live, t.ras.sigs) = (s.pending, s.power.thermalLimit, s.bb.live, s.ras.sigs)) : Keeps o t := by
  simp only [Prod.mk.injEq] at e
  obtain ⟨hq, hl, hr, hs⟩ := e
  exact h.within hq (.inl hl) (by rw [hr]) (.inl (by rw [hs]))

theorem ite {c : Prop} [Decidable c] (hs : Keeps o s) (ht : Keeps o t) : Keeps o (if c then s else t) := by
  split
  · exact hs
  · exact ht

theorem foldl {α : Type} {l : List α} {f : State → α → State} (h : Keeps o s) (hf : ∀ s x, Keeps o s → Keeps o (f s x)) :
    Keeps o (l.foldl f s) := by
  induction l generalizing s with
  | nil => exact h
  | cons x l ih => exact ih (hf s x h)

/-- The same of a fold that carries something beside the state. -/
theorem foldl_fst {α β : Type} {l : List α} {a : State × β} {f : State × β → α → State × β} (h : Keeps o a.1)
    (hf : ∀ a x, Keeps o a.1 → Keeps o (f a x).1) : Keeps o (l.foldl f a).1 := by
  induction l generalizing a with
  | nil => exact h
  | cons x l ih => exact ih (hf a x h)

end Keeps

variable {o s t : State}

/-- An instruction's own effect, where it is done, keeps what the state keeps. -/
def KeepsEff (o : State) (e : Eff) : Prop := ∀ t, e = .done t → Keeps o t

theorem KeepsEff.done (h : Keeps o t) : KeepsEff o (.done t) := fun _ e => Eff.done.inj e ▸ h

theorem KeepsEff.fault {code : Nat} : KeepsEff o (.fault code) := fun _ e => nomatch e

theorem KeepsEff.poisoned {line : Nat} : KeepsEff o (.poisoned line) := fun _ e => nomatch e

theorem KeepsEff.ite {c : Prop} [Decidable c] {x y : Eff} (hx : KeepsEff o x) (hy : KeepsEff o y) : KeepsEff o (if c then x else y) := by
  split
  · exact hx
  · exact hy

theorem KeepsEff.wait {q : QueueId} : KeepsEff o (.wait q) := fun _ e => nomatch e

/-- A command is answered by a next state that keeps what the state before it keeps. -/
def Answers (o : State) (r : Res) : Prop := ∃ t, r = .next t ∧ Keeps o t

theorem Answers.next (h : Keeps o t) : Answers o (.next t) := ⟨t, rfl, h⟩

theorem Answers.ite {c : Prop} [Decidable c] {x y : Res} (hx : Answers o x) (hy : Answers o y) : Answers o (if c then x else y) := by
  split
  · exact hx
  · exact hy

/-! ### Shared operations -/

protected theorem Keeps.modHdr {p : PageId} {f : Hdr → Hdr} (h : Keeps o s) : Keeps o (modHdr s p f) := h.frame rfl

protected theorem Keeps.modPort {p : Nat} {f : Port → Port} (h : Keeps o s) : Keeps o (modPort s p f) := .ite (h.frame rfl) (h.frame rfl)

protected theorem Keeps.modVf {port vf : Nat} {f : Vf → Vf} (h : Keeps o s) : Keeps o (modVf s port vf f) := h.frame rfl

protected theorem Keeps.modRing {port ring : Nat} {f : Ring → Ring} (h : Keeps o s) : Keeps o (modRing s port ring f) := h.frame rfl

protected theorem Keeps.modTenant {t : Nat} {f : Tenant → Tenant} (h : Keeps o s) : Keeps o (modTenant s t f) := h.frame rfl

protected theorem Keeps.modSession {n : Nat} {f : Session → Session} (h : Keeps o s) : Keeps o (modSession s n f) := h.frame rfl

protected theorem Keeps.modPanel {p : Nat} {f : Panel → Panel} (h : Keeps o s) : Keeps o (modPanel s p f) := h.frame rfl

protected theorem Keeps.modBolt {b : Nat} {f : Bolt → Bolt} (h : Keeps o s) : Keeps o (modBolt s b f) := h.frame rfl

protected theorem Keeps.setBolt {b : Nat} {o' : Option Bolt} (h : Keeps o s) : Keeps o (setBolt s b o') := h.frame rfl

protected theorem Keeps.markDirty (h : Keeps o s) : Keeps o (markDirty s) := h.frame rfl

protected theorem Keeps.modArr {a : ArrId} {f : Arr → Arr} (h : Keeps o s) : Keeps o (modArr s a f) :=
  .ite (h.frame rfl) (.markDirty (h.frame rfl))

protected theorem Keeps.modCalAt {pp pt : Nat} {f : TileCal → TileCal} (h : Keeps o s) : Keeps o (modCalAt s pp pt f) := h.frame rfl

protected theorem Keeps.modHem {p tile arr : Nat} {f : HemArr → HemArr} (h : Keeps o s) : Keeps o (modHem s p tile arr f) := .modPanel h

protected theorem Keeps.modKw {p : Nat} {f : KwPort → KwPort} (h : Keeps o s) : Keeps o (modKw s p f) := h.frame rfl

protected theorem Keeps.modLane {p l : Nat} {f : KwLane → KwLane} (h : Keeps o s) : Keeps o (modLane s p l f) := h.frame rfl

protected theorem Keeps.modJob {j : Nat} {f : Job → Job} (h : Keeps o s) : Keeps o (modJob s j f) := h.frame rfl

protected theorem Keeps.drawFree (h : Keeps o s) : Keeps o (drawFree s) := h.frame rfl

protected theorem Keeps.emit {o' : Out} (h : Keeps o s) : Keeps o (emit s o') := h.frame rfl

protected theorem Keeps.setReg {p : PageId} {off : Nat} {v : Word} (h : Keeps o s) : Keeps o (setReg s p off v) := h.frame rfl

/-- The ring drops its oldest record once it holds 4,096 (R502). -/
theorem bbPut_live_length {type inst code : Nat} {data : List Byte} : (bbPut s type inst code data).bb.live.length ≤ 4096 := by
  unfold bbPut
  generalize 4096 = n
  simp only [List.length_drop]; omega

theorem bbPut_rest {type inst code : Nat} {data : List Byte} :
    (bbPut s type inst code data).pending = s.pending ∧ (bbPut s type inst code data).power = s.power ∧ (bbPut s type inst code data).ras = s.ras := by
  unfold bbPut
  generalize 4096 = n
  exact ⟨rfl, rfl, rfl⟩

protected theorem Keeps.bbPut {type inst code : Nat} {data : List Byte} (h : Keeps o s) : Keeps o (bbPut s type inst code data) := by
  obtain ⟨hq, hp, hr⟩ := bbPut_rest (s := s) (type := type) (inst := inst) (code := code) (data := data)
  refine ⟨hq.trans h.queue, fun k => ?_, fun _ => bbPut_live_length, fun k => ?_⟩
  · unfold ThermalLimitOk; rw [hp]; exact h.limit k
  · unfold SignaturesOk; rw [hr]; exact h.signatures k

protected theorem Keeps.bbRecord {p : PageId} {code : Nat} {data : List Byte} (h : Keeps o s) : Keeps o (bbRecord s p code data) := .bbPut h

protected theorem Keeps.sendMsix {port fn vector : Nat} (h : Keeps o s) : Keeps o (sendMsix s port fn vector) :=
  .ite h (.ite (.modPort h) (.emit h))

protected theorem Keeps.notifyPort {p : PageId} {port : Nat} (h : Keeps o s) : Keeps o (notifyPort s p port) :=
  .ite (.modPort (.sendMsix h)) h

protected theorem Keeps.notify {p : PageId} (h : Keeps o s) : Keeps o (notify s p) := by
  unfold notify
  split
  · exact .ite (.modVf (.sendMsix h)) h
  · exact .notifyPort (.notifyPort h)

protected theorem Keeps.setEvt {p : PageId} {n : Nat} {forced : Bool} (h : Keeps o s) : Keeps o (setEvt s p n forced) :=
  .ite (.notify (.modHdr h)) (.modHdr h)

protected theorem Keeps.capture {p : PageId} {code win off detail : Nat} (h : Keeps o s) : Keeps o (capture s p code win off detail) :=
  .ite (.modHdr h) (.setEvt (.bbRecord (.modHdr h)))

protected theorem Keeps.raiseEvent {p : PageId} {n : Nat} {ids : List (Nat × Nat)} (h : Keeps o s) : Keeps o (raiseEvent s p n ids) :=
  .ite h (.setEvt (.bbRecord (.capture h)))

protected theorem Keeps.setEvts {p : PageId} {forced : Bool} {ns : List Nat} {w : Word} (h : Keeps o s) :
    Keeps o (setEvts s p forced ns w) := by
  induction ns generalizing s with
  | nil => exact h
  | cons n ns ih =>
    exact ih (.ite (.setEvt h) h)

protected theorem Keeps.bumpIds {p : PageId} {off tile n : Nat} {ids : List (Nat × Nat)} (h : Keeps o s) :
    Keeps o (bumpIds s p off tile n ids) :=
  .ite h (.ite (.raiseEvent (h.frame rfl)) (h.frame rfl))

protected theorem Keeps.bumpTile {p : PageId} {off tile n : Nat} (h : Keeps o s) : Keeps o (bumpTile s p off tile n) := .bumpIds h

protected theorem Keeps.bump {p : PageId} {off : Nat} (h : Keeps o s) : Keeps o (bump s p off) := .bumpTile h

protected theorem Keeps.bumpFor {p : PageId} {off : Nat} {ids : List (Nat × Nat)} (h : Keeps o s) : Keeps o (bumpFor s p off ids) :=
  .bumpIds h

protected theorem Keeps.clearRun {p : PageId} {first count : Nat} {tiles : List Nat} (h : Keeps o s) :
    Keeps o (clearRun s p first count tiles) :=
  h.frame rfl

protected theorem Keeps.countClear {p : PageId} (h : Keeps o s) : Keeps o (countClear s p) := .modHdr h

protected theorem Keeps.setBlk {p : PageId} {st : BlkSt} {held : Bool} {cause : Nat} (h : Keeps o s) :
    Keeps o (setBlk s p st held cause) := by
  unfold setBlk
  extract_lets _ s1 _ s2
  have hs1 : Keeps o s1 := .modHdr h
  have hs2 : Keeps o s2 := .ite hs1 (hs1.frame rfl)
  exact .ite h (.raiseEvent hs2)

protected theorem Keeps.gated {w : Window} {p : PageId} {off value : Nat} {act : State → State} (h : Keeps o s)
    (hact : ∀ s, Keeps o s → Keeps o (act s)) :
    Keeps o (gated s w p off value act) :=
  .ite h (.ite (.capture h) (.ite (.capture h) (hact _ h)))

protected theorem Keeps.sigCont {cs : List (List Byte)} (h : Keeps o s) : Keeps o (sigCont s cs) := by
  induction cs generalizing s with
  | nil => exact h
  | cons c cs ih => unfold sigCont; exact ih (.bbRecord h)

theorem length_drop_length_sub_le {α : Type} {l : List α} {n : Nat} : (l.drop (l.length - n)).length ≤ n := by
  simp only [List.length_drop]
  omega

/-- A signature more drops the oldest once 1,024 are kept (R387). -/
protected theorem Keeps.writeSig {i : SigInfo} (h : Keeps o s) : Keeps o (writeSig s i) := by
  unfold writeSig
  generalize hn : 1024 = n
  extract_lets _ g _ _ _ s2 l lapped _ s3
  have h2 : Keeps o s2 := .sigCont (.bbRecord h)
  clear_value g s2 l lapped
  have h3 : Keeps o s3 := h2.within rfl (.inl rfl) le_rfl (.inr (by unfold SignaturesOk; rw [hn]; exact length_drop_length_sub_le))
  exact .ite (.raiseEvent h3) h3

/-! ### Bolts -/

protected theorem Keeps.setOwner {p : PageId} {port bolt tenant : Nat} (h : Keeps o s) : Keeps o (setOwner s p port bolt tenant) :=
  .modHdr h

protected theorem Keeps.ownPanels {ps : List Nat} {port bolt tenant : Nat} (h : Keeps o s) : Keeps o (ownPanels s ps port bolt tenant) :=
  .foldl h fun _ _ k => .setOwner k

protected theorem Keeps.modCal {p t : Nat} {f : TileCal → TileCal} (h : Keeps o s) : Keeps o (modCal s p t f) := .modCalAt h

protected theorem Keeps.modPanels {ps : List Nat} {f : Panel → Panel} (h : Keeps o s) : Keeps o (modPanels s ps f) :=
  .foldl h fun _ _ k => .modPanel k

/-! ### The KV cache -/

protected theorem Keeps.setPte {k : Nat} {e : Pte} (h : Keeps o s) : Keeps o (setPte s k e) := h.frame rfl

protected theorem Keeps.modPage {f : Nat} {g : KvPage → KvPage} (h : Keeps o s) : Keeps o (modPage s f g) := h.frame rfl

protected theorem Keeps.modNode {n : Nat} {g : Node → Node} (h : Keeps o s) : Keeps o (modNode s n g) := h.frame rfl

protected theorem Keeps.putHeader {f : Nat} (h : Keeps o s) : Keeps o (putHeader s f) := .ite (.modPanel h) h

protected theorem Keeps.modHeader {f : Nat} {g : KvPage → KvPage} (h : Keeps o s) : Keeps o (modHeader s f g) := .putHeader (.modPage h)

protected theorem Keeps.invalidate {keys : List Nat} (h : Keeps o s) : Keeps o (invalidate s keys) := h.frame rfl

protected theorem Keeps.freeFrame {f : Nat} (h : Keeps o s) : Keeps o (freeFrame s f) := by
  unfold freeFrame
  extract_lets s1 _ s2
  have hs1 : Keeps o s1 := .invalidate h
  have hs2 : Keeps o s2 := hs1.frame rfl
  exact .ite (.modPanel hs2) hs2

protected theorem Keeps.dropPrivate {f : Nat} (h : Keeps o s) : Keeps o (dropPrivate s f) := .bump (.freeFrame (.invalidate (.setPte h)))

protected theorem Keeps.markDropped {f : Nat} (h : Keeps o s) : Keeps o (markDropped s f) := .foldl h fun _ _ k => .setPte k

protected theorem Keeps.removeNode {n : Nat} (h : Keeps o s) : Keeps o (removeNode s n) := by
  unfold removeNode
  extract_lets _ s1 s2
  have hs1 : Keeps o s1 := .foldl h fun _ _ k => .freeFrame (.markDropped (.invalidate k))
  have hs2 : Keeps o s2 := .modNode hs1
  exact hs2.frame rfl

protected theorem Keeps.dropNodes {n : Nat} (h : Keeps o s) : Keeps o (dropNodes s n) := .foldl h fun _ _ k => .removeNode k

protected theorem Keeps.dropFrame {f : Nat} (h : Keeps o s) : Keeps o (dropFrame s f) := by
  unfold dropFrame
  split
  · split
    · exact .dropNodes h
    · exact h
  · exact .dropPrivate h

protected theorem Keeps.takePool {f : Nat} (h : Keeps o s) (e : takePool s = some (f, t)) : Keeps o t := by
  unfold takePool at e
  split at e
  · cases e; exact h
  split at e
  · cases e
  split at e
  · cases e
  · obtain ⟨g, -, e⟩ := Option.map_eq_some_iff.1 e
    cases e; exact .dropFrame h

protected theorem Keeps.ensureTable {owner : Nat} (h : Keeps o s) (e : ensureTable s owner = some t) : Keeps o t := by
  unfold ensureTable at e
  split at e
  · cases e; exact h
  split at e
  · cases e
  · next k => cases e; exact (h.takePool k).frame rfl

protected theorem Keeps.ensureLog {session pos : Nat} (h : Keeps o s) (e : ensureLog s session pos = some t) : Keeps o t := h.ensureTable e

protected theorem Keeps.touchFrame {f : Nat} (h : Keeps o s) : Keeps o (touchFrame s f) := .ite (h.frame rfl) (h.frame rfl)

protected theorem Keeps.allocPage {home session layer head page fmt width tenant : Nat} (h : Keeps o s)
    (e : allocPage s home session layer head page fmt width tenant = some t) : Keeps o t := by
  unfold allocPage at e
  split at e
  · cases e
  next s1 k1 =>
  have h1 : Keeps o s1 := by
    split at k1
    · exact h.ensureTable k1
    · cases k1
  split at e
  · cases e
  next s2 k2 =>
  have h2 : Keeps o s2 := h1.ensureTable k2
  extract_lets got at e
  have h3 : ∀ f u, got = some (f, u) → Keeps o u := by
    intro f u k
    unfold got at k
    split at k
    · cases k; exact h2
    · exact h2.takePool k
  clear_value got
  split at e
  · cases e
  next f s3 =>
  extract_lets _ s4 s5 at e
  have h4 : Keeps o s4 := .modPage ((h3 f s3 rfl).frame rfl)
  obtain rfl := Option.some.inj e
  refine .touchFrame (.setPte (.putHeader ?_))
  unfold s5
  split
  · exact .modPanel h4
  · exact h4

protected theorem Keeps.translate {panel key : Nat} (h : Keeps o s) : Keeps o (translate s panel key) :=
  .ite (.modPanel h) (.bumpIds (.modPanel h))

protected theorem Keeps.incNode {n : Nat} (h : Keeps o s) : Keeps o (incNode s n) := .ite (.raiseEvent (.bumpFor (.modNode h))) (.modNode h)

protected theorem Keeps.decNode {n : Nat} (h : Keeps o s) : Keeps o (decNode s n) := .modNode h

protected theorem Keeps.freeSessionKv {n : Nat} (h : Keeps o s) : Keeps o (freeSessionKv s n) := by
  unfold freeSessionKv
  extract_lets _ s1 s2
  have hs1 : Keeps o s1 := .invalidate h
  have hs2 : Keeps o s2 := .foldl hs1 fun _ _ k => .ite (.freeFrame k) k
  exact hs2.frame rfl

protected theorem Keeps.undoPages {session : Nat} {undo : List (Nat × Nat)} (h : Keeps o s) : Keeps o (undoPages s session undo) :=
  .foldl h fun _ _ k => .modHeader k

/-! ### Jobs -/

protected theorem Keeps.queueCompletion {port ring : Nat} {c : Completion} (h : Keeps o s) : Keeps o (queueCompletion s port ring c) :=
  .ite (.modRing h) h

protected theorem Keeps.settleRing {port ring : Nat} (h : Keeps o s) : Keeps o (settleRing s port ring) :=
  .ite h (.ite (.ite (.modRing h) h) (.ite (.modRing h) h))

protected theorem Keeps.finishEntry {d : Dispatched} {status detail : Nat} (h : Keeps o s) : Keeps o (finishEntry s d status detail) :=
  .settleRing (.queueCompletion (h.frame rfl))

protected theorem Keeps.startJob {d : Dispatched} {j : Job} (h : Keeps o s) : Keeps o (startJob s d j) := h.frame rfl

protected theorem Keeps.closeJob {j : Job} {status detail : Nat} (h : Keeps o s) : Keeps o (closeJob s j status detail) :=
  .settleRing (.queueCompletion (h.frame rfl))

protected theorem Keeps.closeJobId {id status detail : Nat} (h : Keeps o s) : Keeps o (closeJobId s id status detail) := by
  unfold closeJobId
  split
  · exact h
  · exact .closeJob h

protected theorem Keeps.claim {job status : Nat} (h : Keeps o s) : Keeps o (claim s job status) := h.frame rfl

protected theorem Keeps.tenantEvent {t n : Nat} (h : Keeps o s) : Keeps o (tenantEvent s t n) :=
  .foldl h fun _ _ k => .ite (.raiseEvent k) k

protected theorem Keeps.budgetLow {t : Nat} {old : BitVec 32} (h : Keeps o s) : Keeps o (budgetLow s t old) := by
  unfold budgetLow
  extract_lets _ _ s0
  have hs0 : Keeps o s0 := .ite h (.modTenant h)
  exact .ite (.modTenant h) (.ite hs0 (.tenantEvent (.raiseEvent (.modTenant hs0))))

protected theorem Keeps.reserveToken {n : Nat} (h : Keeps o s) (e : reserveToken s n = some t) : Keeps o t := by
  unfold reserveToken at e
  split at e
  · cases e
  · cases e; exact .budgetLow (.modTenant h)

protected theorem Keeps.budgetRefused {t : Nat} (h : Keeps o s) : Keeps o (budgetRefused s t) :=
  .ite h (.tenantEvent (.raiseEvent (.modTenant h)))

protected theorem Keeps.returnTokens {t n : Nat} (h : Keeps o s) : Keeps o (returnTokens s t n) := .ite h (.budgetLow (.modTenant h))

protected theorem Keeps.setHold {n : Nat} {on : Bool} (h : Keeps o s) : Keeps o (setHold s n on) :=
  .ite (.ite (.modTenant (.modSession h)) h) (.ite (.modTenant (.modSession h)) h)

protected theorem Keeps.putRecord {j : Job} {g : GenJob} {r : List (Nat × BitVec 32)} (h : Keeps o s) : Keeps o (putRecord s j g r) :=
  .modJob (.ite (.emit h) (.emit h))

protected theorem Keeps.flushRecord {id : Nat} (h : Keeps o s) : Keeps o (flushRecord s id) := by
  unfold flushRecord
  split
  · exact h
  · split
    · exact .ite h (.putRecord h)
    · exact h

protected theorem Keeps.addToken {id pos : Nat} {tok : BitVec 32} (h : Keeps o s) : Keeps o (addToken s id pos tok) := by
  unfold addToken
  split
  · exact h
  · split
    · exact .ite (.flushRecord (.modJob h)) (.modJob h)
    · exact h

protected theorem Keeps.recordToken {id pos : Nat} {tok : BitVec 32} (h : Keeps o s) : Keeps o (recordToken s id pos tok) := by
  unfold recordToken
  split
  · exact h
  · split
    · exact .addToken (.ite h (.flushRecord h))
    · exact h

protected theorem Keeps.dropTrees {t : Nat} (h : Keeps o s) : Keeps o (dropTrees s t) := by
  unfold dropTrees
  extract_lets _ s1
  have hs1 : Keeps o s1 := .foldl h fun _ _ k => .dropNodes k
  exact hs1.frame rfl

protected theorem Keeps.settleTenant {t : Nat} (h : Keeps o s) : Keeps o (settleTenant s t) := by
  unfold settleTenant
  extract_lets _ s1
  have hs1 : Keeps o s1 := .modTenant (.dropTrees h)
  exact .ite h (hs1.frame rfl)

protected theorem Keeps.freeSession {n : Nat} (h : Keeps o s) : Keeps o (freeSession s n) := by
  unfold freeSession
  extract_lets _ s1 s2 s3 s4 s5
  have hs1 : Keeps o s1 := .foldl h fun _ _ k => .decNode k
  have hs2 : Keeps o s2 := .freeSessionKv hs1
  have hs3 : Keeps o s3 := .modSession hs2
  have hs4 : Keeps o s4 := .modTenant hs3
  have hs5 : Keeps o s5 := .foldl hs4 fun _ _ k => .closeJobId k
  exact .settleTenant hs5

protected theorem Keeps.discardRows {nw session : Nat} (h : Keeps o s) : Keeps o (discardRows s nw session) := by
  unfold discardRows
  split
  · exact h
  · exact .modBolt (.modSession (.foldl h fun _ _ k => .undoPages k))

protected theorem Keeps.endJob {id status detail : Nat} (h : Keeps o s) : Keeps o (endJob s id status detail) := by
  unfold endJob
  split
  · exact h
  · extract_lets _ _ s1 s2 s3 s4 s5 s6 s7
    have hs1 : Keeps o s1 := .ite (.discardRows h) h
    have hs2 : Keeps o s2 := .flushRecord hs1
    have hs3 : Keeps o s3 := .ite (.returnTokens hs2) hs2
    have hs4 : Keeps o s4 := .ite (.raiseEvent (.bumpFor hs3)) (.ite (.bumpFor hs3) hs3)
    have hs5 : Keeps o s5 := by
      unfold s5
      split
      · exact .ite hs4 (.modJob (hs4.frame rfl))
      · exact hs4
    have hs6 : Keeps o s6 := .ite (.modSession (.setHold hs5)) hs5
    have hs7 : Keeps o s7 := .closeJobId hs6
    exact .ite (.freeSession (.modSession hs7)) hs7

protected theorem Keeps.endJobs {test : Job → Bool} {status : Nat} (h : Keeps o s) : Keeps o (endJobs s test status) := by
  unfold endJobs
  refine .foldl h ?_
  intro _ _ k
  split
  · exact .endJob k
  · exact k

protected theorem Keeps.claimAll {ids : List Nat} {status : Nat} (h : Keeps o s) : Keeps o (claimAll s ids status) :=
  .foldl h fun _ _ k => .claim k

protected theorem Keeps.claimRow {session status : Nat} (h : Keeps o s) : Keeps o (claimRow s session status) := by
  unfold claimRow
  split
  · exact .claim h
  · exact h

protected theorem Keeps.kvExhausted {session : Nat} (h : Keeps o s) : Keeps o (kvExhausted s session) := .claimRow (.raiseEvent h)

/-! ### Contexts and operands -/

protected theorem Keeps.setUsed {q : QueueId} {n : Nat} (h : Keeps o s) : Keeps o (setUsed s q n) := h.frame rfl

protected theorem Keeps.endWait {q : QueueId} (h : Keeps o s) : Keeps o (endWait s q) := h.frame rfl

protected theorem Keeps.beginWait {q : QueueId} (h : Keeps o s) : Keeps o (beginWait s q) := .ite h (h.frame rfl)

protected theorem Keeps.takeCredits {q : QueueId} {n : Nat} (h : Keeps o s) : Keeps o (takeCredits s q n) := .setUsed (.endWait h)

protected theorem Keeps.takeCredit {q : QueueId} (h : Keeps o s) : Keeps o (takeCredit s q) := .takeCredits h

protected theorem Keeps.giveCredit {q : QueueId} {n : Nat} (h : Keeps o s) : Keeps o (giveCredit s q n) := .setUsed (.endWait h)

protected theorem Keeps.modCtx {p c : Nat} {f : Ctx → Ctx} (h : Keeps o s) : Keeps o (modCtx s p c f) := .modPanel h

protected theorem Keeps.modStep {nw : Nat} {seq : Word} {f : Step → Step} (h : Keeps o s) : Keeps o (modStep s nw seq f) := .modBolt h

protected theorem Keeps.leaveRouter {p : Nat} {f : QFlit} (h : Keeps o s) : Keeps o (leaveRouter s p f) := by
  unfold leaveRouter
  split
  · exact .giveCredit h
  · exact h

protected theorem Keeps.takeLoad {p : Nat} {f : MFlit} (h : Keeps o s) : Keeps o (takeLoad s p f) := by
  unfold takeLoad
  split
  · exact .ite h (.modPanel h)
  · exact .ite h (.modPanel h)
  · exact h.frame rfl
  · exact h
  · exact h

protected theorem Keeps.sendLoad {p dst vc bytes : Nat} {step : Word} {gen : BitVec 32} {load : FlitLoad} (h : Keeps o s) :
    Keeps o (sendLoad s p dst vc bytes step gen load) :=
  .ite (.takeLoad h) (.modPanel h)

protected theorem Keeps.dropCredits {f : QFlit} (h : Keeps o s) : Keeps o (dropCredits s f) := .ite h (.foldl h fun _ _ k => .giveCredit k)

protected theorem Keeps.pumpDrains {p : Nat} (h : Keeps o s) : Keeps o (pumpDrains s p) := by
  unfold pumpDrains
  refine .foldl h ?_
  intro _ _ k
  extract_lets
  split
  · exact k
  · exact .ite (.modPanel (.takeCredit k)) (.beginWait k)

protected theorem Keeps.discardCredits {p : Nat} {t : Word → Bool} (h : Keeps o s) : Keeps o (discardCredits s p t) := by
  unfold discardCredits
  extract_lets s1
  have hs1 : Keeps o s1 := .foldl h fun _ _ k => .giveCredit k
  refine .foldl hs1 ?_
  intro _ _ k
  split
  · exact .ite (.giveCredit k) k
  · exact k

protected theorem Keeps.discardPanel {p : Nat} {t : Word → Bool} (h : Keeps o s) : Keeps o (discardPanel s p t) := by
  unfold discardPanel
  extract_lets s_1 s1 s2
  have hs_1 : Keeps o s_1 := .discardCredits h
  have hs1 : Keeps o s1 := .foldl hs_1 fun _ _ k => .giveCredit k
  have hs2 : Keeps o s2 := .foldl hs1 fun _ _ k => .dropCredits (.leaveRouter k)
  exact .pumpDrains (.modPanel hs2)

protected theorem Keeps.undoSteps {nw : Nat} {t : Word → Bool} (h : Keeps o s) : Keeps o (undoSteps s nw t) := by
  unfold undoSteps
  split
  · exact h
  · exact .foldl (.foldl h fun _ _ k => .foldl k fun _ _ k_1 => .undoPages k_1) fun _ _ k => .modSession k

protected theorem Keeps.dropSwatches {nw : Nat} {t : Word → Bool} (h : Keeps o s) : Keeps o (dropSwatches s nw t) := h.frame rfl

protected theorem Keeps.orderDiscard {nw : Nat} {k : Word} {drop : Bool} (h : Keeps o s) : Keeps o (orderDiscard s nw k drop) := by
  unfold orderDiscard
  split
  · exact h
  · exact .foldl (.modBolt (.undoSteps h)) fun _ _ k_1 => .modPanel k_1

protected theorem Keeps.discardOne {nw : Nat} {k : Word} (h : Keeps o s) : Keeps o (discardOne s nw k) := by
  unfold discardOne
  split
  · exact h
  · exact .modBolt (.foldl (.dropSwatches (.undoSteps h)) fun _ _ k_1 => .discardPanel k_1)

protected theorem Keeps.patternFault {p c code pc op : Nat} (h : Keeps o s) : Keeps o (patternFault s p c code pc op) := by
  unfold patternFault
  split
  · exact h
  · extract_lets _ s1 s2 s3 s3_1
    have hs1 : Keeps o s1 := .modPanel h
    have hs2 : Keeps o s2 := .raiseEvent (.bumpFor hs1)
    have hs3 : Keeps o s3 := .claimAll hs2
    have hs3_1 : Keeps o s3_1 := .claimAll hs2
    exact .ite h (.ite (.modPanel hs3) (.modStep (.modCtx hs3_1)))

protected theorem Keeps.poisonStop {p c line : Nat} (h : Keeps o s) : Keeps o (poisonStop s p c line) := by
  unfold poisonStop
  split
  · exact h
  · exact .ite (.modPanel (.claimAll (.sendLoad h))) (.discardOne (.claimAll (.sendLoad h)))

protected theorem Keeps.enterUnit {p c op : Nat} {u : UnitId} {cls left : Nat} (h : Keeps o s) : Keeps o (enterUnit s p c op u cls left) :=
  .modPanel h

protected theorem Keeps.enterCmd {p c op left : Nat} (h : Keeps o s) : Keeps o (enterCmd s p c op left) := by
  unfold enterCmd
  split
  · exact h
  · exact .enterUnit h

protected theorem Keeps.issue {p c op : Nat} {body : State → Site → Word → Eff} (h : Keeps o s)
    (hb : ∀ t x w, Keeps o t → KeepsEff o (body t x w)) : Keeps o (issue s p c op body) := by
  have taken (k : Option QueueId) : Keeps o (match k with | some k => takeCredit s k | none => s) := by
    cases k
    · exact h
    · exact .takeCredit h
  have go (t : State) (x : Site) (w : Word) (pc : Nat) (ht : Keeps o t) : Keeps o (issue.go s t x w pc body) := by
    have hd := hb (modCtx t x.p x.x.slot fun x => { x with pc := x.pc + 8 }) x w (.modCtx ht)
    unfold issue.go
    split
    case h_1 u e => exact hd u e
    case h_2 => exact .patternFault h
    case h_3 => exact .poisonStop h
    case h_4 => exact .beginWait h
  unfold issue
  split
  · exact h
  extract_lets
  split
  · exact h
  split
  · exact .patternFault h
  split
  · exact .poisonStop h
  split
  · exact .patternFault h
  split
  · exact h
  split
  · exact .patternFault h
  split
  · exact h
  split
  · exact .beginWait h
  · exact go _ _ _ _ (taken _)

protected theorem KeepsEff.withDesc {x : Site} {w : Word} {reserved : List Word → Bool} {body : List Word → Nat → Eff}
    (hb : ∀ d n, KeepsEff o (body d n)) : KeepsEff o (withDesc s x w reserved body) :=
  .ite .fault (.ite .fault (.ite .poisoned (.ite .fault (hb _ _))))

/-! ### Programming arrays -/

protected theorem Keeps.queueProg {r : ProgReq} (h : Keeps o s) : Keeps o (queueProg s r) := .ite h (.ite h (h.frame rfl))

protected theorem Keeps.queueZero {a : ArrId} (h : Keeps o s) : Keeps o (queueZero s a) := .queueProg h

protected theorem Keeps.requestProg {r : ProgReq} (h : Keeps o s) : Keeps o (requestProg s r) := .queueProg (.ite (.queueZero h) h)

protected theorem Keeps.failPosition {p t a : Nat} (h : Keeps o s) : Keeps o (failPosition s p t a) := by
  unfold failPosition
  extract_lets _ _ s1 s2
  have hs1 : Keeps o s1 := h.frame rfl
  have hs2 : Keeps o s2 := by
    unfold s2
    split
    · exact .modBolt hs1
    · exact hs1
  exact .raiseEvent hs2

protected theorem Keeps.modSec {f : SecArea → SecArea} (h : Keeps o s) : Keeps o (modSec s f) := .markDirty (h.frame rfl)

protected theorem Keeps.beginRepair {u : RepairUnit} {spare : Nat} (h : Keeps o s) : Keeps o (beginRepair s u spare) := by
  unfold beginRepair
  extract_lets _ s1
  have hs1 : Keeps o s1 := h.frame rfl
  exact .foldl (hs1.frame rfl) fun _ _ k => .requestProg k

protected theorem Keeps.failPanel {p : Nat} (h : Keeps o s) : Keeps o (failPanel s p) := by
  unfold failPanel
  extract_lets s1 _ _ s2
  have hs1 : Keeps o s1 := .modSec h
  have hs2 : Keeps o s2 := hs1.frame rfl
  exact .setBlk (.failPosition hs2)

protected theorem Keeps.repairPanel {p : Nat} (h : Keeps o s) : Keeps o (repairPanel s p) := by
  unfold repairPanel
  split
  · exact .failPanel h
  · exact .beginRepair (.modSec h)

protected theorem Keeps.repairTile {p t : Nat} (h : Keeps o s) : Keeps o (repairTile s p t) :=
  .ite (.beginRepair (.modSec h)) (.repairPanel h)

protected theorem Keeps.repairArray {p t a : Nat} (h : Keeps o s) : Keeps o (repairArray s p t a) := by
  unfold repairArray
  extract_lets
  split
  · exact .beginRepair h
  · exact .repairTile h

protected theorem Keeps.placeArr {p t i : Nat} {a : ArrId} (h : Keeps o s) : Keeps o (placeArr s p t i a) := h.frame rfl

protected theorem Keeps.carryCal {old new : Nat × Nat} (h : Keeps o s) : Keeps o (carryCal s old new) := .modCalAt (.modCalAt h)

protected theorem Keeps.swapUnit {u : RepairUnit} {spare : Nat} (h : Keeps o s) : Keeps o (swapUnit s u spare) := by
  have placed {v : State} {x : Arrays} (hv : Keeps o v) : Keeps o { v with arrays := x } := hv.frame rfl
  cases u with
  | array p t a => exact .placeArr h
  | tile p t => exact placed (.carryCal h)
  | panel p => exact placed (.foldl h fun _ _ k => .carryCal k)

protected theorem Keeps.unitFault {p t a : Nat} (h : Keeps o s) : Keeps o (unitFault s p t a) := by
  unfold unitFault
  split
  · exact h
  · extract_lets _ _ s1
    have hs1 : Keeps o s1 := h.frame rfl
    exact .ite (.failPosition hs1) (.ite (.repairPanel hs1) (.ite (.repairTile hs1) (.repairArray hs1)))

protected theorem Keeps.retireArr {a : ArrId} (h : Keeps o s) : Keeps o (retireArr s a) := by
  unfold retireArr
  extract_lets s1
  have hs1 : Keeps o s1 := .modArr h
  split
  · exact hs1
  · exact .unitFault (.raiseEvent (.modCal hs1))

protected theorem Keeps.retireSpare {a : ArrId} (h : Keeps o s) : Keeps o (retireSpare s a) := by
  unfold retireSpare
  extract_lets s1 s2
  have hs1 : Keeps o s1 := .modArr h
  have hs2 : Keeps o s2 := by
    unfold s2
    split
    · exact .raiseEvent (.modCal hs1)
    · exact hs1
  exact .queueZero hs2

protected theorem Answers.execProgRequest {r : ProgReq} (h : Keeps o s) : Answers o (execProgRequest r s) := .next (.ite (.requestProg h) h)

protected theorem Keeps.startProg {r : ProgReq} (h : Keeps o s) : Keeps o (startProg s r) := by
  unfold startProg
  extract_lets _ s1 s2
  have hs1 : Keeps o s1 := .modArr (h.frame rfl)
  have hs2 : Keeps o s2 := by
    unfold s2
    split
    · exact .modCal hs1
    · exact hs1
  exact hs2.frame rfl

protected theorem Keeps.admitNext (h : Keeps o s) : Keeps o (admitNext s) := by
  unfold admitNext
  split
  · exact .ite (.startProg h) h
  · exact h

protected theorem Answers.execProgQuarterStage {a : ArrId} (h : Keeps o s) : Answers o (execProgQuarterStage a s) := by
  unfold execProgQuarterStage
  refine .next ?_
  extract_lets
  split
  · split
    · split
      · exact .ite (.modArr (.endWait h)) (.beginWait h)
      · exact .modArr h
    · exact h
  · exact h

protected theorem Keeps.endRow {a : ArrId} {r : ProgReq} {out : Nat × Nat} (h : Keeps o s) : Keeps o (endRow s a r out) := by
  unfold endRow
  extract_lets s1
  have hs1 : Keeps o s1 := .modArr h
  exact .ite (.modArr (hs1.frame rfl)) hs1

protected theorem Answers.execProgRound {a : ArrId} (h : Keeps o s) : Answers o (execProgRound a s) := by
  unfold execProgRound
  refine .next ?_
  extract_lets
  split
  · exact h
  · exact .ite h (.ite (.endRow (h.frame rfl)) (.ite (.endRow (h.frame rfl)) (.modArr (h.frame rfl))))

/-! ### Calibration -/

protected theorem Keeps.judgeStale {p t : Nat} (h : Keeps o s) : Keeps o (judgeStale s p t) :=
  .ite (.raiseEvent (.modCal h)) (.ite (.modCal h) h)

protected theorem Keeps.calControl {kind value : Nat} (h : Keeps o s) : Keeps o (calControl s kind value) :=
  .ite (.raiseEvent (.bumpFor (.bbRecord h))) (.raiseEvent (.bumpFor (.bbRecord h)))

protected theorem Keeps.calPend {p t kind : Nat} (h : Keeps o s) : Keeps o (calPend s p t kind) := .modCal h

protected theorem Keeps.calUnpend {p t : Nat} (h : Keeps o s) : Keeps o (calUnpend s p t) := .modCal h

protected theorem Keeps.calMark {p t k : Nat} {on : Bool} (h : Keeps o s) : Keeps o (calMark s p t k on) := .modCal h

protected theorem Keeps.calUnmark {p t : Nat} (h : Keeps o s) : Keeps o (calUnmark s p t) := by
  unfold calUnmark
  extract_lets off
  have hoff {u : State} {k : Nat} {holds : Bool} (hu : Keeps o u) : Keeps o (off u k holds) := by
    unfold off; split
    · exact hu
    · exact .calMark hu
  exact hoff (hoff (hoff (hoff (hoff h))))

protected theorem Keeps.autoTrigger {ts : List (Nat × Nat)} {kind value : Nat} (h : Keeps o s) : Keeps o (autoTrigger s ts kind value) := by
  unfold autoTrigger
  extract_lets _ s1
  have hs1 : Keeps o s1 := .ite h (.calControl (.foldl h fun _ _ k => .calMark k))
  exact .ite hs1 (.foldl hs1 fun _ _ k => .calPend k)

protected theorem Keeps.overrideTrigger {ts : List (Nat × Nat)} {mark value : Nat} (h : Keeps o s) :
    Keeps o (overrideTrigger s ts mark value) :=
  .ite h (.foldl (.calControl h) fun _ _ k => .calPend (.calMark k))

protected theorem Keeps.calEvaluate {ts : List (Nat × Nat)} (h : Keeps o s) : Keeps o (calEvaluate s ts) := by
  unfold calEvaluate
  extract_lets s1 s2 s3 s4
  have hs1 : Keeps o s1 := .foldl h fun _ _ k => .judgeStale (.calUnmark k)
  have hs2 : Keeps o s2 := .overrideTrigger hs1
  have hs3 : Keeps o s3 := .foldl hs2 fun _ _ k => .ite (.overrideTrigger k) k
  have hs4 : Keeps o s4 := .autoTrigger hs3
  exact .foldl hs4 fun _ _ k => .ite (.autoTrigger k) k

protected theorem Keeps.calDiode {d : Int} (h : Keeps o s) : Keeps o (calDiode s d) := .calEvaluate (h.frame rfl)

protected theorem Keeps.calResidual {p t : Nat} (h : Keeps o s) : Keeps o (calResidual s p t) := .calEvaluate h

protected theorem Keeps.setQuality {a : ArrId} {f : Nat} {g : Int} (h : Keeps o s) : Keeps o (setQuality s a f g) := .modCalAt h

protected theorem Keeps.gaugeLatched {p t a : Nat} (h : Keeps o s) : Keeps o (gaugeLatched s p t a) := by
  unfold gaugeLatched
  extract_lets
  split
  · exact h
  · exact .calResidual (.setQuality h)

protected theorem Keeps.calLatch {p t : Nat} (h : Keeps o s) : Keeps o (calLatch s p t) := .ite (.modCal h) (.calUnpend (.modCal h))

protected theorem Keeps.calStart {p t : Nat} (h : Keeps o s) : Keeps o (calStart s p t) := .modCal h

protected theorem Answers.execCalTileRun {p tile : Nat} (h : Keeps o s) : Answers o (execCalTileRun p tile s) :=
  .next (.ite h (.ite (.ite (.calLatch h) h) (.ite h (.ite (.calLatch (.calStart h)) (.calStart h)))))

protected theorem Answers.execCalMeasureDone {p tile : Nat} (h : Keeps o s) : Answers o (execCalMeasureDone p tile s) :=
  .next (.ite (.modCal h) h)

protected theorem Keeps.calShadow {p t : Nat} {fits : List CalFit} (h : Keeps o s) : Keeps o (calShadow s p t fits) := .modCal h

protected theorem Answers.execCalFitDone {p tile : Nat} {fits : List CalFit} (h : Keeps o s) : Answers o (execCalFitDone p tile fits s) :=
  .next (.ite (.calShadow h) h)

protected theorem Keeps.scheduleRefresh {p t a : Nat} (h : Keeps o s) : Keeps o (scheduleRefresh s p t a) := by
  unfold scheduleRefresh
  split
  · exact h
  · split
    · exact h
    · exact .ite h (.requestProg h)

protected theorem Keeps.scheduleRecheck {id : ArrId} {a : Arr} (h : Keeps o s) : Keeps o (scheduleRecheck s id a) := by
  unfold scheduleRecheck
  split
  · exact h
  · exact .ite h (.requestProg h)

protected theorem Keeps.judgeArray {id : ArrId} {fit : Nat × Nat × Nat} (h : Keeps o s) : Keeps o (judgeArray s id fit) := by
  unfold judgeArray
  extract_lets _ _ s1
  have hs1 : Keeps o s1 := .ite (.modArr h) h
  split
  · exact h
  · split
    · exact .modArr h
    · split
      · exact .ite (.retireArr hs1) (.scheduleRefresh hs1)
      · exact .ite (.retireSpare hs1) (.scheduleRecheck hs1)

protected theorem Keeps.swapIn {p tile : Nat} (h : Keeps o s) : Keeps o (swapIn s p tile) := .modCal (.foldl h fun _ _ k => .modArr k)

protected theorem Keeps.swapJudge {p tile : Nat} (h : Keeps o s) : Keeps o (swapJudge s p tile) :=
  .calEvaluate (.ite (.raiseEvent (.ite h (.calUnpend h))) (.ite h (.calUnpend h)))

protected theorem Answers.execCalSwap {p tile : Nat} (h : Keeps o s) : Answers o (execCalSwap p tile s) :=
  .next (.ite h (.foldl (.swapJudge (.swapIn h)) fun _ _ k => .judgeArray k))

protected theorem Answers.execCalProgTimer {p tile : Nat} (h : Keeps o s) : Answers o (execCalProgTimer p tile s) :=
  .next (.ite (.autoTrigger h) h)

protected theorem Answers.execCalFallbackTick (h : Keeps o s) : Answers o (execCalFallbackTick s) :=
  .next (.ite (.foldl (h.frame rfl) fun _ _ k => .calPend k) h)

protected theorem Answers.execRunAll {w : Window} (h : Keeps o s) : Answers o (execRunAll w s) :=
  .next (.gated h fun _ k => .foldl k fun _ _ k_1 => .calPend k_1)

protected theorem Answers.execRunPanel {w : Window} {panel : Nat} (h : Keeps o s) : Answers o (execRunPanel w panel s) :=
  .next (.gated h fun _ k => .ite (.capture k) (.foldl k fun _ _ k_1 => .calPend k_1))

protected theorem Answers.execEyeSample {lane width : Nat} {retuned : Bool} (h : Keeps o s) :
    Answers o (execEyeSample lane width retuned s) :=
  .next (.ite (.raiseEvent (.modLane h)) (.modLane h))

/-! ### The sequencer -/

protected theorem Keeps.tagFault {h' : Site} {row : Option BatchRow} (h : Keeps o s) : Keeps o (tagFault s h' row) := by
  unfold tagFault
  extract_lets _ s1
  have hs1 : Keeps o s1 := .raiseEvent (.bumpFor h)
  split
  · exact .claimRow hs1
  · exact .claimAll hs1

protected theorem Keeps.readSram {h' : Site} {row : Option BatchRow} {addr n : Nat} (h : Keeps o s) :
    Keeps o ((readSram s h' row addr n).1) := by
  unfold readSram
  extract_lets
  dsimp only
  exact .ite (.tagFault h) h

protected theorem Keeps.writeSram {h' : Site} {row : Option BatchRow} {addr : Nat} {pieces : List (List Byte × LineMark)} (h : Keeps o s) :
    Keeps o (writeSram s h' row addr pieces) :=
  .modPanel (.ite (.tagFault h) h)

protected theorem Keeps.reportPart {nw p : Nat} {step : Word} (h : Keeps o s) : Keeps o (reportPart s nw p step) := .bumpFor (.modStep h)

protected theorem Keeps.settleCtx {p c : Nat} (h : Keeps o s) : Keeps o (settleCtx s p c) := by
  unfold settleCtx
  split
  · exact h
  · split
    · exact .ite h (.modCtx h)
    · exact .ite h (.ite (.modPanel h) (.ite h (.reportPart (.modCtx h))))
    · exact h

protected theorem Keeps.setReg64 {h' : Site} {n : Nat} {v : Word} (h : Keeps o s) : Keeps o (setReg64 s h' n v) := .modCtx h

protected theorem KeepsEff.scalar {f : Site → Word → Word} {x : Site} {w : Word} (h : Keeps o s) : KeepsEff o (scalar f s x w) :=
  .done (.setReg64 h)

protected theorem Answers.execNop {p c : Nat} (h : Keeps o s) : Answers o (execNop p c s) := .next (.issue h fun _ _ _ k => .done k)

protected theorem Answers.execLdi {p c : Nat} (h : Keeps o s) : Answers o (execLdi p c s) := .next (.issue h fun _ _ _ k => .scalar k)

protected theorem Answers.execLdih {p c : Nat} (h : Keeps o s) : Answers o (execLdih p c s) := .next (.issue h fun _ _ _ k => .scalar k)

protected theorem Answers.execAddi {p c : Nat} (h : Keeps o s) : Answers o (execAddi p c s) := .next (.issue h fun _ _ _ k => .scalar k)

protected theorem Answers.execAdd {p c : Nat} (h : Keeps o s) : Answers o (execAdd p c s) := .next (.issue h fun _ _ _ k => .scalar k)

protected theorem Answers.execSub {p c : Nat} (h : Keeps o s) : Answers o (execSub p c s) := .next (.issue h fun _ _ _ k => .scalar k)

protected theorem Answers.execMuli {p c : Nat} (h : Keeps o s) : Answers o (execMuli p c s) := .next (.issue h fun _ _ _ k => .scalar k)

protected theorem Answers.execShli {p c : Nat} (h : Keeps o s) : Answers o (execShli p c s) := .next (.issue h fun _ _ _ k => .scalar k)

protected theorem Answers.execAndi {p c : Nat} (h : Keeps o s) : Answers o (execAndi p c s) := .next (.issue h fun _ _ _ k => .scalar k)

protected theorem Answers.execLd {p c : Nat} (h : Keeps o s) : Answers o (execLd p c s) := by
  unfold execLd
  refine .next ?_
  refine .issue h ?_
  intro _ _ _ k
  split
  · exact .fault
  · exact .done (.modCtx (.readSram k))

protected theorem Answers.execLdResult {p c : Nat} (h : Keeps o s) : Answers o (execLdResult p c s) := by
  unfold execLdResult
  refine .next ?_
  split
  · exact h
  · split
    · exact h
    · exact .settleCtx (.ite (.claimAll (.modCtx h)) (.modCtx h))

protected theorem Answers.execSt {p c : Nat} (h : Keeps o s) : Answers o (execSt p c s) := by
  unfold execSt
  refine .next ?_
  refine .issue h ?_
  intro _ _ _ k
  split
  · exact .fault
  · exact .done (.writeSram k)

protected theorem KeepsEff.branchTo {x : Site} {w : Word} {taken : Bool} (h : Keeps o s) : KeepsEff o (branchTo s x w taken) :=
  .ite (.done h) (.ite .fault (.done (.modCtx h)))

protected theorem Answers.execBz {p c : Nat} (h : Keeps o s) : Answers o (execBz p c s) := .next (.issue h fun _ _ _ k => .branchTo k)

protected theorem Answers.execBnz {p c : Nat} (h : Keeps o s) : Answers o (execBnz p c s) := .next (.issue h fun _ _ _ k => .branchTo k)

protected theorem Answers.execLoop {p c : Nat} (h : Keeps o s) : Answers o (execLoop p c s) :=
  .next (.issue h fun _ _ _ k => .branchTo (.setReg64 k))

protected theorem Answers.execEndProg {p c : Nat} (h : Keeps o s) : Answers o (execEndProg p c s) :=
  .next (.issue h fun _ _ _ k => .done (.settleCtx (.modCtx k)))

protected theorem Answers.execUnitCommandComplete {p id : Nat} (h : Keeps o s) : Answers o (execUnitCommandComplete p id s) := by
  unfold execUnitCommandComplete
  refine .next ?_
  split
  · exact h
  · exact .settleCtx (.modCtx h)

protected theorem Answers.execFence {p c : Nat} (h : Keeps o s) : Answers o (execFence p c s) :=
  .next (.issue h fun _ _ _ k => .done (.settleCtx (.modCtx k)))

protected theorem Answers.execCall {p c : Nat} (h : Keeps o s) : Answers o (execCall p c s) :=
  .next (.issue h fun _ _ _ k => .done (.modPanel (.modCtx (.enterCmd k))))

protected theorem Answers.execCallReply {p : Nat} {reply : Word} (h : Keeps o s) : Answers o (execCallReply p reply s) := by
  unfold execCallReply
  refine .next ?_
  split
  · exact h
  · exact .settleCtx (.modCtx (.modPanel h))

protected theorem Answers.execSealw {p c : Nat} (h : Keeps o s) : Answers o (execSealw p c s) :=
  .next (.issue h fun _ _ _ k => .ite (.done k) (.done (.ite (.modCtx k) (.reportPart (.modCtx k)))))

protected theorem Keeps.moveRun {h' : Site} {w : Word} (h : Keeps o s) : Keeps o (moveRun s h' w) := by
  unfold moveRun
  extract_lets _ _ _ _ _ _ _ _ _ t2 rd _ _ _ t2_1
  have ht2 : Keeps o t2 := h.frame rfl
  have hrd : Keeps o rd.1 := .readSram h
  have ht2_1 : Keeps o t2_1 := .modBolt hrd
  exact .ite (.writeSram ht2) (.ite (.writeSram hrd) (ht2_1.frame rfl))

protected theorem Answers.execMove {p c : Nat} (h : Keeps o s) : Answers o (execMove p c s) := by
  unfold execMove
  refine .next ?_
  refine .issue h ?_
  intro _ _ _ k
  split
  · exact .fault
  · exact .done (.moveRun (.enterCmd k))

protected theorem Keeps.tackRun {h' : Site} {w : Word} (h : Keeps o s) : Keeps o (tackRun s h' w) :=
  .modStep (.modCtx (.ite (.readSram h) (.writeSram (.readSram h))))

protected theorem Answers.execTack {p c : Nat} (h : Keeps o s) : Answers o (execTack p c s) := by
  unfold execTack
  refine .next ?_
  refine .issue h ?_
  intro _ _ _ k
  split
  · exact .fault
  · exact .done (.tackRun (.enterCmd k))

/-! ### Evaluation -/

protected theorem Keeps.decCmd {p id n : Nat} (h : Keeps o s) : Keeps o (decCmd s p id n) := .modPanel h

protected theorem Keeps.boltTagFault {p : Nat} {step : Word} (h : Keeps o s) : Keeps o (boltTagFault s p step) := by
  unfold boltTagFault
  split
  · exact h
  · exact .claimAll (.raiseEvent (.bumpFor h))

protected theorem Keeps.noteBlocks {p tile arr : Nat} {j : EvalJob} {pin : PleatIn} (h : Keeps o s) :
    Keeps o (noteBlocks s p tile arr j pin) :=
  .ite (.boltTagFault (.ite h (.raiseEvent (.bumpIds h)))) (.ite h (.raiseEvent (.bumpIds h)))

protected theorem Keeps.tierVec {p rank : Nat} {img : List Byte × Bool} {j : EvalJob} {number : Nat} (h : Keeps o s) :
    Keeps o (tierVec s p rank img j number) := by
  unfold tierVec
  extract_lets _ exact _ r
  have hr : Keeps o r.1 := by
    refine .foldl_fst h ?_
    intro _ _ k
    extract_lets
    dsimp only
    exact .noteBlocks k
  exact .ite (.modPanel (.modHem hr)) (.modHem hr)

protected theorem Keeps.tierRun {p rank : Nat} {img : List Byte × Bool} {j : EvalJob} {number : Nat} (h : Keeps o s) :
    Keeps o (tierRun s p rank img j number) :=
  .pumpDrains (.foldl h fun _ _ k => .tierVec k)

protected theorem Keeps.evalStart {h' : Site} {mode n : Nat} {d : List Word} (h : Keeps o s) : Keeps o (evalStart s h' mode n d) := by
  unfold evalStart
  extract_lets _ _ _ _ _ _ _ s1 s2 s3
  have hs1 : Keeps o s1 := .enterCmd h
  have hs2 : Keeps o s2 := .ite hs1 (.enterUnit (.takeCredit hs1))
  have hs3 : Keeps o s3 := by
    refine .foldl hs2 ?_
    intro _ _ k
    split
    · exact .modHem k
    · exact k
  exact .ite hs2 (.foldl hs3 fun _ _ k => .tierRun k)

protected theorem KeepsEff.evalBody {mode : Nat} {h' : Site} {w : Word} (h : Keeps o s) : KeepsEff o (evalBody mode s h' w) := by
  unfold evalBody
  refine .withDesc ?_
  intro _ _
  split
  · exact .fault
  · split
    · exact .wait
    · split
      · exact .done (.modCtx (.giveCredit h))
      · exact .done (.evalStart h)

protected theorem Answers.execEvald {p c : Nat} (h : Keeps o s) : Answers o (execEvald p c s) := .next (.issue h fun _ _ _ k => .evalBody k)

protected theorem Answers.execEvalx {p c : Nat} (h : Keeps o s) : Answers o (execEvalx p c s) := .next (.issue h fun _ _ _ k => .evalBody k)

protected theorem Answers.execEvalt {p c : Nat} (h : Keeps o s) : Answers o (execEvalt p c s) := .next (.issue h fun _ _ _ k => .evalBody k)

protected theorem Keeps.endStep {p tile arr : Nat} {j : EvalJob} (h : Keeps o s) : Keeps o (endStep s p tile arr j) := by
  unfold endStep
  split
  · exact .ite (.giveCredit (.modHem h)) h
  · exact h

protected theorem Keeps.releaseStep {p tile arr : Nat} {j : EvalJob} (h : Keeps o s) : Keeps o (releaseStep s p tile arr j) :=
  .endStep (.modHem h)

protected theorem Keeps.exactStep {p tile arr : Nat} {h' : HemArr} {j : EvalJob} {aid : ArrId} {x : Arr} {pin : PleatIn} (h : Keeps o s) :
    Keeps o (exactStep s p tile arr h' j aid x pin) := by
  unfold exactStep
  extract_lets _ _ _ _ _ _ _ _ _ _ _ _ _ _ s2 s3 s4 s5
  have hs2 : Keeps o s2 := h.frame rfl
  have hs3 : Keeps o s3 := .bumpIds hs2
  have hs4 : Keeps o s4 := .modArr hs3
  have hs5 : Keeps o s5 := .ite (.scheduleRefresh (.raiseEvent hs4)) hs4
  exact .ite (.modHem h) (.modHem hs5)

protected theorem Keeps.analogStep {p tile arr : Nat} {j : EvalJob} {aid : ArrId} {x : Arr} {pin : PleatIn} (h : Keeps o s) :
    Keeps o (analogStep s p tile arr j aid x pin) := by
  unfold analogStep
  extract_lets _ _ _ _ _ _ _ _ _ _ _ _ s2 s3 s5 s6 _ _ s8
  have hs2 : Keeps o s2 := h.frame rfl
  have hs3 : Keeps o s3 := .bumpIds hs2
  have hs5 : Keeps o s5 := .bumpIds (.bumpIds hs3)
  have hs6 : Keeps o s6 := .ite hs5 (.raiseEvent hs5)
  have hs8 : Keeps o s8 := .modHem (.modArr hs6)
  exact .ite (.gaugeLatched hs8) hs8

protected theorem Keeps.runPleat {p tile arr : Nat} {j : EvalJob} {pin : PleatIn} (h : Keeps o s) : Keeps o (runPleat s p tile arr j pin) :=
  .endStep (.ite (.exactStep h) (.ite (.modHem h) (.analogStep h)))

protected theorem Keeps.loadPleat {p tile arr : Nat} {j : EvalJob} (h : Keeps o s) : Keeps o (loadPleat s p tile arr j) :=
  .noteBlocks (.modHem (.takeCredits h))

protected theorem Keeps.stepBuffered {p tile arr : Nat} {j : EvalJob} {pin : PleatIn} (h : Keeps o s) :
    Keeps o (stepBuffered s p tile arr j pin) :=
  .ite (.runPleat h) h

protected theorem Answers.execPleatStep {p tile arr : Nat} (h : Keeps o s) : Answers o (execPleatStep p tile arr s) := by
  unfold execPleatStep
  refine .next ?_
  split
  · exact h
  · split
    · exact h
    · split
      · exact .releaseStep h
      · split
        · exact .stepBuffered h
        · exact .ite (.stepBuffered (.loadPleat h)) (.beginWait h)

protected theorem Keeps.drainArr {p tile arr : Nat} {j : EvalJob} (h : Keeps o s) : Keeps o (drainArr s p tile arr j) := by
  unfold drainArr
  split
  · exact .modHem h
  · extract_lets _ _ _ s1 s2 _ pick s3
    have hs1 : Keeps o s1 := .bumpIds h
    have hs2 : Keeps o s2 := .ite hs1 (.raiseEvent hs1)
    have hs3 : Keeps o s3 := .modPanel hs2
    clear_value pick
    split
    · exact .pumpDrains (.modPanel (.modHem hs3))
    · exact .pumpDrains (.modPanel (.modHem (.bumpFor (.modStep (hs3.frame rfl)))))

protected theorem Keeps.queuedTurn {p tile arr : Nat} (h : Keeps o s) : Keeps o (queuedTurn s p tile arr) := by
  unfold queuedTurn
  extract_lets
  split
  · split
    · exact .decCmd (.modHem h)
    · split
      · split
        · exact .drainArr (.modHem h)
        · exact h
      · exact h
  · exact h

protected theorem Keeps.addResult {p tile arr : Nat} {r : HemRes} {rest : List HemRes} (h : Keeps o s) :
    Keeps o (addResult s p tile arr r rest) := by
  unfold addResult
  extract_lets s1 s2
  have hs1 : Keeps o s1 := .modHem h
  have hs2 : Keeps o s2 := .ite hs1 (.ite (.drainArr hs1) (.modHem hs1))
  exact .ite (.decCmd hs2) hs2

protected theorem Answers.execBobbinAdd {p tile arr : Nat} (h : Keeps o s) : Answers o (execBobbinAdd p tile arr s) := by
  unfold execBobbinAdd
  refine .next ?_
  split
  · exact h
  · split
    · exact .addResult h
    · exact .queuedTurn h

protected theorem Keeps.promoteBlock {cmd : Nat} {step : Word} {gen : BitVec 32} {p : Nat} {x : Option (Bool × Nat × Nat × Bool)}
    (h : Keeps o s) :
    Keeps o (promoteBlock cmd step gen s p x) := by
  unfold promoteBlock
  split
  · exact h
  · split <;> exact .modHem h

protected theorem Answers.execBprom {p c : Nat} (h : Keeps o s) : Answers o (execBprom p c s) :=
  .next (.issue h fun _ _ _ k => .ite .fault (.done (.foldl (.enterCmd k) fun _ _ k_1 => .promoteBlock k_1)))

protected theorem Keeps.drainBlock {cmd p : Nat} {x : Option (Bool × Nat × Nat × Bool)} (h : Keeps o s) :
    Keeps o (drainBlock cmd s p x) := by
  unfold drainBlock
  split
  · exact h
  · extract_lets
    split
    · exact .drainArr (.modHem h)
    · split
      · exact .modHem h
      · exact h

protected theorem Answers.execBdrain {p c : Nat} (h : Keeps o s) : Answers o (execBdrain p c s) :=
  .next (.issue h fun _ _ _ k => .ite .fault (.ite .fault (.done (.foldl (.enterCmd k) fun _ _ k_1 => .drainBlock k_1))))

protected theorem Keeps.redOpen {h' : Site} {d : List Word} (h : Keeps o s) : Keeps o (redOpen s h' d) :=
  .modPanel (.ite (.modStep (.enterCmd h)) (.enterCmd h))

protected theorem Answers.execRedopen {p c : Nat} (h : Keeps o s) : Answers o (execRedopen p c s) := by
  unfold execRedopen
  refine .next ?_
  refine .issue h ?_
  intro _ _ _ k
  refine .withDesc ?_
  intro _ _
  split
  · exact .fault
  · exact .done (.redOpen k)

protected theorem Keeps.formSample {p : Nat} {r : RedReg} (h : Keeps o s) : Keeps o (formSample s p r) := by
  unfold formSample
  split
  · exact h
  · extract_lets _ _ _ s1
    have hs1 : Keeps o s1 := by
      unfold s1
      split
      · exact h
      · split
        · exact .modStep h
        · exact h
    exact .ite (.modPanel hs1) hs1

protected theorem Keeps.closedFault {p : Nat} {step : Word} {cmd : Nat} (h : Keeps o s) : Keeps o (closedFault s p step cmd) := by
  unfold closedFault
  split
  · split <;> exact .patternFault h
  · exact h

protected theorem Keeps.regFinish {p n : Nat} {r : RedReg} (h : Keeps o s) : Keeps o (regFinish s p n r) := by
  unfold regFinish
  extract_lets _ _ _ _ _ s0 s1 s2 s3 s4
  have hs0 : Keeps o s0 := .ite (.boltTagFault h) h
  have hs1 : Keeps o s1 := .ite (.raiseEvent (.bumpFor hs0)) hs0
  have hs2 : Keeps o s2 := .ite (.raiseEvent hs1) hs1
  have hs3 : Keeps o s3 := .modPanel hs2
  have hs4 : Keeps o s4 := .decCmd hs3
  exact .ite hs4 (.formSample hs4)

protected theorem Keeps.contribArrive {p : Nat} {d : Contrib} (h : Keeps o s) : Keeps o (contribArrive s p d) :=
  .ite (.decCmd (.closedFault h)) (.ite (.modPanel (.decCmd h)) (.regFinish (.decCmd h)))

protected theorem Answers.execReductionContribution {p : Nat} {src : ContribFrom} (h : Keeps o s) :
    Answers o (execReductionContribution p src s) := by
  unfold execReductionContribution
  refine .next ?_
  split
  · split
    · exact h
    · exact .pumpDrains (.contribArrive (.giveCredit (.modPanel h)))
  · exact .ite (.contribArrive h) h

protected theorem Keeps.nwLatch {p : Nat} {n : NormSample} {noShadow : Bool} (h : Keeps o s) : Keeps o (nwLatch s p n noShadow) :=
  .raiseEvent (.bbRecord (.bumpFor (.modPanel h)))

protected theorem Keeps.nwEnterFor {ids : List Nat} {p nw : Nat} {n : NormSample} {b : Bolt} (h : Keeps o s) :
    Keeps o (nwEnterFor ids s p nw n b) := by
  unfold nwEnterFor
  extract_lets _ _ _ _ _ _ s1
  have hs1 : Keeps o s1 := .nwLatch h
  split
  · exact .modStep (.modPanel h)
  · exact .ite (.modStep (.claimAll hs1)) (.ite (.modStep (.modStep hs1)) (.modStep hs1))

protected theorem Keeps.nwEnter {p nw : Nat} {b : Bolt} {n : NormSample} (h : Keeps o s) : Keeps o (nwEnter s p nw b n) := .nwEnterFor h

protected theorem Answers.execNormSample {p i : Nat} (h : Keeps o s) : Answers o (execNormSample p i s) := by
  unfold execNormSample
  refine .next ?_
  split
  · exact .ite h (.nwEnter (.modPanel h))
  · exact h

/-! ### Units -/

protected theorem Keeps.countInvalid {p n : Nat} (h : Keeps o s) : Keeps o (countInvalid s p n) := .ite h (.raiseEvent (.bumpTile h))

protected theorem Keeps.readVec {h' : Site} {f addr n : Nat} (h : Keeps o s) : Keeps o ((readVec s h' f addr n).1) := by
  unfold readVec
  extract_lets _ s1
  have hs1 : Keeps o s1 := .countInvalid h
  dsimp only
  exact .ite (.tagFault hs1) hs1

protected theorem Keeps.writeVec {h' : Site} {f addr : Nat} {bs : List (List F32 × LineMark)} (h : Keeps o s) :
    Keeps o (writeVec s h' f addr bs) := by
  unfold writeVec; exact .writeSram (.foldl h fun _ _ k => .raiseEvent k)

protected theorem Answers.vecInstr {p c op : Nat} {faults : Site → VecDesc → Nat → List (Option Nat)}
    {one : State → Site → VecDesc → Nat → State} (h : Keeps o s) (hone : ∀ s x1 x2 x3, Keeps o s → Keeps o (one s x1 x2 x3)) :
    Answers o (vecInstr s p c op faults one) := by
  unfold vecInstr
  refine .next ?_
  refine .issue h ?_
  intro _ _ _ k
  refine .withDesc ?_
  intro _ _
  extract_lets
  split
  · exact .fault
  · exact .done (.foldl (.enterCmd k) fun _ _ k_1 => hone _ _ _ _ k_1)

protected theorem Keeps.actOne {h' : Site} {v : VecDesc} {i : Nat} (h : Keeps o s) : Keeps o (actOne s h' v i) :=
  .ite (.writeVec (.readVec h)) (.writeVec (.readVec (.readVec h)))

protected theorem Answers.execAct {p c : Nat} (h : Keeps o s) : Answers o (execAct p c s) := .vecInstr h fun _ _ _ _ k => .actOne k

protected theorem Keeps.cvtOne {h' : Site} {v : VecDesc} {i : Nat} (h : Keeps o s) : Keeps o (cvtOne s h' v i) := .writeVec (.readVec h)

protected theorem Answers.execCvt {p c : Nat} (h : Keeps o s) : Answers o (execCvt p c s) := .vecInstr h fun _ _ _ _ k => .cvtOne k

protected theorem Keeps.wmvOne {h' : Site} {v : VecDesc} {i : Nat} (h : Keeps o s) : Keeps o (wmvOne s h' v i) :=
  .writeVec (.ite (.tagFault (.countInvalid (.readVec h))) (.countInvalid (.readVec h)))

protected theorem Answers.execWmv {p c : Nat} (h : Keeps o s) : Answers o (execWmv p c s) := .vecInstr h fun _ _ _ _ k => .wmvOne k

protected theorem Keeps.wewOne {h' : Site} {v : VecDesc} {i : Nat} (h : Keeps o s) : Keeps o (wewOne s h' v i) :=
  .ite (.writeVec (.readVec h)) (.writeVec (.readVec (.readVec h)))

protected theorem Answers.execWew {p c : Nat} (h : Keeps o s) : Answers o (execWew p c s) := .vecInstr h fun _ _ _ _ k => .wewOne k

protected theorem Keeps.wnormOne {h' : Site} {v : VecDesc} {i : Nat} (h : Keeps o s) : Keeps o (wnormOne s h' v i) := by
  unfold wnormOne
  extract_lets r0 r1 _ _ _ _ _ s1
  have hr0 : Keeps o r0.1 := .readVec h
  have hr1 : Keeps o r1.1 := .readVec hr0
  have hs1 : Keeps o s1 := .ite (.tagFault hr1) hr1
  exact .ite (.writeVec hr1) (.writeVec hs1)

protected theorem Answers.execWnorm {p c : Nat} (h : Keeps o s) : Answers o (execWnorm p c s) := .vecInstr h fun _ _ _ _ k => .wnormOne k

protected theorem Keeps.wlookOne {h' : Site} {v : VecDesc} {i : Nat} (h : Keeps o s) : Keeps o (wlookOne s h' v i) :=
  .ite (.writeVec (.readSram h)) (.writeVec (.ite (.tagFault (.readSram h)) (.readSram h)))

protected theorem Answers.execWlook {p c : Nat} (h : Keeps o s) : Answers o (execWlook p c s) := .vecInstr h fun _ _ _ _ k => .wlookOne k

protected theorem Keeps.wadOne {h' : Site} {v : VecDesc} {i : Nat} (h : Keeps o s) : Keeps o (wadOne s h' v i) := by
  unfold wadOne
  split
  · exact h
  · split
    · exact h
    · extract_lets _ _ _ _ _ ra rb r0 _ _ _ s1 s2 _ rd
      have hra : Keeps o ra.1 := .readSram h
      have hrb : Keeps o rb.1 := .readSram hra
      have hr0 : Keeps o r0.1 := .readVec hrb
      have hs1 : Keeps o s1 := .countInvalid hr0
      have hs2 : Keeps o s2 := .ite (.claimRow hs1) hs1
      have hrd : Keeps o rd.1 := .readSram hs2
      exact .writeVec hrd

protected theorem Answers.execWad {p c : Nat} (h : Keeps o s) : Answers o (execWad p c s) := .vecInstr h fun _ _ _ _ k => .wadOne k

/-! ### Attention -/

protected theorem Keeps.passChunk {panel c0 : Nat} {cx : SramCtx} {a : PassAcc} (h : Keeps o a.s) :
    Keeps o (passChunk panel cx a c0).s := by
  unfold passChunk
  split
  · exact h
  split
  · exact h
  extract_lets
  split
  · exact h
  split
  · exact h
  · exact .touchFrame (.translate h)

protected theorem Keeps.kvAbsent {panel : Nat} {r : RemoteJob} (h : Keeps o s) : Keeps o (kvAbsent s panel r) := by
  unfold kvAbsent
  extract_lets s1
  have hs1 : Keeps o s1 := .raiseEvent (.bumpIds h)
  split
  · exact .claimRow hs1
  · split
    · exact hs1
    · exact .modStep hs1

protected theorem Keeps.passReports {panel : Nat} {r : RemoteJob} {stopped : Bool} {a : PassAcc} (h : Keeps o a.s) :
    Keeps o (passReports panel r stopped a) := by
  unfold passReports
  extract_lets s0 s1 s2 s3
  have h0 : Keeps o s0 := by
    unfold s0; split
    · exact .claimRow (.raiseEvent h)
    · exact h
  have h1 : Keeps o s1 := by
    unfold s1; split
    · exact .claimRow (.raiseEvent (.modPanel h0))
    · exact h0
  have h2 : Keeps o s2 := by
    unfold s2; split
    · exact .claimRow (.raiseEvent (.bumpFor h1))
    · exact h1
  have h3 : Keeps o s3 := .foldl h2 fun _ _ k => .dropFrame k
  split
  · exact .kvAbsent h3
  · exact h3

protected theorem Keeps.runPass {panel seg : Nat} {cx : SramCtx} {acc : RunAcc} {rs : List RemoteJob} (h : Keeps o acc.s) :
    Keeps o (runPass panel cx seg acc rs).s := by
  have chunks (l : List Nat) (a : PassAcc) (ha : Keeps o a.s) : Keeps o (l.foldl (fun a c => passChunk panel cx a (512 * seg + 32 * c)) a).s := by
    induction l generalizing a with
    | nil => exact ha
    | cons c l ih => exact ih _ (.passChunk ha)
  unfold runPass
  split
  · exact h
  split
  · exact h
  · exact .passReports (chunks _ _ h)

protected theorem Keeps.runSegs {panel : Nat} {cx : SramCtx} {rs : List RemoteJob} (h : Keeps o s) : Keeps o (runSegs s panel cx rs).s := by
  have passes (i : Nat) (l : List (List RemoteJob)) (a : RunAcc) (ha : Keeps o a.s) : Keeps o (l.foldl (runPass panel cx i) a).s := by
    induction l generalizing a with
    | nil => exact ha
    | cons r l ih => exact ih _ (.runPass ha)
  have segs (l : List Nat) (a : RunAcc) (ha : Keeps o a.s) : Keeps o (l.foldl (fun acc i =>
      let mine := rs.filter fun r => decide (r.first ≤ i ∧ i < r.first + r.count)
      (chunksOf 8 mine.length mine).foldl (runPass panel cx i) acc) a).s := by
    induction l generalizing a with
    | nil => exact ha
    | cons i l ih => exact ih _ (passes _ _ _ ha)
  exact segs _ _ h

protected theorem Keeps.finishRow {p : Nat} {j : AttJob} {r : AttRow} (h : Keeps o s) : Keeps o (finishRow s p j r) := by
  unfold finishRow
  extract_lets _ _ _ s1 _ s2 _ _ _ s3 s4
  have hs1 : Keeps o s1 := .bumpIds h
  have hs2 : Keeps o s2 := .ite (.boltTagFault hs1) hs1
  have hs3 : Keeps o s3 := .modPanel hs2
  have hs4 : Keeps o s4 := .ite (.claimRow hs3) hs3
  exact .decCmd hs4

protected theorem Keeps.foldParts {p : Nat} {xs : List PartMsg} (h : Keeps o s) : Keeps o (foldParts s p xs) := by
  unfold foldParts
  refine .foldl h ?_
  intro _ _ k
  split
  · exact k
  · exact .foldl (.modPanel k) fun _ _ k_1 => .finishRow k_1

protected theorem Keeps.accRow {p : Nat} {step : Word} {addr : Nat} {xs : List F32} {poison : Bool} (h : Keeps o s) :
    Keeps o (accRow s p step addr xs poison) :=
  .modPanel (.ite (.boltTagFault h) h)

protected theorem Keeps.addBack {p : Nat} {j : BackJob} {r : BackRow} {poison : Bool} {xs : List BackPart} (h : Keeps o s) :
    Keeps o ((addBack s p j r poison xs).1) := by
  unfold addBack
  dsimp only
  exact .foldl h fun _ _ k => .accRow (.accRow k)

protected theorem Keeps.addHeld {p : Nat} {j : BackJob} {n : Nat} {a : State × BackRow} (h : Keeps o a.1) :
    Keeps o (addHeld p j n a).1 := by
  induction n generalizing a with
  | zero => exact h
  | succ n ih =>
    unfold addHeld
    split
    · exact h
    · refine ih ?_
      dsimp only
      exact .addBack h

protected theorem Keeps.finishBack {p : Nat} {j : BackJob} {r : BackRow} (h : Keeps o s) : Keeps o (finishBack s p j r) := by
  unfold finishBack
  extract_lets _ _ s1 _ s2
  have hs1 : Keeps o s1 := .ite (.boltTagFault h) h
  have hs2 : Keeps o s2 := .modPanel hs1
  exact .decCmd (.ite (.claimRow hs2) hs2)

protected theorem Keeps.drainBack {p cmd n : Nat} (h : Keeps o s) : Keeps o (drainBack s p cmd n) := by
  induction n generalizing s with
  | zero => exact h
  | succ n ih =>
    unfold drainBack
    split
    · exact h
    split
    · exact .modPanel h
    extract_lets a put
    have ha : Keeps o a.1 := .addHeld h
    have hput {rows : List BackRow} : Keeps o (put rows) := .modPanel ha
    split
    · exact ih (.finishBack hput)
    · exact hput

protected theorem Keeps.takeBack {p : Nat} {x : PartMsg} {xs : List BackPart} (h : Keeps o s) : Keeps o (takeBack s p x xs) := by
  unfold takeBack
  split
  · exact h
  · exact .drainBack (.modPanel h)

protected theorem Keeps.takePart {p : Nat} {x : PartMsg} (h : Keeps o s) : Keeps o (takePart s p x) := by
  unfold takePart
  split
  · exact .foldParts h
  · exact .takeBack h

protected theorem Keeps.sendRuns {h' : Site} {a : AttDesc} {runs : List (Nat × RemoteJob)} (h : Keeps o s) :
    Keeps o (sendRuns s h' a runs) :=
  .foldl h fun _ _ k => .sendLoad k

protected theorem Keeps.sessionRuns {x : Site} {a : AttDesc} {cx : SramCtx} {runs : List (Nat × RemoteJob)} (h : Keeps o s) :
    Keeps o (sessionRuns s x a cx runs).1 := .sendRuns (.runSegs h)

protected theorem Keeps.attnSession {x : Site} {a : AttDesc} {cmd : Nat} {acc : State × Bool} {xs : List (Nat × Nat × BatchRow)}
    (h : Keeps o acc.1) : Keeps o (attnSession x a cmd acc xs).1 := by
  unfold attnSession
  split
  · exact h
  extract_lets go r
  have hgo : Keeps o go.1 := by
    refine .foldl_fst h fun b y k => ?_
    dsimp only
    split
    · exact .tagFault k
    · exact k
  have hr : Keeps o r.1 := .sessionRuns hgo
  dsimp only
  exact .foldParts hr

protected theorem Keeps.attnRun {h' : Site} {a : AttDesc} {n : Nat} (h : Keeps o s) : Keeps o ((attnRun s h' a n).1) := by
  unfold attnRun
  extract_lets _ _ t1 _ t2
  have ht1 : Keeps o t1 := .enterCmd h
  have ht2 : Keeps o t2 := .ite ht1 (.modPanel ht1)
  exact .foldl_fst ht2 fun _ _ k => .attnSession k

protected theorem Answers.execAttn {p c : Nat} (h : Keeps o s) : Answers o (execAttn p c s) := by
  unfold execAttn
  refine .next ?_
  refine .issue h ?_
  intro _ _ _ k
  refine .withDesc ?_
  intro _ _
  split
  · exact .fault
  · exact .ite .fault (.done (.attnRun k))

protected theorem Answers.execRemoteRun {p i : Nat} (h : Keeps o s) : Answers o (execRemoteRun p i s) := by
  refine .next ?_
  split
  · exact h
  split
  · exact h
  extract_lets s1
  have h1 : Keeps o s1 := .modPanel h
  split
  · exact h1
  extract_lets _ a
  have ha : Keeps o a.s := .runSegs h1
  split
  · split
    · exact .patternFault ha
    · exact ha
  · exact .foldl ha fun _ _ k => .sendLoad k

protected theorem Answers.execPartialFold {p i : Nat} (h : Keeps o s) : Answers o (execPartialFold p i s) := by
  unfold execPartialFold
  refine .next ?_
  split
  · exact h
  · exact .takePart (.modPanel h)

protected theorem Keeps.rememberPage {nw : Nat} {step : Word} {frame valid : Nat} (h : Keeps o s) :
    Keeps o (rememberPage s nw step frame valid) :=
  .modStep h

protected theorem Keeps.kvPut {cx : SramCtx} {frame fmt d c part t : Nat} {es : List Encoded} {poison : Bool} (h : Keeps o s) :
    Keeps o (kvPut s cx frame fmt d c part t es poison) :=
  .foldl h fun _ _ k => .ite (.modPanel (.modPage k)) (.modPage k)

protected theorem Keeps.kvwPage {x : Site} {a : AttDesc} {r : BatchRow} (h : Keeps o s) (e : kvwPage s x a r = .ok t) : Keeps o t := by
  unfold kvwPage at e
  extract_lets tpp p at e
  split at e
  · cases e; exact h
  split at e
  · cases e
  split at e
  · split at e <;> cases e
  split at e
  · next k => cases e; exact h.allocPage k
  · cases e

protected theorem Keeps.kvwRow {h' : Site} {a : AttDesc} {v : Nat} {r : BatchRow} (h : Keeps o s) : Keeps o ((kvwRow s h' a v r).1) := by
  unfold kvwRow
  extract_lets
  split
  · dsimp only
    exact .claimRow h
  · split
    · dsimp only
      exact .kvAbsent h
    · exact h
    · dsimp only
      exact .kvExhausted h
    · next k_1 =>
      extract_lets _ _ rk rv _ _ s2 s2_1 s3 s4 s5
      have hrk : Keeps o rk.1 := .readSram (h.kvwPage k_1)
      have hrv : Keeps o rv.1 := .readSram hrk
      have hs2 : Keeps o s2 := .foldl hrv fun _ _ k_2 => .raiseEvent k_2
      have hs2_1 : Keeps o s2_1 := .modBolt hs2
      have hs3 : Keeps o s3 := .touchFrame (.translate (.rememberPage hs2_1))
      have hs4 : Keeps o s4 := .kvPut hs3
      have hs5 : Keeps o s5 := .kvPut hs4
      split
      · dsimp only
        exact h.kvwPage k_1
      · dsimp only
        exact .modHeader hs5

protected theorem Keeps.kvwRun {h' : Site} {a : AttDesc} {n : Nat} (h : Keeps o s) : Keeps o ((kvwRun s h' a n).1) := by
  unfold kvwRun
  refine .foldl_fst ?_ ?_
  · dsimp only
    exact .enterCmd h
  · intro _ _ k
    split
    · exact k
    · exact .kvwRow k

protected theorem Answers.execKvw {p c : Nat} (h : Keeps o s) : Answers o (execKvw p c s) := by
  unfold execKvw
  refine .next ?_
  refine .issue h ?_
  intro _ _ _ k
  refine .withDesc ?_
  intro _ _
  split
  · exact .fault
  · exact .ite .fault (.done (.kvwRun k))

protected theorem Keeps.backWork {h' : Site} {a : AttDesc} {cmd v g : Nat} {r : BatchRow} (h : Keeps o s) :
    Keeps o ((backWork s h' a cmd v g r).1) := by
  unfold backWork
  extract_lets _ _ s0 ro rd rl
  have hs0 : Keeps o s0 := .ite (.tagFault h) h
  have hro : Keeps o ro.1 := .readSram hs0
  have hrd : Keeps o rd.1 := .readSram hro
  have hrl : Keeps o rl.1 := .readSram hrd
  exact hrl

protected theorem Keeps.attbSession {x : Site} {a : AttDesc} {acc : State × Bool} {xs : List (BatchRow × RemoteJob)} (h : Keeps o acc.1) :
    Keeps o (attbSession x a acc xs).1 := by
  unfold attbSession
  split
  · exact h
  extract_lets r
  have hr : Keeps o r.1 := .sessionRuns h
  dsimp only
  exact .foldl hr fun _ _ k => .takePart k

protected theorem Keeps.attbRun {h' : Site} {a : AttDesc} {n : Nat} (h : Keeps o s) : Keeps o ((attbRun s h' a n).1) := by
  unfold attbRun
  extract_lets _ _ t1 go t2 _ r
  have ht1 : Keeps o t1 := .enterCmd h
  have hgo : Keeps o go.1 := by
    refine .foldl_fst ht1 ?_
    intro _ _ k
    extract_lets w
    have hw : Keeps o w.1 := .backWork k
    exact hw
  have ht2 : Keeps o t2 := .ite hgo (.modPanel hgo)
  have hr : Keeps o r.1 := .foldl_fst ht2 fun _ _ k => .attbSession k
  dsimp only
  exact .drainBack hr

protected theorem Answers.execAttb {p c : Nat} (h : Keeps o s) : Answers o (execAttb p c s) := by
  unfold execAttb
  refine .next ?_
  refine .issue h ?_
  intro _ _ _ k
  refine .withDesc ?_
  intro _ _
  split
  · exact .fault
  · exact .ite .fault (.done (.attbRun k))

/-! ### Commits -/

protected theorem Keeps.eraseBoltKeys {nw : Nat} (h : Keeps o s) : Keeps o (eraseBoltKeys s nw) := h.frame rfl

protected theorem Keeps.dropRequests {nw : Nat} (h : Keeps o s) : Keeps o (dropRequests s nw) := h.frame rfl

protected theorem Keeps.rotateCheckers {nw : Nat} (h : Keeps o s) : Keeps o (rotateCheckers s nw) := by
  unfold rotateCheckers
  split
  · exact h
  · extract_lets _ s0
    have hs0 : Keeps o s0 := h.frame rfl
    exact .modBolt (hs0.frame rfl)

protected theorem Keeps.feedCheckers {nw : Nat} (h : Keeps o s) : Keeps o (feedCheckers s nw) := by
  unfold feedCheckers
  split
  · exact h
  · refine .foldl h ?_
    intro _ _ k
    split
    · exact k
    · exact .ite k (.requestProg k)

protected theorem Keeps.feedLoad {nw : Nat} {b : Bolt} {l : Load} (h : Keeps o s) : Keeps o (feedLoad s nw b l) :=
  .foldl h fun _ _ k => .ite k (.ite k (.requestProg k))

protected theorem Keeps.resetSources {nw : Nat} {b : Bolt} {keep : Bool} (h : Keeps o s) : Keeps o (resetSources s nw b keep) :=
  .ite (.foldl (h.frame rfl) fun _ _ k => .modArr k) (h.frame rfl)

protected theorem Keeps.beginCommit {nw : Nat} {b : Bolt} {l : Load} {keep : Bool} (h : Keeps o s) :
    Keeps o (beginCommit s nw b l keep) := by
  unfold beginCommit
  extract_lets _ _ s1 _ s2 _ _ _ _ s3 s4 s5
  have hs1 : Keeps o s1 := .setBolt (.dropRequests h)
  have hs2 : Keeps o s2 := .resetSources (hs1.frame rfl)
  have hs3 : Keeps o s3 := .ownPanels (.eraseBoltKeys hs2)
  have hs4 : Keeps o s4 := .modSec hs3
  have hs5 : Keeps o s5 := .foldl (.foldl hs4 fun _ _ k => .queueZero k) fun _ _ k => .requestProg k
  exact .feedLoad (.modBolt hs5)

protected theorem Keeps.finishLoad {nw : Nat} {b : Bolt} {l : Load} (h : Keeps o s) : Keeps o (finishLoad s nw b l) :=
  .feedCheckers (.rotateCheckers (.closeJobId (.raiseEvent (.setBolt h))))

protected theorem Keeps.failLoad {nw : Nat} {b : Bolt} {l : Load} {status chunk : Nat} (h : Keeps o s) :
    Keeps o (failLoad s nw b l status chunk) := by
  unfold failLoad
  extract_lets _ _ s1 s2
  have hs1 : Keeps o s1 := .setBolt (.ite (.dropRequests h) h)
  have hs2 : Keeps o s2 := .ite hs1 (.raiseEvent hs1)
  exact .closeJobId hs2

protected theorem Keeps.finishUnload {nw : Nat} {b : Bolt} (h : Keeps o s) : Keeps o (finishUnload s nw b) := by
  unfold finishUnload
  split
  · exact h
  · exact .ite (.closeJobId (.ownPanels (.setBolt h))) h

protected theorem Keeps.pumpBolt {nw : Nat} (h : Keeps o s) : Keeps o (pumpBolt s nw) := by
  unfold pumpBolt
  split
  · exact h
  · split
    · exact .finishUnload h
    · split
      · exact .failLoad h
      · split
        · exact .ite (.failLoad h) (.ite (.finishLoad h) (.feedLoad h))
        · split
          · extract_lets s1
            have hs1 : Keeps o s1 := .beginCommit h
            split
            · split
              · exact .ite (.finishLoad hs1) hs1
              · exact hs1
            · exact hs1
          · exact h

protected theorem Keeps.pumpLoads (h : Keeps o s) : Keeps o (pumpLoads s) := .foldl h fun _ _ k => .feedCheckers (.pumpBolt k)

protected theorem Keeps.arrayDone {a : ArrId} {accepted : Bool} (h : Keeps o s) : Keeps o (arrayDone s a accepted) := h.frame rfl

protected theorem Answers.execProgAdmit (h : Keeps o s) : Answers o (execProgAdmit s) := .next (.ite h (.pumpLoads (.admitNext h)))

/-! ### Admission -/

protected theorem Keeps.refusedOpen {d : Dispatched} (h : Keeps o s) : Keeps o (refusedOpen s d) := .ite (.raiseEvent h) h

protected theorem Keeps.command {id op : Nat} {may : State → Dispatched → Bool} {act : State → Dispatched → State} (h : Keeps o s)
    (hact : ∀ s x1, Keeps o s → Keeps o (act s x1)) :
    Keeps o (command s id op may act) := by
  unfold command
  split
  · exact h
  · exact .ite h (.ite (.finishEntry (.refusedOpen h)) (.ite (.finishEntry (.refusedOpen h)) (hact _ _ h)))

/-! ### Patterns -/

protected theorem Keeps.dropSramPages {ps : List Nat} (h : Keeps o s) : Keeps o (dropSramPages s ps) :=
  .foldl h fun _ _ k => .ite (.dropFrame k) k

protected theorem Keeps.installPattern {nw : Nat} {b : Bolt} {tenant : Nat} {r : PatRead} {rank : Nat × Nat} {imgs : List (List Byte)}
    (h : Keeps o s) :
    Keeps o (installPattern s nw b tenant r rank imgs) := by
  unfold installPattern
  extract_lets _ s1 s2 s3
  have hs1 : Keeps o s1 := .dropSramPages h
  have hs2 : Keeps o s2 := by
    refine .foldl hs1 ?_
    intro _ _ k
    split
    · exact k
    · exact .modPanel k
  have hs3 : Keeps o s3 := .ownPanels (.eraseBoltKeys hs2)
  exact .modBolt hs3

/-! ### The self-test -/

protected theorem Keeps.noteResult {q : StReq} {r : StRec} (h : Keeps o s) : Keeps o (noteResult s q r) := by
  unfold noteResult
  extract_lets _ s1
  have hs1 : Keeps o s1 := h.frame rfl
  split
  · exact hs1
  · extract_lets s2
    have hs2 : Keeps o s2 := .emit hs1
    exact .modJob (hs2.frame rfl)

protected theorem Keeps.requestOver {q : StReq} {kind target : Nat} (h : Keeps o s) : Keeps o (requestOver s q kind target) := by
  unfold requestOver
  split
  · exact h
  · extract_lets s1
    have hs1 : Keeps o s1 := .raiseEvent h
    split
    · exact hs1
    · exact .closeJobId (hs1.frame rfl)

protected theorem Keeps.stNext {n : Nat} (h : Keeps o s) : Keeps o (stNext n s) := by
  induction n generalizing s with
  | zero => exact h
  | succ n ih =>
    unfold stNext
    split
    · exact h
    split
    · exact h
    extract_lets _ s1 _ _ _ _ s3
    have h1 : Keeps o s1 := h.frame rfl
    have h3 : Keeps o s3 := .ite (h1.frame rfl) (h1.frame rfl)
    clear_value s3
    split
    · split
      · exact .setBlk h3
      · exact h3
    · exact ih (.requestOver (.noteResult h1))

protected theorem Keeps.stQueue {qs : List StReq} (h : Keeps o s) : Keeps o (stQueue s qs) := .stNext (h.frame rfl)

protected theorem Keeps.testedContents {kind t : Nat} (h : Keeps o s) : Keeps o (testedContents s kind t) :=
  .ite h (.ite (.bumpTile h) (.ite (.modPanel h) h))

protected theorem Keeps.targetFailed {kind t : Nat} (h : Keeps o s) : Keeps o (targetFailed s kind t) := by
  unfold targetFailed
  extract_lets _ s1 s2
  have hs1 : Keeps o s1 := by
    unfold s1
    split
    · exact .setBlk h
    · exact .modSec h
  have hs2 : Keeps o s2 := .raiseEvent hs1
  exact .writeSig hs2

protected theorem Answers.execSelfTestTargetDone {signature : Word} {failed : Nat} (h : Keeps o s) :
    Answers o (execSelfTestTargetDone signature failed s) := by
  unfold execSelfTestTargetDone
  refine .next ?_
  split
  · exact h
  · extract_lets _ _ _ s1 _ s2 s3 _ s4 s5
    have hs1 : Keeps o s1 := .testedContents (h.frame rfl)
    have hs2 : Keeps o s2 := .ite hs1 (hs1.frame rfl)
    have hs3 : Keeps o s3 := by
      unfold s3
      split
      · split
        · exact .setBlk hs2
        · exact hs2
      · exact .targetFailed hs2
    have hs4 : Keeps o s4 := .bbRecord hs3
    have hs5 : Keeps o s5 := .requestOver (.noteResult hs4)
    exact .stNext hs5

protected theorem Keeps.abortSelfTest {j : Job} (h : Keeps o s) : Keeps o (abortSelfTest s j) := by
  unfold abortSelfTest
  extract_lets _ _ s1 s2
  have hs1 : Keeps o s1 := .modJob (h.frame rfl)
  have hs2 : Keeps o s2 := .foldl hs1 fun _ _ k => .noteResult k
  exact .ite hs2 (.closeJobId (hs2.frame rfl))

protected theorem Answers.execSelfTest {id : Nat} (h : Keeps o s) : Answers o (execSelfTest id s) :=
  .next (.command h fun _ _ k => .ite (.finishEntry k) (.ite (.finishEntry k) (.stQueue (.startJob k))))

protected theorem Answers.execStCmd {w : Window} {value : Word} (h : Keeps o s) : Answers o (execStCmd w value s) :=
  .next (.gated h fun _ k => .ite (.capture k) (.ite (.stQueue k) k))

/-- A flush's own record enters the ring like any other; the slots are no part of it. -/
protected theorem Keeps.startFlush {trigger : Nat} (h : Keeps o s) : Keeps o (startFlush s trigger) := by
  have noted {u : State} {f : Option BbFlush} {a b : BbSlot} (hu : Keeps o u) :
      Keeps o { u with bb := { u.bb with flushing := f, slotA := a, slotB := b } } := hu.frame rfl
  unfold startFlush
  have hr (d : List Byte) : Keeps o (bbRecord s .bb 0x102 d) := .bbRecord h
  generalize bbRecord s .bb 0x102 = r at hr ⊢
  extract_lets newer
  clear_value newer
  split
  · exact h
  · exact noted (hr _)

protected theorem Answers.execBbFlush {trigger : Nat} (h : Keeps o s) : Answers o (execBbFlush trigger s) := .next (.ite (.startFlush h) h)

protected theorem Answers.execBbFlushed {ok : Bool} (h : Keeps o s) : Answers o (execBbFlushed ok s) := by
  unfold execBbFlushed
  refine .next ?_
  split
  · exact h
  · extract_lets _ s1 _ _ _ s2
    have hs1 : Keeps o s1 := h.frame rfl
    have hs2 : Keeps o s2 := hs1.frame rfl
    exact .ite (.raiseEvent hs1) (.raiseEvent hs2)

protected theorem Answers.execFlush {w : Window} (h : Keeps o s) : Answers o (execFlush w s) := .next (.gated h fun _ k => .startFlush k)

protected theorem Answers.execClearStore {w : Window} (h : Keeps o s) : Answers o (execClearStore w s) :=
  .next (.gated h fun _ k => .ite (.capture k) (k.frame rfl))

protected theorem Answers.execBbEpoch {w : Window} {value : Word} (h : Keeps o s) : Answers o (execBbEpoch w value s) :=
  .next (.gated h fun _ k => .bbRecord (k.frame rfl))

protected theorem Keeps.finishOutput {d : Dispatched} {bytes : List Byte} {detail : Nat} (h : Keeps o s) :
    Keeps o (finishOutput s d bytes detail) := by
  unfold finishOutput
  extract_lets s1 s2
  have hs1 : Keeps o s1 := .ite h (.emit h)
  have hs2 : Keeps o s2 := hs1.frame rfl
  exact .settleRing (.queueCompletion hs2)

protected theorem Answers.execBbRead {id : Nat} (h : Keeps o s) : Answers o (execBbRead id s) :=
  .next (.command h fun _ _ k => .finishOutput k)

protected theorem Answers.execSigRead {id : Nat} (h : Keeps o s) : Answers o (execSigRead id s) := by
  refine .next (.command h fun u d k => ?_)
  extract_lets _ _ _ s1
  have h1 : Keeps o s1 := k.within rfl (.inl rfl) le_rfl (.inl (by simp [s1]))
  exact .finishOutput h1

protected theorem Keeps.setBbSel {w : Window} {x : BbSel} (h : Keeps o s) : Keeps o (setBbSel s w x) := by
  unfold setBbSel
  split
  · exact h.frame rfl
  · exact .ite (h.frame rfl) (h.frame rfl)
  · exact h

protected theorem Answers.execBbRdData3Read {w : Window} (h : Keeps o s) : Answers o (execBbRdData3Read w s) :=
  .next (.ite (h.frame rfl) (.setBbSel (h.frame rfl)))

/-! ### Rings -/

protected theorem Keeps.abortJob {j : Job} (h : Keeps o s) : Keeps o ((abortJob s j).1) := by
  unfold abortJob
  split
  · exact h
  · split
    · dsimp only
      exact .endJob h
    · dsimp only
      exact .endJob h
    · split
      · split
        · split
          · exact h
          · dsimp only
            exact .failLoad h
        · exact h
      · exact h
    · split
      · exact h
      · dsimp only
        exact .abortSelfTest h
    · exact h
    · exact h
    · exact h

protected theorem Keeps.dropEntries {test : Dispatched → Bool} {status : Nat} (h : Keeps o s) : Keeps o (dropEntries s test status) :=
  .foldl h fun _ _ k => .finishEntry k

protected theorem Keeps.ringError {port ring err : Nat} (h : Keeps o s) : Keeps o (ringError s port ring err) :=
  .settleRing (.raiseEvent (.bumpFor (.modRing h)))

protected theorem Keeps.closeRing {port ring : Nat} (h : Keeps o s) : Keeps o (closeRing s port ring) := .settleRing (.modRing h)

protected theorem Keeps.ringDrop {w : Window} {port ring off code : Nat} (h : Keeps o s) : Keeps o (ringDrop s w port ring off code) :=
  .capture h

protected theorem Keeps.writeRingCfg {w : Window} {n : Nat} {v : Word} (h : Keeps o s) : Keeps o (writeRingCfg s w n v) := by
  unfold writeRingCfg
  split
  · exact h
  · extract_lets _ s1 s2 s3
    have hs1 : Keeps o s1 := .modRing h
    have hs2 : Keeps o s2 := .dropEntries hs1
    have hs3 : Keeps o s3 := .foldl hs2 fun _ _ k => .abortJob k
    split
    · exact .ite (.ringDrop h) (.pumpLoads (.closeRing hs3))
    · exact .ite (.ringDrop h) (.ite (.ringDrop h) (.ite (.modRing h) (.modRing h)))

protected theorem Keeps.writeRingBase {w : Window} {n off : Nat} {v : Word} (h : Keeps o s) : Keeps o (writeRingBase s w n off v) := by
  unfold writeRingBase
  split
  · exact h
  · exact .ite (.ringDrop h) (.modRing h)

protected theorem Answers.execRingEnable {w : Window} {ring : Nat} {cfg : Word} (h : Keeps o s) : Answers o (execRingEnable w ring cfg s) :=
  .next (.writeRingCfg h)

protected theorem Answers.execRingDisable {w : Window} {ring : Nat} {cfg : Word} (h : Keeps o s) :
    Answers o (execRingDisable w ring cfg s) :=
  .next (.writeRingCfg h)

protected theorem Answers.execSqTail {w : Window} {ring value : Nat} (h : Keeps o s) : Answers o (execSqTail w ring value s) := by
  unfold execSqTail
  refine .next ?_
  split
  · exact h
  · exact .ite (.ringDrop h) (.ite h (.ite (.ringError h) (.modRing h)))

protected theorem Answers.execCqHead {w : Window} {ring value : Nat} (h : Keeps o s) : Answers o (execCqHead w ring value s) := by
  unfold execCqHead
  refine .next ?_
  split
  · exact h
  · exact .ite (.ringDrop h) (.ite h (.modRing h))

protected theorem Answers.execEntryFetch {port ring : Nat} {dma : Dma Entry} (h : Keeps o s) :
    Answers o (execEntryFetch port ring dma s) := by
  unfold execEntryFetch
  refine .next ?_
  extract_lets
  split
  · exact h
  · split
    · exact .ringError h
    · exact .ringError h
    · exact .ite (.modRing (h.frame rfl)) (.finishEntry (.modRing (h.frame rfl)))

protected theorem Keeps.ringSignal {port ring : Nat} (h : Keeps o s) : Keeps o (ringSignal s port ring) := .sendMsix (.modRing h)

protected theorem Keeps.countSignal {port ring : Nat} (h : Keeps o s) : Keeps o (countSignal s port ring) :=
  .ite (.ringSignal (.modRing h)) (.modRing h)

protected theorem Answers.execCompletionPost {port ring : Nat} {dma : Dma Unit} (h : Keeps o s) :
    Answers o (execCompletionPost port ring dma s) := by
  unfold execCompletionPost
  refine .next ?_
  extract_lets
  split
  · exact h
  · split
    · exact h
    · split
      · exact .ringError h
      · exact .ringError h
      · exact .settleRing (.countSignal (.modRing (.emit h)))

protected theorem Answers.execCqStall {port ring : Nat} (h : Keeps o s) : Answers o (execCqStall port ring s) := by
  unfold execCqStall
  refine .next ?_
  extract_lets
  split
  · exact h
  · exact .ite h (.raiseEvent (.bumpFor (.modRing h)))

protected theorem Answers.execCoalTimer {port ring : Nat} (h : Keeps o s) : Answers o (execCoalTimer port ring s) := by
  unfold execCoalTimer
  refine .next ?_
  extract_lets
  split
  · exact h
  · exact .ite (.ringSignal h) h

protected theorem Answers.execRingAssign {w : Window} {port : Nat} {value : Word} (h : Keeps o s) :
    Answers o (execRingAssign w port value s) :=
  .next (.gated h fun _ k => .ite (.capture k) (.ite (.modRing k) (.modRing k)))

protected theorem Answers.execVfAssign {w : Window} {port : Nat} {value : Word} (h : Keeps o s) : Answers o (execVfAssign w port value s) :=
  .next (.gated h fun _ k => .ite (.capture k) (.setOwner (.modVf k)))

protected theorem Keeps.passBolts {test : Nat → Bolt → Bool} {port : Nat} (h : Keeps o s) : Keeps o (passBolts s test port) := by
  unfold passBolts
  refine .foldl h ?_
  intro _ _ k
  split
  · exact k
  · extract_lets s1 s2
    have hs1 : Keeps o s1 := .ownPanels k
    have hs2 : Keeps o s2 := .modBolt hs1
    exact hs2.frame rfl

protected theorem Keeps.adopt {lost : Nat} (h : Keeps o s) : Keeps o (adopt s lost) := by
  unfold adopt
  extract_lets _ s1 s2 s3 s4
  have hs1 : Keeps o s1 := .endJobs h
  have hs2 : Keeps o s2 := hs1.frame rfl
  have hs3 : Keeps o s3 := .passBolts hs2
  have hs4 : Keeps o s4 := hs3.frame rfl
  exact .pumpLoads (.raiseEvent (.bumpFor hs4))

protected theorem Answers.execHeartbeat {w : Window} {port : Nat} (h : Keeps o s) : Answers o (execHeartbeat w port s) :=
  .next (.gated h fun _ k => .ite k (.ite (.adopt (.modPort k)) (.modPort k)))

protected theorem Answers.execHeartbeatLoss {port : Nat} (h : Keeps o s) : Answers o (execHeartbeatLoss port s) :=
  .next (.ite h (.ite (.adopt (.raiseEvent (.bumpFor (.modPort h)))) (.raiseEvent (.bumpFor (.modPort h)))))

protected theorem Keeps.tdiFail {port vf : Nat} (h : Keeps o s) : Keeps o (tdiFail s port vf) := by
  unfold tdiFail
  extract_lets _ s1 _ s2 s3 s4 s5
  have hs1 : Keeps o s1 := .modVf h
  have hs2 : Keeps o s2 := .foldl hs1 fun _ _ k => .modRing k
  have hs3 : Keeps o s3 := hs2.frame rfl
  have hs4 : Keeps o s4 := .endJobs hs3
  have hs5 : Keeps o s5 := .foldl hs4 fun _ _ k => .settleRing k
  exact .ite h (.pumpLoads (.raiseEvent hs5))

protected theorem Answers.execLinkChange {port rate width : Nat} {flit up : Bool} (h : Keeps o s) :
    Answers o (execLinkChange port rate width flit up s) := by
  unfold execLinkChange
  refine .next ?_
  extract_lets _ s1 _ s2
  have hs1 : Keeps o s1 := .modPort h
  have hs2 : Keeps o s2 := .ite hs1 (.foldl (hs1.frame rfl) fun _ _ k => .tdiFail k)
  exact .ite h (.ite hs2 (.raiseEvent hs2))

protected theorem Keeps.clearMsixTable {port : Nat} {test : Nat → Bool} (h : Keeps o s) : Keeps o (clearMsixTable s port test) :=
  h.frame rfl

protected theorem Keeps.resetFn {port : Nat} {test : Nat → Bool} (h : Keeps o s) : Keeps o (resetFn s port test) := by
  unfold resetFn
  extract_lets _ s1 s2 s3 s4
  have hs1 : Keeps o s1 := .foldl h fun _ _ k => .modRing k
  have hs2 : Keeps o s2 := .dropEntries hs1
  have hs3 : Keeps o s3 := .endJobs hs2
  have hs4 : Keeps o s4 := .clearMsixTable (.pumpLoads (.foldl hs3 fun _ _ k => .settleRing k))
  exact .modPort hs4

protected theorem Answers.execFlr {port fn : Nat} (h : Keeps o s) : Answers o (execFlr port fn s) := by
  unfold execFlr
  refine .next ?_
  split
  · exact h
  · extract_lets s1 s2
    have hs1 : Keeps o s1 := .foldl h fun _ _ k => .ite (.tdiFail k) k
    have hs2 : Keeps o s2 := .resetFn hs1
    exact .ite (.modPort hs2) hs2

protected theorem Keeps.flushMsix {port fn vector : Nat} (h : Keeps o s) : Keeps o (flushMsix s port fn vector) :=
  .ite (.sendMsix (.modPort h)) h

protected theorem Answers.execConfigurationRequest {port : Nat} {c : CfgWrite} (h : Keeps o s) :
    Answers o (execConfigurationRequest port c s) := by
  refine .next ?_
  split
  · exact h
  extract_lets guard
  have hg {fn : Nat} {u : State} (hu : Keeps o u) : Keeps o (guard fn u) := .ite (.tdiFail hu) hu
  clear_value guard
  split
  · exact .modPort (.resetFn (.foldl h fun _ _ k => .tdiFail k))
  · exact .modPort h
  · exact .flushMsix (.modPort h)
  · exact hg (.modPort h)
  · split
    · exact .modPort h
    · exact hg (.modPort h)
  · exact .modPort h
  · exact .modPort h
  · exact .modPort h

protected theorem Answers.execAtsInvalidation {port : Nat} {page : Word} {size : Nat} (h : Keeps o s) :
    Answers o (execAtsInvalidation port page size s) :=
  .next (.ite h (.emit (.modPort h)))

/-! ### The network -/

protected theorem Keeps.tagRouters {ps : List Nat} {tag : Nat} (h : Keeps o s) : Keeps o (tagRouters s ps tag) := h.frame rfl

protected theorem Keeps.ackFlit {f : MFlit} (h : Keeps o s) : Keeps o (ackFlit s f) := .decCmd h

protected theorem Keeps.serveOne {p flow : Nat} (h : Keeps o s) : Keeps o (serveOne s p flow) := by
  unfold serveOne
  extract_lets
  split
  · split
    · split
      · exact .patternFault (.modPanel (.foldl h fun _ _ k => .giveCredit k))
      · exact .modCtx (.modPanel (.giveCredit (.ite (.boltTagFault h) h)))
    · exact h
  · exact h

protected theorem Keeps.serveRecv {p flow : Nat} (h : Keeps o s) : Keeps o (serveRecv s p flow) := .foldl h fun _ _ k => .serveOne k

protected theorem Keeps.deliverFlit {p : Nat} {f : MFlit} (h : Keeps o s) : Keeps o (deliverFlit s p f) := by
  unfold deliverFlit
  split
  · exact .takeLoad h
  · split
    · exact .giveCredit (.ackFlit h)
    · exact .ite (.giveCredit (.ackFlit (.ite (.modPanel h) h))) (.serveRecv (.modPanel (.ackFlit h)))

protected theorem Keeps.crossLink {p dir : Nat} {f : MFlit} {dsts : List Nat} (h : Keeps o s) : Keeps o (crossLink s p dir f dsts) := by
  unfold crossLink
  split
  · exact h
  · split
    · exact .raiseEvent (.bumpFor h)
    · extract_lets _ _ s1 s2 s3
      have hs1 : Keeps o s1 := .ite h (.takeCredit h)
      have hs2 : Keeps o s2 := .bumpFor hs1
      have hs3 : Keeps o s3 := .ite hs2 (.modPanel hs2)
      exact .ite (.takeLoad hs3) (.modPanel hs3)

protected theorem Keeps.moveFlit {p : Nat} {f : QFlit} (h : Keeps o s) : Keeps o (moveFlit s p f) := by
  unfold moveFlit
  extract_lets s1 s2
  have hs1 : Keeps o s1 := .leaveRouter (.modPanel h)
  have hs2 : Keeps o s2 := .ite (.foldl hs1 fun _ _ k => .takeCredit k) hs1
  exact .foldl hs2 fun _ _ k => .ite (.deliverFlit k) (.crossLink k)

protected theorem Answers.execFlitSend {p dir : Nat} (h : Keeps o s) : Answers o (execFlitSend p dir s) := by
  unfold execFlitSend
  refine .next ?_
  split
  · exact h
  · split
    · exact .moveFlit (.modPanel h)
    · exact .foldl h fun _ _ k => .beginWait k

protected theorem Answers.execFlowFlitArrive {p flow : Nat} (h : Keeps o s) : Answers o (execFlowFlitArrive p flow s) := by
  unfold execFlowFlitArrive
  refine .next ?_
  split
  · exact .ite (.moveFlit h) (.foldl h fun _ _ k => .ite k (.beginWait k))
  · exact h

protected theorem Keeps.sendRun {h' : Site} {w : Word} {f : Flow} (h : Keeps o s) : Keeps o (sendRun s h' w f) :=
  .modPanel (.readSram (.enterCmd h))

protected theorem Answers.execSend {p c : Nat} (h : Keeps o s) : Answers o (execSend p c s) := by
  unfold execSend
  refine .next ?_
  refine .issue h ?_
  intro _ _ _ k
  split
  · exact .fault
  · split
    · exact .fault
    · exact .done (.sendRun k)

protected theorem Keeps.recvRun {h' : Site} {w : Word} {f : Flow} (h : Keeps o s) : Keeps o (recvRun s h' w f) :=
  .serveRecv (.modCtx (.enterCmd h))

protected theorem Answers.execRecv {p c : Nat} (h : Keeps o s) : Answers o (execRecv p c s) := by
  unfold execRecv
  refine .next ?_
  refine .issue h ?_
  intro _ _ _ k
  split
  · exact .fault
  · split
    · exact .fault
    · exact .done (.recvRun k)

protected theorem Keeps.failUnit {page : PageId} {cls detector : Nat} {u : Option RepairUnit} (h : Keeps o s) :
    Keeps o (failUnit s page cls detector u) := by
  unfold failUnit
  split
  · exact h
  · extract_lets s1 _ s2 _ s3
    have hs1 : Keeps o s1 := .setBlk h
    have hs2 : Keeps o s2 := .raiseEvent hs1
    have hs3 : Keeps o s3 := .writeSig hs2
    split
    · exact .ite hs3 (.repairTile hs3)
    · exact .ite hs3 (.repairPanel hs3)
    · exact .unitFault hs3
    · exact hs3

protected theorem Keeps.modSeam {half : Nat} {f : SeamHalf → SeamHalf} (h : Keeps o s) : Keeps o (modSeam s half f) := h.frame rfl

protected theorem Answers.execSeamParity {half lane : Nat} (h : Keeps o s) : Answers o (execSeamParity half lane s) :=
  .next (.ite h (.ite (.modSeam (.bumpFor h)) (.writeSig (.raiseEvent (.modSeam (.bumpFor h))))))

protected theorem Answers.execCreditReturn {q : QueueId} (h : Keeps o s) : Answers o (execCreditReturn q s) :=
  .next (.ite (.setBlk (.raiseEvent h)) (.giveCredit h))

protected theorem Answers.execCreditStall {q : QueueId} (h : Keeps o s) : Answers o (execCreditStall q s) := by
  unfold execCreditStall
  refine .next ?_
  split
  · exact .ite (.raiseEvent (h.frame rfl)) h
  · exact h

protected theorem Answers.execContextWaitStall {p c : Nat} (h : Keeps o s) : Answers o (execContextWaitStall p c s) := by
  unfold execContextWaitStall
  refine .next ?_
  split
  · exact h
  · exact .ite (.raiseEvent (.modCtx h)) h

protected theorem Keeps.setArb {r : ResId} {a : Arbiter} (h : Keeps o s) : Keeps o (setArb s r a) := h.frame rfl

protected theorem Keeps.arbGrant {r : ResId} {a : Arbiter} (h : Keeps o s) : Keeps o (arbGrant s r a) := by
  unfold arbGrant
  split
  · extract_lets s1
    have hs1 : Keeps o s1 := .setArb h
    split
    · exact .bumpFor hs1
    · exact hs1
  · exact .setArb h

protected theorem Answers.execArbRequest {r0 : ResId} {requester items : Nat} {class0 : Bool} (h : Keeps o s) :
    Answers o (execArbRequest r0 requester items class0 s) :=
  .next (.ite h (.ite (.setArb h) (.arbGrant h)))

protected theorem Keeps.arbPost {r : ResId} {q : ArbReq} (h : Keeps o s) : Keeps o (arbPost s r q) := .setArb h

protected theorem Answers.execArbItemDone {r : ResId} {nextCredit : Bool} (h : Keeps o s) : Answers o (execArbItemDone r nextCredit s) := by
  unfold execArbItemDone
  refine .next ?_
  extract_lets
  split
  · exact .ite h (.arbGrant h)
  · extract_lets
    split
    · exact .arbGrant h
    · split
      · refine .arbGrant ?_
        split
        · exact .bumpFor h
        · exact h
      · exact .ite (.arbPost (.arbGrant h)) (.setArb h)

protected theorem Answers.execArbWatchdog {r : ResId} (h : Keeps o s) : Answers o (execArbWatchdog r s) := by
  unfold execArbWatchdog
  refine .next ?_
  extract_lets
  split
  · exact h
  · split
    · exact h
    · extract_lets _ s1
      have hs1 : Keeps o s1 := .raiseEvent (.bumpFor (.arbGrant h))
      split
      · exact .failUnit hs1
      · exact hs1

/-! ### The fabric -/

protected theorem Keeps.pumpTx {plane : Nat} {acc : State × List KwTx} {m : KwTx} (h : Keeps o acc.1) : Keeps o (pumpTx plane acc m).1 := by
  unfold pumpTx
  extract_lets _ _ s1
  have h1 : Keeps o s1 := .modKw (.takeCredits h)
  split
  · exact h
  · split
    · dsimp only
      exact .beginWait h1
    · dsimp only
      exact .emit (h1.frame rfl)

protected theorem Keeps.pumpKw {plane : Nat} (h : Keeps o s) : Keeps o (pumpKw s plane) := .modKw (.foldl_fst h fun _ _ k => .pumpTx k)

protected theorem Keeps.transmit {plane dst vc : Nat} {seq : BitVec 32} {data : List Byte} (h : Keeps o s) :
    Keeps o (transmit s plane dst vc seq data) :=
  .pumpKw (.modKw h)

protected theorem Keeps.clearLink {plane : Nat} (h : Keeps o s) : Keeps o (clearLink s plane) :=
  .foldl (.modKw h) fun _ _ k => .giveCredit k

protected theorem Keeps.sendMsg {half dst vc : Nat} {data : List Byte} (h : Keeps o s) : Keeps o (sendMsg s half dst vc data) := by
  unfold sendMsg
  extract_lets _ _ plane _ s1
  have hs1 : Keeps o s1 := h.frame rfl
  clear_value plane
  split
  · exact .transmit hs1
  · exact hs1

protected theorem Keeps.sendControl {dst : Nat} {data : List Byte} (h : Keeps o s) : Keeps o (sendControl s dst data) := by
  unfold sendControl
  split
  · exact .transmit h
  · exact h

protected theorem Keeps.resendMsgs {lost : TxMsg → Bool} (h : Keeps o s) : Keeps o (resendMsgs s lost) := by
  unfold resendMsgs
  refine .foldl h ?_
  intro _ _ k
  split
  · exact .transmit (k.frame rfl)
  · exact k.frame rfl

protected theorem Keeps.multicast {idx : Nat} {data : List Byte} (h : Keeps o s) : Keeps o (multicast s idx data) := by
  unfold multicast
  extract_lets
  split
  · exact h
  · split
    · exact .transmit h
    · exact h

protected theorem Keeps.sendHello {port : Nat} (h : Keeps o s) : Keeps o (sendHello s port) := .ite h (.transmit h)

protected theorem Keeps.settleFab (h : Keeps o s) : Keeps o (settleFab s) := .ite (h.frame rfl) h

protected theorem Keeps.reshape {f : Nat × Nat × Nat} (h : Keeps o s) : Keeps o (reshape s f) :=
  .ite h (.settleFab (.raiseEvent (.bumpFor (h.frame rfl))))

protected theorem Keeps.unshape {f : Nat × Nat × Nat} (h : Keeps o s) : Keeps o (unshape s f) := .settleFab (h.frame rfl)

protected theorem Keeps.downPlane {a plane : Nat} (h : Keeps o s) : Keeps o (downPlane s a plane) :=
  .resendMsgs (.reshape (.ite (.clearLink (.foldl h fun _ _ k => .modLane k)) (.modKw (h.frame rfl))))

protected theorem Answers.execKwLaneDown {port lane : Nat} {lostLock : Bool} (h : Keeps o s) :
    Answers o (execKwLaneDown port lane lostLock s) := by
  refine .next ?_
  extract_lets _ _ _ _ _ s4
  have h4 : Keeps o s4 := .reshape (.writeSig (.raiseEvent (.modLane h)))
  exact .ite h (.ite h4 (.downPlane h4))

protected theorem Keeps.portJoined {port : Nat} (h : Keeps o s) : Keeps o (portJoined s port) := by
  unfold portJoined
  extract_lets s1 _ s2
  have hs1 : Keeps o s1 := .unshape h
  have hs2 : Keeps o s2 := hs1.frame rfl
  exact .resendMsgs (.sendHello hs2)

protected theorem Answers.execKwLaneRetrain {port lane : Nat} {ok : Bool} (h : Keeps o s) : Answers o (execKwLaneRetrain port lane ok s) :=
  .next (.ite h (.ite (.modLane h) (.ite (.unshape (.modLane h)) (.portJoined (.unshape (.modLane h))))))

protected theorem Answers.execUncorrectableCodeword {port lane : Nat} (h : Keeps o s) : Answers o (execUncorrectableCodeword port lane s) :=
  .next (.ite h (.bumpFor (.modLane h)))

protected theorem Keeps.tagFailed {port : Nat} {f : KwFlit} (h : Keeps o s) : Keeps o (tagFailed s port f) := by
  unfold tagFailed
  extract_lets s1 s2 s3
  have hs1 : Keeps o s1 := .raiseEvent (.bumpFor h)
  have hs2 : Keeps o s2 := .modKw hs1
  have hs3 : Keeps o s3 := .emit hs2
  exact .ite (.downPlane (.modKw hs3)) hs3

protected theorem Keeps.sawEpoch {port src : Nat} {e : BitVec 8} (h : Keeps o s) : Keeps o (sawEpoch s port src e) := by
  unfold sawEpoch
  extract_lets s1
  have hs1 : Keeps o s1 := .modKw h
  exact .ite (hs1.frame rfl) hs1

protected theorem Keeps.acceptFlit {port : Nat} {f : KwFlit} (h : Keeps o s) : Keeps o (acceptFlit s port f) := by
  unfold acceptFlit
  extract_lets s1 _ _ s2 s3
  have hs1 : Keeps o s1 := .pumpKw (.foldl h fun _ _ k => .ite k (.giveCredit k))
  have hs2 : Keeps o s2 := .ite (hs1.frame rfl) hs1
  have hs3 : Keeps o s3 := .ite (.modKw hs2) hs2
  exact .ite hs1 (.ite hs3 (.ite (.sawEpoch hs3) (.tagFailed hs3)))

protected theorem Keeps.drainFlits {port n : Nat} (h : Keeps o s) : Keeps o (drainFlits s port n) := by
  induction n generalizing s with
  | zero => exact h
  | succ n ih =>
    unfold drainFlits
    extract_lets
    split
    · exact h
    · exact ih (.acceptFlit (.modKw h))

protected theorem Answers.execKwFlitReceive {port : Nat} {f : KwFlit} (h : Keeps o s) : Answers o (execKwFlitReceive port f s) :=
  .next (.ite h (.ite (.drainFlits (.modKw h)) (.ite (.modKw h) (.emit (.modKw (.modKw h))))))

protected theorem Answers.execKwReplayRequest {port : Nat} {lseq : BitVec 16} (h : Keeps o s) :
    Answers o (execKwReplayRequest port lseq s) :=
  .next (.ite h (.ite (.emit (.bumpFor h)) (.downPlane h)))

protected theorem Keeps.peerLost {nw : Nat} (h : Keeps o s) : Keeps o (peerLost s nw) := by
  unfold peerLost
  split
  · exact h
  · exact .claimAll h

protected theorem Answers.execFabricSend {p dstRank dstPanel flow addr len : Nat} (h : Keeps o s) :
    Answers o (execFabricSend p dstRank dstPanel flow addr len s) := by
  unfold execFabricSend
  refine .next ?_
  split
  · exact h
  · split
    · exact h
    · split
      · split
        · exact h
        · exact .peerLost h
      · exact .ite (.peerLost h) (.sendMsg (.ite (.claimAll (.raiseEvent (.bumpFor h))) h))

protected theorem Keeps.fillBuffer {p : Nat} {b : RxBuf} {m : FabMsg} (h : Keeps o s) : Keeps o (fillBuffer s p b m) := by
  unfold fillBuffer
  extract_lets _ s1
  have hs1 : Keeps o s1 := by
    unfold s1
    split
    · split
      · exact .raiseEvent (.bumpFor h)
      · exact h
    · exact h
  exact .modPanel hs1

protected theorem Keeps.serveBuffer {p flow : Nat} (h : Keeps o s) : Keeps o (serveBuffer s p flow) := by
  unfold serveBuffer
  extract_lets
  split
  · exact .fillBuffer (.modPanel h)
  · exact h

protected theorem Keeps.deliverMsg {m : FabMsg} (h : Keeps o s) : Keeps o (deliverMsg s m) :=
  .ite (.raiseEvent (.bumpFor h)) (.ite h (.serveBuffer (.modPanel h)))

protected theorem Keeps.drainEarly {k n : Nat} (h : Keeps o s) : Keeps o (drainEarly s k n) := by
  induction n generalizing s with
  | zero => exact h
  | succ n ih =>
    unfold drainEarly
    extract_lets
    split
    · exact h
    · exact ih (.deliverMsg (h.frame rfl))

protected theorem Answers.execFabricMessageReceive {m : FabMsg} (h : Keeps o s) : Answers o (execFabricMessageReceive m s) := by
  unfold execFabricMessageReceive
  refine .next ?_
  split
  · exact h
  · extract_lets _ _ s1
    have hs1 : Keeps o s1 := .sendControl h
    exact .ite hs1 (.drainEarly (hs1.frame rfl))

protected theorem Answers.execReceiveBufferPost {p flow addr len : Nat} (h : Keeps o s) :
    Answers o (execReceiveBufferPost p flow addr len s) :=
  .next (.ite h (.serveBuffer (.modPanel h)))

protected theorem Answers.execMessageAck {dst vc : Nat} {seq : BitVec 32} (h : Keeps o s) : Answers o (execMessageAck dst vc seq s) :=
  .next (h.frame rfl)

protected theorem Keeps.adoptPeers {ps : List PeerState} {manager : Bool} (h : Keeps o s) : Keeps o (adoptPeers s ps manager) := by
  unfold adoptPeers
  extract_lets _ _ s1 s2
  have hs1 : Keeps o s1 := .ite (.foldl h fun _ _ k => .raiseEvent (.bumpFor k)) h
  have hs2 : Keeps o s2 := .foldl hs1 fun _ _ k => .ite (.raiseEvent (.bumpFor k)) (.bumpFor k)
  exact hs2.frame rfl

protected theorem Keeps.newEpoch (h : Keeps o s) : Keeps o (newEpoch s) :=
  .ite h (.resendMsgs (.foldl (.drawFree (h.frame rfl)) fun _ _ k => .emit k))

protected theorem Keeps.healFaults (h : Keeps o s) : Keeps o (healFaults s) := h.frame rfl

protected theorem Keeps.manage (h : Keeps o s) : Keeps o (manage s) := by
  unfold manage
  split
  · exact h
  · extract_lets s1 s2 s3 _ _ s4
    have hs1 : Keeps o s1 := .healFaults (.adoptPeers h)
    have hs2 : Keeps o s2 := .foldl hs1 fun _ _ k => .sendMsg k
    have hs3 : Keeps o s3 := .newEpoch hs2
    have hs4 : Keeps o s4 := hs3.frame rfl
    exact .ite (.raiseEvent hs4) hs4

protected theorem Keeps.setRole {r : Nat} (h : Keeps o s) : Keeps o (setRole s r) := .raiseEvent (h.frame rfl)

protected theorem Answers.execPlaneDown {addr plane : Nat} (h : Keeps o s) : Answers o (execPlaneDown addr plane s) :=
  .next (.ite h (.downPlane h))

protected theorem Answers.execHeartbeatSend (h : Keeps o s) : Answers o (execHeartbeatSend s) :=
  .next (.ite h (.foldl (h.frame rfl) fun _ _ k => .sendControl k))

protected theorem Answers.execManagerLost (h : Keeps o s) : Answers o (execManagerLost s) := by
  unfold execManagerLost
  refine .next ?_
  split
  · exact h
  · exact .ite h (.ite (.manage (.setRole (.reshape (h.frame rfl)))) (.setRole (.reshape (h.frame rfl))))

protected theorem Answers.execModuleLost {addr : Nat} (h : Keeps o s) : Answers o (execModuleLost addr s) := by
  unfold execModuleLost
  refine .next ?_
  split
  · exact h
  · extract_lets _ _ s1 s2 s3
    have hs1 : Keeps o s1 := h.frame rfl
    have hs2 : Keeps o s2 := .reshape hs1
    have hs3 : Keeps o s3 := .foldl hs2 fun _ _ k => .ite (.peerLost k) k
    exact .ite (.manage hs3) hs3

protected theorem Answers.execHello {m : HelloMsg} (h : Keeps o s) : Answers o (execHello m s) := by
  unfold execHello
  refine .next ?_
  split
  · exact h
  · split
    · exact .foldl (h.frame rfl) fun _ _ k => .modKw k
    · exact .ite (.ite (.setRole (h.frame rfl)) (.raiseEvent (h.frame rfl))) (h.frame rfl)

protected theorem Answers.execDiscWait (h : Keeps o s) : Answers o (execDiscWait s) := by
  unfold execDiscWait
  refine .next ?_
  split
  · exact h
  · exact .ite (.manage h) h

protected theorem Answers.execFabricKeyReceive {epoch : BitVec 8} {ct : Oaep} (h : Keeps o s) :
    Answers o (execFabricKeyReceive epoch ct s) := by
  unfold execFabricKeyReceive
  refine .next ?_
  split
  · exact h
  · extract_lets _ s1 _ s2
    have hs1 : Keeps o s1 := h.frame rfl
    have hs2 : Keeps o s2 := hs1.frame rfl
    exact .resendMsgs hs2

protected theorem Answers.execEpochRequest {sender : Nat} (h : Keeps o s) : Answers o (execEpochRequest sender s) := by
  unfold execEpochRequest
  refine .next ?_
  split
  · exact h
  · split
    · exact .newEpoch h
    · split
      · split
        · split
          · exact .sendControl h
          · exact h
        · exact h
      · exact h

protected theorem Answers.execPlanStateReceive {m : PlanMsg} (h : Keeps o s) : Answers o (execPlanStateReceive m s) := by
  unfold execPlanStateReceive
  refine .next ?_
  split
  · exact h
  · split
    · exact .raiseEvent (.bumpFor h)
    · split
      · split
        · exact h
        · extract_lets _ s1
          have hs1 : Keeps o s1 := .healFaults (.adoptPeers (h.frame rfl))
          exact .settleFab (hs1.frame rfl)
      · split
        · exact h
        · extract_lets _ s1
          have hs1 : Keeps o s1 := .healFaults (.adoptPeers (h.frame rfl))
          exact .settleFab (hs1.frame rfl)

/-! ### The samplers -/

protected theorem Keeps.enterCount {p session : Nat} {tok : BitVec 32} (h : Keeps o s) : Keeps o (enterCount s p session tok) := by
  unfold enterCount
  extract_lets _ _ s1
  have hs1 : Keeps o s1 := .bumpFor h
  split
  · exact .modSession h
  · split
    · exact .modSession h
    · split
      · exact hs1
      · split
        · exact hs1
        · exact .ite (.modJob hs1) (.raiseEvent (.modJob hs1))

protected theorem Keeps.rememberCounts {nw : Nat} {step : Word} {session : Nat} (h : Keeps o s) :
    Keeps o (rememberCounts s nw step session) :=
  .modStep h

protected theorem Keeps.enterToken {p nw : Nat} {step : Word} {row : BatchRow} {tok : BitVec 32} (h : Keeps o s) :
    Keeps o (enterToken s p nw step row tok) := by
  unfold enterToken
  extract_lets s0 s1 s2
  have hs0 : Keeps o s0 := .enterCount (.rememberCounts h)
  have hs1 : Keeps o s1 := by
    unfold s1
    split
    · next k => exact hs0.ensureLog k
    · exact .kvExhausted hs0
  have hs2 : Keeps o s2 := .modSession hs1
  split
  · exact hs2
  · exact .modJob hs2

protected theorem Keeps.mergeRow {p nw : Nat} {b : Bolt} {m : MergeJob} {v row : Nat} {cs : List CandMsg} (h : Keeps o s) :
    Keeps o (mergeRow s p nw b m v row cs) := by
  unfold mergeRow
  split
  · exact h
  · split
    · exact h
    · split
      · split
        · exact .claimRow h
        · extract_lets _ _ _ _ s1 s2 s3 _ s4 s5
          have hs1 : Keeps o s1 := .bumpFor h
          have hs2 : Keeps o s2 := .ite (.bumpFor hs1) hs1
          have hs3 : Keeps o s3 := .modJob hs2
          have hs4 : Keeps o s4 := .ite (.boltTagFault hs3) hs3
          have hs5 : Keeps o s5 := .modPanel hs4
          exact .enterToken hs5
      · exact h

protected theorem Keeps.settleMerge {p nw : Nat} {b : Bolt} {m : MergeJob} (h : Keeps o s) : Keeps o (settleMerge s p nw b m) :=
  .foldl h fun _ _ k => .ite k (.decCmd (.modPanel (.mergeRow k)))

protected theorem Keeps.settleMerges {p : Nat} (h : Keeps o s) : Keeps o (settleMerges s p) := by
  unfold settleMerges
  split
  · exact h
  · exact .foldl h fun _ _ k => .settleMerge k

protected theorem Keeps.sampleRow {h' : Site} {v : VecDesc} {i : Nat} (h : Keeps o s) : Keeps o (sampleRow s h' v i) := by
  unfold sampleRow
  extract_lets _ r
  have hr : Keeps o r.1 := .readSram h
  split
  · exact h
  · exact .ite h (.modPanel hr)

protected theorem Answers.execSample {p c : Nat} (h : Keeps o s) : Answers o (execSample p c s) := by
  unfold execSample
  refine .next ?_
  refine .issue h ?_
  intro _ _ _ k
  refine .withDesc ?_
  intro _ _
  split
  · exact .fault
  · exact .done (.settleMerges (.foldl (.enterCmd k) fun _ _ k_1 => .sampleRow k_1))

protected theorem Keeps.smergeRun {h' : Site} {v : VecDesc} {n : Nat} (h : Keeps o s) : Keeps o (smergeRun s h' v n) := by
  unfold smergeRun
  extract_lets _ _ _ _ t1 t2 t3
  have ht1 : Keeps o t1 := .enterCmd h
  have ht2 : Keeps o t2 := .foldl ht1 fun _ _ k => .writeSram k
  have ht3 : Keeps o t3 := .ite ht2 (.modPanel ht2)
  exact .settleMerges ht3

protected theorem Answers.execSmerge {p c : Nat} (h : Keeps o s) : Answers o (execSmerge p c s) := by
  unfold execSmerge
  refine .next ?_
  refine .issue h ?_
  intro _ _ _ k
  refine .withDesc ?_
  intro _ _
  split
  · exact .fault
  · exact .done (.smergeRun k)

/-! ### Steps -/

protected theorem Answers.execAdapterSlotLoad {nw tenant set : Nat} (h : Keeps o s) : Answers o (execAdapterSlotLoad nw tenant set s) := by
  unfold execAdapterSlotLoad
  refine .next ?_
  split
  · exact h
  · split
    · exact h
    · extract_lets _ _ s1
      have hs1 : Keeps o s1 := .endWait h
      split
      · exact h
      · split
        · exact .beginWait h
        · extract_lets s2
          have hs2 : Keeps o s2 := .modBolt hs1
          refine .foldl hs2 ?_
          intro _ _ k
          split
          · exact .modPanel k
          · exact k

protected theorem Keeps.startCtx {p : Nat} {e : PanelEntry} {rowLimit slot : Nat} {t : Batch} {shadow : Option Nat} (h : Keeps o s) :
    Keeps o (startCtx s p e rowLimit slot t shadow) :=
  .modPanel h

protected theorem Answers.execBatchTableReceive {p : Nat} (h : Keeps o s) : Answers o (execBatchTableReceive p s) := by
  unfold execBatchTableReceive
  refine .next ?_
  split
  · split
    · exact .ite (.modPanel h) (.ite h (.startCtx (.modStep (.modPanel h))))
    · exact h
  · exact h

protected theorem Keeps.reserveJob {step : Word} {j : Job} (h : Keeps o s) : Keeps o ((reserveJob s step j).1) := by
  unfold reserveJob
  split
  · dsimp only
    exact .modJob h
  · split
    · next k =>
      dsimp only
      exact .modJob (h.reserveToken k)
    · dsimp only
      exact .setHold (.budgetRefused h)

protected theorem Keeps.reserveAll {step : Word} {js : List Job} {draws : List Nat} (h : Keeps o s) :
    Keeps o ((reserveAll s step js draws).1) := by
  unfold reserveAll
  refine .foldl_fst h ?_
  intro _ _ k
  split
  · exact k
  · extract_lets r
    have hr : Keeps o r.1 := .reserveJob k
    exact hr

protected theorem Keeps.enterPrompt {nw : Nat} {seq : Word} {session pos : Nat} {tok : BitVec 32} {prompt : Bool} (h : Keeps o s) :
    Keeps o (enterPrompt s nw seq session pos tok prompt) := by
  unfold enterPrompt
  extract_lets _ s1 s2
  have hs1 : Keeps o s1 := by
    unfold s1
    split
    · next k => exact h.ensureLog k
    · exact .kvExhausted h
  have hs2 : Keeps o s2 := .modSession hs1
  exact .ite h (.ite (.enterCount (.rememberCounts hs2)) hs2)

protected theorem Keeps.enterRows {nw : Nat} {t : Step} (h : Keeps o s) : Keeps o (enterRows s nw t) := by
  unfold enterRows
  split
  · exact h
  · refine .foldl h ?_
    intro _ _ k
    split
    · exact k
    · split
      · exact k
      · exact .enterPrompt k

protected theorem Keeps.sendStep {nw : Nat} {b : Bolt} {slot : Nat} {t : Step} (h : Keeps o s) : Keeps o (sendStep s nw b slot t) := by
  unfold sendStep
  extract_lets _ s1
  have hs1 : Keeps o s1 := .foldl h fun _ _ k => .modPanel k
  split
  · exact hs1
  · refine .foldl hs1 ?_
    intro _ _ k
    split
    · exact .sendMsg k
    · exact k

protected theorem Keeps.formStep {nw : Nat} {b : Bolt} {slot kind : Nat} {rows : List BatchRow} (h : Keeps o s) :
    Keeps o (formStep s nw b slot kind rows) :=
  .ite (.modBolt h) (.enterRows (.sendStep (.modBolt h)))

protected theorem Keeps.startStep {nw : Nat} {t : Step} (h : Keeps o s) : Keeps o (startStep s nw t) := by
  unfold startStep
  split
  · exact .ite h (.enterRows (.sendStep (.modStep h)))
  · exact h

protected theorem Keeps.startHeld {nw : Nat} (h : Keeps o s) : Keeps o (startHeld s nw) := by
  unfold startHeld
  split
  · exact h
  · exact .ite h (.foldl h fun _ _ k => .startStep k)

protected theorem Answers.execAdapterSlotResident {nw slot : Nat} (h : Keeps o s) : Answers o (execAdapterSlotResident nw slot s) := by
  unfold execAdapterSlotResident
  refine .next ?_
  split
  · exact h
  · extract_lets
    split
    · split
      · exact h
      · extract_lets s1
        have hs1 : Keeps o s1 := by
          refine .foldl h ?_
          intro _ _ k
          split
          · exact k
          · exact .modPanel k
        exact .startHeld (.modBolt hs1)
    · exact h

protected theorem Keeps.wantSets {nw : Nat} {xs : List (Nat × Nat)} (h : Keeps o s) : Keeps o (wantSets s nw xs) := .modBolt h

protected theorem Keeps.formRecompute {nw : Nat} {b : Bolt} {slot limit : Nat} {r : Recall} (h : Keeps o s) :
    Keeps o (formRecompute s nw b slot limit r) :=
  .ite (.wantSets h) (.formStep (.modBolt (.wantSets h)))

protected theorem Keeps.formReady {nw : Nat} {b : Bolt} {slot limit : Nat} (h : Keeps o s) : Keeps o (formReady s nw b slot limit) := by
  unfold formReady
  extract_lets
  split
  · exact h
  · extract_lets _ _ s1 _ res _ _ u s2
    have hs1 : Keeps o s1 := .wantSets h
    have hres : Keeps o res.1 := .reserveAll hs1
    have hu : Keeps o u := hres
    have hs2 : Keeps o s2 := hu.frame rfl
    exact .ite hres (.formStep hs2)

protected theorem Answers.execStepForm {nw : Nat} (h : Keeps o s) : Answers o (execStepForm nw s) := by
  unfold execStepForm
  refine .next ?_
  split
  · exact h
  · split
    · exact h
    · split
      · exact h
      · split
        · exact h
        · extract_lets
          split
          · exact .formReady h
          · exact .ite (.formRecompute h) h

protected theorem Answers.execSpanBatchReceive {nw : Nat} {batch : Batch} (h : Keeps o s) :
    Answers o (execSpanBatchReceive nw batch s) := by
  unfold execSpanBatchReceive
  refine .next ?_
  split
  · exact h
  · split
    · exact h
    · split
      · exact h
      · split
        · exact h
        · exact .sendStep (.modBolt h)

protected theorem Keeps.gradSamples {nw : Nat} {seq : Word} {job : Nat} {parts : List (Nat × List Byte × List F32)} (h : Keeps o s) :
    Keeps o (gradSamples s nw seq job parts) := by
  unfold gradSamples
  refine .foldl h ?_
  intro _ _ k
  split
  · exact .ite k (.nwEnterFor k)
  · exact k

protected theorem Keeps.putTuned {nw : Nat} {j : Job} {t : TuneJob} {src : List (Nat × List Byte)} {new : List (F32 × F32 × F32)}
    (h : Keeps o s) :
    Keeps o (putTuned s nw j t src new) :=
  .modBolt (h.frame rfl)

protected theorem Keeps.optimise {nw : Nat} {seq : Word} {j : Job} {t : TuneJob} (h : Keeps o s) : Keeps o (optimise s nw seq j t) := by
  unfold optimise
  split
  · exact h
  · extract_lets _ _ _ _ s1 _ s2
    have hs1 : Keeps o s1 := .gradSamples (h.frame rfl)
    have hs2 : Keeps o s2 := .modJob (.putTuned hs1)
    exact .ite hs1 (.ite (.claim hs2) (.modJob hs2))

protected theorem Answers.execRankSealReport {nw rank : Nat} {step : Word} (h : Keeps o s) :
    Answers o (execRankSealReport nw rank step s) := by
  unfold execRankSealReport
  refine .next ?_
  split
  · exact h
  · split
    · exact h
    · split
      · exact h
      · split
        · split
          · exact h
          · extract_lets s1
            have hs1 : Keeps o s1 := .modStep h
            split
            · exact hs1
            · split
              · exact .sendMsg hs1
              · exact hs1
        · exact .ite (.modStep h) h

protected theorem Keeps.releaseToken {id : Nat} {seq : Word} {pos : Nat} {tok : BitVec 32} (h : Keeps o s) :
    Keeps o (releaseToken s id seq pos tok) :=
  .recordToken (.modJob h)

protected theorem Keeps.sealSession {seq : Word} {rows : List BatchRow} {session : Nat} (h : Keeps o s) :
    Keeps o (sealSession s seq rows session) := by
  unfold sealSession
  split
  · exact h
  · extract_lets _ drawn s1 s2
    have hs1 : Keeps o s1 := .modSession h
    have hs2 : Keeps o s2 := .modJob hs1
    clear_value drawn
    split
    · exact .modJob hs2
    · extract_lets s3 _ t s4
      have hs3 : Keeps o s3 := .releaseToken hs2
      have ht : Keeps o t := .flushRecord hs3
      have hs4 : Keeps o s4 := by
        unfold s4
        split
        · split
          · exact .queueCompletion ht
          · exact ht
        · exact hs3
      exact .ite (.claim hs4) (.modJob hs4)

protected theorem Keeps.sealPanel {p : Nat} {seq : Word} (h : Keeps o s) : Keeps o (sealPanel s p seq) := .modPanel h

protected theorem Keeps.sealStep {nw : Nat} {b : Bolt} {t : Step} (h : Keeps o s) : Keeps o (sealStep s nw b t) := by
  unfold sealStep
  extract_lets s1 s2
  have hs1 : Keeps o s1 := .modBolt h
  have hs2 : Keeps o s2 := .foldl hs1 fun _ _ k => .sealPanel k
  split
  · exact hs2
  · refine .foldl hs2 ?_
    intro _ _ k
    split
    · exact k
    · split
      · exact k
      · split
        · exact .optimise k
        · exact .sealSession k

protected theorem Answers.execSealed {nw : Nat} {step : Word} (h : Keeps o s) : Answers o (execSealed nw step s) := by
  unfold execSealed
  refine .next ?_
  split
  · exact h
  · split
    · exact h
    · extract_lets _ _ s1
      have hs1 : Keeps o s1 := by
        unfold s1
        split
        · refine .foldl h ?_
          intro _ _ k
          split
          · exact .sendMsg k
          · exact k
        · exact h
      exact .ite h (.sealStep hs1)

protected theorem Answers.execJobStatusClaim {job : Nat} (h : Keeps o s) : Answers o (execJobStatusClaim job s) := by
  unfold execJobStatusClaim
  refine .next ?_
  split
  · exact h
  · exact .pumpLoads (.endJob (h.frame rfl))

protected theorem Keeps.noteCause {nw : Nat} {cause : RecallCause} (h : Keeps o s) : Keeps o (noteCause s nw cause) := by
  unfold noteCause
  split
  · exact .modBolt h
  · exact .modBolt h
  · exact .modBolt (.ite (.modSession h) (.bump (.modSession h)))
  · exact h

protected theorem Answers.execRecallStep {nw : Nat} {step : Word} {cause : RecallCause} (h : Keeps o s) :
    Answers o (execRecallStep nw step cause s) := by
  unfold execRecallStep
  refine .next ?_
  split
  · exact h
  · split
    · exact h
    · split
      · exact h
      · extract_lets s1 _ s2 s3
        have hs1 : Keeps o s1 := .modStep h
        have hs2 : Keeps o s2 := .raiseEvent (.bumpFor hs1)
        have hs3 : Keeps o s3 := .noteCause (.orderDiscard hs2)
        split
        · exact .noteCause hs1
        · split
          · exact hs3
          · refine .foldl hs3 ?_
            intro _ _ k
            split
            · exact .sendMsg k
            · exact k

protected theorem Keeps.endDropRecall {nw : Nat} (h : Keeps o s) : Keeps o (endDropRecall s nw) := .modBolt h

protected theorem Answers.execRecallDiscard {p : Nat} (h : Keeps o s) : Answers o (execRecallDiscard p s) := by
  unfold execRecallDiscard
  refine .next ?_
  split
  · exact h
  · exact .endDropRecall (.modBolt (.modPanel (.discardPanel (.dropSwatches (.undoSteps h)))))

protected theorem Keeps.restoreTacks {b : Bolt} (h : Keeps o s) : Keeps o (restoreTacks s b) := by
  unfold restoreTacks
  split
  · exact h
  · exact .foldl h fun _ _ k => .modPanel k

protected theorem Keeps.restartStep {nw : Nat} {b : Bolt} {pat : Pattern} {shadow : Option Nat} {t : Step} (h : Keeps o s) :
    Keeps o (restartStep s nw b pat shadow t) := by
  unfold restartStep
  split
  · exact h
  · extract_lets s1 _ s2 s3
    have hs1 : Keeps o s1 := .modStep h
    have hs2 : Keeps o s2 := hs1.frame rfl
    have hs3 : Keeps o s3 := by
      refine .foldl hs2 ?_
      intro _ _ k
      split
      · exact .bumpFor (.startCtx k)
      · exact k
    exact .enterRows hs3

protected theorem Answers.execReplay {nw : Nat} (h : Keeps o s) : Answers o (execReplay nw s) := by
  unfold execReplay
  refine .next ?_
  split
  · exact h
  · split
    · split
      · exact h
      · extract_lets _ _ _ s1 s2
        have hs1 : Keeps o s1 := .foldl (.restoreTacks h) fun _ _ k => .modSession k
        have hs2 : Keeps o s2 := .foldl hs1 fun _ _ k => .restartStep k
        exact .ite (.foldl h fun _ _ k => .restartStep k) (.ite h (.ite h (.startHeld (.modBolt hs2))))
    · exact h

/-! ### Commands -/

protected theorem Keeps.makeTenant {t maxSessions : Nat} (h : Keeps o s) : Keeps o (makeTenant s t maxSessions) := .drawFree (.modTenant h)

protected theorem Answers.execTenantCreate {id : Nat} (h : Keeps o s) : Answers o (execTenantCreate id s) :=
  .next (.command h fun _ _ k => .ite (.finishEntry k) (.ite (.finishEntry k) (.ite (.finishEntry k) (.finishEntry (.makeTenant k)))))

protected theorem Answers.execTenantRemove {id : Nat} (h : Keeps o s) : Answers o (execTenantRemove id s) :=
  .next (.command h fun _ _ k => .ite (.finishEntry k) (.ite (.finishEntry k) (.finishEntry (.settleTenant (.modTenant k)))))

protected theorem Answers.execBoltCreate {id : Nat} (h : Keeps o s) : Answers o (execBoltCreate id s) :=
  .next (.command h fun _ _ k => .ite (.finishEntry k) (.finishEntry (.tagRouters (.ownPanels (.setBolt k)))))

protected theorem Keeps.dropBolt {nw : Nat} {b : Bolt} (h : Keeps o s) : Keeps o (dropBolt s nw b) :=
  .ownPanels (.eraseBoltKeys (.setBolt (.tagRouters (.modPanels (.dropSramPages h)))))

protected theorem Answers.execBoltRemove {id : Nat} (h : Keeps o s) : Answers o (execBoltRemove id s) := by
  unfold execBoltRemove
  refine .next ?_
  refine .command h ?_
  intro _ _ k
  split
  · exact k
  · exact .ite (.finishEntry k) (.finishEntry (.dropBolt k))

protected theorem Answers.execBoltTransfer {id : Nat} (h : Keeps o s) : Answers o (execBoltTransfer id s) :=
  .next (.command h fun _ _ k => .ite (.finishEntry k) (.ite (.finishEntry k) (.finishEntry (.passBolts k))))

protected theorem Answers.execBoltAdopt {id : Nat} (h : Keeps o s) : Answers o (execBoltAdopt id s) :=
  .next (.command h fun _ _ k => .ite (.finishEntry (.adopt k)) (.finishEntry k))

protected theorem Answers.execSessionOpen {id : Nat} (h : Keeps o s) : Answers o (execSessionOpen id s) := by
  unfold execSessionOpen
  refine .next ?_
  refine .command h ?_
  intro _ _ k
  split
  · exact k
  · split
    · extract_lets _ _ _ s1 _ _ s2
      have hs1 : Keeps o s1 := .modTenant (.modSession k)
      have hs2 : Keeps o s2 := hs1.frame rfl
      exact .finishEntry hs2
    · exact .finishEntry (.raiseEvent k)

protected theorem Keeps.closeSession {n : Nat} {waiter : Option Nat} (h : Keeps o s) : Keeps o (closeSession s n waiter) := by
  unfold closeSession
  extract_lets s1 s2
  have hs1 : Keeps o s1 := .modSession h
  have hs2 : Keeps o s2 := by
    unfold s2
    split
    · exact .endJobs hs1
    · exact hs1
  exact .ite hs2 (.freeSession (.modSession hs2))

protected theorem Answers.execSessionClose {id : Nat} (h : Keeps o s) : Answers o (execSessionClose id s) :=
  .next (.command h fun _ _ k => .ite (.finishEntry k) (.pumpLoads (.closeSession (.startJob k))))

protected theorem Keeps.withPayload {d : Dispatched} {act : State → List Byte → State} (h : Keeps o s)
    (hact : ∀ s x1, Keeps o s → Keeps o (act s x1)) :
    Keeps o (withPayload s d act) := by
  unfold withPayload
  split
  · exact .finishEntry (.raiseEvent (.bumpFor h))
  · exact .ite (.finishEntry h) (hact _ _ (.modSession h))

protected theorem Keeps.resend {d : Dispatched} (h : Keeps o s) : Keeps o (resend s d) := .foldl h fun _ _ k => .addToken k

protected theorem Keeps.runSession {n id : Nat} (h : Keeps o s) : Keeps o (runSession s n id) := .modSession h

protected theorem Answers.execGenerate {id : Nat} (h : Keeps o s) : Answers o (execGenerate id s) := by
  unfold execGenerate
  refine .next ?_
  refine .command h ?_
  intro _ _ k
  extract_lets
  split
  · exact .finishEntry k
  · refine .withPayload k ?_
    intro _ _ k_1
    split
    · exact .finishEntry k_1
    · split
      · exact .finishEntry k_1
      · extract_lets _ _ _ s1 s2
        have hs1 : Keeps o s1 := .runSession (.startJob k_1)
        have hs2 : Keeps o s2 := .ite (.modSession hs1) hs1
        exact .ite (.resend hs2) hs2

protected theorem Answers.execTune {id : Nat} (h : Keeps o s) : Answers o (execTune id s) := by
  unfold execTune
  refine .next ?_
  refine .command h ?_
  intro _ _ k
  extract_lets
  split
  · exact .finishEntry k
  · refine .withPayload k ?_
    intro _ _ k_1
    split
    · exact .finishEntry k_1
    · exact .ite (.finishEntry k_1) (.runSession (.startJob k_1))

protected theorem Answers.execAbort {id : Nat} (h : Keeps o s) : Answers o (execAbort id s) := by
  unfold execAbort
  refine .next ?_
  refine .command h ?_
  intro _ _ k
  extract_lets
  split
  · exact .pumpLoads (.finishEntry (.abortJob k))
  · split
    · exact .finishEntry (.finishEntry k)
    · exact .finishEntry k

protected theorem Answers.execPrefixRetain {id : Nat} (h : Keeps o s) : Answers o (execPrefixRetain id s) := by
  unfold execPrefixRetain
  refine .next ?_
  refine .command h ?_
  intro _ _ k
  extract_lets _ s1
  have hs1 : Keeps o s1 := .foldl k fun _ _ k_1 => .incNode k_1
  exact .ite (.finishEntry k) (.finishEntry (hs1.frame rfl))

protected theorem Answers.execPrefixRelease {id : Nat} (h : Keeps o s) : Answers o (execPrefixRelease id s) := by
  unfold execPrefixRelease
  refine .next ?_
  refine .command h ?_
  intro _ _ k
  extract_lets
  split
  · exact .finishEntry k
  · split
    · extract_lets s1
      have hs1 : Keeps o s1 := .foldl k fun _ _ k_1 => .decNode k_1
      exact .finishEntry (hs1.frame rfl)
    · exact .finishEntry k

protected theorem Keeps.wakeSession {t n : Nat} (h : Keeps o s) : Keeps o (wakeSession s t n) := by
  unfold wakeSession
  split
  · exact .budgetRefused h
  · next k =>
    split
    · exact .modJob (.setHold (h.reserveToken k))
    · exact h.reserveToken k

protected theorem Answers.execTenRefill {w : Window} {value : Word} (h : Keeps o s) : Answers o (execTenRefill w value s) := by
  unfold execTenRefill
  refine .next ?_
  refine .gated h ?_
  intro _ k
  extract_lets _ _ s1
  have hs1 : Keeps o s1 := .budgetLow (.modTenant k)
  exact .ite (.capture k) (.ite hs1 (.foldl hs1 fun _ _ k_1 => .wakeSession k_1))

/-! ### Loads -/

protected theorem Keeps.freeSlots {tenant set : Nat} (h : Keeps o s) : Keeps o (freeSlots s tenant set) := by
  unfold freeSlots
  refine .foldl h ?_
  intro _ _ k
  refine .foldl k ?_
  intro _ _ k_1
  extract_lets s1
  have hs1 : Keeps o s1 := .modBolt k_1
  split
  · exact hs1
  · refine .foldl hs1 ?_
    intro _ _ k_2
    split
    · exact .modPanel k_2
    · exact k_2

protected theorem Keeps.finishUpload {nw : Nat} {b : Bolt} {l : Load} (h : Keeps o s) : Keeps o (finishUpload s nw b l) := by
  unfold finishUpload
  extract_lets _ _ _ s1 s2 s3
  have hs1 : Keeps o s1 := .freeSlots h
  have hs2 : Keeps o s2 := hs1.frame rfl
  have hs3 : Keeps o s3 := .modBolt hs2
  exact .closeJobId (.raiseEvent hs3)

protected theorem Keeps.finishReload {nw : Nat} {l : Load} (h : Keeps o s) : Keeps o (finishReload s nw l) := by
  unfold finishReload
  extract_lets _ s1 _ s2
  have hs1 : Keeps o s1 := .modBolt h
  have hs2 : Keeps o s2 := hs1.frame rfl
  exact .closeJobId (.raiseEvent hs2)

protected theorem Keeps.stagedLoad {nw : Nat} {b : Bolt} {l : Load} (h : Keeps o s) : Keeps o (stagedLoad s nw b l) := by
  unfold stagedLoad
  split
  · exact .failLoad h
  · split
    · exact .finishUpload h
    · split
      · exact .finishReload h
      · split
        · exact .pumpBolt (.beginCommit h)
        · extract_lets _ s1
          have hs1 : Keeps o s1 := .modBolt h
          split
          · refine .pumpBolt ?_
            split
            · exact .queueCompletion hs1
            · exact hs1
          · exact .closeJobId hs1

protected theorem Keeps.advanceLoad {nw : Nat} {b : Bolt} {l : Load} {fresh : Bool} (h : Keeps o s) :
    Keeps o (advanceLoad s nw b l fresh) := by
  unfold advanceLoad
  extract_lets read
  clear_value read
  split
  · exact .failLoad h
  · exact .ite (.stagedLoad (.modBolt h)) (.modBolt h)

protected theorem Keeps.headerCome {nw : Nat} {b : Bolt} {l0 : Load} (h : Keeps o s) : Keeps o (headerCome s nw b l0) := by
  unfold headerCome
  extract_lets _ _ _ _ s1
  have hs1 : Keeps o s1 := .modBolt h
  split
  · exact .failLoad h
  · exact .ite (.advanceLoad hs1) hs1

protected theorem Keeps.startBcast {nw : Nat} {d : Dispatched} (h : Keeps o s) : Keeps o (startBcast s nw d) := .ite (h.frame rfl) h

protected theorem Answers.execLoadStage {id : Nat} (h : Keeps o s) : Answers o (execLoadStage id s) := by
  unfold execLoadStage
  refine .next ?_
  refine .command h ?_
  intro _ _ k
  extract_lets
  split
  · exact k
  · split
    · exact .finishEntry (.raiseEvent k)
    · split
      · exact .finishEntry (.raiseEvent k)
      · split
        · exact .finishEntry (.raiseEvent k)
        · split
          · exact .finishEntry (.raiseEvent k)
          · extract_lets s1
            have hs1 : Keeps o s1 := by
              unfold s1
              split
              · exact .failLoad k
              · exact k
            split
            · exact hs1
            · exact .ite (.startBcast (.startJob (.setBolt hs1))) (.headerCome (.startBcast (.startJob (.setBolt hs1))))

protected theorem Answers.execLoadCommit {id : Nat} (h : Keeps o s) : Answers o (execLoadCommit id s) := by
  unfold execLoadCommit
  refine .next ?_
  refine .command h ?_
  intro _ _ k
  split
  · exact k
  · split
    · exact .finishEntry k
    · exact .ite (.finishEntry k) (.pumpBolt (.modBolt (.startJob k)))

protected theorem Answers.execLoadCancel {id : Nat} (h : Keeps o s) : Answers o (execLoadCancel id s) := by
  unfold execLoadCancel
  refine .next ?_
  refine .command h ?_
  intro _ _ k
  split
  · exact k
  · split
    · exact .finishEntry k
    · exact .ite (.finishEntry k) (.finishEntry (.failLoad k))

protected theorem Keeps.bcastChunk {nw idx : Nat} {c : Sealed} (h : Keeps o s) : Keeps o (bcastChunk s nw idx c) := by
  unfold bcastChunk
  split
  · exact h
  extract_lets put
  have hp {u : State} {f : Bcast → Bcast} (hu : Keeps o u) : Keeps o (put u f) := hu.frame rfl
  split
  · split
    · exact h
    · exact hp (.multicast h)
  · split
    · split
      · exact hp (.sendMsg h)
      · exact h
    · exact h

protected theorem Keeps.forwardChunk {nw idx : Nat} {next : List Nat} {c : Sealed} (h : Keeps o s) :
    Keeps o (forwardChunk s nw idx next c) := by
  unfold forwardChunk
  split
  · exact h
  · extract_lets _ s1
    have hs1 : Keeps o s1 := .sendMsg h
    exact hs1.frame rfl

protected theorem Keeps.relayChunk {nw idx : Nat} {src : Option (Nat × List Nat)} {c : Sealed} (h : Keeps o s) :
    Keeps o (relayChunk s nw idx src c) := by
  unfold relayChunk
  split
  · exact .bcastChunk h
  · exact .ite (.forwardChunk h) h

protected theorem Keeps.reportMissing {l : Load} {idx : Nat} (h : Keeps o s) : Keeps o (reportMissing s l idx) := .ite h (.sendMsg h)

protected theorem Keeps.takeChunk {nw idx : Nat} {b : Bolt} {l : Load} {c : Sealed} (h : Keeps o s) :
    Keeps o (takeChunk s nw idx b l c) := by
  unfold takeChunk
  split
  · exact .failLoad h
  · split
    · exact .failLoad (.bumpFor h)
    · exact .reportMissing (.advanceLoad h)

protected theorem Keeps.loadChunk {nw idx : Nat} {src : Option (Nat × List Nat)} {c : Sealed} (h : Keeps o s) :
    Keeps o (loadChunk s nw idx src c) := by
  unfold loadChunk
  split
  · exact h
  · split
    · exact h
    · split
      · exact h
      · extract_lets s0
        have hs0 : Keeps o s0 := .ite (.headerCome h) h
        split
        · exact hs0
        · split
          · exact hs0
          · split
            · exact hs0
            · split
              · exact hs0
              · exact .takeChunk hs0

protected theorem Answers.execLoadChunk {bolt idx : Nat} {c : ChunkIn} (h : Keeps o s) : Answers o (execLoadChunk bolt idx c s) :=
  .next (.loadChunk (.relayChunk h))

protected theorem Answers.execLoadPattern {id : Nat} (h : Keeps o s) : Answers o (execLoadPattern id s) := by
  unfold execLoadPattern
  refine .next ?_
  refine .command h ?_
  intro _ _ k
  extract_lets
  split
  · exact k
  · split
    · exact .finishEntry (.raiseEvent k)
    · split
      · exact .finishEntry (.raiseEvent k)
      · split
        · exact .finishEntry (.raiseEvent k)
        · split
          · split
            · exact .finishEntry (.raiseEvent k)
            · split
              · exact .finishEntry (.raiseEvent (.ite (.bumpFor k) k))
              · exact .finishEntry (.raiseEvent (.installPattern (k.frame rfl)))
          · exact .finishEntry (.raiseEvent k)

protected theorem Keeps.unloadBolt {nw : Nat} {b : Bolt} {job : Nat} (h : Keeps o s) : Keeps o (unloadBolt s nw b job) := by
  unfold unloadBolt
  extract_lets _ _ s1 s2 s3 _ s4
  have hs1 : Keeps o s1 := .modPanels (.dropSramPages (.foldl (.dropRequests h) fun _ _ k => .discardPanel k))
  have hs2 : Keeps o s2 := .modBolt hs1
  have hs3 : Keeps o s3 := .modSec (.eraseBoltKeys hs2)
  have hs4 : Keeps o s4 := hs3.frame rfl
  exact .pumpBolt (.foldl hs4 fun _ _ k => .queueZero k)

protected theorem Answers.execUnload {id : Nat} (h : Keeps o s) : Answers o (execUnload id s) := by
  unfold execUnload
  refine .next ?_
  refine .command h ?_
  intro _ _ k
  extract_lets
  split
  · exact k
  · split
    · exact .finishEntry k
    · split
      · exact .finishEntry k
      · extract_lets s1
        have hs1 : Keeps o s1 := by
          unfold s1
          split
          · exact .failLoad k
          · exact k
        split
        · exact hs1
        · exact .unloadBolt (.startJob hs1)

protected theorem Keeps.modBcast {bolt : Nat} {f : Bcast → Bcast} (h : Keeps o s) : Keeps o (modBcast s bolt f) := h.frame rfl

protected theorem Answers.execBcastReport {bolt addr : Nat} {missing : List Nat} (h : Keeps o s) :
    Answers o (execBcastReport bolt addr missing s) :=
  .next (.modBcast h)

protected theorem Answers.execBcastWait {bolt : Nat} (h : Keeps o s) : Answers o (execBcastWait bolt s) := by
  unfold execBcastWait
  refine .next ?_
  split
  · exact h
  · split
    · exact h
    · exact .ite h (.ite (.modBcast h) (.raiseEvent (.bumpFor (.modBcast h))))

protected theorem Keeps.skipNext {bolt addr : Nat} (h : Keeps o s) : Keeps o (skipNext s bolt addr) := by
  unfold skipNext
  split
  · exact h
  · extract_lets _ _ s1
    have hs1 : Keeps o s1 := h.frame rfl
    split
    · exact .foldl hs1 fun _ _ k => .sendMsg k
    · exact hs1

protected theorem Answers.execChainTimeout {bolt addr : Nat} (h : Keeps o s) : Answers o (execChainTimeout bolt addr s) := by
  unfold execChainTimeout
  refine .next ?_
  extract_lets s0 s1
  have hs0 : Keeps o s0 := .modBcast h
  have hs1 : Keeps o s1 := .skipNext hs0
  split
  · exact hs1
  · split
    · exact hs1
    · split
      · exact hs1
      · exact .ite (.failLoad hs1) hs1

/-! ### Security -/

protected theorem Keeps.setSpdm {v : Via} {stage keyGen : Nat} (h : Keeps o s) : Keeps o (setSpdm s v stage keyGen) := h.frame rfl

protected theorem Keeps.spdmError {v : Via} {code : Nat} (h : Keeps o s) : Keeps o (spdmError s v code) := .emit h

protected theorem Keeps.spdmAnswer {v : Via} {ok : Bool} {act : State → State} (h : Keeps o s) (hact : ∀ s, Keeps o s → Keeps o (act s)) :
    Keeps o (spdmAnswer s v ok act) :=
  .ite h (.ite (hact _ h) (.spdmError h))

protected theorem Keeps.signedAnswer {v : Via} {act : State → State} (h : Keeps o s) (hact : ∀ s, Keeps o s → Keeps o (act s)) :
    Keeps o (signedAnswer s v act) :=
  .ite (hact _ h) (.spdmError h)

protected theorem Answers.execGetVersion {v : Via} (h : Keeps o s) : Answers o (execGetVersion v s) :=
  .next (.spdmAnswer h fun _ k => .emit (.setSpdm k))

protected theorem Answers.execGetCapabilities {v : Via} (h : Keeps o s) : Answers o (execGetCapabilities v s) :=
  .next (.spdmAnswer h fun _ k => .emit (.setSpdm k))

protected theorem Answers.execNegotiateAlgorithms {v : Via} {supported : Bool} (h : Keeps o s) :
    Answers o (execNegotiateAlgorithms v supported s) :=
  .next (.spdmAnswer h fun _ k => .ite (.emit (.setSpdm k)) (.spdmError k))

protected theorem Answers.execGetDigests {v : Via} (h : Keeps o s) : Answers o (execGetDigests v s) :=
  .next (.spdmAnswer h fun _ k => .emit k)

protected theorem Answers.execGetCertificate {v : Via} {slot : Nat} (h : Keeps o s) : Answers o (execGetCertificate v slot s) := by
  unfold execGetCertificate
  refine .next ?_
  refine .spdmAnswer h ?_
  intro _ k
  split
  · exact .emit k
  · exact .spdmError k

protected theorem Answers.execChallenge {v : Via} {slot : Nat} {nonce : BitVec 256} (h : Keeps o s) :
    Answers o (execChallenge v slot nonce s) := by
  unfold execChallenge
  refine .next ?_
  refine .spdmAnswer h ?_
  intro _ k
  split
  · exact .signedAnswer k fun _ k_1 => .emit k_1
  · exact .spdmError k

protected theorem Answers.execGetMeasurements {v : Via} {index : Nat} (h : Keeps o s) : Answers o (execGetMeasurements v index s) := by
  unfold execGetMeasurements
  refine .next ?_
  refine .spdmAnswer h ?_
  intro _ k
  split
  · exact .emit k
  · split
    · exact .emit k
    · split
      · exact .emit k
      · exact .spdmError k

protected theorem Answers.execKeyExchange {v : Via} {exchange : Nat} (h : Keeps o s) : Answers o (execKeyExchange v exchange s) :=
  .next (.spdmAnswer h fun _ k => .signedAnswer k fun _ k_1 => .emit (.setSpdm k_1))

protected theorem Answers.execFinish {v : Via} {verified : Bool} (h : Keeps o s) : Answers o (execFinish v verified s) :=
  .next (.spdmAnswer h fun _ k => .ite (.emit (.setSpdm k)) (.spdmError (.setSpdm k)))

protected theorem Answers.execKeyUpdate {v : Via} (h : Keeps o s) : Answers o (execKeyUpdate v s) :=
  .next (.spdmAnswer h fun _ k => .emit (.setSpdm k))

protected theorem Answers.execEndSession {v : Via} (h : Keeps o s) : Answers o (execEndSession v s) :=
  .next (.spdmAnswer h fun _ k => .emit (.setSpdm k))

protected theorem Keeps.lockIf {port vf : Nat} (h : Keeps o s) : Keeps o (lockIf s port vf) := .ite (.modVf h) h

protected theorem Keeps.abortPlain {port vf : Nat} (h : Keeps o s) : Keeps o (abortPlain s port vf) := .foldl h fun _ _ k => .abortJob k

protected theorem Keeps.stopIf {port vf : Nat} (h : Keeps o s) : Keeps o (stopIf s port vf) := .ite h (.abortPlain (.modVf h))

protected theorem Answers.execLockInterface {port vf : Nat} (h : Keeps o s) : Answers o (execLockInterface port vf s) := .next (.lockIf h)

protected theorem Answers.execStopInterface {port vf : Nat} (h : Keeps o s) : Answers o (execStopInterface port vf s) := .next (.stopIf h)

protected theorem Answers.execTdiError {port vf : Nat} (h : Keeps o s) : Answers o (execTdiError port vf s) :=
  .next (.tdiFail (h.frame rfl))

protected theorem Keeps.tdispAnswer {v : Via} {port vf : Nat} (h : Keeps o s) : Keeps o (tdispAnswer s v port vf) := .emit h

protected theorem Answers.execVendorDefinedRequest {v : Via} {m : VendorMsg} (h : Keeps o s) :
    Answers o (execVendorDefinedRequest v m s) := by
  unfold execVendorDefinedRequest
  refine .next ?_
  refine .spdmAnswer h ?_
  intro _ k
  split
  · exact .ite (.spdmError k) (.emit (k.frame rfl))
  · exact .ite (.emit (k.frame rfl)) (.spdmError k)
  · split
    · exact .spdmError k
    · exact .emit (.ite (.tdiFail (k.frame rfl)) (k.frame rfl))
  · exact .ite (.tdispAnswer (.modVf k)) (.spdmError k)
  · exact .ite (.tdispAnswer (.lockIf k)) (.spdmError k)
  · exact .ite (.tdispAnswer (.stopIf k)) (.spdmError k)
  · exact .ite (.tdispAnswer k) (.spdmError k)

protected theorem Keeps.newNonce (h : Keeps o s) : Keeps o (newNonce s) := .drawFree (h.frame rfl)

protected theorem Keeps.signedRefused {d : Dispatched} {status : Nat} (h : Keeps o s) : Keeps o (signedRefused s d status) :=
  .finishEntry (.raiseEvent (.bumpFor (.newNonce h)))

protected theorem Keeps.setOwnerKey {k : Option (List Byte)} (h : Keeps o s) : Keeps o (setOwnerKey s k) := .markDirty (h.frame rfl)

protected theorem Answers.execClaim {id : Nat} (h : Keeps o s) : Answers o (execClaim id s) := by
  unfold execClaim
  refine .next ?_
  refine .command h ?_
  intro _ _ k
  split
  · exact .finishEntry (.setOwnerKey k)
  · exact .finishEntry k

protected theorem Answers.execTransfer {id : Nat} (h : Keeps o s) : Answers o (execTransfer id s) := by
  unfold execTransfer
  refine .next ?_
  refine .command h ?_
  intro _ _ k
  split
  · exact .signedRefused k
  · exact .ite (.finishEntry (.newNonce k)) (.finishEntry (.setOwnerKey (.newNonce k)))

protected theorem Keeps.endEverything {status : Nat} (h : Keeps o s) : Keeps o (endEverything s status) := by
  unfold endEverything
  extract_lets s1
  have hs1 : Keeps o s1 := by
    refine .foldl h ?_
    intro _ _ k
    split
    · split
      · exact .failLoad k
      · exact k
    · exact k
  exact .endJobs (hs1.frame rfl)

protected theorem Keeps.closeAll (h : Keeps o s) : Keeps o (closeAll s) := .foldl h fun _ _ k => .closeSession k

protected theorem Keeps.removeTenants (h : Keeps o s) : Keeps o (removeTenants s) :=
  .foldl (.closeAll h) fun _ _ k => .settleTenant (.modTenant k)

protected theorem Answers.execRelease {id : Nat} (h : Keeps o s) : Answers o (execRelease id s) := by
  unfold execRelease
  refine .next ?_
  refine .command h ?_
  intro _ _ k
  split
  · exact .signedRefused k
  · split
    · exact .signedRefused k
    · extract_lets s1 s2 _ s3
      have hs1 : Keeps o s1 := .removeTenants (.endEverything (.newNonce k))
      have hs2 : Keeps o s2 := by
        refine .foldl hs1 ?_
        intro _ _ k_1
        split
        · exact .ite k_1 (.unloadBolt k_1)
        · exact k_1
      have hs3 : Keeps o s3 := .setOwnerKey (hs2.frame rfl)
      exact .finishEntry hs3

protected theorem Keeps.unlock {level : Nat} (h : Keeps o s) : Keeps o (unlock s level) := by
  unfold unlock
  extract_lets s1 _ s2 _ _ _ s3
  have hs1 : Keeps o s1 := .removeTenants (.endEverything h)
  have hs2 : Keeps o s2 := .modPanels (.dropSramPages hs1)
  have hs3 : Keeps o s3 := hs2.frame rfl
  exact .bbRecord (.raiseEvent hs3)

protected theorem Answers.execDebugUnlock {id : Nat} (h : Keeps o s) : Answers o (execDebugUnlock id s) := by
  unfold execDebugUnlock
  refine .next ?_
  refine .command h ?_
  intro _ _ k
  split
  · exact .signedRefused k
  · exact .finishEntry (.unlock (.newNonce k))

protected theorem Keeps.installKey {kind bolt tenant : Nat} {e : KeyEntry} (h : Keeps o s) : Keeps o (installKey s kind bolt tenant e) :=
  .ite (.modTenant h) (h.frame rfl)

protected theorem Answers.execKeyInstall {id : Nat} (h : Keeps o s) : Answers o (execKeyInstall id s) := by
  unfold execKeyInstall
  refine .next ?_
  refine .command h ?_
  intro _ _ k
  split
  · split
    · exact .finishEntry k
    · split
      · exact .finishEntry k
      · extract_lets
        split
        · exact .finishEntry (.installKey k)
        · exact .finishEntry (.raiseEvent (.bumpFor k))
  · exact .finishEntry k

protected theorem Answers.execGrant {id : Nat} (h : Keeps o s) : Answers o (execGrant id s) := by
  unfold execGrant
  refine .next ?_
  refine .command h ?_
  intro _ _ k
  split
  · exact k
  · split
    · exact .signedRefused k
    · extract_lets _ s1
      have hs1 : Keeps o s1 := .newNonce k
      exact .finishEntry (hs1.frame rfl)

protected theorem Answers.execRevoke {id : Nat} (h : Keeps o s) : Answers o (execRevoke id s) := by
  unfold execRevoke
  refine .next ?_
  refine .command h ?_
  intro _ _ k
  split
  · exact k
  · split
    · exact .signedRefused k
    · extract_lets _ s1 _ s2
      have hs1 : Keeps o s1 := .newNonce k
      have hs2 : Keeps o s2 := hs1.frame rfl
      exact .pumpLoads (.finishEntry (.foldl hs2 fun _ _ k_1 => .closeSession k_1))

protected theorem Keeps.loadPlan {t : Plan} (h : Keeps o s) : Keeps o (loadPlan s t) := by
  unfold loadPlan
  extract_lets _ s1 _ s2
  have hs1 : Keeps o s1 := .markDirty (h.frame rfl)
  have hs2 : Keeps o s2 := .ite (.setRole hs1) hs1
  exact .ite hs1 (.ite (.manage hs2) hs2)

protected theorem Answers.execPlanLoad {id : Nat} {plan : Plan} (h : Keeps o s) : Answers o (execPlanLoad id plan s) := by
  unfold execPlanLoad
  refine .next ?_
  refine .command h ?_
  intro _ _ k
  extract_lets
  split
  · exact .finishEntry (.raiseEvent k)
  · exact .ite (.finishEntry k) (.ite (.finishEntry k) (.finishEntry (.loadPlan k)))

protected theorem Answers.execKekReady (h : Keeps o s) : Answers o (execKekReady s) := .next (.ite h (h.frame rfl))

protected theorem Answers.execPowerCoarseWindow {meanW : Nat} {meanDiode : Int} (h : Keeps o s) :
    Answers o (execPowerCoarseWindow meanW meanDiode s) :=
  .next (.drawFree (h.frame rfl))

/-! ### Pages -/

protected theorem Keeps.blkRefuse {w : Window} {p : PageId} (h : Keeps o s) : Keeps o (blkRefuse s w p) := .setEvt (.bbRecord (.capture h))

protected theorem Keeps.blkCommand {w : Window} {p : PageId} {cmd : Nat} {expectGen : BitVec 32} {ok : Hdr → Bool} {act : State → State}
    (h : Keeps o s) (hact : ∀ s, Keeps o s → Keeps o (act s)) :
    Keeps o (blkCommand s w p cmd expectGen ok act) :=
  .gated h fun _ k => .ite (hact _ k) (.blkRefuse k)

protected theorem Answers.execBlkCtrlDrain {w : Window} {page : PageId} {expectGen : BitVec 32} (h : Keeps o s) :
    Answers o (execBlkCtrlDrain w page expectGen s) :=
  .next (.blkCommand h fun _ k => .setBlk k)

protected theorem Answers.execDrainDone {page : PageId} (h : Keeps o s) : Answers o (execDrainDone page s) := .next (.ite (.setBlk h) h)

protected theorem Answers.execResume {w : Window} {page : PageId} {expectGen : BitVec 32} (h : Keeps o s) :
    Answers o (execResume w page expectGen s) := by
  unfold execResume
  refine .next ?_
  refine .blkCommand h ?_
  intro _ k
  extract_lets s1
  have hs1 : Keeps o s1 := .setBlk k
  split
  · exact .resendMsgs hs1
  · exact hs1

protected theorem Keeps.powerOff {p : PageId} (h : Keeps o s) : Keeps o (powerOff s p) := by
  unfold powerOff
  split
  · exact .modPanel h
  · exact .foldl h fun _ _ k => .modLane k
  · exact h

protected theorem Answers.execOffline {w : Window} {page : PageId} {expectGen : BitVec 32} (h : Keeps o s) :
    Answers o (execOffline w page expectGen s) :=
  .next (.blkCommand h fun _ k => .powerOff (.setBlk k))

protected theorem Answers.execOnline {w : Window} {page : PageId} {expectGen : BitVec 32} (h : Keeps o s) :
    Answers o (execOnline w page expectGen s) :=
  .next (.blkCommand h fun _ k => .setBlk k)

protected theorem Keeps.startPages {ps : List PageId} (h : Keeps o s) : Keeps o (startPages s ps) :=
  .foldl (h.frame rfl) fun _ _ k => .modHdr k

protected theorem Keeps.checkRecord {x : Nat × Nat} {sig : Word} {result : Nat} (h : Keeps o s) : Keeps o (checkRecord s x sig result) :=
  .bbRecord (.testedContents h)

protected theorem Keeps.checksPass {ts : List (Nat × Nat)} (h : Keeps o s) : Keeps o (checksPass s ts) :=
  .foldl h fun _ _ k => .checkRecord k

protected theorem Keeps.startTileCals {i : Nat} (h : Keeps o s) : Keeps o (startTileCals s i) := .foldl h fun _ _ k => .modCal k

protected theorem Keeps.blockStarts {page : PageId} (h : Keeps o s) : Keeps o (blockStarts s page) := by
  unfold blockStarts
  extract_lets s1 _ s2
  have hs1 : Keeps o s1 := .startPages (.checksPass h)
  have hs2 : Keeps o s2 := by
    unfold s2
    split
    · exact .startTileCals (.modPanel hs1)
    · exact .ite hs1 (.portJoined (.foldl hs1 fun _ _ k => .modLane k))
    · exact hs1
  exact .setBlk hs2

protected theorem Keeps.blockFails {page : PageId} (h : Keeps o s) : Keeps o (blockFails s page) := by
  unfold blockFails
  extract_lets _ _ s1
  have hs1 : Keeps o s1 := .drawFree (.drawFree (.checksPass h))
  split
  · exact .targetFailed (.checkRecord hs1)
  · exact .setBlk hs1

protected theorem Answers.execOnlineCheckDone {page : PageId} {passed : Bool} (h : Keeps o s) :
    Answers o (execOnlineCheckDone page passed s) :=
  .next (.ite h (.ite (.blockStarts h) (.blockFails h)))

protected theorem Keeps.clearEvts {p : PageId} {m : Word} (h : Keeps o s) : Keeps o (clearEvts s p m) := .modHdr h

protected theorem Answers.execEvtStatusClear {w : Window} {page : PageId} {value raisedNow : Word} (h : Keeps o s) :
    Answers o (execEvtStatusClear w page value raisedNow s) :=
  .next (.setEvts (.gated h fun _ k => .clearEvts k))

protected theorem Answers.execEvtForce {w : Window} {page : PageId} {value : Word} (h : Keeps o s) :
    Answers o (execEvtForce w page value s) :=
  .next (.gated h fun _ k => .setEvts k)

protected theorem Keeps.readActs {w : Window} {p : PageId} {off : Nat} {act : State → State} (h : Keeps o s)
    (hact : ∀ s, Keeps o s → Keeps o (act s)) :
    Keeps o (readActs s w p off act) :=
  .ite (h.frame rfl) (hact _ (h.frame rfl))

protected theorem Answers.execEvtSum0Read {w : Window} {port : Nat} (h : Keeps o s) : Answers o (execEvtSum0Read w port s) :=
  .next (.readActs h fun _ k => .ite (.modPort k) k)

protected theorem Answers.execTenantEvtRead {w : Window} {port vf : Nat} (h : Keeps o s) : Answers o (execTenantEvtRead w port vf s) :=
  .next (.readActs h fun _ k => .modVf k)

protected theorem Answers.execErrCaptureRead {w : Window} {page : PageId} (h : Keeps o s) : Answers o (execErrCaptureRead w page s) :=
  .next (.readActs h fun _ k => .modHdr k)

protected theorem Answers.execNwLastStepRead {w : Window} {p : Nat} (h : Keeps o s) : Answers o (execNwLastStepRead w p s) :=
  .next (.readActs h fun _ k => .modPanel k)

protected theorem Answers.execSeqFaultStepRead {w : Window} {p : Nat} (h : Keeps o s) : Answers o (execSeqFaultStepRead w p s) :=
  .next (.readActs h fun _ k => .modPanel k)

protected theorem Answers.execSigStatusRead {w : Window} (h : Keeps o s) : Answers o (execSigStatusRead w s) :=
  .next (.readActs h fun _ k => k.frame rfl)

protected theorem Answers.execEyeRead {w : Window} (h : Keeps o s) : Answers o (execEyeRead w s) :=
  .next (.readActs h fun _ k => .modLane k)

protected theorem Keeps.cntClear {w : Window} {p : PageId} {clear : Nat} (h : Keeps o s) : Keeps o (cntClear s w p clear) :=
  .gated h fun _ k => .countClear (.foldl k fun _ _ k_1 => .clearRun k_1)

protected theorem Answers.execClearTile {w : Window} {p : Nat} (h : Keeps o s) : Answers o (execClearTile w p s) :=
  .next (.gated h fun _ k => .countClear (.clearRun k))

protected theorem Answers.execClearAll {w : Window} {p : Nat} (h : Keeps o s) : Answers o (execClearAll w p s) :=
  .next (.gated h fun _ k => .countClear (.clearRun k))

protected theorem Answers.execFmtCntClear {w : Window} {p : Nat} (h : Keeps o s) : Answers o (execFmtCntClear w p s) := .next (.cntClear h)

protected theorem Answers.execCalCntClear {w : Window} (h : Keeps o s) : Answers o (execCalCntClear w s) := .next (.cntClear h)

protected theorem Answers.execKvCntClear {w : Window} (h : Keeps o s) : Answers o (execKvCntClear w s) := .next (.cntClear h)

protected theorem Answers.execAttCntClear {w : Window} {p : Nat} (h : Keeps o s) : Answers o (execAttCntClear w p s) := .next (.cntClear h)

protected theorem Answers.execSmpCntClear {w : Window} {p : Nat} (h : Keeps o s) : Answers o (execSmpCntClear w p s) := .next (.cntClear h)

protected theorem Answers.execWtCntClear {w : Window} (h : Keeps o s) : Answers o (execWtCntClear w s) := .next (.cntClear h)

protected theorem Answers.execSeqCntClear {w : Window} {p : Nat} (h : Keeps o s) : Answers o (execSeqCntClear w p s) := .next (.cntClear h)

protected theorem Answers.execNetCntClear {w : Window} {page : PageId} (h : Keeps o s) : Answers o (execNetCntClear w page s) := by
  unfold execNetCntClear
  refine .next ?_
  split
  · exact .cntClear h
  · exact h

protected theorem Answers.execFabCntClear {w : Window} (h : Keeps o s) : Answers o (execFabCntClear w s) := .next (.cntClear h)

protected theorem Answers.execKwCntClear {w : Window} {port : Nat} (h : Keeps o s) : Answers o (execKwCntClear w port s) :=
  .next (.cntClear h)

protected theorem Answers.execRasCntClear {w : Window} (h : Keeps o s) : Answers o (execRasCntClear w s) := .next (.cntClear h)

protected theorem Answers.execSecCntClear {w : Window} (h : Keeps o s) : Answers o (execSecCntClear w s) := .next (.cntClear h)

protected theorem Answers.execHostCntClear {w : Window} {port : Nat} (h : Keeps o s) : Answers o (execHostCntClear w port s) :=
  .next (.cntClear h)

protected theorem Answers.execHkCntClear {w : Window} (h : Keeps o s) : Answers o (execHkCntClear w s) := .next (.cntClear h)

protected theorem Answers.execJobelRestartsClear {w : Window} (h : Keeps o s) : Answers o (execJobelRestartsClear w s) :=
  .next (.cntClear h)

protected theorem Keeps.writeNwCtrl {w : Window} {p off raw : Nat} {v : Word} (h : Keeps o s) : Keeps o (writeNwCtrl s w p off raw v) :=
  .gated h fun _ k => .ite (.capture k) (.ite (.modPanel (.markDirty (.setReg k))) (.markDirty (.setReg k)))

protected theorem Answers.execResetEst {w : Window} {p : Nat} {value : Word} (h : Keeps o s) : Answers o (execResetEst w p value s) :=
  .next (.writeNwCtrl h)

/-! ### Power -/

protected theorem Keeps.commitNow (h : Keeps o s) : Keeps o (commitNow s) := .ite h (h.frame rfl)

protected theorem Answers.execRetainedCommit (h : Keeps o s) : Answers o (execRetainedCommit s) := .next (.ite (.commitNow h) h)

protected theorem Keeps.settleRepairs (h : Keeps o s) : Keeps o (settleRepairs s) := .foldl h fun _ _ k => .swapUnit k

protected theorem Keeps.computeLost (h : Keeps o s) : Keeps o (computeLost s) := by
  unfold computeLost
  extract_lets s_1
  have hs_1 : Keeps o s_1 := .settleRepairs h
  exact hs_1.frame rfl

protected theorem Keeps.dropHost (h : Keeps o s) : Keeps o (dropHost s) := h.frame rfl

protected theorem Keeps.freeRings (h : Keeps o s) : Keeps o (freeRings s) := .foldl h fun _ _ k => .settleRing (.modRing k)

protected theorem Keeps.enterLimp {cause : Nat} {post : Bool} (h : Keeps o s) : Keeps o (enterLimp s cause post) := by
  unfold enterLimp
  split
  · exact .computeLost h
  · extract_lets s1
    have hs1 : Keeps o s1 := by
      unfold s1
      split
      · exact .computeLost h
      · exact .ite (.freeRings (.computeLost (.endEverything h))) (.computeLost (.dropHost h))
    exact .raiseEvent (hs1.frame rfl)

protected theorem Keeps.powerSig {code : Nat} (h : Keeps o s) : Keeps o (powerSig s code) := .writeSig h

protected theorem Keeps.noteStop (h : Keeps o s) : Keeps o (noteStop s) := h.frame rfl

protected theorem Keeps.downState (h : Keeps o s) : Keeps o (downState s) := h.frame rfl

protected theorem Keeps.railTripped {id : Nat} (h : Keeps o s) : Keeps o (railTripped s id) :=
  .enterLimp (.startFlush (.raiseEvent (.powerSig h)))

protected theorem Keeps.thermalTripped (h : Keeps o s) : Keeps o (thermalTripped s) :=
  .downState (.enterLimp (.startFlush (.noteStop (.powerSig (.raiseEvent (.bumpFor h))))))

protected theorem Keeps.protect {cause id : Nat} (h : Keeps o s) : Keeps o (protect s cause id) := by
  unfold protect
  split
  · extract_lets s1 s2
    have hs1 : Keeps o s1 := .ite (.dropHost h) h
    have hs2 : Keeps o s2 := .startFlush (.computeLost hs1)
    exact hs2.frame rfl
  · exact .ite (.thermalTripped h) (.railTripped h)

protected theorem Answers.execRailTrip {rail : Nat} (h : Keeps o s) : Answers o (execRailTrip rail s) := .next (.ite (.protect h) h)

protected theorem Answers.execInputOvervoltage {mv : Nat} (h : Keeps o s) : Answers o (execInputOvervoltage mv s) :=
  .next (.ite h (.protect (h.frame rfl)))

protected theorem Answers.execHardOvercurrent {ma : Nat} (h : Keeps o s) : Answers o (execHardOvercurrent ma s) :=
  .next (.ite h (.protect (h.frame rfl)))

protected theorem Answers.execThermalTrip (h : Keeps o s) : Answers o (execThermalTrip s) := .next (.ite h (.protect (h.frame rfl)))

/-- An orderly stop puts the thermal limit at its lowest value, 8 A. -/
protected theorem Keeps.orderlyStop {rate : Nat} (h : Keeps o s) : Keeps o (orderlyStop s rate) :=
  .raiseEvent (.bumpFor (h.within rfl (.inr fun _ => show 8 ≤ 8 ∧ 8 ≤ 27 by decide) le_rfl (.inl le_rfl)))

protected theorem Answers.execStopSealTimeout (h : Keeps o s) : Answers o (execStopSealTimeout s) := by
  unfold execStopSealTimeout
  refine .next ?_
  split
  · exact h
  · exact .ite h (.downState (.enterLimp (.startFlush (.noteStop (.powerSig (.endEverything h))))))

/-- A restart puts the thermal limit at its start value, 27 A. -/
protected theorem Keeps.beginRestart (h : Keeps o s) : Keeps o (beginRestart s) :=
  h.within rfl (.inr fun _ => show 8 ≤ 27 ∧ 27 ≤ 27 by decide) le_rfl (.inl le_rfl)

protected theorem Answers.execAutoRestart (h : Keeps o s) : Answers o (execAutoRestart s) := .next (.ite (.beginRestart h) h)

protected theorem Answers.execRestart {w : Window} (h : Keeps o s) : Answers o (execRestart w s) :=
  .next (.gated h fun _ k => .ite (.beginRestart k) (.capture k))

protected theorem Answers.execInputRise {mv : Nat} (h : Keeps o s) : Answers o (execInputRise mv s) := by
  unfold execInputRise
  refine .next ?_
  split
  · exact h
  · extract_lets _ s1
    have hs1 : Keeps o s1 := h.frame rfl
    exact .ite hs1 (hs1.frame rfl)

protected theorem Answers.execHotswapClose (h : Keeps o s) : Answers o (execHotswapClose s) := by
  unfold execHotswapClose
  refine .next ?_
  split
  · exact h
  · exact .ite (h.frame rfl) h

protected theorem Answers.execHotswapReclose {mv : Nat} (h : Keeps o s) : Answers o (execHotswapReclose mv s) := by
  unfold execHotswapReclose
  refine .next ?_
  split
  · exact h
  · split
    · exact h.frame rfl
    · split
      · exact h.frame rfl
      · exact .ite (h.frame rfl) (h.frame rfl)

protected theorem Answers.execInputFall {mv : Nat} (h : Keeps o s) : Answers o (execInputFall mv s) := by
  unfold execInputFall
  refine .next ?_
  split
  · exact h
  · extract_lets s1 s2
    have hs1 : Keeps o s1 := .ite (.commitNow h) h
    have hs2 : Keeps o s2 := .computeLost (.dropHost (.startFlush hs1))
    exact hs2.frame rfl

/-- A loss of power leaves an empty ring and the limit at its start value. -/
protected theorem Answers.execPowerLoss (h : Keeps o s) : Answers o (execPowerLoss s) := by
  refine .next ?_
  split
  · exact h
  · exact h.within rfl (.inr fun _ => show 8 ≤ 27 ∧ 27 ≤ 27 by decide) (Nat.zero_le _) (.inl le_rfl)

protected theorem Keeps.openClamp {rail code : Nat} (h : Keeps o s) : Keeps o (openClamp s rail code) :=
  .ite h (.raiseEvent (.bumpFor (.bbRecord (h.frame rfl))))

protected theorem Keeps.openOverride {value : Nat} (h : Keeps o s) : Keeps o (openOverride s value) :=
  .ite h (.raiseEvent (.bumpFor (.bbRecord (h.frame rfl))))

protected theorem Keeps.intoBounds (h : Keeps o s) : Keeps o (intoBounds s) := h.frame rfl

protected theorem Keeps.overMove (h : Keeps o s) : Keeps o (overMove s) := by
  unfold overMove
  extract_lets _ _ _ s1
  have hs1 : Keeps o s1 := .ite (.openClamp h) (.ite (.openClamp h) h)
  split
  · exact hs1.frame rfl
  · split
    · exact hs1.frame rfl
    · split
      · exact hs1.frame rfl
      · exact .ite hs1 (.ite (.openOverride (hs1.frame rfl)) (.openOverride (hs1.frame rfl)))

protected theorem Keeps.backMove (h : Keeps o s) : Keeps o (backMove s) :=
  .ite (h.frame rfl) (.ite (h.frame rfl) (.ite (h.frame rfl) (.ite (h.frame rfl) (h.frame rfl))))

protected theorem Keeps.underLimit {ma limit : Nat} {moved : Bool} (h : Keeps o s) : Keeps o (underLimit s ma limit moved) :=
  .ite (.backMove (h.frame rfl)) (h.frame rfl)

protected theorem Answers.execGovernorInterval {ma : Nat} (h : Keeps o s) : Answers o (execGovernorInterval ma s) := by
  unfold execGovernorInterval
  refine .next ?_
  split
  · exact h
  · extract_lets _ s1 _ _ s2 _ s3
    have hs1 : Keeps o s1 := .intoBounds (h.frame rfl)
    have hs2 : Keeps o s2 := .ite (.openOverride hs1) hs1
    have hs3 : Keeps o s3 := hs2.frame rfl
    exact .ite (.ite hs3 (.overMove hs3)) (.underLimit hs2)

protected theorem Keeps.noteReading {ch : Nat} {hkB fast : Bool} {value : Int} (h : Keeps o s) :
    Keeps o (noteReading s ch hkB fast value) :=
  h.frame rfl

protected theorem Keeps.compSense {value : Int} (h : Keeps o s) : Keeps o (compSense s value) := h.frame rfl

protected theorem Keeps.fastMode {value : Int} (h : Keeps o s) : Keeps o (fastMode s value) := .ite (h.frame rfl) (h.frame rfl)

protected theorem Keeps.riseActions {value : Int} (h : Keeps o s) : Keeps o (riseActions s value) := by
  unfold riseActions
  extract_lets _ _ _ _ _ _ s1 _ s2 s3
  have hs1 : Keeps o s1 := h.frame rfl
  have hs2 : Keeps o s2 := hs1.frame rfl
  have hs3 : Keeps o s3 := .ite (.raiseEvent hs2) hs2
  exact .ite (.orderlyStop hs3) hs3

protected theorem Keeps.diodeA {value : Int} (h : Keeps o s) : Keeps o (diodeA s value) := by
  unfold diodeA
  extract_lets _ s1 s2 s3
  have hs1 : Keeps o s1 := h.frame rfl
  have hs2 : Keeps o s2 := .fastMode (.compSense hs1)
  have hs3 : Keeps o s3 := .ite (.calDiode hs2) hs2
  exact .ite hs3 (.riseActions hs3)

protected theorem Keeps.plausStart (h : Keeps o s) : Keeps o (plausStart s) :=
  .raiseEvent (.powerSig (.raiseEvent (.bumpFor (h.frame rfl))))

protected theorem Keeps.diodeB {value : Int} (h : Keeps o s) : Keeps o (diodeB s value) := by
  unfold diodeB
  extract_lets s1
  have hs1 : Keeps o s1 := .compSense h
  split
  · exact hs1
  · exact .ite (.ite (.plausStart hs1) hs1) (.ite (hs1.frame rfl) (hs1.frame rfl))

protected theorem Answers.execHkConversion {hkB : Bool} {value : Int} (h : Keeps o s) : Answers o (execHkConversion hkB value s) := by
  unfold execHkConversion
  refine .next ?_
  split
  · exact h
  · extract_lets _ _ _ _ s1 _ _ s1_1
    have hs1 : Keeps o s1 := .noteReading (h.frame rfl)
    have hs1_1 : Keeps o s1_1 := .noteReading (h.frame rfl)
    exact .ite (.ite (.diodeB hs1) hs1) (.ite (.diodeA hs1_1) hs1_1)

protected theorem Answers.execHkInjected {trigger : Nat} {values : List Int} (h : Keeps o s) :
    Answers o (execHkInjected trigger values s) := by
  unfold execHkInjected
  refine .next ?_
  split
  · exact h
  · split
    · exact h.frame rfl
    · exact .foldl (h.frame rfl) fun _ _ k => .ite (.diodeB (.noteReading k)) (.noteReading k)

/-- R467: a thermal step takes 1 A off, down to 8 A. -/
protected theorem Answers.execThrottle (h : Keeps o s) : Answers o (execThrottle s) := by
  have lowered : ThermalLimitOk s → 8 ≤ max 8 (s.power.thermalLimit - 1) ∧ max 8 (s.power.thermalLimit - 1) ≤ 27 := by
    rintro ⟨-, k27⟩; omega
  exact .next (.ite h (.openOverride (.raiseEvent (.bumpFor (h.within rfl (.inr lowered) le_rfl (.inl le_rfl))))))

/-- R468: a recovery gives 1 A back, up to 27 A. -/
protected theorem Answers.execThermalRecover (h : Keeps o s) : Answers o (execThermalRecover s) := by
  refine .next ?_
  split
  · exact h
  split
  · exact h
  · next hr =>
    simp only [Bool.or_eq_true, decide_eq_true_eq, not_or, Nat.not_le] at hr
    obtain ⟨⟨-, hlt⟩, -⟩ := hr
    have raised : ThermalLimitOk s → 8 ≤ s.power.thermalLimit + 1 ∧ s.power.thermalLimit + 1 ≤ 27 := by
      rintro ⟨k8, -⟩; omega
    exact h.within rfl (.inr raised) le_rfl (.inl le_rfl)

/-! ### The end of programming -/

protected theorem Keeps.dueRuns {a : ArrId} (h : Keeps o s) : Keeps o (dueRuns s a) := by
  unfold dueRuns
  split
  · exact .modCal h
  · exact h

protected theorem Keeps.refreshDone {a : ArrId} {r : ProgReq} (h : Keeps o s) : Keeps o (refreshDone s a r) := by
  unfold refreshDone
  split
  · exact h
  · exact .bump (.raiseEvent (.modCal (.ite h (.queueZero (.placeArr h)))))

protected theorem Keeps.recheckDone {a : ArrId} {r : ProgReq} (h : Keeps o s) : Keeps o (recheckDone s a r) := by
  unfold recheckDone
  extract_lets s1 s2
  have hs1 : Keeps o s1 := .modBolt h
  have hs2 : Keeps o s2 := by
    unfold s2
    split
    · exact .raiseEvent (.modCal hs1)
    · exact hs1
  exact .bump hs2

protected theorem Keeps.acceptedFor {a : ArrId} {r : ProgReq} (h : Keeps o s) : Keeps o (acceptedFor s a r) := by
  unfold acceptedFor
  split
  · exact .pumpLoads (.arrayDone h)
  · exact .refreshDone h
  · exact .recheckDone h
  · exact .bump h
  · exact .modBolt h
  · exact h
  · exact h
  · exact h

protected theorem Keeps.acceptFigures {a : ArrId} (h : Keeps o s) : Keeps o (acceptFigures s a) := .modCalAt (.setQuality h)

protected theorem Keeps.acceptArr {a : ArrId} {r : ProgReq} {gauges : List GaugeSum} (h : Keeps o s) :
    Keeps o (acceptArr s a r gauges) := by
  unfold acceptArr
  extract_lets _ s1 s2
  have hs1 : Keeps o s1 := .modArr h
  have hs2 : Keeps o s2 := .acceptedFor (.dueRuns (.acceptFigures hs1))
  refine .pumpLoads ?_
  split
  · exact .calResidual hs2
  · exact hs2

protected theorem Keeps.repairFailed {a : ArrId} {r : ProgReq} (h : Keeps o s) : Keeps o (repairFailed s a r) := by
  unfold repairFailed
  split
  · exact h
  extract_lets s1 _ gusset
  have h1 : Keeps o s1 := .retireSpare h
  clear_value s1 gusset
  have placed {x : Arrays} : Keeps o { s1 with arrays := x } := h1.frame rfl
  split
  · exact h1
  extract_lets without
  have hw : Keeps o without := h1.frame rfl
  clear_value without
  split
  · exact .unitFault hw
  · exact .requestProg placed
  · exact .requestProg placed
  · exact .repairPanel hw
  · exact .failPosition h1

protected theorem Keeps.refreshFailed {a : ArrId} {r : ProgReq} (h : Keeps o s) : Keeps o (refreshFailed s a r) := by
  unfold refreshFailed
  split
  · exact h
  · exact .ite (.queueZero (.retireArr h)) (.unitFault (.retireSpare h))

protected theorem Keeps.failedFor {a : ArrId} {r : ProgReq} (h : Keeps o s) : Keeps o (failedFor s a r) := by
  unfold failedFor
  split
  · split
    · exact .unitFault h
    · exact h
  · exact .refreshFailed h
  · exact .retireSpare h
  · exact .repairFailed h
  · exact .modBolt h
  · exact h
  · exact h
  · exact h

protected theorem Keeps.releaseWaiting {a : ArrId} (h : Keeps o s) : Keeps o (releaseWaiting s a) := by
  unfold releaseWaiting
  split
  · exact .ite h (.modHem h)
  · exact h

protected theorem Keeps.rejectArr {a : ArrId} {x : Arr} {r : ProgReq} (h : Keeps o s) : Keeps o (rejectArr s a x r) := by
  unfold rejectArr
  extract_lets _ s1 pos s2
  have hs1 : Keeps o s1 := .modArr h
  have hs2 : Keeps o s2 := by
    unfold s2
    clear_value pos
    split
    · exact .raiseEvent hs1
    · exact hs1
  exact .pumpLoads (.failedFor (.releaseWaiting (.writeSig hs2)))

protected theorem Answers.execProgComplete {a : ArrId} {gauges : List GaugeSum} (h : Keeps o s) :
    Answers o (execProgComplete a gauges s) := by
  refine .next ?_
  dsimp only
  split
  · exact h
  · exact .ite h (.ite (.rejectArr h) (.ite (.acceptArr h) h))

protected theorem Answers.execZeroisation {a : ArrId} {ok : Bool} (h : Keeps o s) : Answers o (execZeroisation a ok s) := by
  unfold execZeroisation
  refine .next ?_
  extract_lets _ s1 s1_1
  have hs1 : Keeps o s1 := .modArr h
  have hs1_1 : Keeps o s1_1 := .queueZero (.modArr h)
  split
  · exact h
  · split
    · exact h
    · split
      · exact .pumpLoads (.arrayDone (.bump hs1))
      · split
        · exact .raiseEvent hs1_1
        · exact hs1_1

/-! ### Containment -/

protected theorem Keeps.dropSwatch {w : Swatch} (h : Keeps o s) : Keeps o (dropSwatch s w) := by
  unfold dropSwatch
  extract_lets s1
  have hs1 : Keeps o s1 := .modStep h
  exact hs1.frame rfl

protected theorem Keeps.modSwatch {id : Nat} {f : Swatch → Swatch} (h : Keeps o s) : Keeps o (modSwatch s id f) := h.frame rfl

protected theorem Keeps.startReferee {w : Swatch} (h : Keeps o s) : Keeps o (startReferee s w) := by
  unfold startReferee
  extract_lets _ _ s1
  have hs1 : Keeps o s1 := .modBolt (.modSwatch h)
  split
  · exact .requestProg hs1
  · exact hs1

protected theorem Keeps.failSwatch {w : Swatch} {lanes : List Lane} {ew : Int} (h : Keeps o s) : Keeps o (failSwatch s w lanes ew) :=
  .startReferee (.modSwatch (.raiseEvent (.bumpFor h)))

protected theorem Answers.execSwatchCompare {id : Nat} (h : Keeps o s) : Answers o (execSwatchCompare id s) := by
  unfold execSwatchCompare
  refine .next ?_
  split
  · exact h
  · split
    · exact h
    · extract_lets _ _ s1
      have hs1 : Keeps o s1 := h.frame rfl
      split
      · exact .dropSwatch (.bumpFor h)
      · split
        · exact .dropSwatch hs1
        · exact .dropSwatch (.bumpFor hs1)
        · exact .failSwatch hs1

protected theorem Answers.execCheckerRotate {nw : Nat} (h : Keeps o s) : Answers o (execCheckerRotate nw s) := by
  unfold execCheckerRotate
  refine .next ?_
  split
  · exact h
  · exact .ite (.feedCheckers (.rotateCheckers h)) h

protected theorem Keeps.clearVerdict {w : Swatch} (h : Keeps o s) : Keeps o (clearVerdict s w) := .modBolt (h.frame rfl)

protected theorem Keeps.verdictSig {w : Swatch} {code action : Nat} {phys : ArrId} (h : Keeps o s) :
    Keeps o (verdictSig s w code action phys) := by
  unfold verdictSig; exact .writeSig h

protected theorem Keeps.applyVerdict {w : Swatch} {checkedBad checkerBad : Bool} (h : Keeps o s) :
    Keeps o (applyVerdict s w checkedBad checkerBad) := by
  unfold applyVerdict
  extract_lets _ s1 s2 s3 _ _ s4
  have hs1 : Keeps o s1 := .ite (.retireSpare h) h
  have hs2 : Keeps o s2 := .ite (.unitFault hs1) hs1
  have hs3 : Keeps o s3 := .ite hs2 (.bumpFor hs2)
  have hs4 : Keeps o s4 := .verdictSig hs3
  exact .ite (.modSwatch hs4) (.clearVerdict hs4)

protected theorem Keeps.wideVerdict {w : Swatch} {b : Bolt} (h : Keeps o s) : Keeps o (wideVerdict s w b) := .applyVerdict h

protected theorem Answers.execRefereeRun {id : Nat} (h : Keeps o s) : Answers o (execRefereeRun id s) := by
  unfold execRefereeRun
  refine .next ?_
  split
  · exact h
  · split
    · exact h
    · split
      · exact h
      · split
        · exact .wideVerdict h
        · extract_lets _ _ _ s1
          have hs1 : Keeps o s1 := h.frame rfl
          split
          · exact h
          · exact .ite (.startReferee h) (.ite (.applyVerdict hs1) (.ite (.applyVerdict hs1) (.wideVerdict hs1)))

protected theorem Keeps.retireUnit {u : RepairUnit} (h : Keeps o s) : Keeps o (retireUnit s u) := by
  unfold retireUnit
  extract_lets _ s1
  have hs1 : Keeps o s1 := .foldl h fun _ _ k => .queueZero (.modArr k)
  exact hs1.frame rfl

protected theorem Keeps.rebuildSram {nw : Nat} {b : Bolt} {p : Nat} (h : Keeps o s) : Keeps o (rebuildSram s nw b p) := by
  unfold rebuildSram
  split
  · exact .modPanel h
  · extract_lets _ _ _ s1
    have hs1 : Keeps o s1 := .dropSramPages h
    split
    · exact .modPanel h
    · exact .claimAll (.modBolt (.modPanel hs1))

protected theorem Keeps.groupReady {p : Nat} (h : Keeps o s) : Keeps o (groupReady s p) := .foldl h fun _ _ k => .ite (.setBlk k) k

protected theorem Keeps.repairedLoads {as : List ArrId} (h : Keeps o s) : Keeps o (repairedLoads s as) := .foldl h fun _ _ k => .arrayDone k

protected theorem Keeps.settleVerdicts (h : Keeps o s) : Keeps o (settleVerdicts s) := .foldl h fun _ _ k => .clearVerdict k

protected theorem Answers.execRepairComplete {u : RepairUnit} (h : Keeps o s) : Answers o (execRepairComplete u s) := by
  unfold execRepairComplete
  refine .next ?_
  split
  · exact h
  · split
    · exact h
    · extract_lets _ _ _ _ s1 _ s2 s3 _ s4 _ s5 s6
      have hs1 : Keeps o s1 := .retireUnit h
      have hs2 : Keeps o s2 := .swapUnit (hs1.frame rfl)
      have hs3 : Keeps o s3 := by
        unfold s3
        split
        · exact .groupReady (.ite (.tagRouters hs2) (.rebuildSram (.tagRouters hs2)))
        · exact .groupReady (.ite hs2 (.modPanel hs2))
        · exact hs2
      have hs4 : Keeps o s4 := .bumpFor (.raiseEvent hs3)
      have hs5 : Keeps o s5 := .writeSig hs4
      have hs6 : Keeps o s6 := .pumpLoads (.settleVerdicts (.repairedLoads hs5))
      exact .calEvaluate hs6

protected theorem Answers.execMgmtReadTimeout {page : PageId} (h : Keeps o s) : Answers o (execMgmtReadTimeout page s) := by
  unfold execMgmtReadTimeout
  refine .next ?_
  split
  · exact h
  · extract_lets _ _ _ s1
    have hs1 : Keeps o s1 := h.frame rfl
    split
    · exact h.frame rfl
    · split
      · exact .downPlane (.failUnit hs1)
      · exact .failUnit hs1

protected theorem Keeps.memRecord {cls : Nat} {logical : Option (Nat × Nat × Nat)} {id : Nat} (h : Keeps o s) :
    Keeps o (memRecord s cls logical id) :=
  .writeSig (.raiseEvent (.bumpFor h))

protected theorem Keeps.memStrike {loc : MemLoc} (h : Keeps o s) : Keeps o (memStrike s loc) := by
  unfold memStrike
  split
  · exact .ite h (.memRecord (.modPanel h))
  · exact .memRecord (h.frame rfl)
  · split
    · exact h
    · split
      · exact h
      · extract_lets s1 _ s2
        have hs1 : Keeps o s1 := .modBolt h
        have hs2 : Keeps o s2 := hs1.frame rfl
        exact .memRecord (.raiseEvent (.bumpFor hs2))
  · exact .memRecord (h.frame rfl)

protected theorem Answers.execMemUncorrectable {loc : MemLoc} (h : Keeps o s) : Answers o (execMemUncorrectable loc s) :=
  .next (.memStrike h)

protected theorem Answers.execDramScrub {corrected : Nat} {bad : List MemLoc} (h : Keeps o s) : Answers o (execDramScrub corrected bad s) :=
  .next (.foldl (.bumpTile h) fun _ _ k => .memStrike k)

protected theorem Answers.execPoisonRepaired {p addr : Nat} (h : Keeps o s) : Answers o (execPoisonRepaired p addr s) := by
  unfold execPoisonRepaired
  refine .next ?_
  extract_lets
  split
  · exact h
  · split
    · exact h
    · extract_lets _ s1
      have hs1 : Keeps o s1 := .modPanel h
      exact .ite h (.bbRecord (hs1.frame rfl))

/-! ### The tree of prefixes -/

protected theorem Keeps.ensureTables {session : Nat} {hs : List (Nat × Nat)} (h : Keeps o s)
    (e : ensureTables session hs s = some t) : Keeps o t := by
  unfold ensureTables at e
  generalize hu : some s = u at e
  have hu' : ∀ v, u = some v → Keeps o v := by rintro v rfl; cases hu; exact h
  clear hu h
  induction hs generalizing u with
  | nil => exact hu' t e
  | cons x l ih =>
    refine ih _ e fun v hv => ?_
    obtain ⟨w, hw, hv⟩ := Option.bind_eq_some_iff.1 hv
    obtain ⟨y, hy, hv⟩ := Option.bind_eq_some_iff.1 hv
    exact ((hu' w hw).ensureTable hy).ensureTable hv

protected theorem Keeps.mapNode {p : Pattern} {session range : Nat} {d : Node} (h : Keeps o s) (e : mapNode s p session range d = some t) :
    Keeps o t := by
  obtain ⟨u, hu, rfl⟩ := Option.map_eq_some_iff.1 e
  exact .foldl (h.ensureTables hu) fun _ _ k => .setPte k

protected theorem Keeps.walkTree {p : Pattern} {session tpp fuel n i : Nat} {prompt : List (BitVec 32)} (h : Keeps o s) :
    Keeps o (walkTree p session tpp prompt fuel s n i).1 := by
  induction fuel generalizing s n i with
  | zero => exact h
  | succ fuel ih =>
    unfold walkTree
    extract_lets
    split
    · exact h
    split
    · exact h
    split
    · dsimp only
      exact .kvExhausted h
    · next k => exact ih (.modSession (.bumpFor (.incNode (h.mapNode k))))

protected theorem Keeps.sharePrompt {session : Nat} {j : Job} {g : GenJob} {n : Nat} (h : Keeps o s) :
    Keeps o (sharePrompt s session j g n) := by
  unfold sharePrompt
  extract_lets _ s1 s2 s3
  have hs1 : Keeps o s1 := by
    refine .foldl h ?_
    intro _ _ k
    split
    · next k_1 => exact k.ensureLog k_1
    · exact .kvExhausted k
  have hs2 : Keeps o s2 := .modSession hs1
  have hs3 : Keeps o s3 := .ite (.foldl hs2 fun _ _ k => .enterCount k) hs2
  exact .modJob hs3

protected theorem Answers.execTreeLookup {session : Nat} (h : Keeps o s) : Answers o (execTreeLookup session s) := by
  unfold execTreeLookup
  refine .next ?_
  extract_lets
  split
  · split
    · exact .ite h (.ite h (.ite h (.sharePrompt (.walkTree h))))
    · exact h
  · exact h

protected theorem Keeps.noFrame (h : Keeps o s) : Keeps o (noFrame s) := .raiseEvent h

protected theorem Keeps.addNode {d : Node} {n : Nat} (h : Keeps o s) (e : addNode s d = some (t, n)) : Keeps o t := by
  unfold addNode at e
  extract_lets m at e
  split at e
  · cases e
  next k =>
    extract_lets _ s2 at e
    have h2 : Keeps o s2 := .modNode ((h.ensureTable k).frame rfl)
    obtain ⟨rfl, -⟩ := Prod.mk.inj (Option.some.inj e)
    split
    · exact h2
    · exact .modNode h2

protected theorem Keeps.ensureRoot {x : Session} {tpp n : Nat} (h : Keeps o s) (e : ensureRoot s x tpp = some (t, n)) : Keeps o t := by
  unfold ensureRoot at e
  split at e
  · cases e; exact h
  · exact h.addNode e

protected theorem Keeps.pageToDram {k n : Nat} (h : Keeps o s) (e : pageToDram s k = some (t, n)) : Keeps o t := by
  unfold pageToDram at e
  extract_lets p at e
  split at e
  · cases e; exact h
  split at e
  · cases e
  · next k => cases e; exact .setPte (.freeFrame (.modPage ((h.takePool k).frame rfl)))

protected theorem Keeps.pagesToDram {ks fs : List Nat} (h : Keeps o s) (e : pagesToDram s ks = some (t, fs)) : Keeps o t := by
  induction ks generalizing s fs with
  | nil => cases e; exact h
  | cons k ks ih =>
    unfold pagesToDram at e
    split at e
    · cases e
    · next k =>
      obtain ⟨r, hr, e⟩ := Option.map_eq_some_iff.1 e
      cases e
      exact ih (h.pageToDram k) hr

protected theorem Keeps.insertRange {session range parent tpp : Nat} {keys : List Nat} {ts : List (BitVec 32)} (h : Keeps o s) :
    Keeps o (insertRange s session range parent tpp keys ts) := by
  unfold insertRange
  extract_lets
  split
  · exact .noFrame h
  · next k =>
    extract_lets
    split
    · exact .noFrame (h.pagesToDram k)
    · next k_1 =>
      extract_lets s3 s4
      have hs3 : Keeps o s3 := .foldl (.addNode (h.pagesToDram k) k_1) fun _ _ k_2 => .touchFrame (.modHeader k_2)
      have hs4 : Keeps o s4 := .foldl hs3 fun _ _ k_2 => .setPte k_2
      exact .modSession hs4

protected theorem Keeps.switchRange {t : Pattern} {session range n : Nat} {keys : List Nat} (h : Keeps o s) :
    Keeps o (switchRange s t session range n keys) := by
  unfold switchRange
  extract_lets s1
  have hs1 : Keeps o s1 := .foldl h fun _ _ k => .ite (.freeFrame (.invalidate k)) k
  split
  · exact .noFrame hs1
  · next k => exact .modSession (.incNode (hs1.mapNode k))

protected theorem Answers.execTreePublish {session range : Nat} (h : Keeps o s) : Answers o (execTreePublish session range s) := by
  unfold execTreePublish
  refine .next ?_
  extract_lets
  split
  · exact h
  · split
    · exact h
    · extract_lets
      split
      · exact h
      · split
        · exact .noFrame h
        · next k =>
          extract_lets
          split
          · exact h.ensureRoot k
          · split
            · exact .ite (.switchRange (h.ensureRoot k)) (h.ensureRoot k)
            · exact .insertRange (h.ensureRoot k)

protected theorem Answers.execTreeDrop {node : Nat} (h : Keeps o s) : Answers o (execTreeDrop node s) := .next (.ite h (.dropNodes h))

protected theorem Answers.execTreeRebuild {w : Window} (h : Keeps o s) : Answers o (execTreeRebuild w s) :=
  .next (.gated h fun _ k => .ite k (.raiseEvent (k.frame rfl)))

protected theorem Answers.execBucketLoad {w : Window} (h : Keeps o s) : Answers o (execBucketLoad w s) :=
  .next (.gated h fun _ k => .ite (.markDirty (k.frame rfl)) (.capture k))

/-! ### Starts -/

protected theorem Keeps.jobelStarts (h : Keeps o s) : Keeps o (jobelStarts s) := .drawFree (h.frame rfl)

protected theorem Keeps.runFirmware {m : FwImage} (h : Keeps o s) : Keeps o (runFirmware s m) := h.frame rfl

protected theorem Keeps.startAdvance (h : Keeps o s) : Keeps o (startAdvance s) := .ite (h.frame rfl) h

protected theorem Answers.execPowerGood (h : Keeps o s) : Answers o (execPowerGood s) := .next (.ite (.startAdvance (h.frame rfl)) h)

protected theorem Keeps.islandFails {i : Island} (h : Keeps o s) : Keeps o (islandFails s i) := .raiseEvent (.setBlk (h.frame rfl))

protected theorem Keeps.restoreArrays (h : Keeps o s) : Keeps o (restoreArrays s) := .foldl (h.frame rfl) fun _ _ k => .queueZero k

protected theorem Keeps.testSpare {h' : Nat} {ok : Bool} (h : Keeps o s) : Keeps o (testSpare s h' ok) := .ite h (.writeSig (.modSec h))

protected theorem Keeps.restoreBolt {r : BoltRecord} (h : Keeps o s) : Keeps o (restoreBolt s r) := .tagRouters (.ownPanels (.setBolt h))

protected theorem Keeps.steerSeam (h : Keeps o s) : Keeps o (steerSeam s) := h.frame rfl

protected theorem Keeps.startCal {diode : Int} (h : Keeps o s) : Keeps o (startCal s diode) := .foldl (h.frame rfl) fun _ _ k => .modCal k

protected theorem Keeps.startFabric (h : Keeps o s) : Keeps o (startFabric s) := .ite h (h.frame rfl)

protected theorem Keeps.startReady {f : StartFindings} (h : Keeps o s) : Keeps o (startReady s f) := by
  unfold startReady
  extract_lets s1 s2 s3 s4 s5
  have hs1 : Keeps o s1 := .restoreArrays (.steerSeam h)
  have hs2 : Keeps o s2 := .testSpare (.testSpare hs1)
  have hs3 : Keeps o s3 := .foldl hs2 fun _ _ k => .restoreBolt k
  have hs4 : Keeps o s4 := .startCal hs3
  have hs5 : Keeps o s5 := .modSec hs4
  exact .startFabric (hs5.frame rfl)

protected theorem Answers.execIslandAlign {i : Island} {checksOk : Bool} (h : Keeps o s) : Answers o (execIslandAlign i checksOk s) := by
  unfold execIslandAlign
  refine .next ?_
  split
  · split
    · exact h
    · extract_lets _ _ s1 s2
      have hs1 : Keeps o s1 := h.frame rfl
      have hs2 : Keeps o s2 := .ite hs1 (.islandFails hs1)
      exact .ite (h.frame rfl) (.ite (.startReady hs2) hs2)
  · exact h

/-- A full start begins with an empty ring and no signatures. -/
protected theorem Keeps.freshStart (h : Keeps o s) : Keeps o (freshStart s) := by
  unfold freshStart
  extract_lets u _ _ s1 _ _ _ _ _ s2
  have hu : Keeps o u := .computeLost (.dropHost h)
  have h1 : Keeps o s1 := hu.within rfl (.inl rfl) le_rfl (.inl (Nat.zero_le _))
  have h2 : Keeps o s2 := h1.within rfl (.inl rfl) (Nat.zero_le _) (.inl le_rfl)
  exact .bbRecord (.drawFree h2)

protected theorem Keeps.startStops {cause : Nat} (h : Keeps o s) : Keeps o (startStops s cause) := .enterLimp (.startFlush h)

protected theorem Keeps.restoreSec {b : Bool} (h : Keeps o s) : Keeps o (restoreSec s b) := h.frame rfl

protected theorem Keeps.restoreCfg {c : Option Bool} (h : Keeps o s) : Keeps o (restoreCfg s c) := by
  unfold restoreCfg
  extract_lets _ _ s1 _ s2
  have hs1 : Keeps o s1 := h.frame rfl
  have hs2 : Keeps o s2 := hs1.frame rfl
  exact .ite (.markDirty (.raiseEvent hs2)) hs2

protected theorem Keeps.startFirmware (h : Keeps o s) : Keeps o (startFirmware s) := by
  unfold startFirmware
  split
  · extract_lets s1
    have hs1 : Keeps o s1 := .jobelStarts (.runFirmware h)
    exact .startAdvance (hs1.frame rfl)
  · extract_lets s1
    have hs1 : Keeps o s1 := .startStops h
    exact hs1.frame rfl

protected theorem Keeps.pufFails (h : Keeps o s) : Keeps o (pufFails s) := .startStops (.writeSig (.raiseEvent (h.frame rfl)))

protected theorem Answers.execFullStart {f : StartFindings} (h : Keeps o s) : Answers o (execFullStart f s) := by
  unfold execFullStart
  refine .next ?_
  split
  · exact h
  · extract_lets s1 _ s2
    have hs1 : Keeps o s1 := .freshStart h
    have hs2 : Keeps o s2 := hs1.frame rfl
    split
    · exact .pufFails hs1
    · split
      · exact .startStops hs1
      · exact .ite (.startStops hs2) (.startFirmware (.restoreCfg (.restoreSec hs2)))

protected theorem Keeps.writeRecCmd {w : Window} {off raw : Nat} {v : Word} (h : Keeps o s) : Keeps o (writeRecCmd s w off raw v) := by
  unfold writeRecCmd
  refine .gated h ?_
  intro _ k
  split
  · exact k
  · split
    · exact k.frame rfl
    · exact .capture k

protected theorem Answers.execGo {w : Window} {value : Word} (h : Keeps o s) : Answers o (execGo w value s) := .next (.writeRecCmd h)

protected theorem Answers.execRecoveryLoadDone {dma : Dma FwImage} (h : Keeps o s) : Answers o (execRecoveryLoadDone dma s) := by
  unfold execRecoveryLoadDone
  refine .next ?_
  split
  · exact h
  · extract_lets
    split
    · exact h.frame rfl
    · exact h.frame rfl
    · exact .ite (h.frame rfl) (.startFirmware (h.frame rfl))

protected theorem Answers.execFwLoad {id : Nat} {image : FwImage} (h : Keeps o s) : Answers o (execFwLoad id image s) := by
  unfold execFwLoad
  refine .next ?_
  refine .command h ?_
  intro _ _ k
  split
  · exact .finishEntry k
  · exact .finishEntry k
  · exact .finishEntry k
  · extract_lets _ s1
    have hs1 : Keeps o s1 := .startJob k
    exact .ite (hs1.frame rfl) (hs1.frame rfl)

protected theorem Keeps.jobelRestart (h : Keeps o s) : Keeps o (jobelRestart s) := by
  unfold jobelRestart
  extract_lets s1
  have hs1 : Keeps o s1 := .jobelStarts h
  exact hs1.frame rfl

protected theorem Answers.execFirmwareWriteDone (h : Keeps o s) : Answers o (execFirmwareWriteDone s) := by
  unfold execFirmwareWriteDone
  refine .next ?_
  split
  · exact h
  · exact .ite h (.ite (.jobelRestart (.closeJobId (h.frame rfl))) (.closeJobId (h.frame rfl)))

protected theorem Answers.execJobelCmdRestart {w : Window} (h : Keeps o s) : Answers o (execJobelCmdRestart w s) :=
  .next (.gated h fun _ k => .ite (.jobelRestart k) k)

protected theorem Answers.execJobelWatchdog (h : Keeps o s) : Answers o (execJobelWatchdog s) :=
  .next (.ite (.jobelRestart (.startFlush h)) h)

protected theorem Keeps.rereadMirror (h : Keeps o s) : Keeps o (rereadMirror s) := .bumpTile (h.frame rfl)

protected theorem Keeps.proceed {x : Nat × Nat} (h : Keeps o s) : Keeps o (proceed s x) := .ite (.thermalTripped h) (.railTripped h)

protected theorem Answers.execJobelRestarted (h : Keeps o s) : Answers o (execJobelRestarted s) := by
  unfold execJobelRestarted
  refine .next ?_
  split
  · exact h
  · extract_lets _ s1 s2 s3 s4
    have hs1 : Keeps o s1 := h.frame rfl
    have hs2 : Keeps o s2 := by
      unfold s2
      split
      · exact .runFirmware hs1
      · exact hs1
    have hs3 : Keeps o s3 := .rereadMirror hs2
    have hs4 : Keeps o s4 := .raiseEvent (.bump hs3)
    exact .pumpLoads (.foldl (hs4.frame rfl) fun _ _ k => .proceed k)

protected theorem Answers.execPerstAssert {port : Nat} (h : Keeps o s) : Answers o (execPerstAssert port s) := by
  unfold execPerstAssert
  refine .next ?_
  split
  · exact h
  · extract_lets s1 s2 s3 _ s4 s5
    have hs1 : Keeps o s1 := .foldl h fun _ _ k => .tdiFail k
    have hs2 : Keeps o s2 := .foldl hs1 fun _ _ k => .modRing k
    have hs3 : Keeps o s3 := .resetFn hs2
    have hs4 : Keeps o s4 := hs3.frame rfl
    have hs5 : Keeps o s5 := .foldl hs4 fun _ _ k => .settleRing k
    exact .modPort hs5

protected theorem Answers.execPerstRelease {port : Nat} (h : Keeps o s) : Answers o (execPerstRelease port s) := .next (.ite h (.modPort h))

/-! ### Registers -/

protected theorem Keeps.sizeRecord {w : Window} {addr raw : Nat} (h : Keeps o s) : Keeps o (sizeRecord s w addr raw) := by
  unfold sizeRecord
  split
  · exact h
  · split
    · exact .ite h (.capture h)
    · split
      · exact .ringDrop h
      · exact h
    · exact h

protected theorem Keeps.badAccess {w : Window} {addr : Nat} {write : Bool} {value : Word} (h : Keeps o s) :
    Keeps o (badAccess s w addr write value) := by
  unfold badAccess
  extract_lets s1
  have hs1 : Keeps o s1 := .sizeRecord h
  exact .ite hs1 (hs1.frame rfl)

protected theorem Answers.execAccessSizeError {w : Window} {addr size : Nat} {write : Bool} {value : Word} (h : Keeps o s) :
    Answers o (execAccessSizeError w addr size write value s) :=
  .next (.ite h (.badAccess h))

protected theorem Keeps.writeStored {w : Window} {p : PageId} {off acc : Nat} {m v : Word} {raw : Nat} (h : Keeps o s) :
    Keeps o (writeStored s w p off acc m v raw) :=
  .ite (.capture h) (.ite (.markDirty (.setReg h)) (.setReg h))

protected theorem Keeps.nextOr {r : Res} (hr : Answers o r) : Keeps o (nextOr s r) := by
  obtain ⟨t, rfl, h⟩ := hr
  exact h

protected theorem Keeps.writeBlkCtrl {w : Window} {p : PageId} {v : Word} (h : Keeps o s) : Keeps o (writeBlkCtrl s w p v) := by
  unfold writeBlkCtrl
  extract_lets
  split
  · exact h
  · exact .nextOr (.execBlkCtrlDrain h)
  · exact .nextOr (.execResume h)
  · exact .nextOr (.execOffline h)
  · exact .nextOr (.execOnline h)
  · exact .blkRefuse h

protected theorem Keeps.writeRecAddr {w : Window} {m v : Word} (h : Keeps o s) : Keeps o (writeRecAddr s w m v) := by
  unfold writeRecAddr
  split
  · exact h.frame rfl
  · exact h

protected theorem Keeps.writeDie {w : Window} {off acc : Nat} {m v : Word} {raw : Nat} (h : Keeps o s) :
    Keeps o (writeDie s w off acc m v raw) := by
  unfold writeDie
  split
  · exact .ite (.nextOr (.execRunAll h)) (.ite (.nextOr (.execRunPanel h)) h)
  · split
    · extract_lets s1
      have hs1 : Keeps o s1 := .ite (.nextOr (.execTreeRebuild h)) h
      exact .ite (.nextOr (.execBucketLoad hs1)) hs1
    · exact .ite (.nextOr (.execTenRefill h)) (.ite (.writeRecAddr h) (.ite (.writeRecCmd h) (.writeStored h)))

protected theorem Keeps.writeBb {w : Window} {off acc : Nat} {m v : Word} {raw : Nat} (h : Keeps o s) :
    Keeps o (writeBb s w off acc m v raw) := by
  unfold writeBb
  split
  · exact .writeStored h
  · split
    · exact .nextOr (.execBbEpoch h)
    · split
      · exact .ite (.nextOr (.execClearStore (.ite (.nextOr (.execFlush h)) h))) (.ite (.nextOr (.execFlush h)) h)
      · exact .ite (.setBbSel h) (.ite (.nextOr (.execStCmd h)) h)

protected theorem Keeps.writeHost {w : Window} {port off acc : Nat} {m v : Word} {raw : Nat} (h : Keeps o s) :
    Keeps o (writeHost s w port off acc m v raw) := by
  unfold writeHost
  split
  · exact .ite (.nextOr (.execRingAssign h)) h
  · exact .ite (.ite (.nextOr (.execVfAssign h)) h) (.ite (.nextOr (.execHeartbeat h)) (.writeStored h))

protected theorem Keeps.writePanel {w : Window} {p off acc : Nat} {m v : Word} {raw : Nat} (h : Keeps o s) :
    Keeps o (writePanel s w p off acc m v raw) := by
  unfold writePanel
  split
  · exact .ite (.nextOr (.execClearAll h)) (.ite (.nextOr (.execClearTile h)) h)
  · exact .ite (.writeNwCtrl h) (.writeStored h)

protected theorem Keeps.writeTenant {w : Window} {port vf off acc : Nat} {m v : Word} {raw : Nat} (h : Keeps o s) :
    Keeps o (writeTenant s w port vf off acc m v raw) :=
  .ite (.modVf h) (.writeStored h)

protected theorem Keeps.writeReg {w : Window} {p : PageId} {off acc : Nat} {m v : Word} {raw : Nat} (h : Keeps o s) :
    Keeps o (writeReg s w p off acc m v raw) := by
  unfold writeReg
  split
  · exact .writeBlkCtrl h
  · split
    · exact .nextOr (.execEvtStatusClear h)
    · split
      · exact .nextOr (.execEvtForce h)
      · split
        · exact .ite (.cntClear h) h
        · split
          · exact .writeDie h
          · exact .writeBb h
          · exact .ite (.writeStored h) (.writeHost h)
          · exact .writePanel h
          · exact .writeTenant h
          · exact .ite (.ite (.nextOr (.execRestart h)) h) (.writeStored h)
          · exact .ite (.ite (.nextOr (.execJobelCmdRestart h)) h) (.writeStored h)
          · exact .writeStored h

protected theorem Keeps.writeRing {w : Window} {n off : Nat} {m v : Word} (h : Keeps o s) : Keeps o (writeRing s w n off m v) := by
  unfold writeRing
  split
  · exact h
  · extract_lets
    split
    · exact .ite (.nextOr (.execSqTail h)) h
    · split
      · exact .ite (.nextOr (.execCqHead h)) h
      · split
        · exact .writeRingCfg h
        · exact .ite (.writeRingBase h) (.ite (.writeRingBase h) (.ite (.writeRingBase h) h))

protected theorem Keeps.writeMsix {port fn off : Nat} {m v : Word} (h : Keeps o s) : Keeps o (writeMsix s port fn off m v) :=
  .ite (.flushMsix (.modPort (h.frame rfl))) (h.frame rfl)

protected theorem Answers.execRegisterWrite {w : Window} {addr size : Nat} {value : Word} (h : Keeps o s) :
    Answers o (execRegisterWrite w addr size value s) := by
  unfold execRegisterWrite
  refine .next ?_
  split
  · exact .badAccess h
  · split
    · exact h
    · extract_lets
      split
      · exact .gated h fun _ k => .writeReg k
      · exact .writeRing h
      · exact .writeMsix h
      · exact h

/-! ### Rows and steps -/

/-- Every row of the table answers a next state that keeps the queue and the bounds. -/
theorem answers_exec (c : Instr) : Answers s (exec c s) :=
  match c with
  | .nop .. => .execNop .refl
  | .ldi .. => .execLdi .refl
  | .ldih .. => .execLdih .refl
  | .addi .. => .execAddi .refl
  | .add .. => .execAdd .refl
  | .sub .. => .execSub .refl
  | .muli .. => .execMuli .refl
  | .shli .. => .execShli .refl
  | .andi .. => .execAndi .refl
  | .ld .. => .execLd .refl
  | .ldResult .. => .execLdResult .refl
  | .st .. => .execSt .refl
  | .bz .. => .execBz .refl
  | .bnz .. => .execBnz .refl
  | .loop .. => .execLoop .refl
  | .endProg .. => .execEndProg .refl
  | .move .. => .execMove .refl
  | .unitCommandComplete .. => .execUnitCommandComplete .refl
  | .evald .. => .execEvald .refl
  | .evalx .. => .execEvalx .refl
  | .evalt .. => .execEvalt .refl
  | .pleatStep .. => .execPleatStep .refl
  | .bobbinAdd .. => .execBobbinAdd .refl
  | .reductionContribution .. => .execReductionContribution .refl
  | .normSample .. => .execNormSample .refl
  | .bprom .. => .execBprom .refl
  | .bdrain .. => .execBdrain .refl
  | .redopen .. => .execRedopen .refl
  | .act .. => .execAct .refl
  | .cvt .. => .execCvt .refl
  | .wmv .. => .execWmv .refl
  | .wew .. => .execWew .refl
  | .wnorm .. => .execWnorm .refl
  | .wlook .. => .execWlook .refl
  | .wad .. => .execWad .refl
  | .attn .. => .execAttn .refl
  | .remoteRun .. => .execRemoteRun .refl
  | .partialFold .. => .execPartialFold .refl
  | .kvw .. => .execKvw .refl
  | .attb .. => .execAttb .refl
  | .send .. => .execSend .refl
  | .recv .. => .execRecv .refl
  | .flowFlitArrive .. => .execFlowFlitArrive .refl
  | .tack .. => .execTack .refl
  | .sealw .. => .execSealw .refl
  | .sample .. => .execSample .refl
  | .smerge .. => .execSmerge .refl
  | .fence .. => .execFence .refl
  | .call .. => .execCall .refl
  | .callReply .. => .execCallReply .refl
  | .stepForm .. => .execStepForm .refl
  | .batchTableReceive .. => .execBatchTableReceive .refl
  | .spanBatchReceive .. => .execSpanBatchReceive .refl
  | .rankSealReport .. => .execRankSealReport .refl
  | .sealed .. => .execSealed .refl
  | .recallStep .. => .execRecallStep .refl
  | .recallDiscard .. => .execRecallDiscard .refl
  | .replay .. => .execReplay .refl
  | .jobStatusClaim .. => .execJobStatusClaim .refl
  | .adapterSlotLoad .. => .execAdapterSlotLoad .refl
  | .adapterSlotResident .. => .execAdapterSlotResident .refl
  | .treeLookup .. => .execTreeLookup .refl
  | .treePublish .. => .execTreePublish .refl
  | .treeDrop .. => .execTreeDrop .refl
  | .treeRebuild .. => .execTreeRebuild .refl
  | .bucketLoad .. => .execBucketLoad .refl
  | .memUncorrectable .. => .execMemUncorrectable .refl
  | .dramScrub .. => .execDramScrub .refl
  | .poisonRepaired .. => .execPoisonRepaired .refl
  | .progRequest .. => .execProgRequest .refl
  | .progAdmit => .execProgAdmit .refl
  | .progQuarterStage .. => .execProgQuarterStage .refl
  | .progRound .. => .execProgRound .refl
  | .progComplete .. => .execProgComplete .refl
  | .zeroisation .. => .execZeroisation .refl
  | .calTileRun .. => .execCalTileRun .refl
  | .calMeasureDone .. => .execCalMeasureDone .refl
  | .calFitDone .. => .execCalFitDone .refl
  | .calSwap .. => .execCalSwap .refl
  | .calProgTimer .. => .execCalProgTimer .refl
  | .calFallbackTick => .execCalFallbackTick .refl
  | .runAll .. => .execRunAll .refl
  | .runPanel .. => .execRunPanel .refl
  | .eyeSample .. => .execEyeSample .refl
  | .swatchCompare .. => .execSwatchCompare .refl
  | .checkerRotate .. => .execCheckerRotate .refl
  | .refereeRun .. => .execRefereeRun .refl
  | .repairComplete .. => .execRepairComplete .refl
  | .mgmtReadTimeout .. => .execMgmtReadTimeout .refl
  | .creditReturn .. => .execCreditReturn .refl
  | .creditStall .. => .execCreditStall .refl
  | .contextWaitStall .. => .execContextWaitStall .refl
  | .flitSend .. => .execFlitSend .refl
  | .seamParity .. => .execSeamParity .refl
  | .arbRequest .. => .execArbRequest .refl
  | .arbItemDone .. => .execArbItemDone .refl
  | .arbWatchdog .. => .execArbWatchdog .refl
  | .kwLaneDown .. => .execKwLaneDown .refl
  | .kwLaneRetrain .. => .execKwLaneRetrain .refl
  | .kwFlitReceive .. => .execKwFlitReceive .refl
  | .kwReplayRequest .. => .execKwReplayRequest .refl
  | .fabricSend .. => .execFabricSend .refl
  | .fabricMessageReceive .. => .execFabricMessageReceive .refl
  | .messageAck .. => .execMessageAck .refl
  | .planeDown .. => .execPlaneDown .refl
  | .heartbeatSend => .execHeartbeatSend .refl
  | .managerLost => .execManagerLost .refl
  | .moduleLost .. => .execModuleLost .refl
  | .hello .. => .execHello .refl
  | .discWait => .execDiscWait .refl
  | .fabricKeyReceive .. => .execFabricKeyReceive .refl
  | .epochRequest .. => .execEpochRequest .refl
  | .bcastReport .. => .execBcastReport .refl
  | .bcastWait .. => .execBcastWait .refl
  | .chainTimeout .. => .execChainTimeout .refl
  | .loadChunk .. => .execLoadChunk .refl
  | .sqTail .. => .execSqTail .refl
  | .entryFetch .. => .execEntryFetch .refl
  | .cqHead .. => .execCqHead .refl
  | .completionPost .. => .execCompletionPost .refl
  | .cqStall .. => .execCqStall .refl
  | .coalTimer .. => .execCoalTimer .refl
  | .ringEnable .. => .execRingEnable .refl
  | .ringDisable .. => .execRingDisable .refl
  | .ringAssign .. => .execRingAssign .refl
  | .vfAssign .. => .execVfAssign .refl
  | .tenantCreate .. => .execTenantCreate .refl
  | .tenantRemove .. => .execTenantRemove .refl
  | .boltCreate .. => .execBoltCreate .refl
  | .boltRemove .. => .execBoltRemove .refl
  | .boltTransfer .. => .execBoltTransfer .refl
  | .boltAdopt .. => .execBoltAdopt .refl
  | .sessionOpen .. => .execSessionOpen .refl
  | .sessionClose .. => .execSessionClose .refl
  | .generate .. => .execGenerate .refl
  | .tune .. => .execTune .refl
  | .abort .. => .execAbort .refl
  | .prefixRetain .. => .execPrefixRetain .refl
  | .prefixRelease .. => .execPrefixRelease .refl
  | .loadStage .. => .execLoadStage .refl
  | .loadCommit .. => .execLoadCommit .refl
  | .loadCancel .. => .execLoadCancel .refl
  | .loadPattern .. => .execLoadPattern .refl
  | .unload .. => .execUnload .refl
  | .keyInstall .. => .execKeyInstall .refl
  | .grant .. => .execGrant .refl
  | .revoke .. => .execRevoke .refl
  | .claim .. => .execClaim .refl
  | .transfer .. => .execTransfer .refl
  | .release .. => .execRelease .refl
  | .debugUnlock .. => .execDebugUnlock .refl
  | .planLoad .. => .execPlanLoad .refl
  | .sigRead .. => .execSigRead .refl
  | .fwLoad .. => .execFwLoad .refl
  | .selfTest .. => .execSelfTest .refl
  | .bbRead .. => .execBbRead .refl
  | .tenRefill .. => .execTenRefill .refl
  | .heartbeat .. => .execHeartbeat .refl
  | .heartbeatLoss .. => .execHeartbeatLoss .refl
  | .linkChange .. => .execLinkChange .refl
  | .flr .. => .execFlr .refl
  | .perstAssert .. => .execPerstAssert .refl
  | .perstRelease .. => .execPerstRelease .refl
  | .getVersion .. => .execGetVersion .refl
  | .getCapabilities .. => .execGetCapabilities .refl
  | .negotiateAlgorithms .. => .execNegotiateAlgorithms .refl
  | .getDigests .. => .execGetDigests .refl
  | .getCertificate .. => .execGetCertificate .refl
  | .challenge .. => .execChallenge .refl
  | .getMeasurements .. => .execGetMeasurements .refl
  | .keyExchange .. => .execKeyExchange .refl
  | .finish .. => .execFinish .refl
  | .keyUpdate .. => .execKeyUpdate .refl
  | .endSession .. => .execEndSession .refl
  | .vendorDefinedRequest .. => .execVendorDefinedRequest .refl
  | .lockInterface .. => .execLockInterface .refl
  | .stopInterface .. => .execStopInterface .refl
  | .tdiError .. => .execTdiError .refl
  | .kekReady => .execKekReady .refl
  | .blkCtrlDrain .. => .execBlkCtrlDrain .refl
  | .drainDone .. => .execDrainDone .refl
  | .resume .. => .execResume .refl
  | .offline .. => .execOffline .refl
  | .online .. => .execOnline .refl
  | .onlineCheckDone .. => .execOnlineCheckDone .refl
  | .evtStatusClear .. => .execEvtStatusClear .refl
  | .evtForce .. => .execEvtForce .refl
  | .evtSum0Read .. => .execEvtSum0Read .refl
  | .tenantEvtRead .. => .execTenantEvtRead .refl
  | .errCaptureRead .. => .execErrCaptureRead .refl
  | .nwLastStepRead .. => .execNwLastStepRead .refl
  | .seqFaultStepRead .. => .execSeqFaultStepRead .refl
  | .sigStatusRead .. => .execSigStatusRead .refl
  | .eyeRead .. => .execEyeRead .refl
  | .bbRdData3Read .. => .execBbRdData3Read .refl
  | .resetEst .. => .execResetEst .refl
  | .clearTile .. => .execClearTile .refl
  | .clearAll .. => .execClearAll .refl
  | .fmtCntClear .. => .execFmtCntClear .refl
  | .calCntClear .. => .execCalCntClear .refl
  | .kvCntClear .. => .execKvCntClear .refl
  | .attCntClear .. => .execAttCntClear .refl
  | .smpCntClear .. => .execSmpCntClear .refl
  | .wtCntClear .. => .execWtCntClear .refl
  | .seqCntClear .. => .execSeqCntClear .refl
  | .netCntClear .. => .execNetCntClear .refl
  | .fabCntClear .. => .execFabCntClear .refl
  | .kwCntClear .. => .execKwCntClear .refl
  | .rasCntClear .. => .execRasCntClear .refl
  | .secCntClear .. => .execSecCntClear .refl
  | .hostCntClear .. => .execHostCntClear .refl
  | .hkCntClear .. => .execHkCntClear .refl
  | .jobelRestartsClear .. => .execJobelRestartsClear .refl
  | .registerWrite .. => .execRegisterWrite .refl
  | .accessSizeError .. => .execAccessSizeError .refl
  | .retainedCommit => .execRetainedCommit .refl
  | .inputRise .. => .execInputRise .refl
  | .hotswapClose => .execHotswapClose .refl
  | .powerGood => .execPowerGood .refl
  | .inputFall .. => .execInputFall .refl
  | .inputOvervoltage .. => .execInputOvervoltage .refl
  | .hardOvercurrent .. => .execHardOvercurrent .refl
  | .railTrip .. => .execRailTrip .refl
  | .governorInterval .. => .execGovernorInterval .refl
  | .hkConversion .. => .execHkConversion .refl
  | .hkInjected .. => .execHkInjected .refl
  | .throttle => .execThrottle .refl
  | .thermalRecover => .execThermalRecover .refl
  | .stopSealTimeout => .execStopSealTimeout .refl
  | .thermalTrip => .execThermalTrip .refl
  | .autoRestart => .execAutoRestart .refl
  | .restart .. => .execRestart .refl
  | .fullStart .. => .execFullStart .refl
  | .islandAlign .. => .execIslandAlign .refl
  | .go .. => .execGo .refl
  | .recoveryLoadDone .. => .execRecoveryLoadDone .refl
  | .jobelCmdRestart .. => .execJobelCmdRestart .refl
  | .jobelWatchdog => .execJobelWatchdog .refl
  | .jobelRestarted => .execJobelRestarted .refl
  | .bbFlush .. => .execBbFlush .refl
  | .bbFlushed .. => .execBbFlushed .refl
  | .flush .. => .execFlush .refl
  | .clearStore .. => .execClearStore .refl
  | .bbEpoch .. => .execBbEpoch .refl
  | .stCmd .. => .execStCmd .refl
  | .selfTestTargetDone .. => .execSelfTestTargetDone .refl
  | .hotswapReclose .. => .execHotswapReclose .refl
  | .powerLoss => .execPowerLoss .refl
  | .uncorrectableCodeword .. => .execUncorrectableCodeword .refl
  | .receiveBufferPost .. => .execReceiveBufferPost .refl
  | .planStateReceive .. => .execPlanStateReceive .refl
  | .firmwareWriteDone => .execFirmwareWriteDone .refl
  | .powerCoarseWindow .. => .execPowerCoarseWindow .refl
  | .configurationRequest .. => .execConfigurationRequest .refl
  | .atsInvalidation .. => .execAtsInvalidation .refl

/-- A step keeps the three bounds: it is a row with the queue's rest, or a tick. -/
theorem step_keeps_bounds (h : step s = .next t) :
    (ThermalLimitOk s → ThermalLimitOk t) ∧ (LiveRingOk s → LiveRingOk t) ∧ (SignaturesOk s → SignaturesOk t) := by
  cases hq : s.pending with
  | nil =>
    rw [step_of_nil hq] at h
    cases h
    exact ⟨id, id, id⟩
  | cons c q =>
    obtain ⟨u, hu, -, hl, hr, hs⟩ := answers_exec (s := s.withPending q) c
    rw [step_of_cons hq, hu] at h
    cases h
    exact ⟨hl, hr, hs⟩

/-- Settles O2: every row answers, and no answer touches the queue. -/
theorem everyCommandAnswersAndLeavesTheQueue : Obligations.EveryCommandAnswersAndLeavesTheQueue := by
  intro c s
  obtain ⟨t, ht, hk⟩ := answers_exec (s := s) c
  exact ⟨t, ht, hk.queue⟩

/-- Settles O58: the bound of the limit is one that every step keeps. -/
theorem thermalLimitStaysInRange : Obligations.ThermalLimitStaysInRange := fun _ _ hs h => (step_keeps_bounds h).1 hs

/-- Settles O59: the bounds of the ring and of the list are bounds that every step keeps. -/
theorem recordsStayBounded : Obligations.RecordsStayBounded :=
  ⟨fun _ _ hs h => (step_keeps_bounds h).2.1 hs, fun _ _ hs h => (step_keeps_bounds h).2.2 hs⟩

end Sys2Proof.Machine

/-! SUPPORT. The rows of the rings, an equation for each case that a statement speaks of. -/

namespace Sys2Proof.Machine

/-- Settles O27: the rail's limit is defined over the effective limit's three ranges (R463) and the register's own LIMIT (R70). -/
theorem programmingRailFollowsTheEffectiveLimit : Obligations.ProgrammingRailFollowsTheEffectiveLimit := by
  unfold Obligations.ProgrammingRailFollowsTheEffectiveLimit
  intro s
  rfl

section
variable {s : State} {w : Window} {n port ring value : Nat}

/-- A doorbell of an enabled ring that names a slot of the queue moves the tail (R436). -/
theorem execSqTail_within (hp : pageRing s w n = some (port, ring)) (hd : doorbellsOn s port = true)
    (he : (getRing s port ring).st = .enabled) (hv : value < 65536) (ht : value < sqSize (getRing s port ring)) :
    execSqTail w n value s = .next (modRing s port ring fun r => { r with sqTail := value }) := by
  simp [execSqTail, hp, hd, he, Nat.mod_eq_of_lt hv, Nat.not_le.mpr ht]

/-- A tail at or above the queue's size puts the ring in ERROR with code 1 (R445). -/
theorem execSqTail_beyond (hp : pageRing s w n = some (port, ring)) (hd : doorbellsOn s port = true)
    (he : (getRing s port ring).st = .enabled) (hv : value < 65536) (ht : sqSize (getRing s port ring) ≤ value) :
    execSqTail w n value s = .next (ringError s port ring 1) := by
  simp [execSqTail, hp, hd, he, Nat.mod_eq_of_lt hv, ht]

theorem execCqHead_enabled (hp : pageRing s w n = some (port, ring)) (hd : doorbellsOn s port = true)
    (he : (getRing s port ring).st = .enabled) (hv : value < 65536) :
    execCqHead w n value s = .next (modRing s port ring fun r => { r with cqHead := value }) := by
  simp [execCqHead, hp, hd, he, Nat.mod_eq_of_lt hv]

/-- The ring may be fetched from: enabled, not stopped, not empty, its function a bus master, and no orderly stop (R438). -/
structure Fetches (s : State) (port ring : Nat) : Prop where
  enabled : (getRing s port ring).st = .enabled
  on : bit (getRing s port ring).cfg 48 = true
  filled : (getRing s port ring).sqHead ≠ (getRing s port ring).sqTail
  master : mayMaster s port (getRing s port ring).fn = true
  running : s.start.phase ≠ 9

theorem execEntryFetch_entry (h : Fetches s port ring) (e : Entry) :
    let d : Dispatched := { id := s.nextId, port := port, ring := ring, fn := (getRing s port ring).fn, entry := e }
    let t := modRing { s with nextId := s.nextId + 1, dispatched := s.dispatched ++ [d] } port ring fun r =>
      { r with sqHead := (r.sqHead + 1) % sqSize r }
    execEntryFetch port ring (.ok e) s = .next (if e.opcode ∈ opcodes then t else finishEntry t d 0x20 0) := by
  obtain ⟨he, hb, hn, hm, hp⟩ := h
  simp [execEntryFetch, he, hb, hn, hm, hp]

theorem execEntryFetch_dmaError (h : Fetches s port ring) : execEntryFetch port ring .dmaError s = .next (ringError s port ring 2) := by
  obtain ⟨he, hb, hn, hm, hp⟩ := h
  simp [execEntryFetch, he, hb, hn, hm, hp]

theorem execEntryFetch_atsFault (h : Fetches s port ring) : execEntryFetch port ring .atsFault s = .next (ringError s port ring 3) := by
  obtain ⟨he, hb, hn, hm, hp⟩ := h
  simp [execEntryFetch, he, hb, hn, hm, hp]

variable {t0 : Nat} {c : Completion} {rest : List (Nat × Completion)}

theorem execCompletionPost_room (hw : (getRing s port ring).waiting = (t0, c) :: rest) (he : (getRing s port ring).st = .enabled)
    (hm : mayMaster s port (getRing s port ring).fn = true)
    (ht : ((getRing s port ring).cqTail + 1) % cqSize (getRing s port ring) ≠ (getRing s port ring).cqHead) :
    let r := getRing s port ring
    let tail := (r.cqTail + 1) % cqSize r
    execCompletionPost port ring (.ok ()) s = .next
      (settleRing (countSignal (modRing (emit s (.completion port ring r.cqTail r.sqHead r.phase c)) port ring fun r =>
        { r with waiting := rest, stalled := false, cqTail := tail, phase := if tail = 0 then !r.phase else r.phase }) port ring) port ring) := by
  simp [execCompletionPost, hw, he, hm, ht]

/-- A completion waits while its queue is full (R440). -/
theorem execCompletionPost_full (hw : (getRing s port ring).waiting = (t0, c) :: rest)
    (ht : ((getRing s port ring).cqTail + 1) % cqSize (getRing s port ring) = (getRing s port ring).cqHead) (dma : Dma Unit) :
    execCompletionPost port ring dma s = .next s := by
  simp [execCompletionPost, hw, ht]

/-- A queue that is full for longer than the limit is counted and raised, and marked so that it is reported once (R443). -/
theorem execCqStall_full (hw : (getRing s port ring).waiting = (t0, c) :: rest) (he : (getRing s port ring).st = .enabled)
    (ht : ((getRing s port ring).cqTail + 1) % cqSize (getRing s port ring) = (getRing s port ring).cqHead)
    (hs : (getRing s port ring).stalled = false) (hl : t0 + creditLimit s none < s.now) :
    execCqStall port ring s = .next
      (raiseEvent (bumpFor (modRing s port ring fun r => { r with stalled := true }) (.host port) 0x0C0 [(12, ring)]) (.host port) 19 [(12, ring)]) := by
  simp [execCqStall, hw, he, ht, hs, Nat.not_le.mpr hl]

theorem execCoalTimer_counting (hu : (getRing s port ring).unsigSince = some t0) (he : (getRing s port ring).st = .enabled)
    (hf : 0 < field (getRing s port ring).cfg 43 28) :
    execCoalTimer port ring s =
      .next (if t0 + field (getRing s port ring).cfg 43 28 ≤ s.now then ringSignal s port ring else s) := by
  simp [execCoalTimer, hu, he, hf]

end

/-- Settles O38: each row in the cases that the rules tell apart, the queue's sizes being those of the ring's configuration. -/
theorem ringsFetchAndComplete : Obligations.RingsFetchAndComplete := by
  unfold Obligations.RingsFetchAndComplete
  intro s w n port ring value
  refine ⟨fun hp hd he hv => ⟨execSqTail_within hp hd he hv, execSqTail_beyond hp hd he hv, execCqHead_enabled hp hd he hv⟩, ?_, ?_, ?_⟩
  · intro he hb hn hm hph
    have h : Fetches s port ring := ⟨he, hb, hn, hm, hph⟩
    exact ⟨execEntryFetch_entry h, execEntryFetch_dmaError h, execEntryFetch_atsFault h⟩
  · intro t0 c rest hw he hm
    exact ⟨execCompletionPost_room hw he hm, fun ht => execCompletionPost_full hw ht (.ok ()), execCqStall_full hw he⟩
  · intro t0 hu he hf
    exact execCoalTimer_counting hu he hf

end Sys2Proof.Machine

/-! SUPPORT. The commands of a block's control register and what a change of a block's state comes to (R430 to R432, R531, R532). -/

namespace Sys2Proof.Machine

section
variable {s : State} {w : Window} {p : PageId} {g : BitVec 32}

/-- A block takes a command of its control register: it accepts commands, is not in start checks, and has the generation expected. -/
def BlkTakes (s : State) (p : PageId) (g : BitVec 32) : Prop :=
  blkAccepts p = true ∧ (getHdr s p).st ≠ .test ∧ (g = 0 ∨ g = (getHdr s p).gen)

/-- A command acts on a block that takes it and is in the state it asks for. -/
theorem blkCommand_taken {cmd : Nat} {ok : Hdr → Bool} {act : State → State} (hp : Passes s w p 0x010) (ht : BlkTakes s p g)
    (hk : ok (getHdr s p) = true) : blkCommand s w p cmd g ok act = act s := by
  obtain ⟨ha, hn, hg⟩ := ht
  rw [blkCommand, gated_of_passes hp]
  exact if_pos (by rcases hg with hg | hg <;> simp [ha, hn, hg, hk])

/-- Every other command is refused. -/
theorem blkCommand_refused {cmd : Nat} {ok : Hdr → Bool} {act : State → State} (hp : Passes s w p 0x010)
    (h : ¬(BlkTakes s p g ∧ ok (getHdr s p) = true)) : blkCommand s w p cmd g ok act = blkRefuse s w p := by
  rw [blkCommand, gated_of_passes hp]
  refine if_neg fun hc => h ?_
  simp only [Bool.and_eq_true, bne_iff_ne, Bool.or_eq_true, beq_iff_eq] at hc
  obtain ⟨⟨⟨ha, hn⟩, hg⟩, hk⟩ := hc
  exact ⟨⟨ha, hn, hg⟩, hk⟩

theorem execDrainDone_ended (he : pageExists s p = true) (hp : pagePowered s p = true) (hs : (getHdr s p).st = .draining)
    (hw : workEnded s p = true) : execDrainDone p s = .next (setBlk s p .ready true 1) := by
  simp [execDrainDone, he, hp, hs, hw]

theorem execDrainDone_working (h : (getHdr s p).st ≠ .draining ∨ workEnded s p = false) : execDrainDone p s = .next s := by
  rcases h with h | h <;> simp [execDrainDone, h]

/-- The checks of a block that no self-test of a tenant's runs on end as they came out. -/
theorem execOnlineCheckDone_testing {passed : Bool} (he : pageExists s p = true) (hp : pagePowered s p = true) (ha : blkAccepts p = true)
    (hs : (getHdr s p).st = .test) (hq : ∀ q, s.st.running = some q → targetPage q.kind q.target ≠ some p) :
    execOnlineCheckDone p passed s = .next (if passed then blockStarts s p else blockFails s p) := by
  unfold execOnlineCheckDone
  have hr : (match s.st.running with | some q => targetPage q.kind q.target == some p | none => false) = false := by
    split
    · next q e => exact beq_eq_false_iff_ne.mpr (hq q e)
    · rfl
  simp only [he, hp, ha, hs, BEq.rfl, Bool.and_self, Bool.not_true, Bool.false_or]
  exact congrArg _ (if_neg (fun hc => Bool.false_ne_true (hr.symm.trans hc)))

/-- The header of a block whose state changes (R432). -/
theorem getHdr_setBlk {st : BlkSt} {held : Bool} {cause : Nat} (h : ¬((getHdr s p).st = st ∧ (getHdr s p).held = held)) :
    (getHdr (setBlk s p st held cause) p).st = st ∧ (getHdr (setBlk s p st held cause) p).held = held
      ∧ (getHdr (setBlk s p st held cause) p).gen = (getHdr s p).gen + 1 := by
  unfold setBlk
  extract_lets h0 s1 _ s2
  rw [if_neg h]
  have e : getHdr s2 p = { h0 with st := st, held := held, cause := BitVec.ofNat 8 cause, gen := h0.gen + 1 } := by
    have e1 : getHdr s1 p = { h0 with st := st, held := held, cause := BitVec.ofNat 8 cause, gen := h0.gen + 1 } := getHdr_modHdr
    refine (getHdr_of_hdrs ?_).trans e1
    unfold s2; split <;> rfl
  obtain ⟨-, est, eheld, egen, -⟩ := raiseEvent_grown (s := s2) (p := p) (q := p) (n := 0) (ids := [])
  rw [est, eheld, egen, e]
  exact ⟨rfl, rfl, rfl⟩

/-- Which pages are there is a matter of the part alone. -/
theorem pageExists_congr {t : State} (hv : t.variant = s.variant) : pageExists t p = pageExists s p := by
  unfold pageExists panelsEn stackOn stackMap
  simp only [hv]

theorem setBlk_raised {st : BlkSt} {held : Bool} {cause : Nat} (hx : pageExists s p = true)
    (h : ¬((getHdr s p).st = st ∧ (getHdr s p).held = held)) : Raised (setBlk s p st held cause) p 0 := by
  unfold setBlk
  extract_lets h0 s1 _ s2
  rw [if_neg h]
  refine raiseEvent_raised ?_ (by omega)
  rw [← hx]
  exact pageExists_congr (by unfold s2; split <;> rfl)

end

/-- Settles O48: the commands through the one lemma of the control register, and a change of state through its header. -/
theorem blocksFollowTheirCommands : Obligations.BlocksFollowTheirCommands := by
  unfold Obligations.BlocksFollowTheirCommands
  intro s w p g
  refine ⟨fun hp => ⟨?_, ?_, ?_, ?_, ?_, ?_, ?_, ?_⟩, execDrainDone_ended, execDrainDone_working, ?_, ?_⟩
  · rintro ⟨hf, hs⟩
    exact congrArg _ (blkCommand_taken hp hf (by simpa using hs))
  · intro h
    exact congrArg _ (blkCommand_refused hp (by simpa [BlkTakes] using h))
  · rintro ⟨hf, hs, hh⟩
    exact congrArg _ (blkCommand_taken hp hf (by simp [hs, hh]))
  · intro h
    exact congrArg _ (blkCommand_refused hp (by simpa [BlkTakes] using h))
  · rintro ⟨hf, hs, hh, hb⟩
    exact congrArg _ (blkCommand_taken hp hf (by simp [hs, hh, hb]))
  · intro h
    exact congrArg _ (blkCommand_refused hp (by simpa [BlkTakes, and_assoc] using h))
  · rintro ⟨hf, hs⟩
    exact congrArg _ (blkCommand_taken hp hf (by simp [hs]))
  · intro h
    exact congrArg _ (blkCommand_refused hp (by simpa [BlkTakes] using h))
  · intro he hpw ha hs hq
    exact ⟨execOnlineCheckDone_testing he hpw ha hs hq, execOnlineCheckDone_testing he hpw ha hs hq⟩
  · intro st held cause hx hne
    obtain ⟨e1, e2, e3⟩ := getHdr_setBlk (cause := cause) hne
    exact ⟨e1, e2, e3, setBlk_raised hx hne, by simp, by simp, by simp, by simp⟩

end Sys2Proof.Machine

/-! SUPPORT. A ring's configuration, its assignment, and the assignment of a function to a tenant (R437, R452). -/

namespace Sys2Proof.Machine

section
variable {s : State} {w : Window} {n port ring : Nat} {v : Word}

/-- The write that sets EN leaves it set, and the one that clears EN leaves it cleared. -/
theorem bit_or_bitOf_same {m : Nat} (h : m < 64) : bit (v ||| bitOf m) m = true := by simp [bit_or, bit_bitOf h]

theorem bit_and_not_bitOf_same {m : Nat} (h : m < 64) : bit (v &&& ~~~bitOf m) m = false := by
  have e : bit (bitOf m) m = true := by simp [bit_bitOf h]
  simp only [bit] at e
  simp [bit, e]

/-- A ring as the write that sets EN starts it (R437). -/
def Ring.begun (v : Word) (r : Ring) : Ring :=
  { r with
    st := .enabled, cfg := ringCfgBits v, sqTail := 0, sqHead := 0, cqTail := 0, cqHead := 0, phase := true, err := 0, waiting := []
    stalled := false, unsig := 0, unsigSince := none, closing := false }

/-- The first write that sets EN of an assigned ring starts it. -/
theorem writeRingCfg_enables (hp : pageRing s w n = some (port, ring)) (hb : bit (getRing s port ring).cfg 48 = false)
    (hs : (getRing s port ring).st = .assigned) (hok : ringCfgOk (getRing s port ring).fn v = true) (hv : bit v 48 = true) :
    writeRingCfg s w n v = modRing s port ring (Ring.begun v) := by
  simp only [writeRingCfg, hp, hb, hs, hok, hv]
  rfl

/-- A configuration with a number that the rules forbid is dropped and recorded with code 2. -/
theorem writeRingCfg_refused (hp : pageRing s w n = some (port, ring)) (hb : bit (getRing s port ring).cfg 48 = false)
    (hok : ringCfgOk (getRing s port ring).fn v = false) : writeRingCfg s w n v = capture s (.host port) 2 (winCode w) 0x010 ring := by
  simp [writeRingCfg, hp, hb, hok, ringDrop]

/-- The write that clears EN of a ring: its entries are answered, its jobs aborted, and it closes (R437). -/
theorem writeRingCfg_disables (hp : pageRing s w n = some (port, ring)) (hb : bit (getRing s port ring).cfg 48 = true)
    (hv : bit v 48 = false) : writeRingCfg s w n v =
      (let s1 := dropEntries (modRing s port ring fun r => { r with closing := true }) (fun d => d.port == port && d.ring == ring) 1
       pumpLoads (closeRing ((s1.jobs.filter fun j => j.port == port && j.ring == ring).foldl (fun s j => (abortJob s j).1) s1) port ring)) := by
  simp [writeRingCfg, hp, hb, hv]

/-- Another ring of the port already has the function's slot. -/
def SlotTaken (s : State) (port k fn slot : Nat) : Prop :=
  fn ≠ 0 ∧ ∃ x ∈ portRings s port, x ≠ k ∧ (getRing s port x).st ≠ .free ∧ (getRing s port x).fn = fn ∧ (getRing s port x).slot = slot

/-- RING_ASSIGN with FREE frees the ring (R452). -/
theorem execRingAssign_frees (hp : Passes s w (.host port) 0x0A0) (ho : ringOpen s port (field v 11 0) = true)
    (hl : vfLocked s port (getRing s port (field v 11 0)).fn = false) (hb : bit v 24 = true) :
    execRingAssign w port v s = .next (modRing s port (field v 11 0) fun _ => Ring.start) := by
  simp [execRingAssign, gated_of_passes hp, ho, hl, hb]

theorem execRingAssign_assigns (hp : Passes s w (.host port) 0x0A0) (ho : ringOpen s port (field v 11 0) = true)
    (hl : vfLocked s port (getRing s port (field v 11 0)).fn = false) (hf : vfLocked s port (field v 19 12) = false)
    (hb : bit v 24 = false) (ht : ¬SlotTaken s port (field v 11 0) (field v 19 12) (field v 23 20)) :
    execRingAssign w port v s = .next (modRing s port (field v 11 0) fun _ =>
      { Ring.start with st := .assigned, fn := field v 19 12, slot := if field v 19 12 = 0 then 0 else field v 23 20 }) := by
  simp only [execRingAssign, gated_of_passes hp, ho, hl, hf, hb]
  refine congrArg _ ((if_neg fun hc => ht ?_).trans (if_neg Bool.false_ne_true))
  simpa [SlotTaken, and_assoc] using hc

theorem execRingAssign_closed (hp : Passes s w (.host port) 0x0A0) (ho : ringOpen s port (field v 11 0) = false) :
    execRingAssign w port v s = .next (capture s (.host port) 2 (winCode w) 0x0A0 (v.toNat % 2 ^ 32)) := by
  simp [execRingAssign, gated_of_passes hp, ho]

theorem execVfAssign_passes (hp : Passes s w (.host port) 0x0A8) :
    let vf := field v 7 0
    let tenant := if bit v 20 = true then none else some (field v 19 8)
    execVfAssign w port v s = .next
      (if vf = 0 ∨ fnBusy s port vf = true ∨ vfLocked s port vf = true then capture s (.host port) 2 (winCode w) 0x0A8 (v.toNat % 2 ^ 32)
       else setOwner (modVf s port vf fun x => { x with tenant := tenant }) (.tenant port vf) 2 0x3F (tenant.getD 0)) := by
  cases hb : bit v 20 <;> simp [execVfAssign, gated_of_passes hp, hb]

end

/-- Settles O39: the configuration by the bit EN that the ring has and the write brings, and the assignments by the cases of R452. -/
theorem ringsAndFunctionsAreAssigned : Obligations.RingsAndFunctionsAreAssigned := by
  unfold Obligations.RingsAndFunctionsAreAssigned
  intro s w n port ring v
  have hset : bit (v ||| bitOf 48) 48 = true := bit_or_bitOf_same (by omega)
  have hclear : bit (v &&& ~~~bitOf 48) 48 = false := bit_and_not_bitOf_same (by omega)
  refine ⟨?_, ?_, ?_, ?_, ?_⟩
  · intro hp hb hs hok
    exact ⟨modRing s port ring (Ring.begun (v ||| bitOf 48)), congrArg Host.Outcome.next (writeRingCfg_enables hp hb hs hok hset),
      getRing_modRing, rfl, fun k hk => mapGet_mapMod_ne (f := Ring.begun _) (Ne.symm hk)⟩
  · intro hp hb hok
    exact congrArg _ (writeRingCfg_refused hp hb hok)
  · intro hp hb
    exact congrArg _ (writeRingCfg_disables hp hb hclear)
  · intro hp
    refine ⟨execRingAssign_frees hp, fun ho hl hf hb hfree => execRingAssign_assigns hp ho hl hf hb ?_, execRingAssign_closed hp⟩
    rintro ⟨hfn, x, hx, hne, hst, hxf, hxs⟩
    rcases hfree with h | h
    · exact hfn h
    · rcases h x hx with e | e | e | e
      · exact hne e
      · exact hst e
      · exact e hxf
      · exact e hxs
  · exact execVfAssign_passes

end Sys2Proof.Machine

/-! SUPPORT. The keys that KEY_INSTALL enters, the grants of GRANT and REVOKE, the key-encryption key and the coarse telemetry
(R400, R404 to R407, R416). -/

namespace Sys2Proof.Machine

section
variable {α : Type} [DecidableEq α] {xs : List α} {x y : α}

/-- A member put in is there, and nothing of the list goes. -/
theorem mem_setMember_true : x ∈ setMember xs y true ↔ x = y ∨ x ∈ xs := by
  unfold setMember
  by_cases h : y ∈ xs
  · simp only [List.contains_iff_mem.mpr h, if_true]
    exact ⟨.inr, fun k => k.elim (· ▸ h) id⟩
  · simp [h, or_comm]

/-- A member taken out, by whatever test of equality. -/
theorem setMember_false [BEq α] [LawfulBEq α] : setMember xs y false = xs.filter fun x => x != y :=
  List.filter_congr fun _ _ => Bool.eq_iff_iff.mpr ((@bne_iff_ne _ instBEqOfDecidableEq _ _ _).trans bne_iff_ne.symm)

end

section
variable {s : State} {id : Nat} {d : Dispatched} {kind bolt tenant : Nat} {ct : Oaep}

theorem execKeyInstall_notReady (h : Admitted s id 0x18 fromKey d) (hp : d.entry.payload = .keyInstall kind bolt tenant ct)
    (hk : s.sec.kekReady = false) : execKeyInstall id s = .next (finishEntry s d 0x40 0) := by
  simp [execKeyInstall, command_of_admitted h, hp, hk]

/-- A key is named as the rules allow: a weight key for every bolt, or a data key, and a tenant that there is. -/
def KeyNamed (kind bolt tenant : Nat) : Prop := (kind = 1 ∧ bolt = 0xFF ∨ kind = 2) ∧ tenant < 4096

theorem KeyNamed.not_invalid (h : KeyNamed kind bolt tenant) : ¬((kind ≠ 1 ∧ kind ≠ 2) ∨ (kind = 1 ∧ bolt ≠ 0xFF) ∨ 4096 ≤ tenant) := by
  obtain ⟨hk, ht⟩ := h
  omega

theorem execKeyInstall_enters {e : KeyEntry} (h : Admitted s id 0x18 fromKey d) (hp : d.entry.payload = .keyInstall kind bolt tenant ct)
    (hk : s.sec.kekReady = true) (hn : KeyNamed kind bolt tenant) (hu : unwrapKey s kind bolt tenant ct = some e)
    (hr : keyRefused s kind bolt tenant (some e) = none) :
    execKeyInstall id s = .next (finishEntry (installKey s kind bolt tenant e) d 0 0) := by
  simp only [execKeyInstall, command_of_admitted h, hp, hk, Bool.not_true, Bool.false_eq_true, if_false]
  rw [if_neg hn.not_invalid]
  simp only [hu, hr]

/-- A refused key is answered with the first check that fails, counted and raised (R405). -/
theorem execKeyInstall_refused {st : Nat} (h : Admitted s id 0x18 fromKey d) (hp : d.entry.payload = .keyInstall kind bolt tenant ct)
    (hk : s.sec.kekReady = true) (hn : KeyNamed kind bolt tenant)
    (hr : keyRefused s kind bolt tenant (unwrapKey s kind bolt tenant ct) = some st) :
    execKeyInstall id s =
      .next (finishEntry (raiseEvent (bumpFor s .sec 0x0A0 [(12, tenant)]) .sec 17 [(12, tenant)]) d st 0) := by
  simp only [execKeyInstall, command_of_admitted h, hp, hk, Bool.not_true, Bool.false_eq_true, if_false]
  rw [if_neg hn.not_invalid]
  simp only [hr]
  cases unwrapKey s kind bolt tenant ct <;> rfl

variable {b : Bolt}

/-- A grant or a revocation under a tag that does not verify is refused as a signed command (R407). -/
theorem execGrant_refused (hb : getBolt s d.entry.bolt = some b) (h : Admitted s id 0x19 fromOwnerVf d) (ht : grantTagOk s d b = false) :
    execGrant id s = .next (signedRefused s d 0x2E) := by
  simp [execGrant, command_of_admitted h, hb, ht]

theorem execGrant_enters (hb : getBolt s d.entry.bolt = some b) (h : Admitted s id 0x19 fromOwnerVf d) (ht : grantTagOk s d b = true) :
    execGrant id s = .next (finishEntry { newNonce s with
      sec := { (newNonce s).sec with grants := setMember s.sec.grants (d.entry.bolt, d.entry.tenant) true } } d 0 0) := by
  simp only [execGrant, command_of_admitted h, hb, ht]
  rfl

theorem execRevoke_refused (hb : getBolt s d.entry.bolt = some b) (h : Admitted s id 0x1A fromOwnerVf d) (ht : grantTagOk s d b = false) :
    execRevoke id s = .next (signedRefused s d 0x2E) := by
  simp [execRevoke, command_of_admitted h, hb, ht]

theorem execRevoke_takesOut (hb : getBolt s d.entry.bolt = some b) (h : Admitted s id 0x1A fromOwnerVf d) (ht : grantTagOk s d b = true) :
    let g := (d.entry.bolt, d.entry.tenant)
    let s1 := { newNonce s with sec := { (newNonce s).sec with grants := s.sec.grants.filter fun x => x != g } }
    execRevoke id s = .next (pumpLoads (finishEntry
      ((s1.sessions.filter fun kv => kv.2.st != .free && kv.2.bolt == g.1 && kv.2.tenant == g.2).foldl (fun s kv => closeSession s kv.1 none) s1) d 0 0)) := by
  simp only [execRevoke, command_of_admitted h, hb, ht, setMember_false]
  rfl

end

section
variable {s : State}

theorem execKekReady_waiting (hk : s.sec.kekReady = false) (hi : s.sec.kekId ≠ 0) (hr : s.start.restarting = false) (h3 : 3 ≤ s.start.phase)
    (h9 : s.start.phase ≠ 9) : execKekReady s = .next { s with sec := { s.sec with kekReady := true } } := by
  refine congrArg _ (if_neg ?_)
  simp only [hk, hr, hi, h9, Bool.false_eq_true, false_or, or_false]
  omega

/-- The coarse temperature: a mean below zero shows a value that is not specified (R416). -/
def coarseTempOf (s : State) (c : Int) : BitVec 8 := if c < 0 then (Config.freeWord s.freeCtr).setWidth 8 else BitVec.ofInt 8 (c / 64)

theorem execPowerCoarseWindow_eq {w : Nat} {c : Int} : execPowerCoarseWindow w c s = .next { s with
    freeCtr := s.freeCtr + 1, sec := { s.sec with coarsePower := BitVec.ofNat 16 (5 * (w / 5)), coarseTemp := coarseTempOf s c } } := by
  rw [Nat.mul_comm 5]
  rfl

end

/-- Settles O45: each command on its own admitted entry, the entry of a key only where no check refuses it. -/
theorem keysAndGrantsAreInstalled : Obligations.KeysAndGrantsAreInstalled := by
  unfold Obligations.KeysAndGrantsAreInstalled
  intro s id d
  refine ⟨fun h kind bolt tenant ct hp => ⟨execKeyInstall_notReady h hp, fun hk hkind ht => ⟨fun e => ?_, fun st => ?_⟩⟩,
    fun b hb h => ⟨execGrant_refused hb h, fun ht => ?_⟩, fun b hb h => ⟨execRevoke_refused hb h, execRevoke_takesOut hb h⟩,
    execKekReady_waiting, fun w c => ?_⟩
  · exact execKeyInstall_enters h hp hk ⟨hkind, ht⟩
  · exact execKeyInstall_refused h hp hk ⟨hkind, ht⟩
  · refine ⟨_, execGrant_enters hb h ht, ?_⟩
    simp only [finishEntry_fields]
    exact ⟨mem_setMember_true.mpr (.inl rfl), fun g hg => mem_setMember_true.mpr (.inr hg), rfl, rfl, rfl, rfl⟩
  · exact ⟨_, execPowerCoarseWindow_eq, rfl, fun hc => if_neg (Int.not_lt.mpr hc), rfl⟩

end Sys2Proof.Machine

/-! SUPPORT. The SPDM connections (R401 to R403): a request answers at the stage that it needs, and is the error 4 before it. -/

namespace Sys2Proof.Machine

section
variable {s : State} {v : Via} {ok : Bool} {act : State → State}

theorem spdmAnswer_inOrder (hon : spdmOn s v = true) (hok : ok = true) : spdmAnswer s v ok act = act s := by
  simp [spdmAnswer, hon, hok]

theorem spdmAnswer_outOfOrder (hon : spdmOn s v = true) (hok : ok = false) : spdmAnswer s v ok act = spdmError s v 4 := by
  simp [spdmAnswer, hon, hok]

theorem signedAnswer_rooted (h : s.sec.pufOk = true) : signedAnswer s v act = act s := by
  simp [signedAnswer, wrappedIdentity, identityWrapKey, ladderKey, pufRootOf, h]

theorem signedAnswer_rootless (h : s.sec.pufOk = false) : signedAnswer s v act = spdmError s v 5 := by
  simp [signedAnswer, wrappedIdentity, identityWrapKey, ladderKey, pufRootOf, h]

/-- The requests that need a connection whose algorithms are agreed. -/
def agreedRequests (v : Via) (slot : Nat) (nonce : BitVec 256) (i x : Nat) (ok : Bool) : List Instr :=
  [.getDigests v, .getCertificate v slot, .challenge v slot nonce, .getMeasurements v i, .keyExchange v x, .finish v ok, .keyUpdate v,
    .endSession v]

/-- Each of them needs the third stage or a later one. -/
theorem exec_agreedRequest {slot i x : Nat} {nonce : BitVec 256} {ok : Bool} {c : Instr} (hc : c ∈ agreedRequests v slot nonce i x ok) :
    ∃ (m : State → Bool) (act : State → State), (spdmStage s v < 3 → m s = false) ∧ exec c s = .next (spdmAnswer s v (m s) act) := by
  have early : ∀ k, spdmStage s v < 3 → 3 ≤ k → (spdmStage s v == k) = false := fun k h hk => beq_eq_false_iff_ne.mpr (by omega)
  have before : spdmStage s v < 3 → decide (3 ≤ spdmStage s v) = false := fun h => decide_eq_false (Nat.not_le.mpr h)
  simp only [agreedRequests, List.mem_cons, List.not_mem_nil, or_false] at hc
  rcases hc with rfl | rfl | rfl | rfl | rfl | rfl | rfl | rfl
  case inr.inr.inr.inr.inr.inl => exact ⟨fun s => spdmStage s v == 4, _, (early 4 · (by omega)), rfl⟩
  case inr.inr.inr.inr.inr.inr.inl => exact ⟨fun s => spdmStage s v == 5, _, (early 5 · (by omega)), rfl⟩
  case inr.inr.inr.inr.inr.inr.inr => exact ⟨fun s => spdmStage s v == 5, _, (early 5 · (by omega)), rfl⟩
  all_goals exact ⟨fun s => decide (3 ≤ spdmStage s v), _, before, rfl⟩

theorem execChallenge_signed {slot : Nat} {nonce : BitVec 256} {c : List Byte} (hon : spdmOn s v = true) (hk : 3 ≤ spdmStage s v)
    (hc : chainOf s slot = some c) : execChallenge v slot nonce s = .next (signedAnswer s v fun s =>
      emit s (.spdm v 0x03 (digestBytes (sha512 c) ++ natLe 32 nonce.toNat
        ++ Config.signatureBytes (digestBytes s.sec.identity) (digestBytes (sha512 c) ++ natLe 32 nonce.toNat)))) := by
  unfold execChallenge
  rw [spdmAnswer_inOrder hon (decide_eq_true hk)]
  simp only [hc]
  rfl

theorem execGetCertificate_there {slot : Nat} {c : List Byte} (hon : spdmOn s v = true) (hk : 3 ≤ spdmStage s v)
    (hc : chainOf s slot = some c) : execGetCertificate v slot s = .next (emit s (.spdm v 0x02 c)) := by
  unfold execGetCertificate
  rw [spdmAnswer_inOrder hon (decide_eq_true hk)]
  simp only [hc]

/-- Index 0 answers how many measurements there are: eight of the module and one of each bolt (R402). -/
theorem execGetMeasurements_count (hon : spdmOn s v = true) (hk : 3 ≤ spdmStage s v) :
    execGetMeasurements v 0 s = .next (emit s (.spdm v 0x60 [BitVec.ofNat 8 (8 + (boltList s).length)])) := by
  have e : (measured s).length = 8 + (boltList s).length := by simp only [measured, List.length_append, List.length_map]; rfl
  unfold execGetMeasurements
  rw [spdmAnswer_inOrder hon (decide_eq_true hk), if_pos rfl, e]

theorem execGetMeasurements_one {i : Nat} {m : List Byte} (hon : spdmOn s v = true) (hk : 3 ≤ spdmStage s v) (h0 : i ≠ 0) (hF : i ≠ 0xFF)
    (hm : measurement s i = some m) : execGetMeasurements v i s = .next (emit s (.spdm v 0x60 (BitVec.ofNat 8 i :: m))) := by
  unfold execGetMeasurements
  rw [spdmAnswer_inOrder hon (decide_eq_true hk), if_neg h0, if_neg hF]
  simp only [hm]

theorem execKeyExchange_signed {x : Nat} (hon : spdmOn s v = true) (hk : 3 ≤ spdmStage s v) :
    execKeyExchange v x s = .next (signedAnswer s v fun s =>
      emit (setSpdm s v 4 0) (.spdm v 0x64 (Config.signatureBytes (digestBytes s.sec.identity) (natLe 512 x)))) := by
  unfold execKeyExchange
  rw [spdmAnswer_inOrder hon (decide_eq_true hk)]
  rfl

/-- A request at the one stage that it is for. -/
theorem spdmAnswer_atStage {k : Nat} (hon : spdmOn s v = true) (hk : spdmStage s v = k) :
    spdmAnswer s v (spdmStage s v == k) act = act s :=
  spdmAnswer_inOrder hon (beq_iff_eq.mpr hk)

theorem spdmStage_of_found {x : Spdm} (h : s.sec.spdm.find? (fun x => x.via == v) = some x) : spdmStage s v = x.stage := by
  unfold spdmStage
  rw [h]

theorem execKeyUpdate_inSession {x : Spdm} (hon : spdmOn s v = true) (h : s.sec.spdm.find? (fun x => x.via == v) = some x)
    (h5 : x.stage = 5) : execKeyUpdate v s = .next (emit (setSpdm s v 5 (x.keyGen + 1)) (.spdm v 0x69 [])) := by
  unfold execKeyUpdate
  rw [spdmAnswer_atStage hon ((spdmStage_of_found h).trans h5)]
  simp only [h]

end

/-! ### IDE streams and device interfaces (R417, R418) -/

section
variable {s : State} {v : Via} {port vf stream : Nat}

/-- IDE_KM programs a stream under its number (R417). -/
theorem execVendorDefinedRequest_ideKeyProg {requester : Nat} {key : BitVec 256} (hon : spdmOn s v = true) (h5 : spdmStage s v = 5)
    (hp : port < 2) (hst : stream ≤ 256) (hr : requester ≤ 255) : ∃ x : IdeStream,
      x.port = port ∧ x.stream = stream ∧ x.key = key ∧ x.requester = requester
      ∧ execVendorDefinedRequest v (.ideKeyProg port stream requester key) s = .next
        (emit { s with sec := { s.sec with ide := (s.sec.ide.filter fun x => !(x.port == port && x.stream == stream)) ++ [x] } }
          (.spdm v 0x7E [])) := by
  refine ⟨⟨port, stream, requester, key, match findIde s port stream with | some x => x.secure && x.requester == requester | none => false⟩,
    rfl, rfl, rfl, rfl, ?_⟩
  unfold execVendorDefinedRequest
  rw [spdmAnswer_atStage hon h5]
  exact congrArg _ (if_neg (by omega))

/-- What is put in the place of all that a test finds is found by it. -/
theorem find?_replaced {α : Type} {test : α → Bool} {xs : List α} {x : α} (hx : test x = true) :
    ((xs.filter fun a => !test a) ++ [x]).find? test = some x := by
  have hnone : (xs.filter fun a => !test a).find? test = none :=
    List.find?_eq_none.mpr fun a ha => by simpa using (List.mem_filter.mp ha).2
  simp [hnone, hx]

/-- A test that what is replaced and what is put there both fail finds what it found. -/
theorem find?_others {α : Type} {test other : α → Bool} {xs : List α} {x : α} (hx : other x = false)
    (hd : ∀ a, other a = true → test a = false) : ((xs.filter fun a => !test a) ++ [x]).find? other = xs.find? other := by
  induction xs with
  | nil => simp [hx]
  | cons a xs ih =>
    by_cases ha : other a = true
    · simp [ha, hd a ha]
    · cases ht : test a <;> simp_all

/-- The stream of a number, among the streams. -/
theorem isStream_iff {x : IdeStream} : (x.port == port && x.stream == stream) = true ↔ x.port = port ∧ x.stream = stream := by
  simp

theorem execVendorDefinedRequest_ideGo (hon : spdmOn s v = true) (h5 : spdmStage s v = 5) (hf : findIde s port stream ≠ none)
    (hu : (getPort s port).up = true) (hl : (getPort s port).flit = true) : execVendorDefinedRequest v (.ideGo port stream) s = .next
      (emit { s with sec := { s.sec with ide := s.sec.ide.map fun x =>
        if x.port = port ∧ x.stream = stream then { x with secure := true } else x } } (.spdm v 0x7E [])) := by
  unfold execVendorDefinedRequest
  rw [spdmAnswer_atStage hon h5]
  exact congrArg _ (if_pos (by simp [hu, hl, Option.isSome_iff_ne_none, hf]))

theorem execVendorDefinedRequest_ideStop_absent (hon : spdmOn s v = true) (h5 : spdmStage s v = 5) (hf : findIde s port stream = none) :
    execVendorDefinedRequest v (.ideStop port stream) s = .next (spdmError s v 1) := by
  unfold execVendorDefinedRequest
  rw [spdmAnswer_atStage hon h5]
  simp only [hf]

/-- An interface that is locked and has a secure stream of its own starts (R418). -/
theorem execVendorDefinedRequest_tdispStart (hon : spdmOn s v = true) (h5 : spdmStage s v = 5) (ht : (getVf s port vf).tdi = .locked)
    (hx : ∃ x ∈ s.sec.ide, x.port = port ∧ x.requester = vf ∧ x.stream ≠ 0 ∧ x.secure = true) :
    execVendorDefinedRequest v (.tdispStart port vf) s = .next (emit (modVf s port vf fun v => { v with tdi := .run }) (.spdm v 0x7E [2])) := by
  have hbound : (s.sec.ide.any fun x => x.port == port && x.requester == vf && x.stream != 0 && x.secure) = true := by
    simpa [and_assoc] using hx
  unfold execVendorDefinedRequest
  rw [spdmAnswer_atStage hon h5]
  refine congrArg _ ((if_pos ⟨ht, hbound⟩).trans ?_)
  rw [tdispAnswer, getVf_modVf]

theorem lockIf_unlocked (hp : pageExists s (.tenant port vf) = true) (ht : (getVf s port vf).tdi = .unlocked) :
    lockIf s port vf = modVf s port vf fun v => { v with tdi := .locked } :=
  if_pos (by simp [hp, ht])

theorem lockIf_taken (ht : (getVf s port vf).tdi ≠ .unlocked) : lockIf s port vf = s :=
  if_neg (by simp [ht])

/-- The streams of an interface that fails are secure no more. -/
theorem execTdiError_locked (ht : (getVf s port vf).tdi ≠ .unlocked) : execTdiError port vf s = .next
    (tdiFail { s with sec := { s.sec with ide := s.sec.ide.map fun x =>
      if x.port = port ∧ x.stream ≠ 0 ∧ x.requester = vf then { x with secure := false } else x } } port vf) := by
  simp only [execTdiError, ne_eq, ht, not_false_eq_true, and_true]

end

/-- Settles O46: the requests by the stage that each needs, the interfaces by the state that each is in. -/
theorem attestationStreamsAndInterfaces : Obligations.AttestationStreamsAndInterfaces := by
  unfold Obligations.AttestationStreamsAndInterfaces
  refine ⟨fun s v hon => ⟨?_, ?_, ?_, ?_, ?_, ?_, ?_, ?_⟩, fun s v port vf => ⟨?_, ?_, ?_, ?_, ?_, ?_⟩⟩
  · exact congrArg _ (spdmAnswer_inOrder hon rfl)
  · exact fun hk => congrArg _ (spdmAnswer_atStage hon hk)
  · exact fun hk => congrArg _ (spdmAnswer_atStage hon hk)
  · exact fun hk => congrArg _ (spdmAnswer_atStage hon hk)
  · intro hk
    refine ⟨congrArg _ (spdmAnswer_inOrder hon (decide_eq_true hk)), fun slot c => execGetCertificate_there hon hk, fun slot nonce c hc => ⟨?_, ?_⟩,
      execGetMeasurements_count hon hk, fun i m => execGetMeasurements_one hon hk, fun x => ⟨?_, ?_⟩⟩
    · exact fun hp => (execChallenge_signed hon hk hc).trans (congrArg _ (signedAnswer_rooted hp))
    · exact fun hp => (execChallenge_signed hon hk hc).trans (congrArg _ (signedAnswer_rootless hp))
    · exact fun hp => (execKeyExchange_signed hon hk).trans (congrArg _ (signedAnswer_rooted hp))
    · exact fun hp => (execKeyExchange_signed hon hk).trans (congrArg _ (signedAnswer_rootless hp))
  · exact fun hk => ⟨congrArg _ (spdmAnswer_atStage hon hk), congrArg _ (spdmAnswer_atStage hon hk)⟩
  · exact fun x hx h5 => ⟨execKeyUpdate_inSession hon hx h5, congrArg _ (spdmAnswer_atStage hon ((spdmStage_of_found hx).trans h5))⟩
  · intro slot nonce i x ok hk c hc
    obtain ⟨m, act, hm, e⟩ := exec_agreedRequest (s := s) (v := v) (slot := slot) (nonce := nonce) (i := i) (x := x) (ok := ok) hc
    exact e.trans (congrArg _ (spdmAnswer_outOfOrder hon (hm hk)))
  · intro hon h5
    refine ⟨fun stream requester key hp hst hr => ?_, fun stream => ⟨?_, execVendorDefinedRequest_ideStop_absent hon h5⟩,
      execVendorDefinedRequest_tdispStart hon h5⟩
    · obtain ⟨x, hxp, hxs, hxk, hxr, e⟩ := execVendorDefinedRequest_ideKeyProg (key := key) hon h5 hp hst hr
      refine ⟨_, e, ⟨x, find?_replaced (isStream_iff.mpr ⟨hxp, hxs⟩), hxk, hxr⟩, fun p k hne => find?_others ?_ ?_, rfl⟩
      · refine Bool.eq_false_iff.mpr fun hx => ?_
        obtain ⟨hp', hk'⟩ := isStream_iff.mp hx
        exact hne ⟨hp'.symm.trans hxp, hk'.symm.trans hxs⟩
      · intro a ha
        obtain ⟨hp', hk'⟩ := isStream_iff.mp ha
        refine Bool.eq_false_iff.mpr fun ha' => ?_
        obtain ⟨hp'', hk''⟩ := isStream_iff.mp ha'
        exact hne ⟨hp'.symm.trans hp'', hk'.symm.trans hk''⟩
    · exact fun ⟨hf, hu, hl⟩ => execVendorDefinedRequest_ideGo hon h5 hf hu hl
  · exact fun hp ht => congrArg _ (lockIf_unlocked hp ht)
  · exact fun ht => congrArg _ (lockIf_taken ht)
  · exact fun ht => congrArg _ (if_pos ht)
  · exact fun ht => congrArg _ (if_neg ht)
  · intro ht
    refine execTdiError_locked ?_
    rcases ht with ht | ht <;> simp [ht]

end Sys2Proof.Machine

/-! SUPPORT. The ports: heartbeats and adoption, link changes, resets of functions and ports, configuration writes and the answers to ATS
invalidations (R417, R418, R424, R426, R446, R449, R450, R453, R454, R481, R490). -/

namespace Sys2Proof.Machine

section
variable {s : State} {port : Nat}

theorem execHeartbeat_own (hp : Passes s (.pf port) (.host port) 0x0B0) :
    let t := modPort s port fun q => { q with pair := .live, lastHb := some s.now }
    execHeartbeat (.pf port) port s = .next
      (if (getPort s port).pair = .lost ∧ (getPort s (1 - port)).pair = .lost ∧ bit (getReg s .die 0x580) 1 = true then adopt t (1 - port) else t) := by
  simp only [execHeartbeat, gated_of_passes hp, bne_self_eq_false]
  rfl

/-- A heartbeat that the management window writes counts for no port (R449). -/
theorem execHeartbeat_mgmt (hp : Passes s .mgmt (.host port) 0x0B0) : execHeartbeat .mgmt port s = .next s := by
  rw [execHeartbeat, gated_of_passes hp]
  rfl

/-- A port has been silent, or its link down, for as long as the pair allows (R449). -/
def PortOverdue (s : State) (port : Nat) : Prop :=
  (∃ t, (getPort s port).lastHb = some t ∧ t + pairInterval s * field (pairCtrl s) 19 16 ≤ s.now)
    ∨ ∃ t, (getPort s port).downSince = some t ∧ t + pairInterval s ≤ s.now

theorem execHeartbeatLoss_overdue (h2 : port < 2) (hen : bit (pairCtrl s) 0 = true) (hl : (getPort s port).pair = .live)
    (ho : PortOverdue s port) :
    let t := raiseEvent (bumpFor (modPort s port fun q => { q with pair := .lost }) (.host (1 - port)) 0x0D0 [(2, port)]) (.host (1 - port)) 16 [(2, port)]
    execHeartbeatLoss port s = .next
      (if bit (pairCtrl s) 1 = true ∧ (getPort t (1 - port)).pair = .live then adopt t port else t) := by
  intro t
  unfold execHeartbeatLoss
  extract_lets q silent down s1 s2
  have hdue : ¬(2 ≤ port ∨ !bit (pairCtrl s) 0 ∨ q.pair ≠ .live ∨ (!silent && !down) = true) := by
    have hsd : silent = true ∨ down = true := by
      rcases ho with ⟨t, ht, hle⟩ | ⟨t, ht, hle⟩
      · exact .inl (by simp [silent, q, ht, hle])
      · exact .inr (by simp [down, q, ht, hle])
    rcases hsd with h | h <;> simp [h, hen, q, hl, Nat.not_le.mpr h2]
  rw [if_neg hdue]
  refine congrArg _ (if_congr ?_ rfl rfl)
  rw [Bool.and_eq_true, beq_iff_eq]

/-- The interfaces of a port that a test picks end in ERROR (R418). -/
def failVfs (s : State) (port : Nat) (test : Nat → Bool) : State :=
  (lockedVfs s port).foldl (fun s v => if test v then tdiFail s port v else s) s

/-- The port's link as a change leaves it (R424). -/
def Port.relinked (now rate width : Nat) (flit up : Bool) (q : Port) : Port :=
  { q with
    rate := rate
    width := width
    flit := flit
    up := up
    retrains := if up then (if q.retrains = 0xFFFF then q.retrains else q.retrains + 1) else q.retrains
    downSince := if up then none else some (q.downSince.getD now) }

theorem execLinkChange_changed {rate width : Nat} {flit up : Bool} (h2 : port < 2) (hr : (getPort s port).released = true)
    (hc : ¬((getPort s port).rate = rate ∧ (getPort s port).width = width ∧ (getPort s port).flit = flit ∧ (getPort s port).up = up)) :
    let t := modPort s port (Port.relinked s.now rate width flit up)
    let u := if up = true ∧ flit = true then t else
      (lockedVfs t port).foldl (fun s v => tdiFail s port v) { t with sec := { t.sec with ide := t.sec.ide.filter fun x => x.port != port } }
    execLinkChange port rate width flit up s = .next
      (if (getPort s port).rate = rate ∧ (getPort s port).width = width ∧ (getPort s port).up = up then u
       else raiseEvent u (.host port) 20 [(2, port)]) := by
  intro t u
  unfold execLinkChange
  have hcond : ¬(2 ≤ port ∨ (!(getPort s port).released) = true ∨ ((getPort s port).rate = rate ∧ (getPort s port).width = width
      ∧ (getPort s port).flit = flit ∧ (getPort s port).up = up)) := by
    simp only [hr, hc, or_false, Bool.not_true, Bool.false_eq_true]
    omega
  have hu : u = if (up && flit) = true then t else
      (lockedVfs t port).foldl (fun s v => tdiFail s port v) { t with sec := { t.sec with ide := t.sec.ide.filter fun x => x.port != port } } :=
    if_congr Bool.and_eq_true_iff.symm rfl rfl
  rw [hu]
  exact congrArg _ (if_neg hcond)

/-- A reset of one function of a port, and of all of them (R490). -/
theorem execFlr_one {fn : Nat} (h2 : port < 2) (hf : fn ≠ 0) :
    execFlr port fn s = .next (resetFn (failVfs s port fun v => v == fn) port fun f => f == fn) := by
  have hd : (lockedVfs s port).foldl (fun s v => if fn = 0 ∨ v = fn then tdiFail s port v else s) s = failVfs s port fun v => v == fn := by
    simp [failVfs, hf]
  simp only [execFlr, Nat.not_le.mpr h2, if_false, hd, if_neg hf, beq_eq_false_iff_ne.mpr hf, Bool.false_or]

theorem execFlr_all (h2 : port < 2) : execFlr port 0 s = .next
    (modPort (resetFn (failVfs s port fun _ => true) port fun _ => true) port fun q => { q with numVfs := 0 }) := by
  simp [execFlr, Nat.not_le.mpr h2, failVfs]

/-! ### PERST# -/

/-- Settling rings leaves the ports and the streams. -/
theorem settleRings_keeps {ks : List Nat} {t : State} :
    let u := ks.foldl (fun s k => settleRing s port k) t
    u.port0 = t.port0 ∧ u.port1 = t.port1 ∧ u.sec = t.sec := by
  induction ks generalizing t with
  | nil => exact ⟨rfl, rfl, rfl⟩
  | cons k ks ih =>
    obtain ⟨h0, h1, hs⟩ := ih (t := settleRing t port k)
    exact ⟨h0.trans (by simp), h1.trans (by simp), hs.trans (by simp)⟩

theorem getPort_congr {t : State} (h0 : t.port0 = s.port0) (h1 : t.port1 = s.port1) : getPort t port = getPort s port := by
  unfold getPort
  rw [h0, h1]

/-- What a reset of every function leaves of a port's own marks. -/
theorem resetFn_all : (getPort (resetFn s port fun _ => true) port).msixOn = [] ∧ (getPort (resetFn s port fun _ => true) port).busMaster = [] := by
  unfold resetFn
  rw [getPort_modPort]
  exact ⟨List.filter_false _, List.filter_false _⟩

theorem execPerstAssert_released (h2 : port < 2) (hr : (getPort s port).released = true) : ∃ t, execPerstAssert port s = .next t
    ∧ (getPort t port).released = false ∧ (getPort t port).up = false ∧ (getPort t port).numVfs = 0 ∧ (getPort t port).msixOn = []
    ∧ (getPort t port).busMaster = [] ∧ (∀ x ∈ t.sec.ide, x.port ≠ port) := by
  have hcond : ¬(2 ≤ port ∨ (!(getPort s port).released) = true) := by
    rw [hr]
    simp [h2]
  unfold execPerstAssert
  rw [if_neg hcond]
  refine ⟨_, rfl, ?_⟩
  extract_lets s1 s2 s3 _ s4 s5
  obtain ⟨h0, h1, hs⟩ := settleRings_keeps (port := port) (ks := portRings s4 port) (t := s4)
  have hport : getPort s5 port = getPort s3 port := getPort_congr h0 h1
  have hide : ∀ x ∈ s5.sec.ide, x.port ≠ port := by
    intro x hx
    have hx4 : x ∈ s4.sec.ide := hs ▸ hx
    simpa using (List.mem_filter.mp hx4).2
  obtain ⟨hm, hb⟩ := resetFn_all (s := s2) (port := port)
  simp only [getPort_modPort, hport, modPort_fields, true_and]
  exact ⟨hm, hb, hide⟩

/-! ### Configuration and ATS -/

/-- A configuration write of a released port is taken. -/
theorem configured_of_released (h2 : port < 2) (hr : (getPort s port).released = true) : ¬(2 ≤ port ∨ (!(getPort s port).released) = true) := by
  rw [hr]
  simp [h2]

theorem execConfigurationRequest_powerState {fn : Nat} {hot : Bool} (h2 : port < 2) (hr : (getPort s port).released = true)
    (hl : fn = 0 ∨ vfLocked s port fn = false) : execConfigurationRequest port (.powerState fn hot) s = .next
      (modPort s port fun q => { q with d3hot := setMember q.d3hot fn hot }) := by
  refine congrArg _ ((if_neg (configured_of_released h2 hr)).trans (if_neg fun h => ?_))
  obtain ⟨hf, hv⟩ := h
  have hv' : vfLocked s port fn = true := by
    rw [← hv]
    simp [vfLocked, getVf]
  rcases hl with h | h
  · exact hf h
  · exact Bool.false_ne_true (h.symm.trans hv')

/-- A write of a register that the module gives no meaning is read back as written (R453). -/
theorem execConfigurationRequest_other {fn off : Nat} {v : BitVec 32} (h2 : port < 2) (hr : (getPort s port).released = true) :
    ∃ t, execConfigurationRequest port (.other fn off v) s = .next t ∧ mapGet 0 (getPort t port).cfgSpace (fn * 4096 + off) = v := by
  unfold execConfigurationRequest
  rw [if_neg (configured_of_released h2 hr)]
  refine ⟨_, rfl, ?_⟩
  rw [getPort_modPort]
  exact mapGet_mapSet_self

theorem execAtsInvalidation_answers {page : Word} {size : Nat} (h2 : port < 2) : ∃ t, execAtsInvalidation port page size s = .next t
    ∧ t.out = s.out ++ [.atsAnswer port]
    ∧ (getPort t port).ats = (getPort s port).ats.filter fun x => !(decide (page.toNat < x.1.toNat + x.2 ∧ x.1.toNat < page.toNat + size)) := by
  unfold execAtsInvalidation
  rw [if_neg (Nat.not_le.mpr h2)]
  refine ⟨_, rfl, ?_, ?_⟩
  · simp only [emit_out, modPort_fields]
  · exact congrArg Port.ats getPort_modPort

end

/-- Settles O47: each row in the cases that its statement names, the interfaces that fail picked by `failVfs`. -/
theorem portsLinksAndFunctions : Obligations.PortsLinksAndFunctions := by
  unfold Obligations.PortsLinksAndFunctions
  refine ⟨fun s port => ⟨execHeartbeat_own, execHeartbeat_mgmt, execHeartbeatLoss_overdue⟩, fun s port fn h2 => ?_⟩
  refine ⟨fun rate width flit up hr hc => execLinkChange_changed h2 hr hc, execFlr_one h2, execFlr_all h2, execPerstAssert_released h2,
    fun ha => ?_, fun hr => ⟨?_, ?_, fun hot hl => ?_, fun on => ?_, fun on => ?_, fun v masked => ?_, fun n => ?_, fun off v => ?_⟩, fun page size => ?_⟩
  · refine congrArg _ (if_neg ?_)
    rw [ha]
    simp [h2]
  · exact congrArg _ ((if_neg (configured_of_released h2 hr)).trans (by simp only [setMember, List.contains_iff_mem, if_true]))
  · exact congrArg _ ((if_neg (configured_of_released h2 hr)).trans (by simp only [setMember, List.contains_iff_mem, if_true, id]))
  · exact execConfigurationRequest_powerState h2 hr hl
  · exact congrArg _ (if_neg (configured_of_released h2 hr))
  · exact congrArg _ (if_neg (configured_of_released h2 hr))
  · exact congrArg _ (if_neg (configured_of_released h2 hr))
  · exact congrArg _ (if_neg (configured_of_released h2 hr))
  · exact execConfigurationRequest_other h2 hr
  · exact execAtsInvalidation_answers h2

end Sys2Proof.Machine

/-! SUPPORT. The governor's moves (R462, R472, R473): what an episode that opens leaves, and the one move of an interval over the limit. -/

namespace Sys2Proof.Machine

section
variable {s : State} {value rail code : Nat}

/-- Of the power state, an episode that opens changes its own mark alone. -/
theorem openOverride_power : (openOverride s value).power = { s.power with overrideOpen := true } := by
  unfold openOverride
  split
  · next h => rw [← h]
  · simp

theorem openClamp_power : (openClamp s rail code).power = { s.power with clampOpen := true } := by
  unfold openClamp
  split
  · next h => rw [← h]
  · simp

@[simp] theorem openOverride_fields : (openOverride s value).regs = s.regs ∧ (openOverride s value).hk = s.hk
    ∧ (openOverride s value).panels = s.panels ∧ (openOverride s value).jobs = s.jobs := by
  unfold openOverride
  split
  · exact ⟨rfl, rfl, rfl, rfl⟩
  · simp

@[simp] theorem openClamp_fields : (openClamp s rail code).regs = s.regs ∧ (openClamp s rail code).hk = s.hk
    ∧ (openClamp s rail code).panels = s.panels ∧ (openClamp s rail code).jobs = s.jobs := by
  unfold openClamp
  split
  · exact ⟨rfl, rfl, rfl, rfl⟩
  · simp

/-- Events stand when an episode opens. -/
theorem openOverride_grown {q : PageId} : (getHdr s q).Grown (getHdr (openOverride s value) q) := by
  unfold openOverride
  split
  · exact .refl
  · refine .trans ?_ (raiseEvent_grown (s := bumpFor _ _ _ _))
    refine .trans ?_ bumpFor_grown
    rw [getHdr_of_hdrs bbRecord_hdrs]
    exact .refl

/-- The clamp that an interval over the limit opens: of the array rail, or else of the logic rail, where that rail is at its minimum. -/
def clampAtMinimum (s : State) : State :=
  if s.power.arrRail ≤ field (railBounds s) 7 0 then openClamp s 3 (field (railBounds s) 7 0)
  else if s.power.logRail ≤ field (railBounds s) 23 16 then openClamp s 2 (field (railBounds s) 23 16) else s

/-- The power state with the marks of the two kinds of episode. -/
def Power.withEpisodes (clamp override : Bool) (p : Power) : Power := { p with clampOpen := clamp, overrideOpen := override }

theorem clampAtMinimum_power : ∃ c, (clampAtMinimum s).power = s.power.withEpisodes c s.power.overrideOpen := by
  unfold clampAtMinimum
  split
  · exact ⟨true, openClamp_power⟩
  · split
    · exact ⟨true, openClamp_power⟩
    · exact ⟨s.power.clampOpen, rfl⟩

theorem clampAtMinimum_fields : (clampAtMinimum s).regs = s.regs ∧ (clampAtMinimum s).panels = s.panels
    ∧ (clampAtMinimum s).jobs = s.jobs := by
  unfold clampAtMinimum
  split
  · simp
  · split <;> simp

/-- The move of an interval over the limit, as a change of the duties and rails (R462). -/
def Power.overMoved (p : Power) (b : Word) (arrFloor attFloor : Nat) : Power :=
  if field b 7 0 < p.arrRail ∨ field b 23 16 < p.logRail then
    { p with
      arrRail := if field b 7 0 < p.arrRail then p.arrRail - 1 else p.arrRail
      logRail := if field b 23 16 < p.logRail then p.logRail - 1 else p.logRail }
  else if arrFloor < p.arrDuty then { p with arrDuty := p.arrDuty - 1 }
  else if attFloor < p.attDuty then { p with attDuty := p.attDuty - 1 }
  else if p.arrDuty ≤ 1 ∧ p.attDuty ≤ 1 then p
  else if (p.arrTurn = true ∧ 1 < p.arrDuty) ∨ p.attDuty ≤ 1 then { p with arrDuty := p.arrDuty - 1, arrTurn := false }
  else { p with attDuty := p.attDuty - 1, arrTurn := true }

/-- An interval over the limit makes that move, opens episodes, and changes nothing else of the power state. -/
theorem overMove_power : ∃ c o, (overMove s).power = (s.power.overMoved (railBounds s) (arrFloor s) (attFloor s)).withEpisodes c o := by
  obtain ⟨c, hc⟩ := clampAtMinimum_power (s := s)
  unfold overMove
  extract_lets p aMin lMin s1 q
  have hs1 : s1.power = s.power.withEpisodes c s.power.overrideOpen := hc
  have hq : q = s.power.withEpisodes c s.power.overrideOpen := hc
  clear_value q s1
  subst p aMin lMin
  unfold Power.overMoved
  by_cases hrail : field (railBounds s) 7 0 < s.power.arrRail ∨ field (railBounds s) 23 16 < s.power.logRail
  · rw [if_pos hrail, if_pos hrail]
    exact ⟨c, s.power.overrideOpen, by simp only [hq, Power.withEpisodes]⟩
  rw [if_neg hrail, if_neg hrail]
  by_cases harr : arrFloor s < s.power.arrDuty
  · rw [if_pos harr, if_pos harr]
    exact ⟨c, s.power.overrideOpen, by simp only [hq, Power.withEpisodes]⟩
  rw [if_neg harr, if_neg harr]
  by_cases hatt : attFloor s < s.power.attDuty
  · rw [if_pos hatt, if_pos hatt]
    exact ⟨c, s.power.overrideOpen, by simp only [hq, Power.withEpisodes]⟩
  rw [if_neg hatt, if_neg hatt]
  by_cases hlow : s.power.arrDuty ≤ 1 ∧ s.power.attDuty ≤ 1
  · rw [if_pos hlow, if_pos hlow]
    exact ⟨c, s.power.overrideOpen, hs1⟩
  rw [if_neg hlow, if_neg hlow]
  by_cases hturn : (s.power.arrTurn = true ∧ 1 < s.power.arrDuty) ∨ s.power.attDuty ≤ 1
  · rw [if_pos hturn, if_pos hturn]
    exact ⟨c, true, by simp only [openOverride_power, hq, Power.withEpisodes]⟩
  · rw [if_neg hturn, if_neg hturn]
    exact ⟨c, true, by simp only [openOverride_power, hq, Power.withEpisodes]⟩

theorem overMove_fields : (overMove s).regs = s.regs ∧ (overMove s).panels = s.panels ∧ (overMove s).jobs = s.jobs := by
  unfold overMove
  extract_lets p aMin lMin s1
  have hs1 : s1.regs = s.regs ∧ s1.panels = s.panels ∧ s1.jobs = s.jobs := clampAtMinimum_fields
  clear_value s1
  split_ifs <;> simpa using hs1

/-- The state with an interval's input current. -/
def sensed (s : State) (ma : Nat) : State := { s with power := { s.power with inputMa := ma } }

/-- The state of an interval over the limit, before its move. -/
def overCurrent (s : State) (ma : Nat) : State :=
  { s with power := { s.power with inputMa := ma, underSince := none, slackSince := none } }

theorem towards_inside {lo hi v : Nat} (h1 : lo ≤ v) (h2 : v ≤ hi) : towards lo hi v = v := by
  rw [towards, if_neg (by omega), if_neg (by omega)]

/-- Rails in their bounds stay where they are (R473). -/
theorem intoBounds_inside {ma : Nat} (ha1 : field (railBounds s) 7 0 ≤ s.power.arrRail) (ha2 : s.power.arrRail ≤ field (railBounds s) 15 8)
    (hl1 : field (railBounds s) 23 16 ≤ s.power.logRail) (hl2 : s.power.logRail ≤ field (railBounds s) 31 24) :
    intoBounds (sensed s ma) = sensed s ma := by
  have e1 := towards_inside ha1 ha2
  have e2 := towards_inside hl1 hl2
  exact congrArg₂ (fun x y => { s with power := { s.power with inputMa := ma, arrRail := x, logRail := y } }) e1 e2

/-- With the rails in their bounds, an interval makes one move of the governor alone. -/
theorem execGovernorInterval_inside {ma : Nat} (hc : s.power.compute = true) (hr : s.start.restarting = false) (hp : s.start.phase = 7)
    (hk : compActs s = false) (ha1 : field (railBounds s) 7 0 ≤ s.power.arrRail) (ha2 : s.power.arrRail ≤ field (railBounds s) 15 8)
    (hl1 : field (railBounds s) 23 16 ≤ s.power.logRail) (hl2 : s.power.logRail ≤ field (railBounds s) 31 24) :
    execGovernorInterval ma s = .next (if effLimit s * 1000 < ma then overMove (overCurrent s ma)
      else underLimit (sensed s ma) ma (effLimit s * 1000) false) := by
  have hrun : ¬(!s.power.compute || s.start.restarting || s.start.phase != 7) = true := by simp [hc, hr, hp]
  unfold execGovernorInterval
  rw [if_neg hrun]
  extract_lets _ s1 turned limit s2 _ s3
  have hs1 : s1 = sensed s ma := intoBounds_inside ha1 ha2 hl1 hl2
  have hturned : turned = false := by
    unfold turned
    rw [hs1]
    simp [sensed]
  have hlimit : limit = effLimit s * 1000 := by
    unfold limit
    rw [hs1]
    rfl
  have hk1 : compActs (sensed s ma) = false := hk
  have hs2 : s2 = sensed s ma := by
    unfold s2
    rw [hs1, hk1]
    rfl
  have hs3 : s3 = overCurrent s ma :=
    congrArg (fun u : State => { u with power := { u.power with underSince := none, slackSince := none } }) hs2
  rw [hturned, hlimit, hs2, hs3]
  rfl

theorem execGovernorInterval_idle {ma : Nat} (h : s.power.compute = false ∨ s.start.restarting = true ∨ s.start.phase ≠ 7) :
    execGovernorInterval ma s = .next s := by
  unfold execGovernorInterval
  refine congrArg _ (if_pos ?_)
  rcases h with h | h | h <;> simp [h]

section
variable {p : Power} {b : Word} {fa ft : Nat}

theorem Power.overMoved_rails (h : field b 7 0 < p.arrRail ∨ field b 23 16 < p.logRail) : p.overMoved b fa ft = { p with
    arrRail := if field b 7 0 < p.arrRail then p.arrRail - 1 else p.arrRail
    logRail := if field b 23 16 < p.logRail then p.logRail - 1 else p.logRail } := if_pos h

/-- With both rails at their minimums the duties move. -/
theorem Power.overMoved_duties (ha : p.arrRail = field b 7 0) (hl : p.logRail = field b 23 16) : p.overMoved b fa ft =
    if fa < p.arrDuty then { p with arrDuty := p.arrDuty - 1 }
    else if ft < p.attDuty then { p with attDuty := p.attDuty - 1 }
    else if p.arrDuty ≤ 1 ∧ p.attDuty ≤ 1 then p
    else if (p.arrTurn = true ∧ 1 < p.arrDuty) ∨ p.attDuty ≤ 1 then { p with arrDuty := p.arrDuty - 1, arrTurn := false }
    else { p with attDuty := p.attDuty - 1, arrTurn := true } := if_neg (by omega)

/-- A move changes nothing but duties, rails and the turn. -/
theorem Power.overMoved_thermalLimit : (p.overMoved b fa ft).thermalLimit = p.thermalLimit := by
  unfold Power.overMoved
  split_ifs <;> rfl

theorem Power.overMoved_duties_rails (ha : p.arrRail = field b 7 0) (hl : p.logRail = field b 23 16) :
    (p.overMoved b fa ft).arrRail = p.arrRail ∧ (p.overMoved b fa ft).logRail = p.logRail := by
  rw [Power.overMoved_duties ha hl]
  split_ifs <;> exact ⟨rfl, rfl⟩

theorem Power.overMoved_array (ha : p.arrRail = field b 7 0) (hl : p.logRail = field b 23 16) (hfa : fa < p.arrDuty) :
    p.overMoved b fa ft = { p with arrDuty := p.arrDuty - 1 } := by
  rw [Power.overMoved_duties ha hl, if_pos hfa]

theorem Power.overMoved_attention (ha : p.arrRail = field b 7 0) (hl : p.logRail = field b 23 16) (hfa : p.arrDuty ≤ fa)
    (hft : ft < p.attDuty) : p.overMoved b fa ft = { p with attDuty := p.attDuty - 1 } := by
  rw [Power.overMoved_duties ha hl, if_neg (by omega), if_pos hft]

/-- Duties at 1/64 stay there. -/
theorem Power.overMoved_lowest (ha : p.arrRail = field b 7 0) (hl : p.logRail = field b 23 16) (hfa : p.arrDuty ≤ fa) (hft : p.attDuty ≤ ft)
    (h1 : p.arrDuty ≤ 1) (h2 : p.attDuty ≤ 1) : p.overMoved b fa ft = p := by
  rw [Power.overMoved_duties ha hl, if_neg (by omega), if_neg (by omega), if_pos ⟨h1, h2⟩]

/-- Below both floors the duties go down in turn. -/
theorem Power.overMoved_turns (ha : p.arrRail = field b 7 0) (hl : p.logRail = field b 23 16) (hfa : p.arrDuty ≤ fa) (hft : p.attDuty ≤ ft)
    (h1 : 1 < p.arrDuty) (h2 : 1 < p.attDuty) :
    p.overMoved b fa ft = if p.arrTurn = true then { p with arrDuty := p.arrDuty - 1, arrTurn := false }
      else { p with attDuty := p.attDuty - 1, arrTurn := true } := by
  rw [Power.overMoved_duties ha hl, if_neg (by omega), if_neg (by omega), if_neg (by omega)]
  simp only [h1, Nat.not_le.mpr h2, and_true, or_false]

end

end

end Sys2Proof.Machine

/-! SUPPORT. The converters' readings and the thermal loop (R465 to R468): what a reading changes, and a step of the limit. -/

namespace Sys2Proof.Machine

/-- What every step of a fold leaves, the fold leaves. -/
theorem foldl_leaves {α β : Type} {f : State → β} {g : State → α → State} (h : ∀ s x, f (g s x) = f s) (xs : List α) (s : State) :
    f (xs.foldl g s) = f s := by
  induction xs generalizing s with
  | nil => rfl
  | cons x xs ih => exact (ih (g s x)).trans (h s x)

section
variable {s : State} {p t kind : Nat} {value : Int}

/-! ### Calibration's marks leave the housekeeping -/

theorem calControl_hk {v : Nat} : (calControl s kind v).hk = s.hk := by
  unfold calControl
  extract_lets s1
  have h : s1.hk = s.hk := by simp [s1]
  clear_value s1
  split <;> simp [h]

theorem calMark_hk {on : Bool} : (calMark s p t kind on).hk = s.hk := by simp [calMark]

theorem calPend_hk : (calPend s p t kind).hk = s.hk := by simp [calPend]

theorem calUnmark_hk : (calUnmark s p t).hk = s.hk := by
  unfold calUnmark
  extract_lets off
  have h (u : State) (k : Nat) (holds : Bool) : (off u k holds).hk = u.hk := by
    unfold off
    split
    · rfl
    · exact calMark_hk
  simp only [h]

theorem judgeStale_hk : (judgeStale s p t).hk = s.hk := by
  unfold judgeStale
  extract_lets
  split_ifs <;> simp

theorem autoTrigger_hk {ts : List (Nat × Nat)} {v : Nat} : (autoTrigger s ts kind v).hk = s.hk := by
  unfold autoTrigger
  extract_lets fresh s1
  have h : s1.hk = s.hk := by
    unfold s1
    split
    · rfl
    · rw [calControl_hk]
      exact foldl_leaves (f := State.hk) (fun _ _ => calMark_hk) _ _
  clear_value s1
  split
  · exact h
  · exact (foldl_leaves (f := State.hk) (fun _ _ => calPend_hk) _ _).trans h

theorem overrideTrigger_hk {ts : List (Nat × Nat)} {v : Nat} : (overrideTrigger s ts kind v).hk = s.hk := by
  unfold overrideTrigger
  extract_lets fresh
  split
  · rfl
  · exact (foldl_leaves (f := State.hk) (fun _ _ => calPend_hk.trans calMark_hk) _ _).trans calControl_hk

theorem calEvaluate_hk {ts : List (Nat × Nat)} : (calEvaluate s ts).hk = s.hk := by
  unfold calEvaluate
  extract_lets s1 s2 s3 s4
  have h1 : s1.hk = s.hk := foldl_leaves (f := State.hk) (fun _ _ => judgeStale_hk.trans calUnmark_hk) _ _
  have h2 : s2.hk = s1.hk := overrideTrigger_hk
  have h3 : s3.hk = s2.hk := foldl_leaves (f := State.hk) (fun u x => by split; exacts [overrideTrigger_hk, rfl]) _ _
  have h4 : s4.hk = s3.hk := autoTrigger_hk
  refine (foldl_leaves (f := State.hk) (fun u x => ?_) _ _).trans (h4.trans (h3.trans (h2.trans h1)))
  split
  exacts [autoTrigger_hk, rfl]

/-! ### Readings -/

/-- What the converters' own positions and readings show. -/
structure SameReadings (h k : Housekeeping) : Prop where
  readings : k.readings = h.readings
  posA : k.posA = h.posA
  posB : k.posB = h.posB
  passA : k.passA = h.passA
  passB : k.passB = h.passB
  injPending : k.injPending = h.injPending

theorem SameReadings.refl {h : Housekeeping} : SameReadings h h := ⟨rfl, rfl, rfl, rfl, rfl, rfl⟩

theorem SameReadings.trans {a b c : Housekeeping} (h : SameReadings a b) (k : SameReadings b c) : SameReadings a c :=
  ⟨k.readings.trans h.readings, k.posA.trans h.posA, k.posB.trans h.posB, k.passA.trans h.passA, k.passB.trans h.passB,
    k.injPending.trans h.injPending⟩

theorem SameReadings.of_eq {h k : Housekeeping} (e : k = h) : SameReadings h k := e ▸ .refl

theorem fastMode_readings : SameReadings s.hk (fastMode s value).hk := by
  unfold fastMode
  split
  · exact ⟨rfl, rfl, rfl, rfl, rfl, rfl⟩
  · exact ⟨rfl, rfl, rfl, rfl, rfl, rfl⟩

theorem orderlyStop_readings {rate : Nat} : SameReadings s.hk (orderlyStop s rate).hk := by
  unfold orderlyStop
  extract_lets _ _ s1
  exact .trans (b := s1.hk) ⟨rfl, rfl, rfl, rfl, rfl, rfl⟩ (.of_eq (by simp))

theorem riseActions_readings : SameReadings s.hk (riseActions s value).hk := by
  unfold riseActions
  extract_lets r since due run _ h s1 _ s2 s3
  have h2 : SameReadings s.hk s2.hk := ⟨rfl, rfl, rfl, rfl, rfl, rfl⟩
  have h3 : SameReadings s.hk s3.hk := by
    refine h2.trans (.of_eq ?_)
    unfold s3
    split
    · simp
    · rfl
  clear_value s3
  split
  · exact h3.trans orderlyStop_readings
  · exact h3

/-- A diode reading of HK-A drives the thermal loop and leaves the readings. -/
theorem diodeA_readings : SameReadings s.hk (diodeA s value).hk := by
  unfold diodeA
  extract_lets _ s1 s2 s3
  have h2 : SameReadings s.hk s2.hk :=
    .trans (b := (compSense s1 value).hk) ⟨rfl, rfl, rfl, rfl, rfl, rfl⟩ fastMode_readings
  have h3 : SameReadings s.hk s3.hk := by
    refine h2.trans (.of_eq ?_)
    unfold s3
    split
    · exact calEvaluate_hk
    · rfl
  clear_value s3
  split
  · exact h3
  · exact h3.trans riseActions_readings

/-- A diode reading of HK-B judges plausibility and leaves the readings, the registers and the panels. -/
theorem diodeB_readings : SameReadings s.hk (diodeB s value).hk ∧ (diodeB s value).regs = s.regs ∧ (diodeB s value).panels = s.panels := by
  unfold diodeB
  extract_lets s1
  have h1 : SameReadings s.hk s1.hk ∧ s1.regs = s.regs ∧ s1.panels = s.panels := ⟨.refl, rfl, rfl⟩
  clear_value s1
  obtain ⟨hh, hr, hp⟩ := h1
  split
  · exact ⟨hh, hr, hp⟩
  · extract_lets apart n
    clear_value apart n
    split_ifs
    · unfold plausStart
      extract_lets s2
      have h2 : SameReadings s1.hk s2.hk ∧ s2.regs = s1.regs ∧ s2.panels = s1.panels := ⟨⟨rfl, rfl, rfl, rfl, rfl, rfl⟩, rfl, rfl⟩
      clear_value s2
      obtain ⟨kh, kr, kp⟩ := h2
      exact ⟨hh.trans (kh.trans (.of_eq (by simp [powerSig]))), by simp [powerSig, kr, hr], by simp [powerSig, kp, hp]⟩
    · exact ⟨hh, hr, hp⟩
    · exact ⟨hh.trans ⟨rfl, rfl, rfl, rfl, rfl, rfl⟩, hr, hp⟩
    · exact ⟨hh.trans ⟨rfl, rfl, rfl, rfl, rfl, rfl⟩, hr, hp⟩

end

end Sys2Proof.Machine

namespace Sys2Proof.Machine

section
variable {s : State} {value : Int} {ch : Nat}

/-- The state with a reading of HK-A's present channel and the sequence at its next entry (R465). -/
def readA (s : State) (ch : Nat) (value : Int) : State :=
  noteReading { s with hk := { s.hk with posA := (s.hk.posA + 1) % (hkPass s false).2, passA := hkPass s false } } ch false s.hk.fast value

/-- The state with a reading of HK-B's present channel and the sequence at its next entry. -/
def readB (s : State) (ch : Nat) (value : Int) : State :=
  noteReading { s with hk := { s.hk with posB := (s.hk.posB + 1) % (hkPass s true).2, passB := hkPass s true } } ch true false value

theorem execHkConversion_A (haux : s.power.aux = true) (hch : ch = field (hkPass s false).1 (4 * s.hk.posA + 3) (4 * s.hk.posA)) :
    ∃ t, execHkConversion false value s = .next t ∧ SameReadings (readA s ch value).hk t.hk := by
  have haux' : ¬(!s.power.aux) = true := by simp [haux]
  subst hch
  refine ⟨_, congrArg Host.Outcome.next (if_neg haux'), ?_⟩
  dsimp only
  rw [if_neg Bool.false_ne_true]
  split
  · exact diodeA_readings
  · exact .refl

theorem execHkConversion_B (haux : s.power.aux = true) (hch : ch = field (hkPass s true).1 (4 * s.hk.posB + 3) (4 * s.hk.posB)) :
    ∃ t, execHkConversion true value s = .next t ∧ SameReadings (readB s ch value).hk t.hk := by
  have haux' : ¬(!s.power.aux) = true := by simp [haux]
  subst hch
  refine ⟨_, congrArg Host.Outcome.next (if_neg haux'), ?_⟩
  dsimp only
  rw [if_pos rfl]
  split
  · exact diodeB_readings.1
  · exact .refl

/-- A channel's reading is the newest; the others stay. -/
theorem noteReading_same {b f : Bool} : mapGet none (noteReading s ch b f value).hk.readings ch
    = some { value := value, fast := f, hkB := b, time := s.now } := by
  simp only [noteReading, mapGet_mapSet_self]

theorem noteReading_other {b f : Bool} {k : Nat} (h : k ≠ ch) :
    mapGet none (noteReading s ch b f value).hk.readings k = mapGet none s.hk.readings k := by
  simp only [noteReading, mapGet_mapSet_ne (Ne.symm h)]

theorem execHkInjected_short {trigger : Nat} {values : List Int} (haux : s.power.aux = true) (ht : trigger < 3)
    (hv : values.length < (injected s).length) :
    execHkInjected trigger values s = .next { s with hk := { s.hk with injPending := true } } := by
  unfold execHkInjected
  rw [if_neg (by simp [haux, ht]), if_pos hv]

/-- Injected readings leave HK-B's position, the registers and the panels, and the trigger is no longer pending (R466). -/
theorem injectedReadings_leave (xs : List (Nat × Int)) :
    let t := xs.foldl (fun s x => let s1 := noteReading s x.1 true true x.2; if x.1 = 0 then diodeB s1 x.2 else s1) s
    (t.hk.injPending, t.hk.posB, t.regs, t.panels) = (s.hk.injPending, s.hk.posB, s.regs, s.panels) := by
  refine foldl_leaves (f := fun t : State => (t.hk.injPending, t.hk.posB, t.regs, t.panels)) (fun u x => ?_) xs s
  dsimp only
  split
  · obtain ⟨h, hr, hp⟩ := diodeB_readings (s := noteReading u x.1 true true x.2) (value := x.2)
    rw [h.injPending, h.posB, hr, hp]
    rfl
  · rfl

theorem execHkInjected_runs {trigger : Nat} {values : List Int} (haux : s.power.aux = true) (ht : trigger < 3)
    (hv : (injected s).length ≤ values.length) : ∃ t, execHkInjected trigger values s = .next t
      ∧ t.hk.injPending = false ∧ t.hk.posB = s.hk.posB ∧ t.regs = s.regs ∧ t.panels = s.panels := by
  unfold execHkInjected
  rw [if_neg (by simp [haux, ht]), if_neg (Nat.not_lt.mpr hv)]
  refine ⟨_, rfl, ?_⟩
  simpa using injectedReadings_leave (s := { s with hk := { s.hk with injPending := false } }) ((injected s).zip values)

/-! ### Steps and recovery of the limit (R468) -/

/-- The limit one step lower, no lower than 8 A, at this time. -/
def limitStepped (s : State) : State :=
  { s with power := { s.power with thermalLimit := max 8 (s.power.thermalLimit - 1) }, hk := { s.hk with lastStep := some s.now } }

/-- A step that is due lowers the limit, counts, and raises the event. -/
theorem execThrottle_due (hpl : s.hk.plaus = false) (hr : s.start.restarting = false) (hp : s.start.phase = 7) (hrate : throttleRate s < s.hk.rate)
    (hdue : ∀ t, s.hk.lastStep = some t → t + 100000 ≤ s.now) : ∃ ids, execThrottle s = .next
      (openOverride (raiseEvent (bumpFor (limitStepped s) .hk 0x0D8 ids) .hk 17 ids) (limitStepped s).power.thermalLimit) := by
  refine ⟨[(8, field (getReg s .hk 0x080) 23 16)], ?_⟩
  unfold execThrottle
  extract_lets due _ _ s1
  have hd : due = true := by
    unfold due
    split
    · next t e => exact decide_eq_true (hdue t e)
    · rfl
  refine congrArg _ (if_neg ?_)
  simp [hpl, hr, hp, hrate, hd]

theorem execThrottle_cool (h : s.hk.rate ≤ throttleRate s) : execThrottle s = .next s := by
  unfold execThrottle
  exact congrArg _ (if_pos (by simp [h]))

theorem execThermalRecover_due {t0 : Nat} (hl : s.hk.lastRecover = some t0) (hpl : s.hk.plaus = false) (hr : s.start.restarting = false)
    (hp : s.start.phase = 7) (hs : s.hk.stopping = none) (h27 : s.power.thermalLimit < 27)
    (ht : t0 + 1000000 * field (getReg s .hk 0x080) 47 44 ≤ s.now) : execThermalRecover s = .next
      { s with power := { s.power with thermalLimit := s.power.thermalLimit + 1 }, hk := { s.hk with lastRecover := some s.now } } := by
  unfold execThermalRecover
  simp only [hl]
  refine congrArg _ (if_neg ?_)
  simp [hpl, hr, hp, hs, Nat.not_le.mpr h27, Nat.not_lt.mpr ht]

end

/-- Settles O54: the governor through the one move of an interval over the limit, the converters through what a reading leaves. -/
theorem governorAndThermalLoop : Obligations.GovernorAndThermalLoop := by
  unfold Obligations.GovernorAndThermalLoop
  refine ⟨fun s ma => ⟨execGovernorInterval_idle, ?_⟩, fun s value => ⟨?_, ?_, ?_, ?_, ?_, execThrottle_cool, ?_⟩⟩
  · intro hc hr hp hk b f p ha1 ha2 hl1 hl2
    have hexec := execGovernorInterval_inside (ma := ma) hc hr hp hk ha1 ha2 hl1 hl2
    refine ⟨fun hma => hexec.trans (congrArg _ (if_neg (Nat.not_lt.mpr hma))), fun hma => ⟨_, hexec.trans (congrArg _ (if_pos hma)), ?_⟩⟩
    obtain ⟨c, o, hpow⟩ := overMove_power (s := overCurrent s ma)
    obtain ⟨hregs, hpanels, hjobs⟩ := overMove_fields (s := overCurrent s ma)
    change _ = Power.withEpisodes c o ((overCurrent s ma).power.overMoved b (field f 14 8) (field f 22 16)) at hpow
    simp only [hpow]
    refine ⟨Power.overMoved_thermalLimit, hregs, hpanels, hjobs, fun hrail => ?_, fun ha hl => ⟨?_, ?_, fun harr => ?_, fun harr hatt => ?_,
      fun harr hatt h1 h2 => ?_, fun harr hatt h1 h2 => ?_⟩⟩
    · rw [Power.overMoved_rails (p := (overCurrent s ma).power) hrail]
      exact ⟨rfl, rfl, rfl, rfl⟩
    · exact (Power.overMoved_duties_rails (p := (overCurrent s ma).power) ha hl).1
    · exact (Power.overMoved_duties_rails (p := (overCurrent s ma).power) ha hl).2
    · rw [Power.overMoved_array (p := (overCurrent s ma).power) ha hl harr]
      exact ⟨rfl, rfl⟩
    · rw [Power.overMoved_attention (p := (overCurrent s ma).power) ha hl harr hatt]
      exact ⟨rfl, rfl⟩
    · rw [Power.overMoved_lowest (p := (overCurrent s ma).power) ha hl harr hatt h1 h2]
      exact ⟨rfl, rfl⟩
    · rw [Power.overMoved_turns (p := (overCurrent s ma).power) ha hl harr hatt h1 h2]
      have h1' : p.arrDuty - 1 + 1 = p.arrDuty := Nat.sub_add_cancel (Nat.le_of_lt h1)
      have h2' : p.attDuty - 1 + 1 = p.attDuty := Nat.sub_add_cancel (Nat.le_of_lt h2)
      split
      · next hturn => exact .inl ⟨h1', rfl, rfl, hturn⟩
      · next hturn => exact .inr ⟨h2', rfl, rfl, Bool.eq_false_iff.mpr hturn⟩
  · intro ch haux hch
    obtain ⟨t, e, h⟩ := execHkConversion_A (value := value) haux hch
    exact ⟨t, e, h.readings ▸ noteReading_same, h.posA, h.passA, fun k hk => h.readings ▸ noteReading_other hk, h.posB⟩
  · intro ch haux hch
    obtain ⟨t, e, h⟩ := execHkConversion_B (value := value) haux hch
    exact ⟨t, e, h.readings ▸ noteReading_same, h.posB, h.passB, fun k hk => h.readings ▸ noteReading_other hk, h.posA⟩
  · exact fun trigger values => execHkInjected_short
  · exact fun trigger values => execHkInjected_runs
  · intro hpl hr hp hrate hdue
    obtain ⟨ids, e⟩ := execThrottle_due hpl hr hp hrate hdue
    refine ⟨_, e, ?_⟩
    have hraised : Raised (openOverride (raiseEvent (bumpFor (limitStepped s) .hk 0x0D8 ids) .hk 17 ids) (limitStepped s).power.thermalLimit) .hk 17 :=
      openOverride_grown.1 17 (raiseEvent_raised rfl (by omega))
    simp only [openOverride_power, openOverride_fields, raiseEvent_fields, bumpFor_fields]
    exact ⟨rfl, rfl, hraised, rfl, rfl, rfl, rfl, rfl⟩
  · exact fun t0 => execThermalRecover_due

end Sys2Proof.Machine

/-! SUPPORT. What goes with the compute rails, and what a flush and a commit change (R457, R460, R478, R489, R505). -/

namespace Sys2Proof.Machine

section
variable {s t u : State}

/-! ### Repairs that the loss of the rails completes change the arrays' state alone -/

/-- Two states that agree but in the arrays' state. -/
def OnlyArrays (s t : State) : Prop := t = { s with arrays := t.arrays }

theorem OnlyArrays.refl : OnlyArrays s s := rfl

theorem OnlyArrays.trans (h : OnlyArrays s t) (k : OnlyArrays t u) : OnlyArrays s u := by
  unfold OnlyArrays at *
  rw [k, h]

theorem OnlyArrays.foldl {α : Type} {xs : List α} {f : State → α → State} (h : ∀ s x, OnlyArrays s (f s x)) : OnlyArrays s (xs.foldl f s) := by
  induction xs generalizing s with
  | nil => exact .refl
  | cons x xs ih => exact (h s x).trans ih

theorem carryCal_only {i j : Nat × Nat} : OnlyArrays s (carryCal s i j) := rfl

theorem swapUnit_only {x : RepairUnit} {spare : Nat} : OnlyArrays s (swapUnit s x spare) := by
  unfold swapUnit
  split
  · rfl
  · rfl
  · extract_lets pp s1
    have h : OnlyArrays s s1 := .foldl fun _ _ => carryCal_only
    clear_value s1
    exact h.trans rfl

theorem settleRepairs_only : OnlyArrays s (settleRepairs s) := .foldl fun _ _ => swapUnit_only

theorem OnlyArrays.fields (h : OnlyArrays s t) :
    t.power = s.power ∧ t.jobs = s.jobs ∧ t.claims = s.claims ∧ t.dispatched = s.dispatched ∧ t.rings = s.rings ∧ t.start = s.start
    ∧ t.sec = s.sec ∧ t.bb = s.bb ∧ t.hdrs = s.hdrs ∧ t.regs = s.regs := by
  rw [h]
  exact ⟨rfl, rfl, rfl, rfl, rfl, rfl, rfl, rfl, rfl, rfl⟩

/-- What the loss of the rails leaves, and what it takes. -/
@[simp] theorem computeLost_fields :
    (computeLost s).power = { s.power with compute := false } ∧ (computeLost s).panels = [] ∧ (computeLost s).jobs = s.jobs
    ∧ (computeLost s).claims = s.claims ∧ (computeLost s).dispatched = s.dispatched ∧ (computeLost s).rings = s.rings
    ∧ (computeLost s).start = s.start ∧ (computeLost s).sec = s.sec ∧ (computeLost s).bb = s.bb ∧ (computeLost s).hdrs = s.hdrs
    ∧ (computeLost s).regs = s.regs := by
  obtain ⟨hp, hj, hc, hd, hr, hst, hsec, hbb, hh, hregs⟩ := (settleRepairs_only (s := s)).fields
  exact ⟨congrArg (fun p : Power => { p with compute := false }) hp, rfl, hj, hc, hd, hr, hst, hsec, hbb, hh, hregs⟩

/-- The headers stand when the rails go. -/
theorem computeLost_hdrs : (computeLost s).hdrs = s.hdrs := by simp

/-- Two states that agree but in the black box. -/
def OnlyBlackBox (s t : State) : Prop := ∃ b : BlackBox, t = { s with bb := b }

theorem onlyBlackBox {b : BlackBox} : OnlyBlackBox s { s with bb := b } := ⟨b, rfl⟩

theorem bbPut_onlyBlackBox {type inst code : Nat} {data : List Byte} : OnlyBlackBox s (bbPut s type inst code data) := by
  unfold bbPut
  generalize 4096 = n
  exact onlyBlackBox

theorem bbRecord_onlyBlackBox {p : PageId} {c : Nat} {d : List Byte} : OnlyBlackBox s (bbRecord s p c d) := by
  unfold bbRecord
  exact bbPut_onlyBlackBox

theorem OnlyBlackBox.flushed {f : Option BbFlush} {a b : BbSlot} (h : OnlyBlackBox s t) :
    OnlyBlackBox s { t with bb := { t.bb with flushing := f, slotA := a, slotB := b } } := by
  obtain ⟨c, rfl⟩ := h
  exact ⟨_, rfl⟩

/-- A flush changes the black box alone (R505). -/
theorem startFlush_only {trigger : Nat} : OnlyBlackBox s (startFlush s trigger) := by
  unfold startFlush
  have hr (d : List Byte) : OnlyBlackBox s (bbRecord s .bb 0x102 d) := bbRecord_onlyBlackBox
  generalize bbRecord s .bb 0x102 = r at hr ⊢
  extract_lets newer
  clear_value newer
  split
  · exact onlyBlackBox
  · exact (hr _).flushed

@[simp] theorem startFlush_fields {trigger : Nat} :
    (startFlush s trigger).power = s.power ∧ (startFlush s trigger).panels = s.panels ∧ (startFlush s trigger).jobs = s.jobs
    ∧ (startFlush s trigger).claims = s.claims ∧ (startFlush s trigger).dispatched = s.dispatched ∧ (startFlush s trigger).rings = s.rings
    ∧ (startFlush s trigger).start = s.start ∧ (startFlush s trigger).sec = s.sec ∧ (startFlush s trigger).hdrs = s.hdrs
    ∧ (startFlush s trigger).regs = s.regs ∧ (startFlush s trigger).hk = s.hk := by
  obtain ⟨b, e⟩ := startFlush_only (s := s) (trigger := trigger)
  rw [e]
  exact ⟨rfl, rfl, rfl, rfl, rfl, rfl, rfl, rfl, rfl, rfl, rfl⟩

/-- Live records of which none was ever flushed are being flushed after a trigger. -/
theorem startFlush_flushing {trigger : Nat} (hl : s.bb.live ≠ []) (hn : s.bb.lastFlushed = none) : (startFlush s trigger).bb.flushing ≠ none := by
  unfold startFlush
  extract_lets newer inB s1 f
  have hnewer : newer = true := by
    have hlast : s.bb.live.getLast? = some (s.bb.live.getLast hl) := List.getLast?_eq_getLast_of_ne_nil hl
    unfold newer
    rw [hlast, hn]
  rw [hnewer]
  split
  · next h => simpa [Option.isSome_iff_ne_none] using h
  · exact Option.some_ne_none f

/-- A commit changes the start's state alone, and leaves nothing to be committed where the module has its root (R477, R478). -/
theorem commitNow_only : ∃ t, commitNow s = { s with start := t } ∧ (s.sec.pufOk = true → t.dirty = none) := by
  unfold commitNow
  extract_lets t cfgB cfgOld t1 secB secOld t2
  split
  · next h =>
    refine ⟨s.start, rfl, fun hp => ?_⟩
    simp [retainedSealKey, ladderKey, pufRootOf, hp] at h
  · exact ⟨_, rfl, fun _ => rfl⟩

/-! ### Limp mode -/

/-- Freeing the rings leaves the power state, the panels and the start's state. -/
theorem freeRings_fields : (freeRings s).power = s.power ∧ (freeRings s).panels = s.panels ∧ (freeRings s).start = s.start := by
  unfold freeRings
  generalize (s.rings.map fun kv => kv.1) = ks
  induction ks generalizing s with
  | nil => exact ⟨rfl, rfl, rfl⟩
  | cons k ks ih =>
    obtain ⟨h1, h2, h3⟩ := ih (s := settleRing (modRing s (k / 4096) (k % 4096) fun r =>
      { r with freeing := true, cfg := r.cfg &&& ~~~bitOf 48 }) (k / 4096) (k % 4096))
    exact ⟨h1.trans (by simp), h2.trans (by simp), h3.trans (by simp)⟩

/-- A module that runs enters limp mode without its rails (R492). -/
theorem enterLimp_running {cause : Nat} {post : Bool} (h : s.start.limp = 0) :
    (enterLimp s cause post).power.compute = false ∧ (enterLimp s cause post).start.limp = cause
    ∧ (enterLimp s cause post).start.phase = (if s.start.phase = 9 then 9 else 8) ∧ (enterLimp s cause post).panels = []
    ∧ Raised (enterLimp s cause post) .die 25 := by
  have hin : inLimp s = false := by simp [inLimp, h]
  unfold enterLimp
  rw [hin]
  extract_lets s1 phase
  have h1 : s1.power.compute = false ∧ s1.panels = [] := by
    unfold s1
    split
    · next hc => exact absurd hc Bool.false_ne_true
    · split
      · obtain ⟨hp, hpan, -⟩ := freeRings_fields (s := computeLost (endEverything s 0x17))
        rw [hp, hpan]
        simp
      · simp
  clear_value s1
  obtain ⟨hc, hp⟩ := h1
  simp only [Bool.false_and, Bool.false_eq_true, if_false, raiseEvent_fields]
  exact ⟨hc, trivial, rfl, hp, raiseEvent_raised rfl (by omega)⟩

/-- A running module that is stopped without answers has no job and no ring left; its events stand. -/
theorem enterLimp_silent {cause : Nat} (h : s.start.limp = 0) :
    (enterLimp s cause false).jobs = [] ∧ (enterLimp s cause false).rings = [] ∧ (enterLimp s cause false).power = { s.power with compute := false }
    ∧ ∀ q, (getHdr s q).Grown (getHdr (enterLimp s cause false) q) := by
  have hin : inLimp s = false := by simp [inLimp, h]
  unfold enterLimp
  rw [hin]
  extract_lets s1 phase
  have h1 : s1 = computeLost (dropHost s) := rfl
  have hh : s1.hdrs = s.hdrs := by
    rw [h1, computeLost_hdrs]
    rfl
  have hj : s1.jobs = [] ∧ s1.rings = [] ∧ s1.power = { s.power with compute := false } := by
    rw [h1]
    simp [dropHost]
  clear_value s1
  obtain ⟨hjobs, hrings, hpow⟩ := hj
  simp only [Bool.false_and, Bool.false_eq_true, if_false, raiseEvent_fields]
  refine ⟨hjobs, hrings, hpow, fun q => ?_⟩
  have hq : getHdr { s1 with start := { s1.start with phase := phase, limp := cause, islands := [] } } q = getHdr s q := getHdr_of_hdrs hh
  exact hq ▸ raiseEvent_grown

end

end Sys2Proof.Machine

namespace Sys2Proof.Machine

section
variable {s : State} {mv : Nat}

/-! ### The input stage (R455 to R457, R478, R480) -/

/-- The input rises above 40 V: AUX comes up and the module starts. -/
theorem execInputRise_aux (hlow : s.power.vinMv ≤ 40000) (hmv : 40000 < mv) : execInputRise mv s = .next { s with
    start := { s.start with phase := 0, limp := 0, islands := [], findings := none, restarting := false }
    power := { s.power with
      vinMv := mv, above43 := if 43000 < mv then some (s.power.above43.getD s.now) else s.power.above43, aux := true } } := by
  unfold execInputRise
  rw [if_neg (by omega)]
  exact congrArg _ (if_neg (by omega))

theorem execHotswapClose_waiting {t0 : Nat} (ht : s.power.above43 = some t0) (hh : s.power.hotswap = .opened) (ho : s.power.ovOpen = false) :
    execHotswapClose s = .next (if t0 + 100000 ≤ s.now then { s with power := { s.power with hotswap := .charging } } else s) := by
  simp [execHotswapClose, ht, hh, ho]

/-- The host's entries, jobs and rings go silently. -/
theorem dropHost_fields : (dropHost s).jobs = [] ∧ (dropHost s).rings = [] ∧ (dropHost s).power = s.power ∧ (dropHost s).start = s.start
    ∧ (dropHost s).bb = s.bb ∧ (dropHost s).hdrs = s.hdrs := ⟨rfl, rfl, rfl, rfl, rfl, rfl⟩

/-- What the loss of the input leaves, before its own marks (R457). -/
def inputLost (s : State) : State := computeLost (dropHost (startFlush (if s.start.dirty.isSome then commitNow s else s) 1))

theorem inputLost_power : (inputLost s).power = { s.power with compute := false } := by
  obtain ⟨t, e, -⟩ := commitNow_only (s := s)
  unfold inputLost
  split <;> simp [dropHost, e]

/-- A pending commit completes where the module has its root (R478). -/
theorem inputLost_committed (hp : s.sec.pufOk = true) : (inputLost s).start.dirty = none := by
  obtain ⟨t, e, hd⟩ := commitNow_only (s := s)
  unfold inputLost
  split
  · simp [dropHost, e, hd hp]
  · next h => simpa [dropHost] using h

/-- Live records that were never flushed are (R507). -/
theorem inputLost_flushing (hl : s.bb.live ≠ []) (hn : s.bb.lastFlushed = none) : (inputLost s).bb.flushing ≠ none := by
  obtain ⟨t, e, -⟩ := commitNow_only (s := s)
  unfold inputLost
  simp only [computeLost_fields, dropHost_fields]
  split
  · rw [e]
    exact startFlush_flushing hl hn
  · exact startFlush_flushing hl hn

theorem execInputFall_below (hmv : mv < 40000) (hhigh : 40000 < s.power.vinMv) : execInputFall mv s = .next { inputLost s with
    start := { (inputLost s).start with phase := 0, limp := 0, islands := [], findings := none, restarting := false }
    power := { (inputLost s).power with
      vinMv := mv, above43 := none, ovOpen := false, below60 := none, hotswap := .opened, powerGood := false } } := by
  unfold execInputFall
  rw [if_neg (by omega)]
  rfl

theorem execInputOvervoltage_above (hmv : 62000 < mv) (ha : s.power.aux = true) (hh : s.power.hotswap ≠ .opened) :
    execInputOvervoltage mv s = .next
      (protect { s with power := { s.power with vinMv := mv, hotswap := .opened, ovOpen := true, below60 := none, powerGood := false } } 4 1) := by
  unfold execInputOvervoltage
  exact congrArg _ (if_neg (by simp [ha, hh, hmv]))

theorem execHardOvercurrent_above {ma : Nat} (hma : 32000 < ma) (ha : s.power.aux = true) (hh : s.power.hotswap ≠ .opened) :
    execHardOvercurrent ma s = .next (protect { s with power := { s.power with inputMa := ma, hotswap := .opened, powerGood := false } } 4 2) := by
  unfold execHardOvercurrent
  exact congrArg _ (if_neg (by simp [ha, hh, hma]))

/-! ### Trips and stops (R460, R469, R470, R492) -/

/-- A rail trip takes the rails of a module that runs and leaves it in limp mode with the trip's cause. -/
theorem railTripped_running {id : Nat} (h : s.start.limp = 0) :
    (railTripped s id).power.compute = false ∧ (railTripped s id).start.limp = 4
    ∧ (railTripped s id).start.phase = (if s.start.phase = 9 then 9 else 8) ∧ (railTripped s id).panels = [] ∧ Raised (railTripped s id) .die 25 := by
  have hs : (startFlush (raiseEvent (powerSig s 1) .hk 21 [(16, id)]) 2).start = s.start := by simp [powerSig]
  unfold railTripped
  generalize startFlush (raiseEvent (powerSig s 1) .hk 21 [(16, id)]) 2 = u at hs ⊢
  rw [← hs] at h ⊢
  exact enterLimp_running h

theorem execRailTrip_running {rail : Nat} (hc : s.power.compute = true) (hr : s.start.restarting = false) :
    execRailTrip rail s = .next (railTripped s rail) := by
  unfold execRailTrip protect
  rw [if_pos hc, hr]
  rfl

/-- The state of a hardware trip, before its flush: counted, raised, signed and noted (R470). -/
def tripNoted (s : State) : State := noteStop (powerSig (raiseEvent (bumpFor s .hk 0x0F0 [(16, 110)]) .hk 19 [(16, 110)]) 3)

theorem tripNoted_raised : Raised (tripNoted s) .hk 19 := by
  have h : Raised (raiseEvent (bumpFor s .hk 0x0F0 [(16, 110)]) .hk 19 [(16, 110)]) .hk 19 := raiseEvent_raised rfl (by omega)
  unfold tripNoted
  generalize raiseEvent (bumpFor s .hk 0x0F0 [(16, 110)]) .hk 19 [(16, 110)] = u at h ⊢
  have hw : Raised (powerSig u 3) .hk 19 := by
    obtain ⟨hevt, -⟩ := writeSig_grown (s := u) (q := .hk) (i := SigInfo.plain 9 9 3)
    exact hevt 19 h
  generalize powerSig u 3 = v at hw ⊢
  exact hw

theorem tripNoted_fields : (tripNoted s).power = s.power ∧ (tripNoted s).start = s.start
    ∧ (tripNoted s).hk.stops = s.now :: s.hk.stops.filter fun t => decide (s.now < t + 3600000000) := by
  simp [tripNoted, noteStop, powerSig]

/-- A third stop within an hour locks the module (R471). -/
theorem stopCause_locks {cause : Nat} : stopCause s cause = cause ∨ stopCause s cause = 7 := by
  unfold stopCause
  split
  · exact .inr rfl
  · exact .inl rfl

theorem thermalTripped_eq : thermalTripped s = downState (enterLimp (startFlush (tripNoted s) 3) (stopCause (tripNoted s) 6) false) := by
  unfold thermalTripped tripNoted
  rfl

/-- The display of the thermal state is all that going down changes. -/
theorem downState_fields : (downState s).power.compute = s.power.compute ∧ (downState s).power.tripLatch = s.power.tripLatch
    ∧ (downState s).start = s.start ∧ (downState s).jobs = s.jobs ∧ (downState s).rings = s.rings ∧ (downState s).panels = s.panels :=
  ⟨rfl, rfl, rfl, rfl, rfl, rfl⟩

theorem getHdr_downState {p : PageId} : getHdr (downState s) p = getHdr s p := getHdr_of_hdrs rfl

theorem thermalTripped_running (h : s.start.limp = 0) :
    (thermalTripped s).power.compute = false ∧ (thermalTripped s).power.tripLatch = s.power.tripLatch
    ∧ (thermalTripped s).start.limp = stopCause (tripNoted s) 6 ∧ (thermalTripped s).jobs = [] ∧ (thermalTripped s).rings = []
    ∧ (thermalTripped s).panels = [] ∧ Raised (thermalTripped s) .hk 19 := by
  obtain ⟨hp, hst, -⟩ := tripNoted_fields (s := s)
  have hst' : (startFlush (tripNoted s) 3).start = s.start := by simp [hst]
  have hp' : (startFlush (tripNoted s) 3).power = s.power := by simp [hp]
  have hhdrs : (startFlush (tripNoted s) 3).hdrs = (tripNoted s).hdrs := by simp
  have hraised : Raised (startFlush (tripNoted s) 3) .hk 19 := by
    unfold Raised
    rw [getHdr_of_hdrs hhdrs]
    exact tripNoted_raised
  rw [thermalTripped_eq]
  generalize startFlush (tripNoted s) 3 = u at hst' hp' hraised ⊢
  generalize stopCause (tripNoted s) 6 = cause
  have hlimp : u.start.limp = 0 := by rw [hst', h]
  obtain ⟨hc, hl, -, hpan, -⟩ := enterLimp_running (cause := cause) (post := false) hlimp
  obtain ⟨hjobs, hrings, hpow, hgrown⟩ := enterLimp_silent (cause := cause) hlimp
  obtain ⟨hevt, -⟩ := hgrown .hk
  have hevt19 := hevt 19 hraised
  generalize enterLimp u cause false = v at hc hl hpan hjobs hrings hpow hevt19 ⊢
  simp only [downState_fields, Raised, getHdr_downState]
  exact ⟨hc, by rw [hpow, hp'], hl, hjobs, hrings, hpan, hevt19⟩

/-- A protection of the hardware while Jobel runs trips at once. -/
theorem protect_trip {id : Nat} (hr : s.start.restarting = false) : protect s 6 id = thermalTripped s := by
  unfold protect
  rw [if_neg (by simp [hr]), if_pos rfl]

/-- The state with the hardware trip's latch set (R470). -/
def latched (s : State) : State := { s with power := { s.power with tripLatch := true } }

theorem latched_fields : (latched s).power.tripLatch = true ∧ (latched s).start = s.start ∧ (latched s).hk = s.hk := ⟨rfl, rfl, rfl⟩

theorem execThermalTrip_running (ha : s.power.aux = true) (ht : s.power.tripLatch = false) (hr : s.start.restarting = false) :
    execThermalTrip s = .next (thermalTripped (latched s)) := by
  have hr' : (latched s).start.restarting = false := hr
  unfold execThermalTrip
  rw [if_neg (by simp [ha, ht])]
  exact congrArg _ (protect_trip hr')

/-- The cause that a hardware trip leaves: the trip, or the lock of a third stop within an hour. -/
theorem tripNoted_cause : (stopCause (tripNoted s) 6 = 6 ∨ stopCause (tripNoted s) 6 = 7) ∧ (s.hk.stops = [] → stopCause (tripNoted s) 6 = 6) := by
  refine ⟨stopCause_locks, fun h => ?_⟩
  obtain ⟨-, -, hs⟩ := tripNoted_fields (s := s)
  simp [stopCause, hs, h]

theorem execStopSealTimeout_ends {t0 : Nat} (hs : s.hk.stopping = some t0) (hr : s.start.restarting = false)
    (h : t0 + 10000 ≤ s.now ∨ stepsOpen s = false) : execStopSealTimeout s = .next
      (let t := noteStop (powerSig (endEverything s 0x17) 2)
       downState (enterLimp (startFlush t 4) (if 3 ≤ t.hk.stops.length then 7 else 5) true)) := by
  unfold execStopSealTimeout
  simp only [hs]
  refine congrArg _ (if_neg ?_)
  rw [hr]
  rcases h with h | h
  · simp [Nat.not_lt.mpr h]
  · simp [h]

theorem execStopSealTimeout_waits {t0 : Nat} (hs : s.hk.stopping = some t0) (ht : s.now < t0 + 10000) (ho : stepsOpen s = true) :
    execStopSealTimeout s = .next s := by
  simp [execStopSealTimeout, hs, ht, ho]

/-! ### Restarts (R471) -/

theorem execAutoRestart_cool (hl : s.start.limp = 5 ∨ s.start.limp = 6) (hb : bit (getReg s .hk 0x080) 40 = true) (hr : s.start.restarting = false)
    (ha : s.power.aux = true) (hc : ∃ t0, s.power.cmp70 = some t0 ∧ t0 + 30000000 ≤ s.now) : execAutoRestart s = .next (beginRestart s) := by
  obtain ⟨t0, ht, hle⟩ := hc
  unfold execAutoRestart
  exact congrArg _ (if_pos ⟨hl, hb, by simp [ht, hle], hr, ha⟩)

theorem execAutoRestart_other (h5 : s.start.limp ≠ 5) (h6 : s.start.limp ≠ 6) : execAutoRestart s = .next s := by
  simp [execAutoRestart, h5, h6]

theorem execRestart_passes {w : Window} (hp : Passes s w .hk 0x0D0) : execRestart w s = .next
    (if (s.start.limp = 4 ∨ s.start.limp = 7) ∧ s.power.cmp70 ≠ none ∧ s.start.restarting = false then beginRestart s
     else capture s .hk 5 (winCode w) 0x0D0 1) := by
  rw [execRestart, gated_of_passes hp]
  exact congrArg _ (if_congr (by rw [Option.isSome_iff_ne_none]) rfl rfl)

end

/-- Settles O53: the input stage by its own rows, the trips through what limp mode takes and leaves. -/
theorem inputStageAndProtections : Obligations.InputStageAndProtections := by
  unfold Obligations.InputStageAndProtections
  refine ⟨fun s mv => ⟨?_, ?_, ?_, ?_, execInputOvervoltage_above, ?_, ?_, ?_⟩, fun s w rail => ⟨?_, ?_, ?_, ?_, ?_, ?_, execAutoRestart_other,
    execRestart_passes⟩⟩
  · intro hlow hmv
    refine ⟨_, execInputRise_aux hlow hmv, rfl, rfl, rfl, rfl, rfl, rfl, fun h43 hnone => ?_⟩
    simp [h43, hnone]
  · exact fun t0 => execHotswapClose_waiting
  · intro hc
    exact congrArg _ (if_pos hc)
  · intro hmv hhigh
    have hp := inputLost_power (s := s)
    refine ⟨_, execInputFall_below hmv hhigh, ?_, rfl, rfl, ?_, ?_, ?_, ?_, inputLost_committed, inputLost_flushing⟩
    · show (inputLost s).power.compute = false
      rw [hp]
    · show (inputLost s).power.aux = s.power.aux
      rw [hp]
    · simp [inputLost, dropHost]
    · simp [inputLost]
    · simp [inputLost, dropHost]
  · exact fun ma => execHardOvercurrent_above
  · intro ho
    simp only [exec, execHotswapReclose, ho]
    rfl
  · intro hlow ha
    refine ⟨_, congrArg Host.Outcome.next (if_neg ?_), rfl, rfl, rfl, rfl, rfl, rfl, rfl, rfl, rfl, rfl⟩
    simp [ha, hlow]
  · intro hc hr hl
    exact ⟨_, execRailTrip_running hc hr, railTripped_running hl⟩
  · intro hc
    exact congrArg _ (if_neg (by simp [hc]))
  · intro ha ht hr hl
    obtain ⟨hl1, hl2, hl3⟩ := latched_fields (s := s)
    obtain ⟨hc, hlatch, hlimp, hjobs, hrings, hpan, hraised⟩ := thermalTripped_running (s := latched s) (hl2 ▸ hl)
    obtain ⟨hcause, hfirst⟩ := tripNoted_cause (s := latched s)
    refine ⟨_, execThermalTrip_running ha ht hr, ?_⟩
    rw [hlimp, hlatch, hl1]
    rw [hl3] at hfirst
    exact ⟨rfl, hc, hcause, hjobs, hrings, hpan, hraised, hfirst⟩
  · exact fun t0 => execStopSealTimeout_ends
  · exact fun t0 => execStopSealTimeout_waits
  · intro hl hb hr ha hc
    exact ⟨_, execAutoRestart_cool hl hb hr ha hc, rfl, rfl, rfl, rfl, rfl⟩

end Sys2Proof.Machine

/-! SUPPORT. Commits, starts, islands, recovery, firmware and Jobel's restarts (R384, R398, R477 to R488, R493). -/

namespace Sys2Proof.Machine

section
variable {s : State}

/-! ### The commit of retained state (R477, R478, R398) -/

theorem retainedSealKey_isNone : (retainedSealKey s).isNone = !s.sec.pufOk := by
  cases h : s.sec.pufOk <;> simp [retainedSealKey, ladderKey, pufRootOf, h]

theorem commitNow_rootless (h : s.sec.pufOk = false) : commitNow s = s := by
  unfold commitNow
  exact if_pos (by rw [retainedSealKey_isNone, h]; rfl)

/-- The two copies of the security area as a commit leaves them: the older is sealed anew where the area changed. -/
def secCommitted (s : State) : SecCopy × SecCopy :=
  if s.start.secB.gen < s.start.secA.gen then
    (s.start.secA, if s.start.secA.area = areaNow s then s.start.secB else sealSec s (s.start.secA.gen + 1) (areaNow s))
  else (if s.start.secB.area = areaNow s then s.start.secA else sealSec s (s.start.secB.gen + 1) (areaNow s), s.start.secB)

/-- With the root, a commit leaves nothing to be committed and the security area's copies as they should be. -/
theorem commitNow_rooted (h : s.sec.pufOk = true) : ∃ t, commitNow s = { s with start := t } ∧ t.dirty = none
    ∧ (t.secA, t.secB) = secCommitted s := by
  unfold commitNow
  extract_lets t cfgB cfgOld t1 secB secOld t2
  rw [if_neg (by rw [retainedSealKey_isNone, h]; exact Bool.false_ne_true)]
  refine ⟨_, rfl, rfl, ?_⟩
  have h1 : t1.secA = s.start.secA ∧ t1.secB = s.start.secB := by
    unfold t1
    split_ifs <;> exact ⟨rfl, rfl⟩
  clear_value t1
  obtain ⟨ha, hb⟩ := h1
  show (t2.secA, t2.secB) = _
  unfold t2 secOld secB secCommitted
  by_cases hg : t.secB.gen < t.secA.gen
  · simp only [hg, decide_true, if_true]
    split
    · rw [ha, hb]
    · exact Prod.ext ha rfl
  · simp only [hg, decide_false, Bool.false_eq_true, if_false]
    split
    · rw [ha, hb]
    · exact Prod.ext rfl hb

theorem execRetainedCommit_dirty (hd : s.start.dirty ≠ none) (hr : s.start.restarting = false) : execRetainedCommit s = .next (commitNow s) := by
  unfold execRetainedCommit
  exact congrArg _ (if_pos (by simp [hr, Option.isSome_iff_ne_none, hd]))

theorem execRetainedCommit_rootless (h : s.sec.pufOk = false) : execRetainedCommit s = .next s := by
  unfold execRetainedCommit
  rw [commitNow_rootless h, ite_self]

/-- A copy sealed under the module's root verifies under it. -/
theorem secVerifies_sealSec {gen : Word} {area : SecArea} (h : s.sec.pufOk = true) : secVerifies s true (sealSec s gen area) = true := by
  simp [secVerifies, sealSec, tagVerifies, areaTag, retainedSealKey, ladderKey, pufRootOf, h]

/-! ### A full start (R479 to R483) -/

section
variable {f : StartFindings}

theorem pickCopy_none {a b : Bool} {m n : Word} (ha : a = false) (hb : b = false) : pickCopy a b m n = none := by simp [pickCopy, ha, hb]

/-- A start begins from phase 0 with AUX and no image being written. -/
structure Starts (s : State) : Prop where
  phase : s.start.phase = 0
  aux : s.power.aux = true
  idle : s.start.fwWriting = none

theorem Starts.not_waiting (h : Starts s) : ¬(s.start.phase ≠ 0 ∨ s.power.aux = false ∨ s.start.fwWriting.isSome = true) := by
  obtain ⟨hp, ha, hi⟩ := h
  simp [hp, ha, hi]

theorem execFullStart_pufFails (h : Starts s) (hp : f.pufOk = false) : execFullStart f s = .next (pufFails (freshStart s)) := by
  unfold execFullStart
  exact congrArg _ ((if_neg h.not_waiting).trans (if_pos (by rw [hp]; rfl)))

/-- What a start with the root does from the copy of the security area that it picks, or from none. -/
def startFrom (s1 : State) (f : StartFindings) : Option Bool → State
  | none => startStops s1 3
  | some b =>
    let s2 := { s1 with start := { s1.start with vendorOk := f.vendorOk, findings := some f } }
    if f.vendorOk = true then startFirmware (restoreCfg (restoreSec s2 b)
        (pickCopy (cfgVerifies s2 f.cfgAOk s2.start.cfgA) (cfgVerifies s2 f.cfgBOk s2.start.cfgB) s2.start.cfgA.gen s2.start.cfgB.gen))
      else startStops s2 3

theorem execFullStart_rooted (h : Starts s) (hp : f.pufOk = true) : execFullStart f s = .next (startFrom (freshStart s) f
    (pickCopy (secVerifies (freshStart s) f.secAOk (freshStart s).start.secA) (secVerifies (freshStart s) f.secBOk (freshStart s).start.secB)
      (freshStart s).start.secA.gen (freshStart s).start.secB.gen)) := by
  unfold execFullStart
  rw [if_neg h.not_waiting]
  generalize freshStart s = s1
  dsimp only
  rw [if_neg (by rw [hp]; exact Bool.false_ne_true)]
  generalize pickCopy (secVerifies s1 f.secAOk s1.start.secA) _ _ _ = c
  refine congrArg _ ?_
  cases c with
  | none => rfl
  | some b => cases hv : f.vendorOk <;> simp only [startFrom, hv] <;> rfl

theorem execFullStart_other (h : s.start.phase ≠ 0 ∨ s.power.aux = false) : execFullStart f s = .next s := by
  unfold execFullStart
  exact congrArg _ (if_pos (h.imp_right .inl))

end

end

end Sys2Proof.Machine

namespace Sys2Proof.Machine

section
variable {s : State} {f : StartFindings}

/-! ### Islands and recovery (R484, R486) -/

section
variable {i : Island} {n : Nat}

/-- A crossing that does not align is tried again up to three times. -/
theorem execIslandAlign_again (hp : s.start.phase = 4) (hi : s.start.islands.find? (fun x => x.1 == i) = some (i, n))
    (hf : s.start.findings = some f) (hn : n < 2) : execIslandAlign i false s = .next
      { s with start := { s.start with islands := s.start.islands.map fun x => if x.1 = i then (i, n + 1) else x } } := by
  simp [execIslandAlign, hi, hf, hp, hn]

/-- A crossing that is decided leaves the list, and with the last one the module is ready. -/
theorem execIslandAlign_decided {ok : Bool} (hp : s.start.phase = 4) (hi : s.start.islands.find? (fun x => x.1 == i) = some (i, n))
    (hf : s.start.findings = some f) (hd : ok = true ∨ 2 ≤ n) :
    let rest := s.start.islands.filter fun x => x.1 != i
    let t := { s with start := { s.start with islands := rest } }
    let u := if ok = true then t else islandFails t i
    execIslandAlign i ok s = .next (if rest = [] then startReady u f else u) := by
  intro rest t u
  have hagain : ¬(!ok && decide (n < 2)) = true := by
    rcases hd with h | h
    · simp [h]
    · simp [Nat.not_lt.mpr h]
  unfold execIslandAlign
  split
  · next j k g hj hg =>
    obtain ⟨rfl, rfl⟩ : (j = i ∧ k = n) := by simpa using hj.symm.trans hi
    obtain rfl : g = f := Option.some.inj (hg.symm.trans hf)
    rw [if_neg (by simp [hp]), if_neg hagain]
    exact congrArg _ (if_congr List.isEmpty_iff rfl rfl)
  · next hnone => exact absurd hf (hnone i n f hi)

end

/-- The first GO of a PF in RECOVERY starts the load; any other write is recorded with code 5. -/
theorem execGo_recovery {port : Nat} {v : Word} (hp : Passes s (.pf port) .die 0x618) (hb : bit v 32 = true) (h9 : s.start.phase = 9)
    (h1 : s.start.recState = 1) : execGo (.pf port) v s = .next
      { s with start := { s.start with recState := 2, recPort := port, recLen := field v 22 0 } } := by
  unfold execGo writeRecCmd
  rw [gated_of_passes hp, if_neg (by simp [hb, h9])]
  simp only [h1]

theorem execGo_late {port : Nat} {v : Word} (hp : Passes s (.pf port) .die 0x618) (hb : bit v 32 = true) (h9 : s.start.phase = 9)
    (h1 : s.start.recState ≠ 1) : execGo (.pf port) v s = .next (capture s .die 5 (winCode (.pf port)) 0x618 (v.toNat % 2 ^ 32)) := by
  unfold execGo writeRecCmd
  rw [gated_of_passes hp, if_neg (by simp [hb, h9])]
  refine congrArg _ ?_
  split
  · next h => exact absurd h h1
  · rfl

theorem not_otherRecovery (h9 : s.start.phase = 9) (h2 : s.start.recState = 2) : ¬(s.start.phase ≠ 9 ∨ s.start.recState ≠ 2) := by
  simp [h9, h2]

theorem execRecoveryLoadDone_faulty {m : FwImage} (h9 : s.start.phase = 9) (h2 : s.start.recState = 2) (hm : fwFault s m ≠ 0) :
    execRecoveryLoadDone (.ok m) s = .next { s with start := { s.start with recState := 1, recResult := fwFault s m } } := by
  unfold execRecoveryLoadDone
  exact congrArg _ ((if_neg (not_otherRecovery h9 h2)).trans (if_pos hm))

theorem execRecoveryLoadDone_sound {m : FwImage} (h9 : s.start.phase = 9) (h2 : s.start.recState = 2) (hm : fwFault s m = 0) :
    execRecoveryLoadDone (.ok m) s = .next
      (startFirmware { s with start := { s.start with fw := some m, recState := 0, recResult := 0, limp := 0, phase := 2 } }) := by
  unfold execRecoveryLoadDone
  exact congrArg _ ((if_neg (not_otherRecovery h9 h2)).trans (if_neg (by simp [hm])))

/-! ### Firmware and Jobel's restarts (R384, R485, R487, R488, R493) -/

section
variable {id : Nat} {m : FwImage} {d : Dispatched}

theorem execFwLoad_header (h : Admitted s id 0x30 fromPf d) (hm : fwFault s m = 1) : execFwLoad id m s = .next (finishEntry s d 0x30 0) := by
  unfold execFwLoad
  rw [command_of_admitted h]
  simp only [hm]

theorem execFwLoad_signature (h : Admitted s id 0x30 fromPf d) (hm : fwFault s m = 2) : execFwLoad id m s = .next (finishEntry s d 0x2E 0) := by
  unfold execFwLoad
  rw [command_of_admitted h]
  simp only [hm]

theorem execFwLoad_rollback (h : Admitted s id 0x30 fromPf d) (hm : fwFault s m = 3) : execFwLoad id m s = .next (finishEntry s d 0x2F 0) := by
  unfold execFwLoad
  rw [command_of_admitted h]
  simp only [hm]

/-- An image that verifies is written after the loads before it. -/
theorem execFwLoad_sound (h : Admitted s id 0x30 fromPf d) (hm : fwFault s m = 0) :
    let x : FwWrite := { image := m, activate := bit d.entry.arg0 0, job := d.id }
    let t := startJob s d (jobOf d .firmware)
    execFwLoad id m s = .next (match s.start.fwWriting with
      | some _ => { t with start := { s.start with fwWaiting := s.start.fwWaiting ++ [x] } }
      | none => { t with start := { s.start with fwWriting := some x } }) := by
  intro x t
  have ht : t.start = s.start := rfl
  unfold execFwLoad
  rw [command_of_admitted h]
  simp only [hm]
  rw [← ht]
  refine congrArg _ ?_
  show (if t.start.fwWriting.isSome = true then _ else _) = _
  cases t.start.fwWriting <;> rfl

end

theorem execFirmwareWriteDone_written {x : FwWrite} (hx : s.start.fwWriting = some x) (hr : s.start.restarting = false) :
    execFirmwareWriteDone s = .next
      (let t := closeJobId { s with start := { s.start with
          fw := some x.image, fwWriting := s.start.fwWaiting.head?, fwWaiting := s.start.fwWaiting.drop 1 } } x.job 0 0
       if x.activate = true ∧ jobelRuns t = true then jobelRestart t else t) := by
  unfold execFirmwareWriteDone
  simp only [hx]
  refine congrArg _ ((if_neg (by simp [hr])).trans ?_)
  exact if_congr (Bool.and_eq_true_iff) rfl rfl

/-- A restart of Jobel leaves the rest of the module as it runs (R487). -/
theorem jobelRestart_fields : (jobelRestart s).start.restarting = true ∧ (jobelRestart s).start.phase = 10 ∧ (jobelRestart s).panels = s.panels
    ∧ (jobelRestart s).bolts = s.bolts ∧ (jobelRestart s).jobs = s.jobs ∧ (jobelRestart s).rings = s.rings ∧ (jobelRestart s).regs = s.regs
    ∧ (jobelRestart s).power = s.power ∧ (jobelRestart s).fab = s.fab :=
  ⟨rfl, rfl, rfl, rfl, rfl, rfl, rfl, rfl, rfl⟩

theorem rereadMirror_power : (rereadMirror s).power = s.power := by simp [rereadMirror]

/-- A restarted Jobel runs the area's image, re-reads, counts, raises and lets what waited go on; no protection had to wait. -/
theorem execJobelRestarted_unprotected (hr : s.start.restarting = true) (hp : s.power.protection = []) :
    let s1 := { s with start := { s.start with restarting := false, phase := if inLimp s then 8 else 7 } }
    let s2 := match s.start.fw with | some m => runFirmware s1 m | none => s1
    let s3 := raiseEvent (bump (rereadMirror s2) .die 0x628) .die 26 []
    execJobelRestarted s = .next (pumpLoads { s3 with power := { s3.power with protection := [] } }) := by
  intro s1 s2 s3
  have h2 : s2.power = s.power := by
    unfold s2
    split <;> rfl
  have h3 : s3.power.protection = [] := by
    simp only [s3, raiseEvent_fields, bump_fields, rereadMirror_power, h2, hp]
  have hrun : ¬(!s.start.restarting) = true := by simp [hr]
  unfold execJobelRestarted
  rw [if_neg hrun]
  show Host.Outcome.next (pumpLoads (s3.power.protection.foldl proceed { s3 with power := { s3.power with protection := [] } })) = _
  rw [h3]
  rfl

end

/-- Settles O55: each row in the cases that its rules tell apart. -/
theorem startsFirmwareAndRecovery : Obligations.StartsFirmwareAndRecovery := by
  unfold Obligations.StartsFirmwareAndRecovery
  refine ⟨fun s w => ⟨?_, execRetainedCommit_rootless, fun gen area => secVerifies_sealSec, fun f hp ha hi => ?_, fun h f => execFullStart_other h,
    fun i n f hp hi hf => ⟨execIslandAlign_again hp hi hf, ?_, fun hn => ?_⟩, ?_, fun h9 h2 => ⟨?_, fun m => execRecoveryLoadDone_faulty h9 h2,
    fun m => execRecoveryLoadDone_sound h9 h2⟩⟩, fun s w id m d => ⟨fun h => ⟨execFwLoad_header h, execFwLoad_signature h, execFwLoad_rollback h,
    execFwLoad_sound h⟩, fun x => execFirmwareWriteDone_written, ?_, ?_, ?_, execJobelRestarted_unprotected, jobelRestart_fields⟩⟩
  · intro hd hr hp
    obtain ⟨t, e, hdirty, hsec⟩ := commitNow_rooted hp
    obtain ⟨ha, hb⟩ := Prod.ext_iff.mp hsec
    refine ⟨_, (execRetainedCommit_dirty hd hr).trans (congrArg _ e), hdirty, ?_, ?_, ?_, rfl⟩
    · intro hg hne
      exact ⟨hb.trans (by simp [secCommitted, hg, hne]), ha.trans (by simp [secCommitted, hg])⟩
    · intro hg hne
      have hg' : ¬s.start.secB.gen < s.start.secA.gen := BitVec.not_lt.mpr hg
      exact ⟨ha.trans (by simp [secCommitted, hg', hne]), hb.trans (by simp [secCommitted, hg'])⟩
    · intro hsame
      by_cases hg : s.start.secB.gen < s.start.secA.gen
      · rw [if_pos hg] at hsame
        exact ⟨ha.trans (by simp [secCommitted, hg]), hb.trans (by simp [secCommitted, hg, hsame])⟩
      · rw [if_neg hg] at hsame
        exact ⟨ha.trans (by simp [secCommitted, hg, hsame]), hb.trans (by simp [secCommitted, hg])⟩
  · have h : Starts s := ⟨hp, ha, hi⟩
    refine ⟨execFullStart_pufFails h, fun hpuf hA hB => ?_, fun b hpuf hb => ?_⟩
    · rw [show exec (.fullStart f) s = _ from execFullStart_rooted h hpuf, pickCopy_none hA hB]
      rfl
    · rw [show exec (.fullStart f) s = _ from execFullStart_rooted h hpuf, hb]
      rfl
  · exact execIslandAlign_decided hp hi hf (.inl rfl)
  · exact execIslandAlign_decided hp hi hf (.inr hn)
  · rintro port v rfl hp hb h9
    exact ⟨execGo_recovery hp hb h9, execGo_late hp hb h9⟩
  · exact congrArg _ (if_neg (not_otherRecovery h9 h2))
  · intro hp hj
    exact congrArg _ ((gated_of_passes hp).trans (if_pos hj))
  · intro hj
    exact congrArg _ (if_pos hj)
  · intro hj
    exact congrArg _ (if_neg (by simp [hj]))

end Sys2Proof.Machine

/-! SUPPORT. Swatches and verdicts, the checker copies' rotation, the end of an array's repair, and units that do not answer (R361, R365 to
R367, R372, R375 to R378, R385). -/

namespace Sys2Proof.Machine

section
variable {s : State} {id nw : Nat} {w : Swatch} {b : Bolt}

/-! ### Swatches (R365, R366) -/

/-- Whether the checker copy of a swatch holds its block. -/
def checkerHolds (w : Swatch) (b : Bolt) : Bool :=
  b.checkers.any fun c => c.ready && c.arr == w.checker && c.panel == panelRel w.bolt b w.panel && c.number == w.number

theorem execSwatchCompare_lost (hw : s.ras.swatches.find? (fun w => w.id == id && !w.failed) = some w) (hb : getBolt s w.bolt = some b)
    (hc : checkerHolds w b = false) : execSwatchCompare id s = .next (dropSwatch (bumpFor s .die 0x520 w.ids) w) := by
  unfold execSwatchCompare
  simp only [hw, hb]
  exact congrArg _ (if_pos (congrArg not hc))

theorem execSwatchCompare_held (hw : s.ras.swatches.find? (fun w => w.id == id && !w.failed) = some w) (hb : getBolt s w.bolt = some b)
    (hc : checkerHolds w b = true) :
    let r := reEval (getArr s w.checker).image false (driftOf s (getArr s w.checker)) w.inputs s.freeCtr
    let t := { s with freeCtr := r.2.2 }
    let tol := swatchTol w (modeFigure s w.mode w.panel w.tile) (arrFigure s w.mode w.checker)
    execSwatchCompare id s = .next (match compareLanes w.mode w.lanes w.ew r.1 r.2.1 tol with
      | .pass => dropSwatch t w
      | .void => dropSwatch (bumpFor t .die 0x520 w.ids) w
      | .fail _ _ => failSwatch t w r.1 r.2.1) := by
  intro r t tol
  have hheld : ¬(!checkerHolds w b) = true := by simp [hc]
  unfold execSwatchCompare
  simp only [hw, hb]
  refine congrArg _ ((if_neg hheld).trans ?_)
  rfl

theorem execCheckerRotate_started (hb : getBolt s nw = some b) (hr : s.start.restarting = false) (hp : b.phase = 4) :
    execCheckerRotate nw s = .next (if b.lastRotate + 1000000 * b.rotateSec ≤ s.now then feedCheckers (rotateCheckers s nw) nw else s) := by
  simp only [execCheckerRotate, hb, hr, hp, true_and]

/-! ### The referee (R367) -/

/-- A swatch that failed, with its bolt, whose verdict is due: no step that holds it is open and Jobel runs. -/
structure VerdictDue (s : State) (id : Nat) (w : Swatch) (b : Bolt) : Prop where
  running : s.start.restarting = false
  failed : s.ras.swatches.find? (fun w => w.id == id && w.failed && !w.lanes.isEmpty) = some w
  bolt : getBolt s w.bolt = some b
  settled : ∀ t ∈ b.steps, id ∉ t.swatches

theorem VerdictDue.no_step (h : VerdictDue s id w b) : ¬(b.steps.any fun t => t.swatches.contains id) = true := by
  simpa using h.settled

theorem execRefereeRun_none (h : VerdictDue s id w b) (hw : w.referee = none) : execRefereeRun id s = .next (wideVerdict s w b) := by
  have hstep := h.no_step
  obtain ⟨hr, hf, hb, -⟩ := h
  unfold execRefereeRun
  simp only [hr, Bool.false_eq_true, if_false, hf, hb]
  refine congrArg _ ((if_neg hstep).trans ?_)
  simp only [hw]

/-- The verdict of a referee that agrees with the checked array or with its checker copy. -/
def refereeVerdict (s : State) (w : Swatch) (b : Bolt) (withChecked withChecker : Bool) : State :=
  if withChecked && !withChecker then applyVerdict s w false true
  else if withChecker && !withChecked then applyVerdict s w true false
  else wideVerdict s w b

/-- A referee that holds the block evaluates the inputs anew, and the verdict follows from whom it agrees with. -/
theorem execRefereeRun_programmed {a : ArrId} (h : VerdictDue s id w b) (hw : w.referee = some a) (hq : ∀ r ∈ s.arrays.waiting, r.target ≠ a)
    (hp : (getArr s a).st = .programmed) :
    let r := reEval (getArr s a).image false (driftOf s (getArr s a)) w.inputs s.freeCtr
    let t := { s with freeCtr := r.2.2 }
    let qr := arrFigure s w.mode a
    execRefereeRun id s = .next (refereeVerdict t w b (agrees w w.lanes w.ew r.1 r.2.1 (modeFigure s w.mode w.panel w.tile) qr)
      (agrees w w.checkLanes w.checkEw r.1 r.2.1 (arrFigure s w.mode w.checker) qr)) := by
  intro r t qr
  have hstep := h.no_step
  obtain ⟨hr, hf, hb, -⟩ := h
  have hwait : ¬((s.arrays.waiting.any fun r => r.target == a) || (getArr s a).st == .programming) = true := by
    simpa [hp] using hq
  unfold execRefereeRun
  simp only [hr, Bool.false_eq_true, if_false, hf, hb]
  refine congrArg _ ((if_neg hstep).trans ?_)
  simp only [hw]
  rw [if_neg hwait, if_neg (not_not_intro hp)]
  rfl

/-! ### The end of an array's repair (R376 to R378) -/

section
variable {p tile arr spare : Nat}

/-- An array out of service for good. -/
def Arr.gone (x : Arr) : Arr := { x with st := .retired, spent := true, src := none }

/-- An array's zeroisation. -/
def zeroOf (a : ArrId) : ProgReq := { target := a, kind := .zeroise, exact := false, bolt := 0, panel := 0, number := 0 }

/-- A zeroisation that is asked for waits, once. -/
theorem queueZero_waits {a : ArrId} : zeroOf a ∈ (queueZero s a).arrays.waiting := by
  unfold queueZero queueProg
  rw [if_neg (by simp)]
  split
  · next h => exact List.contains_iff_mem.mp h
  · exact List.mem_append_right _ (List.mem_singleton_self _)

/-- Asking for a zeroisation leaves the arrays and their places. -/
theorem queueZero_fields {a : ArrId} : (queueZero s a).arrays.arrs = s.arrays.arrs ∧ (queueZero s a).arrays.panelOf = s.arrays.panelOf
    ∧ (queueZero s a).arrays.tileOf = s.arrays.tileOf ∧ (queueZero s a).arrays.arrOf = s.arrays.arrOf := by
  unfold queueZero queueProg
  split_ifs <;> exact ⟨rfl, rfl, rfl, rfl⟩

theorem modArr_places {a : ArrId} {f : Arr → Arr} : (modArr s a f).arrays.panelOf = s.arrays.panelOf
    ∧ (modArr s a f).arrays.tileOf = s.arrays.tileOf := by
  unfold modArr
  dsimp only
  split <;> exact ⟨rfl, rfl⟩

/-- The array of a repaired position is retired and its zeroisation asked for; of the bolts, checker copies alone change. -/
theorem retireUnit_array : ∃ bs, retireUnit s (.array p tile arr) =
    { queueZero (modArr s (physArr s p tile arr) Arr.gone) (physArr s p tile arr) with bolts := bs } := by
  unfold retireUnit
  have hgone : (unitArrays s (.array p tile arr)).filter (fun a =>
      (getArr s a).st == .programmed || (getArr s a).st == .unusable || (getArr s a).st == .zeroisePending
        || repairLevel (.array p tile arr) == 0) = [physArr s p tile arr] := by
    simp [unitArrays, repairLevel]
  dsimp only
  rw [hgone]
  exact ⟨_, rfl⟩

theorem retireUnit_array_places : (retireUnit s (.array p tile arr)).arrays.panelOf = s.arrays.panelOf
    ∧ (retireUnit s (.array p tile arr)).arrays.tileOf = s.arrays.tileOf := by
  obtain ⟨bs, e⟩ := retireUnit_array (s := s) (p := p) (tile := tile) (arr := arr)
  obtain ⟨-, hp, ht, -⟩ := queueZero_fields (s := modArr s (physArr s p tile arr) Arr.gone) (a := physArr s p tile arr)
  obtain ⟨hp', ht'⟩ := modArr_places (s := s) (a := physArr s p tile arr) (f := Arr.gone)
  rw [e]
  exact ⟨hp.trans hp', ht.trans ht'⟩

theorem retireUnit_array_retires : (getArr (retireUnit s (.array p tile arr)) (physArr s p tile arr)).st = .retired := by
  obtain ⟨bs, e⟩ := retireUnit_array (s := s) (p := p) (tile := tile) (arr := arr)
  obtain ⟨ha, -⟩ := queueZero_fields (s := modArr s (physArr s p tile arr) Arr.gone) (a := physArr s p tile arr)
  have harrs : (retireUnit s (.array p tile arr)).arrays.arrs = (modArr s (physArr s p tile arr) Arr.gone).arrays.arrs := by
    rw [e]
    exact ha
  rw [getArr_of_arrs harrs, getArr_modArr]
  rfl

theorem retireUnit_array_zeroises : zeroOf (physArr s p tile arr) ∈ (retireUnit s (.array p tile arr)).arrays.waiting := by
  obtain ⟨bs, e⟩ := retireUnit_array (s := s) (p := p) (tile := tile) (arr := arr)
  rw [e]
  exact queueZero_waits

/-- The spare array serves the position after the swap. -/
theorem physArr_swapUnit : physArr (swapUnit s (.array p tile arr) spare) p tile arr = { physArr s p tile arr with arr := spare } := by
  have hget : (mapGet none (swapUnit s (.array p tile arr) spare).arrays.arrOf
      ((physPanel s p * 25 + physTile s (physPanel s p) tile) * 32 + arr)).getD arr = spare := by
    simp only [swapUnit, placeArr, mapGet_mapSet_self]
    split
    · next h => exact h.symm
    · rfl
  have hpanel : physPanel (swapUnit s (.array p tile arr) spare) p = physPanel s p := rfl
  have htile : physTile (swapUnit s (.array p tile arr) spare) (physPanel s p) tile = physTile s (physPanel s p) tile := rfl
  unfold physArr arrAt
  rw [hpanel, htile, hget]

theorem physArr_congr {t : State} (hp : t.arrays.panelOf = s.arrays.panelOf) (ht : t.arrays.tileOf = s.arrays.tileOf) :
    (physArr t p tile arr).pp = (physArr s p tile arr).pp ∧ (physArr t p tile arr).tile = (physArr s p tile arr).tile := by
  have hpanel : physPanel t p = physPanel s p := by
    unfold physPanel
    rw [hp]
  have htile : physTile t (physPanel s p) tile = physTile s (physPanel s p) tile := by
    unfold physTile
    rw [ht]
  exact ⟨hpanel, by unfold physArr arrAt; rw [hpanel, htile]⟩

theorem execRepairComplete_array (hr : s.start.restarting = false)
    (hf : s.ras.repairs.find? (fun x => x.1 == RepairUnit.array p tile arr) = some (.array p tile arr, spare))
    (hready : repairReady s (.array p tile arr) spare = true) (hb : arrAtBoundary s p tile arr = true) :
    let u := RepairUnit.array p tile arr
    let old := physArr s p tile arr
    let new := (repairPairs s u spare).map Prod.fst
    let ids := [(6, p), (5, tile), (5, arr)]
    let s1 := retireUnit s u
    let s2 := swapUnit { s1 with ras := { s1.ras with repairs := s1.ras.repairs.filter fun x => x.1 != u } } u spare
    let s3 := bumpFor (raiseEvent s2 .die 58 ids) .die 0x538 ids
    let s4 := writeSig s3 { SigInfo.plain 0 1 0x10 with logical := some (p, tile, arr), physical := some (physSig old), action := some 1 }
    execRepairComplete u s = .next (calEvaluate (pumpLoads (settleVerdicts (repairedLoads s4 (old :: new)))) [(p, tile)]) := by
  intro u old new ids s1 s2 s3 s4
  have hgo : ¬(!repairReady s u spare || !unitAtBoundary s u) = true := by
    simp [u, hready, unitAtBoundary, hb]
  unfold execRepairComplete
  simp only [hr, Bool.false_eq_true, if_false, u, hf]
  exact congrArg _ (if_neg hgo)

end

/-! ### Units that do not answer (R385) -/

section
variable {page : PageId}

/-- A unit that answered no read before, and has completed no command since. -/
def SilentAgain (s : State) (page : PageId) : Prop :=
  mapGet 0 s.ras.unanswered (pageKey page) ≠ 0 ∧ mapGet 0 s.ras.progress (pageKey page) = unitProgress s page

/-- Jobel reads a page that is there and powered. -/
theorem reads_of_there (hr : s.start.restarting = false) (he : pageExists s page = true) (hp : pagePowered s page = true) :
    ¬(s.start.restarting || !pageExists s page || !pagePowered s page) = true := by simp [hr, he, hp]

theorem execMgmtReadTimeout_first (hr : s.start.restarting = false) (he : pageExists s page = true) (hp : pagePowered s page = true)
    (h : ¬SilentAgain s page) : execMgmtReadTimeout page s = .next { s with ras := { s.ras with
      unanswered := mapSet 0 s.ras.unanswered (pageKey page) 1, progress := mapSet 0 s.ras.progress (pageKey page) (unitProgress s page) } } := by
  unfold execMgmtReadTimeout
  refine congrArg _ ((if_neg (reads_of_there hr he hp)).trans (if_pos ?_))
  unfold SilentAgain at h
  tauto

theorem execMgmtReadTimeout_again (hr : s.start.restarting = false) (he : pageExists s page = true) (hp : pagePowered s page = true)
    (h : SilentAgain s page) : execMgmtReadTimeout page s = .next
      (let t := { s with ras := { s.ras with unanswered := mapDel s.ras.unanswered (pageKey page), progress := mapDel s.ras.progress (pageKey page) } }
       match (generalizing := false) page with
       | .kwath n => downPlane (failUnit t page 6 7 none) s.fab.addr n
       | _ => failUnit t page 2 7 ((pagePanel page).map fun p => .panel p)) := by
  unfold execMgmtReadTimeout
  have hfirst : ¬(mapGet 0 s.ras.unanswered (pageKey page) = 0 ∨ mapGet 0 s.ras.progress (pageKey page) ≠ unitProgress s page) := by
    unfold SilentAgain at h
    tauto
  refine congrArg _ ((if_neg (reads_of_there hr he hp)).trans ((if_neg hfirst).trans ?_))
  cases page <;> rfl

end

end

/-- Settles O57: a swatch by whether its checker copy holds the block, its verdict by whom the referee agrees with, an array's repair through
what retiring and swapping do, and a silent unit by whether it was silent before. -/
theorem swatchesVerdictsAndRepairs : Obligations.SwatchesVerdictsAndRepairs := by
  unfold Obligations.SwatchesVerdictsAndRepairs
  intro s id nw
  refine ⟨fun w b hw hb => ⟨execSwatchCompare_lost hw hb, execSwatchCompare_held hw hb⟩, fun b => execCheckerRotate_started, ?_, ?_, ?_⟩
  · intro w b hr hw hb hst
    have h : VerdictDue s id w b := ⟨hr, hw, hb, hst⟩
    refine ⟨execRefereeRun_none h, ?_⟩
    intro a ha hq hp r t qr x y
    have hrun : exec (.refereeRun id) s = .next (refereeVerdict t w b x y) := execRefereeRun_programmed h ha hq hp
    rw [hrun]
    refine ⟨fun hx hy => ?_, fun hx hy => ?_, fun hxy => ?_⟩
    · simp [refereeVerdict, hx, hy]
    · simp [refereeVerdict, hx, hy]
    · simp [refereeVerdict, hxy]
  · intro p tile arr spare hr hf u hready hb old new ids s1 s2 s3 s4
    refine ⟨execRepairComplete_array hr hf hready hb, ?_, retireUnit_array_retires, zeroOf old, retireUnit_array_zeroises, rfl, rfl⟩
    obtain ⟨hpanel, htile⟩ := retireUnit_array_places (s := s) (p := p) (tile := tile) (arr := arr)
    obtain ⟨hpp, ht⟩ := physArr_congr (p := p) (tile := tile) (arr := arr) hpanel htile
    refine physArr_swapUnit.trans ?_
    exact congrArg₂ (fun pp t => (⟨pp, t, spare⟩ : ArrId)) hpp ht
  · intro page hr he hp
    exact ⟨execMgmtReadTimeout_first hr he hp, execMgmtReadTimeout_again hr he hp⟩

end Sys2Proof.Machine
